-- ==== Sys2Proof/Word.lean ====
section
/-!
DEFINITION. Word.lean: the word types of the model. A register word has 32 bits (09 R182), a heat tag 16 (06 R130).
-/

namespace Sys2Proof

/-- A 32-bit register, instruction or literal word. -/
abbrev Word := BitVec 32

/-- A heat tag (06 R130): bits 15:4 the site, bits 3:0 the pour bits. -/
abbrev Tag := BitVec 16

/-- A byte of memory. -/
abbrev Byte := BitVec 8

end Sys2Proof
end

