-- ==== Sys2Proof/Config.lean ====
section
/-!
DEFINITION. Config.lean: what the product fixes (00 R2, R4) and what the spec leaves to values that no rule states.
-/

namespace Sys2Proof.Config

/-- Cores of the package, die times 48 plus core (00 R2, 05 R129). Core `12 * p + i` is core `i` of partition `p`. -/
def cores : Nat := 288

/-- Partitions of the package (00 R4); each holds 12 cores and their 12 channels (21 R362). -/
def partitions : Nat := 24

/-- Cores, and channels, of a partition (21 R362). -/
def perPart : Nat := 12

/-- Issue slots of a quadrant (02 R35). -/
def slotsPerQuad : Nat := 16

/-- Live fibres of a quadrant at most (02 R30). -/
def quadFibres : Nat := 512

/-- Words of a lane bank (02 R30). -/
def bankWords : Nat := 1024

/-- Pour slots of a core (03 R68). -/
def pourSlots : Nat := 64

/-- Live fibres of a pour at most (02 R32). -/
def pourFibres : Nat := 1024

/-- Bytes of a scratchpad (00 R2). -/
def scratchBytes : Nat := 1048576

/-- Entries of the Runner queue, and its running slots (04 R100). -/
def runnerQueue : Nat := 32
def runnerSlots : Nat := 8

/-- Lines a region's footprint holds (08 R166). -/
def regionLines : Nat := 512

/-- The tag of a value without an origin (06 R130). -/
def noTag : Tag := 0xFFF0#16

/-- A value that the spec states no rule for: nothing in Lean can say which one it is (log 23). It is applied to the
counter of free values that State holds. -/
opaque freeWord : Nat → Word

/-- The flits of the response that a peer's port sends to a fabric read (24 R427): device, window, offset and bytes asked for, and
which read it is. Peers are outside the machine, so nothing constrains them (log 11). -/
opaque peerFlits : Nat → Nat → Nat → Nat → Nat → List Byte

/-- A word, its tag above it and its poison above that, of a load whose response is a fabric error: device, window, the word's
offset, and which read it is. The spec states no result there, so nothing constrains it (log 99). -/
opaque lostWord : Nat → Nat → Nat → Nat → BitVec 49

/-- Whether a fabric access to a peer ends in error (12 R266, R275): device, window, offset, and which access it is. -/
opaque peerFails : Nat → Nat → Nat → Nat → Bool

/-- The SHA-256 of a public key that the fuses hold: 0 the firmware key (21 R378), 1 the debug key (23 R406). The fuses are not in
the spec, so nothing constrains it (log 11). -/
opaque keyHash : Nat → List Byte

/-- The response that the attestation key signs (21 R377): the key is not in the spec (log 11). -/
opaque attest : List Byte → List Byte

/-- What the device holds from its making (21 R377, R378, 23 R406): the boot ROM, the fuse configuration beside the rollback
counter, the serial number. The spec gives none of their bytes (log 11). -/
opaque bootRom : List Byte
opaque fuses : List Byte
opaque serial : List Byte

end Sys2Proof.Config
end

