-- ==== Sys2Proof/Machine/Fp.lean ====
section
/-!
DEFINITION. Machine/Fp.lean: element formats, exact values and rounding (05 R110 to R121), the helpers `dec`, `rnd`, `rne`
and `fpr`, LG6 products (R114), block sums (R123) and the rotation (R126). Values are exact dyadics, with a mark where
the true magnitude lies strictly between one unit and the next; irrational values (LG6, FEXP2, FLOG2, the logistic) are
computed to 448 fractional bits, far below where a rounding of at most 24 bits could change (log 25).
-/

namespace Sys2Proof.Machine

/-- An exact value: NaN (signaling or quiet), an infinity, or a signed magnitude `m * 2^e`, strictly between `m` and
`m + 1` units when `more` is set. -/
inductive FVal where
  | nan (sig : Bool)
  | inf (neg : Bool)
  | fin (neg : Bool) (m : Nat) (e : Int) (more : Bool)
  deriving DecidableEq, Repr

/-- A floating format of 05 R110: exponent bits, fraction bits, bias. -/
structure FFmt where
  ebits : Nat
  mbits : Nat
  bias  : Int
  deriving DecidableEq, Repr

/-- Format codes of 05 R110. -/
def fFP32 : Nat := 0x00
def fBF16 : Nat := 0x01
def fFP16 : Nat := 0x02
def fE4M3 : Nat := 0x03
def fE5M2 : Nat := 0x04
def fFP4 : Nat := 0x05
def fLG6 : Nat := 0x06
def fINT32 : Nat := 0x10
def fINT16 : Nat := 0x11
def fINT8 : Nat := 0x12
def fINT4 : Nat := 0x13
def fZ32 : Nat := 0x18
def fZ16 : Nat := 0x19
def fZ8 : Nat := 0x1A
def fZ4 : Nat := 0x1B
def fE8M0 : Nat := 0x20

/-- The layout of a floating format. -/
def ffmt (c : Nat) : FFmt :=
  if c = 0 then ⟨8, 23, 127⟩ else if c = 1 then ⟨8, 7, 127⟩ else if c = 2 then ⟨5, 10, 15⟩
  else if c = 3 then ⟨4, 3, 7⟩ else if c = 4 then ⟨5, 2, 15⟩ else ⟨2, 1, 1⟩

/-- Whether a code names a format (05 R110). -/
def isFmt (c : Nat) : Bool :=
  decide (c ≤ 6) || (decide (0x10 ≤ c) && decide (c ≤ 0x13)) || (decide (0x18 ≤ c) && decide (c ≤ 0x1B)) || c == 0x20

/-- Bits of an element (05 R110); an LG6 element has six bits in a byte. -/
def fmtBits (c : Nat) : Nat :=
  if c = 0 ∨ c = 0x10 ∨ c = 0x18 then 32
  else if c = 1 ∨ c = 2 ∨ c = 0x11 ∨ c = 0x19 then 16
  else if c = 5 ∨ c = 0x13 ∨ c = 0x1B then 4
  else if c = 6 then 6 else 8

/-- Fractional bits of the fixed-point computations. -/
def fixP : Nat := 448

/-- ln 2 times 2^448, truncated. -/
def ln2Fix : Nat :=
  503806212467287336944962318911413164331589999686332526750892113008874715004345470044877937781258350830018788825857087812047298226561348

/-- e^(z / 2^448) times 2^448 by its series, for z below 2^448: term `k` from term `k - 1`. -/
def expSeries (z : Nat) : Nat → Nat → Nat → Nat → Nat
  | 0, _, _, acc => acc
  | fuel + 1, k, term, acc =>
    let t := term * z / (k * 2 ^ fixP)
    if t = 0 then acc else expSeries z fuel (k + 1) t (acc + t)

/-- 2^(f / 2^448) times 2^448, for f below 2^448. -/
def exp2Fix (f : Nat) : Nat := expSeries (f * ln2Fix / 2 ^ fixP) 120 1 (2 ^ fixP) (2 ^ fixP)

/-- The series of the inverse hyperbolic tangent: z + z^3 / 3 + z^5 / 5 and on, in fixed point. -/
def atanhSeries (z2 : Nat) : Nat → Nat → Nat → Nat → Nat
  | 0, _, _, acc => acc
  | fuel + 1, k, pow, acc =>
    if pow = 0 then acc else atanhSeries z2 fuel (k + 2) (pow * z2 / 2 ^ fixP) (acc + pow / k)

/-- log2 m times 2^448 for a positive m; exact when m is a power of two. -/
def log2Fix (m : Nat) : Nat :=
  let l := Nat.log2 m
  let x := m * 2 ^ fixP / 2 ^ l
  let z := (x - 2 ^ fixP) * 2 ^ fixP / (x + 2 ^ fixP)
  let ln := 2 * atanhSeries (z * z / 2 ^ fixP) 160 1 z 0
  l * 2 ^ fixP + ln * 2 ^ fixP / ln2Fix

/-- The integer square root, bit by bit from bit `b - 1`. -/
def isqrtFrom (n : Nat) : Nat → Nat → Nat
  | 0, r => r
  | b + 1, r => if (r + 2 ^ b) * (r + 2 ^ b) ≤ n then isqrtFrom n b (r + 2 ^ b) else isqrtFrom n b r

/-- The integer square root. -/
def isqrt (n : Nat) : Nat := isqrtFrom n (Nat.log2 n / 2 + 1) 0

/-- `m * 2^e` in units of `2^q`, for q at most e or above it: the floor, and whether anything is left. -/
def toUnits (m : Nat) (e q : Int) : Nat × Bool :=
  if q ≤ e then (m * 2 ^ (e - q).toNat, false)
  else
    let d := 2 ^ (q - e).toNat
    (m / d, m % d != 0)

/-- Floor of log2 of a magnitude. -/
def magLog (m : Nat) (e : Int) : Int := (Nat.log2 m : Int) + e

/-- Whether the magnitude is at or above a half unit beyond `k`, and exactly there, in units of `2^q`. -/
def halfCmp (m : Nat) (e q : Int) (more : Bool) : Ordering :=
  let (h, rest) := toUnits m e (q - 1)
  if h % 2 = 0 then .lt else if rest || more then .gt else .eq

/-- Rounding modes of 05 R118. -/
def mRNE : Nat := 0
def mRZ : Nat := 1
def mRUP : Nat := 2
def mRDN : Nat := 3
def mDITHER : Nat := 4

/-- The multiple of `2^q` that a magnitude rounds to, in units, and whether the rounding is inexact. -/
def roundUnits (neg : Bool) (m : Nat) (e q : Int) (more : Bool) (mode : Nat) : Nat × Bool :=
  let (k, rest) := toUnits m e q
  let inx := rest || more
  let up :=
    if mode = mRNE then
      match halfCmp m e q more with
      | .gt => true
      | .eq => k % 2 = 1
      | .lt => false
    else if mode = mRUP then inx && !neg
    else if mode = mRDN then inx && neg
    else false
  (if up then k + 1 else k, inx)

/-- The exponent of the spacing of a floating format at a magnitude (05 R119). -/
def quantExp (f : FFmt) (m : Nat) (e : Int) : Int :=
  if m = 0 then 1 - f.bias - f.mbits else max (magLog m e) (1 - f.bias) - f.mbits

/-- The largest finite magnitude of a floating format, in units of its largest spacing. -/
def maxMant (c : Nat) : Nat × Int :=
  let f := ffmt c
  if c = 3 then (14, 5)
  else if c = 5 then (3, 1)
  else (2 ^ (f.mbits + 1) - 1, (2 ^ f.ebits - 2 : Int) - f.bias - f.mbits)

/-- The bits of a magnitude `k * 2^q` that the format holds exactly. -/
def packMag (f : FFmt) (k : Nat) (q : Int) : Nat :=
  if k = 0 then 0
  else
    let lg := magLog k q
    if lg < 1 - f.bias then (toUnits k q (1 - f.bias - f.mbits)).1
    else
      let frac := (toUnits k q (lg - f.mbits)).1 - 2 ^ f.mbits
      (lg + f.bias).toNat * 2 ^ f.mbits + frac

/-- The sign bit of a format. -/
def signBit (c : Nat) (neg : Bool) : Nat :=
  let f := ffmt c
  if neg then 2 ^ (f.ebits + f.mbits) else 0

/-- The canonical NaN (05 R111); +0 in the narrow formats (R120). -/
def canonNaN (c : Nat) : Nat :=
  if c = 0 then 0x7FC00000 else if c = 1 then 0x7FC0 else if c = 2 then 0x7E00 else if c = 6 then 0x10 else 0

/-- The bits of an infinity; the largest finite in the narrow formats (05 R120). -/
def infBits (c : Nat) (neg : Bool) : Nat :=
  let f := ffmt c
  if c ≤ 2 then signBit c neg + (2 ^ f.ebits - 1) * 2 ^ f.mbits
  else
    let (k, q) := maxMant c
    signBit c neg + packMag f k q

/-- The bits of the largest finite value. -/
def maxBits (c : Nat) (neg : Bool) : Nat :=
  let (k, q) := maxMant c
  signBit c neg + packMag (ffmt c) k q

/-- Whether a magnitude in units of `2^q` exceeds the format's largest. -/
def overMax (c k : Nat) (q : Int) : Bool :=
  let (mk, mq) := maxMant c
  if q ≤ mq then decide (mk * 2 ^ (mq - q).toNat < k) else decide (mk < k * 2 ^ (q - mq).toNat)

/-- What a conversion makes: the bits, whether a nonzero finite value became a floating zero (05 R117), and whether a NaN
was lost (R120). -/
structure Conv where
  bits  : Nat
  flush : Bool := false
  lossy : Bool := false
  deriving DecidableEq, Repr

/-- Sign-extended LG6 logarithm, in quarters (05 R113). -/
def lgLam (c : Nat) : Int := let v := c % 32; if v < 16 then (v : Int) else (v : Int) - 32

/-- The value of an LG6 code (05 R113). -/
def decLG6 (c : Nat) : FVal :=
  let neg := c / 32 % 2 = 1
  if c % 32 = 16 then .fin neg 0 0 false
  else
    let lam := lgLam c
    let i := lam / 4
    let f := (lam % 4).toNat
    if f = 0 then .fin neg 1 i false
    else .fin neg (exp2Fix (f * 2 ^ fixP / 4)) (i - fixP) true

/-- `lg6enc` (05 R115). -/
def lg6enc (x : FVal) (mode n : Nat) : Conv :=
  match x with
  | .nan _ => { bits := 0x10, lossy := true }
  | .inf neg => { bits := (if neg then 32 else 0) + 0x0F }
  | .fin neg 0 _ false => { bits := (if neg then 32 else 0) + 0x10 }
  | .fin neg m e more =>
    let t : Int := 4 * ((log2Fix (max m 1) : Int) + e * (2 ^ fixP : Nat))
    let fl := t / (2 ^ fixP : Nat)
    let fr := t % (2 ^ fixP : Nat)
    let inx := fr ≠ 0 ∨ more
    let k :=
      if mode = mRNE then (if 2 * fr ≥ (2 ^ fixP : Nat) then fl + 1 else fl)
      else if mode = mRZ then fl
      else if mode = mRUP then (if inx ∧ ¬ neg then fl + 1 else fl)
      else if mode = mRDN then (if inx ∧ neg then fl + 1 else fl)
      else ((t * 65536) / (2 ^ fixP : Nat) + n) / 65536
    let k := min k 15
    if k ≤ -16 then { bits := (if neg then 32 else 0) + 0x10, flush := true }
    else { bits := (if neg then 32 else 0) + (k % 32).toNat }

/-- The value encoded by a code of a floating format other than LG6 (05 R111). -/
def decFloat (c : Nat) (bits : Nat) : FVal :=
  let f := ffmt c
  let neg := bits / 2 ^ (f.ebits + f.mbits) % 2 = 1
  let ex := bits / 2 ^ f.mbits % 2 ^ f.ebits
  let fr := bits % 2 ^ f.mbits
  if c ≤ 2 ∧ ex = 2 ^ f.ebits - 1 then
    if fr = 0 then .inf neg else .nan (fr < 2 ^ (f.mbits - 1))
  else if c = 3 ∧ ex = 15 ∧ fr = 7 then .nan false
  else if c = 4 ∧ ex = 31 then (if fr = 0 then .inf neg else .nan false)
  else if ex = 0 then .fin neg fr (1 - f.bias - f.mbits) false
  else .fin neg (2 ^ f.mbits + fr) ((ex : Int) - f.bias - f.mbits) false

/-- `dec` (05 R121): the value of a code in a format. -/
def dec (bits c : Nat) : FVal :=
  if c = 6 then decLG6 bits
  else if c ≤ 5 then decFloat c bits
  else if c = 0x20 then (if bits % 256 = 255 then .nan false else .fin false 1 ((bits % 256 : Nat) - 127) false)
  else if c ≤ 0x13 then
    let w := fmtBits c
    let v := bits % 2 ^ w
    if v < 2 ^ (w - 1) then .fin false v 0 false else .fin true (2 ^ w - v) 0 false
  else .fin false (bits % 2 ^ fmtBits c) 0 false

/-- Rounding to an integer format, with saturation (05 R119, R120). -/
def rndInt (x : FVal) (c mode n : Nat) : Conv :=
  let w := fmtBits c
  let signed := decide (c ≤ 0x13)
  let hi : Nat := if signed then 2 ^ (w - 1) - 1 else 2 ^ w - 1
  let lo : Nat := if signed then 2 ^ (w - 1) else 0
  let enc (neg : Bool) (k : Nat) : Nat :=
    if neg then (if k ≥ lo then (2 ^ w - lo) % 2 ^ w else (2 ^ w - k) % 2 ^ w) else min k hi
  match x with
  | .nan _ => { bits := 0, lossy := true }
  | .inf neg => { bits := if neg then (2 ^ w - lo) % 2 ^ w else hi }
  | .fin neg m e more =>
    let k :=
      if mode = mDITHER then
        let (u, _) := toUnits m e (-16)
        (u + n) / 65536
      else (roundUnits neg m e 0 more mode).1
    { bits := enc neg k }

/-- `rnd` (05 R119, R120): the bits of an exact value in a format. -/
def rnd (x : FVal) (c mode n : Nat) : Conv :=
  if c = 6 then lg6enc x mode n
  else if c > 5 then rndInt x c mode n
  else
    let f := ffmt c
    match x with
    | .nan _ => { bits := canonNaN c, lossy := decide (c > 2) }
    | .inf neg => { bits := infBits c neg }
    | .fin neg m e more =>
      let q := quantExp f m e
      let (k, q) :=
        if mode = mDITHER then
          let qe := min e (q - 16)
          let y := (toUnits m e qe).1 + n * (toUnits 1 (q - 16) qe).1
          let q' := quantExp f y qe
          ((toUnits y qe q').1, q')
        else ((roundUnits neg m e q more mode).1, q)
      if overMax c k q then
        let max := c > 2 ∨ mode = mRZ ∨ mode = mDITHER ∨ (mode = mRUP ∧ neg) ∨ (mode = mRDN ∧ ¬ neg)
        { bits := if max then maxBits c neg else infBits c neg }
      else
        { bits := signBit c neg + packMag f k q, flush := decide (k = 0) && (decide (m ≠ 0) || more) }

/-- `rne` to FP32 (05 R121). -/
def rne32 (x : FVal) : Nat := (rnd x fFP32 mRNE 0).bits

/-- Exception flags in the order of `fpmode` bits 3 to 7 (09 R197). -/
abbrev Flags := BitVec 5

def flInvalid : Flags := 1#5
def flDivZero : Flags := 2#5
def flOverflow : Flags := 4#5
def flUnderflow : Flags := 8#5
def flInexact : Flags := 16#5

/-- `fpr` without the flush: rounding of an exact value to a floating format with the flags of IEEE 754, tininess after
rounding (05 R121). -/
def fprNoFtz (x : FVal) (c mode : Nat) : Nat × Flags :=
  match x with
  | .nan _ => (canonNaN c, 0#5)
  | .inf neg => (infBits c neg, 0#5)
  | .fin neg m e more =>
    let f := ffmt c
    let q := quantExp f m e
    let (k, inx) := roundUnits neg m e q more mode
    if overMax c k q then ((rnd x c mode 0).bits, flOverflow ||| flInexact)
    else
      let tiny :=
        if m = 0 then more
        else
          let qu := magLog m e - f.mbits
          let (ku, _) := roundUnits neg m e qu more mode
          decide (magLog ku qu < 1 - f.bias)
      (signBit c neg + packMag f k q,
        (if inx then flInexact else 0#5) ||| (if tiny && inx then flUnderflow else 0#5))

/-- Whether the bits of a floating format are a subnormal. -/
def isSub (bits c : Nat) : Bool :=
  let f := ffmt c
  decide (bits / 2 ^ f.mbits % 2 ^ f.ebits = 0) && decide (bits % 2 ^ f.mbits ≠ 0)

/-- `fpr` (05 R121) under `fpmode`. -/
def fpr (x : FVal) (c : Nat) (fpmode : Word) : Nat × Flags :=
  let (b, fl) := fprNoFtz x c (fpmode.toNat % 4)
  if fpmode.getLsbD 2 && isSub b c then
    (signBit c (decide (b ≥ 2 ^ ((ffmt c).ebits + (ffmt c).mbits))), fl ||| flUnderflow ||| flInexact)
  else (b, fl)

/-- An operand of floating arithmetic: subnormals read as zero under `fpmode` bit 2 (05 R121). -/
def decArith (bits c : Nat) (fpmode : Word) : FVal :=
  if fpmode.getLsbD 2 && isSub bits c then
    .fin (decide (bits / 2 ^ ((ffmt c).ebits + (ffmt c).mbits) % 2 = 1)) 0 0 false
  else dec bits c

/-- A signed integer magnitude as a value, in units of `2^e`; zero takes the sign given. -/
def ofInt (v e : Int) (more zneg : Bool) : FVal :=
  if v = 0 then .fin zneg 0 e more else .fin (decide (v < 0)) v.natAbs e more

/-- Signed integer of a finite value in units of `2^q`, for q at most its exponent. -/
def intUnits (neg : Bool) (m : Nat) (e q : Int) : Int :=
  let v := ((toUnits m e q).1 : Int)
  if neg then -v else v

/-- The exact negation. -/
def FVal.negate : FVal → FVal
  | .nan s => .nan s
  | .inf n => .inf (!n)
  | .fin n m e r => .fin (!n) m e r

/-- The exact sum, with the flags of its special cases; an exact zero is -0 only where both are -0, or the mode rounds
down. -/
def addV (x y : FVal) (mode : Nat) : FVal × Flags :=
  match x, y with
  | .nan s, .nan t => (.nan false, if s || t then flInvalid else 0#5)
  | .nan s, _ => (.nan false, if s then flInvalid else 0#5)
  | _, .nan t => (.nan false, if t then flInvalid else 0#5)
  | .inf a, .inf b => if a = b then (.inf a, 0#5) else (.nan false, flInvalid)
  | .inf a, _ => (.inf a, 0#5)
  | _, .inf b => (.inf b, 0#5)
  | .fin a m e r, .fin b n f t =>
    let q := min e f
    let u := intUnits a m e q
    let v := intUnits b n f q
    let zneg := if m = 0 ∧ n = 0 ∧ a = b then a else decide (mode = mRDN)
    if r || t then
      if a = b then (ofInt (u + v) q true a, 0#5)
      else if u + v = 0 ∧ r = t then (ofInt 0 q false zneg, 0#5)
      else
        let w := u + v
        let big := decide (w > 0) && ((!a && t) || (!b && r)) || decide (w < 0) && ((a && t) || (b && r))
        (if big then ofInt (if w > 0 then w - 1 else w + 1) q true zneg else ofInt w q true zneg, 0#5)
    else (ofInt (u + v) q false zneg, 0#5)

/-- The exact product, with the flags of its special cases. -/
def mulV (x y : FVal) : FVal × Flags :=
  match x, y with
  | .nan s, .nan t => (.nan false, if s || t then flInvalid else 0#5)
  | .nan s, _ => (.nan false, if s then flInvalid else 0#5)
  | _, .nan t => (.nan false, if t then flInvalid else 0#5)
  | .inf a, .inf b => (.inf (a != b), 0#5)
  | .inf a, .fin b n _ _ => if n = 0 then (.nan false, flInvalid) else (.inf (a != b), 0#5)
  | .fin a m _ _, .inf b => if m = 0 then (.nan false, flInvalid) else (.inf (a != b), 0#5)
  | .fin a m e r, .fin b n f t => (.fin (a != b) (m * n) (e + f) (r || t), 0#5)

/-- The exact a * b + d (10 R210): a product of zero and infinity is invalid even where d is a quiet NaN. -/
def fmaV (x y z : FVal) (mode : Nat) : FVal × Flags :=
  let (p, f) := mulV x y
  let (s, g) := addV p z mode
  (s, f ||| g)

/-- A value times a power of two. -/
def FVal.scale (x : FVal) (k : Int) : FVal :=
  match x with
  | .fin n m e r => .fin n m (e + k) r
  | v => v

/-- The exact quotient of two finite values, the divisor nonzero: enough bits and a mark. -/
def divFin (a : Bool) (m : Nat) (e : Int) (b : Bool) (n : Nat) (f : Int) : FVal :=
  let k := Nat.log2 n + 512
  let num := m * 2 ^ k
  .fin (a != b) (num / n) (e - f - k) (num % n != 0)

/-- The square root of a finite positive value. -/
def sqrtFin (m : Nat) (e : Int) : FVal :=
  let odd := decide (e % 2 ≠ 0)
  let m' := (if odd then 2 * m else m) * 2 ^ 200
  let e' := (if odd then e - 1 else e) - 200
  let r := isqrt m'
  .fin false r (e' / 2) (r * r != m')

/-- The reciprocal square root of a finite positive value. -/
def rsqrtFin (m : Nat) (e : Int) : FVal :=
  let odd := decide (e % 2 ≠ 0)
  let m' := if odd then 2 * m else m
  let e' := if odd then e - 1 else e
  let k := Nat.log2 m' + 200
  let r := isqrt (2 ^ (2 * k) / m')
  .fin false r (-(e' / 2) - k) (r * r * m' != 2 ^ (2 * k))

/-- 2 to a finite power (10 R212): exact for an integer power; otherwise irrational. -/
def exp2V (neg : Bool) (m : Nat) (e : Int) : FVal :=
  if m = 0 then .fin false 1 0 false
  else if magLog m e > 10 then
    (if neg then .fin false 1 (-100000) true else .fin false 1 100000 true)
  else
    let v := intUnits neg m e (min e 0)
    let d : Int := (2 ^ (-(min e 0)).toNat : Nat)
    let n := v / d
    let f := (v % d).toNat
    if f = 0 then .fin false 1 n false
    else .fin false (exp2Fix (f * 2 ^ fixP / d.toNat)) (n - fixP) true

/-- log2 of a finite positive value (10 R212). -/
def log2V (m : Nat) (e : Int) : FVal :=
  let t : Int := (log2Fix m : Int) + e * (2 ^ fixP : Nat)
  let pow := decide (2 ^ Nat.log2 m = m)
  if pow then ofInt (t / (2 ^ fixP : Nat)) 0 false false
  else ofInt t (-(fixP : Int)) true false

/-- A value rounded to an integer (10 R212): the integer value with the sign of a zero kept, and whether it differs. -/
def rintV (neg : Bool) (m : Nat) (e : Int) (mode : Nat) : FVal × Bool :=
  let (k, inx) := roundUnits neg m e 0 false mode
  (.fin neg k 0 false, inx)

/-- Ordering of two values that are not NaN; equal for zeros of both signs. -/
def cmpV (x y : FVal) : Ordering :=
  match x, y with
  | .inf a, .inf b => if a = b then .eq else if a then .lt else .gt
  | .inf a, _ => if a then .lt else .gt
  | _, .inf b => if b then .gt else .lt
  | .fin a m e _, .fin b n f _ =>
    let q := min e f
    compare (intUnits a m e q) (intUnits b n f q)
  | _, _ => .eq

/-- Whether a value is NaN. -/
def FVal.isNaN : FVal → Bool
  | .nan _ => true
  | _ => false

/-- `special` of an element (05 R121): NaN or an infinity. -/
def FVal.special : FVal → Bool
  | .nan _ => true
  | .inf _ => true
  | .fin _ _ _ _ => false

/-- Whether FP32 bits are special. -/
def special32 (w : Word) : Bool := (dec w.toNat fFP32).special

/-- Whether a word of two 16-bit elements holds a special one (06 R139). -/
def specialPair (c : Nat) (w : Word) : Bool :=
  (dec (w.toNat % 65536) c).special || (dec (w.toNat / 65536) c).special

/-- `sat` and `satz` of 05 R121. -/
def satS (x : Int) (w : Nat) : Int := max (-(2 ^ (w - 1) : Nat)) (min x ((2 ^ (w - 1) : Nat) - 1))
def satZ (x : Nat) (w : Nat) : Nat := min x (2 ^ w - 1)

/-- A saturating 32-bit count raised by `n` (05 R117, R120, R127). -/
def satAdd (w : Word) (n : Nat) : Word := BitVec.ofNat 32 (min (w.toNat + n) 0xFFFFFFFF)

/-- `lg6mul` (05 R114). -/
def lg6mul (a b : Nat) : Int :=
  if a % 32 = 16 ∨ b % 32 = 16 then 0
  else
    let lam := lgLam a + lgLam b
    let i := lam / 4
    let f := (lam % 4).toNat
    let t : Nat := [128, 152, 181, 215].getD f 0
    let m : Int := t * 2 ^ (i + 9).toNat
    if a / 32 % 2 = b / 32 % 2 then m else -m

/-- The exact sum of a list of products, with the infinities and NaNs of 05 R123. -/
def sumV : List FVal → FVal
  | [] => .fin false 0 0 false
  | [x] => x
  | x :: xs => (addV x (sumV xs) mRNE).1

/-- One stage of the rotation (05 R126) on FP32 bits. -/
def rhtStage (st : Nat) (y : List Nat) : List Nat :=
  (List.range 32).map fun i =>
    let j := i ^^^ (2 ^ st)
    let a := dec (y.getD (min i j) 0) fFP32
    let b := dec (y.getD (max i j) 0) fFP32
    if i < j then rne32 (addV a b mRNE).1 else rne32 (addV a b.negate mRNE).1

/-- `rht32` (05 R126) on exact inputs. The first stage adds the exact inputs. -/
def rht32 (x : List FVal) (s : Nat) : List Nat :=
  let y := (List.range 32).map fun i =>
    let v := x.getD i (.fin false 0 0 false)
    if s / 2 ^ i % 2 = 1 then v.negate else v
  let y0 := (List.range 32).map fun i =>
    let j := i ^^^ 1
    let a := y.getD (min i j) (.fin false 0 0 false)
    let b := y.getD (max i j) (.fin false 0 0 false)
    if i < j then rne32 (addV a b mRNE).1 else rne32 (addV a b.negate mRNE).1
  let y4 := [1, 2, 3, 4].foldl (fun y st => rhtStage st y) y0
  y4.map fun b => rne32 (mulV (dec b fFP32) (dec 0x3E3504F3 fFP32)).1

/-- The code of the logistic function of x / T (07 R151), for finite nonzero x and finite positive T. -/
def logistic (neg : Bool) (m : Nat) (e : Int) (n : Nat) (f : Int) : Nat :=
  match divFin false m e false n f with
  | .fin _ k q _ =>
    if magLog k q ≥ 6 then (if neg then 0 else 65535)
    else
      let u := (toUnits k q (-(fixP : Int))).1
      let y := u * 2 ^ fixP / ln2Fix
      let i := y / 2 ^ fixP
      let g := exp2Fix (y % 2 ^ fixP)
      -- e^u = g * 2^i / 2^448; the larger side is 1 / (1 + e^-u) = e^u / (1 + e^u)
      let eu := g * 2 ^ i
      let num := if neg then 2 ^ fixP else eu
      let den := 2 ^ fixP + eu
      (2 * 65535 * num + den) / (2 * den)
  | _ => 0

end Sys2Proof.Machine
end

