-- ==== Sys2Proof/Syntax.lean ====
section
/-!
DEFINITION. Syntax.lean: the instructions and events of the Tirrek LTK-9100, one constructor a row of the spec's table
of operations (spec/opcode_table.json). An encoded row carries the raw codes of its fields (09 R182 to R198, 14 R306,
R307); `l` is the literal word of R185, zero where no source field is coded 245. A row without an encoding is a step of
the machine or of its environment (95); it carries what the environment or the schedule supplies.
-/

namespace Sys2Proof

/-- A put on the fabric (04 R97, 12 R275): its window, its byte offset, its length, whether it carries tags (24 R430), the flits of its
payload as a port codes them (R427), and the request tag that it bears. -/
structure FabricPut where
  win    : Nat
  off    : Nat
  len    : Nat
  tagged : Bool
  flits  : List (BitVec 8)
  rtag   : BitVec 16
  deriving DecidableEq, Repr

/-- What the management core's sensors read at one poll (24 R434): watts, degrees, throttle level. -/
structure Readings where
  power : Nat
  dies  : List Nat
  inlet : Nat
  outlet : Nat
  deriving DecidableEq, Repr

/-- A firmware image offered by the PLDM firmware update (21 R376, R378). -/
structure FwImage where
  version  : Word
  rollback : Word
  body     : List (BitVec 8)
  sig      : List (BitVec 8)
  deriving DecidableEq, Repr

/-- Commands admitted to the firmware cores once the firmware domain is unlocked (23 R406). -/
inductive FwDebug where
  | halt (core : Nat)
  | go (core : Nat)
  | step (core : Nat)
  | read (core addr : Nat)
  | trace (off len : Nat)
  deriving DecidableEq, Repr

/-- The register block that a host write names (21 R361, R363, R368): the physical function's own registers, the
per-partition controls of 22, or a partition block written by its virtual function or by the physical function. -/
inductive RegTarget where
  | pf
  | ctl (part : Nat)
  | block (part : Nat) (pf : Bool)
  deriving DecidableEq, Repr

/-- One constructor per row of spec/opcode_table.json. -/
inductive Instr where
  | iadd (n : BitVec 1) (d : BitVec 8) (a : BitVec 8) (b : BitVec 8) (l : Word)
  | isub (n : BitVec 1) (d : BitVec 8) (a : BitVec 8) (b : BitVec 8) (l : Word)
  | imul (n : BitVec 1) (d : BitVec 8) (a : BitVec 8) (b : BitVec 8) (l : Word)
  | imulhs (n : BitVec 1) (d : BitVec 8) (a : BitVec 8) (b : BitVec 8) (l : Word)
  | imulhz (n : BitVec 1) (d : BitVec 8) (a : BitVec 8) (b : BitVec 8) (l : Word)
  | imad (n : BitVec 1) (d : BitVec 8) (a : BitVec 8) (b : BitVec 8) (l : Word)
  | imins (n : BitVec 1) (d : BitVec 8) (a : BitVec 8) (b : BitVec 8) (l : Word)
  | imaxs (n : BitVec 1) (d : BitVec 8) (a : BitVec 8) (b : BitVec 8) (l : Word)
  | iminz (n : BitVec 1) (d : BitVec 8) (a : BitVec 8) (b : BitVec 8) (l : Word)
  | imaxz (n : BitVec 1) (d : BitVec 8) (a : BitVec 8) (b : BitVec 8) (l : Word)
  | and (n : BitVec 1) (d : BitVec 8) (a : BitVec 8) (b : BitVec 8) (l : Word)
  | or (n : BitVec 1) (d : BitVec 8) (a : BitVec 8) (b : BitVec 8) (l : Word)
  | xor (n : BitVec 1) (d : BitVec 8) (a : BitVec 8) (b : BitVec 8) (l : Word)
  | shl (n : BitVec 1) (d : BitVec 8) (a : BitVec 8) (b : BitVec 8) (l : Word)
  | shr (n : BitVec 1) (d : BitVec 8) (a : BitVec 8) (b : BitVec 8) (l : Word)
  | sar (n : BitVec 1) (d : BitVec 8) (a : BitVec 8) (b : BitVec 8) (l : Word)
  | iaddi (n : BitVec 1) (d : BitVec 8) (a : BitVec 8) (i : BitVec 8) (l : Word)
  | shimShl (n : BitVec 1) (d : BitVec 8) (a : BitVec 8) (s : BitVec 5) (l : Word)
  | shimShr (n : BitVec 1) (d : BitVec 8) (a : BitVec 8) (s : BitVec 5) (l : Word)
  | shimSar (n : BitVec 1) (d : BitVec 8) (a : BitVec 8) (s : BitVec 5) (l : Word)
  | icmps (c : BitVec 4) (k : BitVec 4) (a : BitVec 8) (b : BitVec 8) (l : Word)
  | icmpz (c : BitVec 4) (k : BitVec 4) (a : BitVec 8) (b : BitVec 8) (l : Word)
  | iadd64 (n : BitVec 1) (d : BitVec 8) (a : BitVec 8) (b : BitVec 8) (l : Word)
  | uniMov (n : BitVec 1) (d : BitVec 8) (a : BitVec 8) (l : Word)
  | uniNot (n : BitVec 1) (d : BitVec 8) (a : BitVec 8) (l : Word)
  | uniNeg (n : BitVec 1) (d : BitVec 8) (a : BitVec 8) (l : Word)
  | uniAbs (n : BitVec 1) (d : BitVec 8) (a : BitVec 8) (l : Word)
  | uniPopc (n : BitVec 1) (d : BitVec 8) (a : BitVec 8) (l : Word)
  | uniClz (n : BitVec 1) (d : BitVec 8) (a : BitVec 8) (l : Word)
  | uniBrev (n : BitVec 1) (d : BitVec 8) (a : BitVec 8) (l : Word)
  | uniSext8 (n : BitVec 1) (d : BitVec 8) (a : BitVec 8) (l : Word)
  | uniSext16 (n : BitVec 1) (d : BitVec 8) (a : BitVec 8) (l : Word)
  | uniBswap (n : BitVec 1) (d : BitVec 8) (a : BitVec 8) (l : Word)
  | fadd (n : BitVec 1) (d : BitVec 8) (a : BitVec 8) (b : BitVec 8) (l : Word)
  | fsub (n : BitVec 1) (d : BitVec 8) (a : BitVec 8) (b : BitVec 8) (l : Word)
  | fmul (n : BitVec 1) (d : BitVec 8) (a : BitVec 8) (b : BitVec 8) (l : Word)
  | ffma (n : BitVec 1) (d : BitVec 8) (a : BitVec 8) (b : BitVec 8) (l : Word)
  | fmin (n : BitVec 1) (d : BitVec 8) (a : BitVec 8) (b : BitVec 8) (l : Word)
  | fmax (n : BitVec 1) (d : BitVec 8) (a : BitVec 8) (b : BitVec 8) (l : Word)
  | fcmp (c : BitVec 4) (k : BitVec 4) (a : BitVec 8) (b : BitVec 8) (l : Word)
  | fabs (n : BitVec 1) (d : BitVec 8) (a : BitVec 8) (l : Word)
  | fneg (n : BitVec 1) (d : BitVec 8) (a : BitVec 8) (l : Word)
  | frcp (n : BitVec 1) (d : BitVec 8) (a : BitVec 8) (l : Word)
  | frsq (n : BitVec 1) (d : BitVec 8) (a : BitVec 8) (l : Word)
  | fsqrt (n : BitVec 1) (d : BitVec 8) (a : BitVec 8) (l : Word)
  | fexp2 (n : BitVec 1) (d : BitVec 8) (a : BitVec 8) (l : Word)
  | flog2 (n : BitVec 1) (d : BitVec 8) (a : BitVec 8) (l : Word)
  | frint (n : BitVec 1) (d : BitVec 8) (a : BitVec 8) (l : Word)
  | ffloor (n : BitVec 1) (d : BitVec 8) (a : BitVec 8) (l : Word)
  | fceil (n : BitVec 1) (d : BitVec 8) (a : BitVec 8) (l : Word)
  | hadd2 (n : BitVec 1) (d : BitVec 8) (a : BitVec 8) (b : BitVec 8) (l : Word)
  | hfma2 (n : BitVec 1) (d : BitVec 8) (a : BitVec 8) (b : BitVec 8) (l : Word)
  | badd2 (n : BitVec 1) (d : BitVec 8) (a : BitVec 8) (b : BitVec 8) (l : Word)
  | bfma2 (n : BitVec 1) (d : BitVec 8) (a : BitVec 8) (b : BitVec 8) (l : Word)
  | cvt (n : BitVec 1) (d : BitVec 8) (a : BitVec 8) (v : BitVec 8) (l : Word)
  | selp (n : BitVec 1) (d : BitVec 8) (a : BitVec 8) (s : BitVec 1) (k : BitVec 4) (l : Word)
  | shfx (n : BitVec 1) (d : BitVec 8) (a : BitVec 8) (b : BitVec 8) (l : Word)
  | shfn (n : BitVec 1) (d : BitVec 8) (a : BitVec 8) (b : BitVec 8) (l : Word)
  | shfup (n : BitVec 1) (d : BitVec 8) (a : BitVec 8) (b : BitVec 8) (l : Word)
  | shfdn (n : BitVec 1) (d : BitVec 8) (a : BitVec 8) (b : BitVec 8) (l : Word)
  | xchb (n : BitVec 8) (s : BitVec 3)
  | voteBallot (n : BitVec 1) (d : BitVec 8) (k : BitVec 4)
  | voteAny (n : BitVec 1) (d : BitVec 8) (k : BitVec 4)
  | voteAll (n : BitVec 1) (d : BitVec 8) (k : BitVec 4)
  | rhad (n : BitVec 1) (d : BitVec 8) (a : BitVec 8) (b : BitVec 8) (l : Word)
  | ld32 (r : BitVec 1) (d : BitVec 8) (a : BitVec 8) (o : BitVec 8)
  | ld64 (r : BitVec 1) (d : BitVec 8) (a : BitVec 8) (o : BitVec 8)
  | ld128 (r : BitVec 1) (d : BitVec 8) (a : BitVec 8) (o : BitVec 8)
  | ldnZ8 (r : BitVec 1) (d : BitVec 8) (a : BitVec 8)
  | ldnS8 (r : BitVec 1) (d : BitVec 8) (a : BitVec 8)
  | ldnZ16 (r : BitVec 1) (d : BitVec 8) (a : BitVec 8)
  | ldnS16 (r : BitVec 1) (d : BitVec 8) (a : BitVec 8)
  | st32 (r : BitVec 1) (s : BitVec 8) (a : BitVec 8) (o : BitVec 8) (l : Word)
  | st64 (r : BitVec 1) (s : BitVec 8) (a : BitVec 8) (o : BitVec 8) (l : Word)
  | st128 (r : BitVec 1) (s : BitVec 8) (a : BitVec 8) (o : BitVec 8)
  | stnB8 (r : BitVec 1) (s : BitVec 8) (a : BitVec 8) (l : Word)
  | stnB16 (r : BitVec 1) (s : BitVec 8) (a : BitVec 8) (l : Word)
  | stp (s : BitVec 8) (a : BitVec 8) (b : BitVec 8) (l : Word)
  | atadd (c : BitVec 1) (d : BitVec 8) (a : BitVec 8) (b : BitVec 8) (l : Word)
  | atmaxs (c : BitVec 1) (d : BitVec 8) (a : BitVec 8) (b : BitVec 8) (l : Word)
  | atmaxz (c : BitVec 1) (d : BitVec 8) (a : BitVec 8) (b : BitVec 8) (l : Word)
  | atexch (c : BitVec 1) (d : BitVec 8) (a : BitVec 8) (b : BitVec 8) (l : Word)
  | atcas (c : BitVec 1) (d : BitVec 8) (a : BitVec 8) (b : BitVec 8) (l : Word)
  | qcmp (c : BitVec 4) (k : BitVec 4) (a : BitVec 8) (b : BitVec 8) (l : Word)
  | qlogAnd (d : BitVec 4) (a : BitVec 4) (b : BitVec 4)
  | qlogOr (d : BitVec 4) (a : BitVec 4) (b : BitVec 4)
  | qlogNot (d : BitVec 4) (a : BitVec 4)
  | qblend (n : BitVec 1) (d : BitVec 8) (a : BitVec 8) (k : BitVec 4) (l : Word)
  | qdraw (p : BitVec 4) (a : BitVec 8) (k : BitVec 4) (l : Word)
  | qgradRamp (n : BitVec 1) (d : BitVec 8) (a : BitVec 8) (k : BitVec 4) (l : Word)
  | qgradLogi (n : BitVec 1) (d : BitVec 8) (a : BitVec 8) (k : BitVec 4) (l : Word)
  | qgradAndp (n : BitVec 1) (d : BitVec 8) (a : BitVec 8) (k : BitVec 4) (l : Word)
  | qgradOrp (n : BitVec 1) (d : BitVec 8) (a : BitVec 8) (k : BitVec 4) (l : Word)
  | qgradNot (n : BitVec 1) (d : BitVec 8) (a : BitVec 8) (k : BitVec 4) (l : Word)
  | qgradBlendq (n : BitVec 1) (d : BitVec 8) (a : BitVec 8) (k : BitVec 4) (l : Word)
  | qxferOut (d : BitVec 8) (k : BitVec 4)
  | qxferIn (k : BitVec 4) (a : BitVec 8) (l : Word)
  | tagRead (n : BitVec 1) (d : BitVec 8) (a : BitVec 8) (l : Word)
  | tagWrite (n : BitVec 1) (d : BitVec 8) (a : BitVec 8) (l : Word)
  | tagMark (n : BitVec 1) (d : BitVec 8)
  | tagCopy (n : BitVec 1) (d : BitVec 8) (a : BitVec 8) (l : Word)
  | br (o : BitVec 25)
  | brp (k : BitVec 4) (s : BitVec 1) (o : BitVec 20)
  | bru (a : BitVec 8) (o : BitVec 17)
  | call (o : BitVec 25)
  | ret
  | brx (a : BitVec 8) (l : Word)
  | fend
  | fspawn (d : BitVec 8) (a : BitVec 8) (l : Word)
  | yield
  | guard (s : BitVec 1) (k : BitVec 4) (n : BitVec 8)
  | memb (a : BitVec 8) (l : Word)
  | jarm (n : BitVec 3)
  | join (n : BitVec 3) (a : BitVec 8) (l : Word)
  | jget (d : BitVec 8) (n : BitVec 3) (w : BitVec 8)
  | cjoin (a : BitVec 8) (l : Word)
  | cleave
  | bar
  | pbarr (a : BitVec 8)
  | pbwait (a : BitVec 8) (p : BitVec 1)
  | fork (a : BitVec 8) (l : Word)
  | rdv
  | rnext (d : BitVec 8)
  | epush (a : BitVec 8) (b : BitVec 8)
  | epop (d : BitVec 8) (a : BitVec 8)
  | tspawn (d : BitVec 8) (a : BitVec 8)
  | tsig (a : BitVec 8) (b : BitVec 8) (l : Word)
  | ckpt
  | gld (r : BitVec 1) (d : BitVec 8) (a : BitVec 8) (o : BitVec 8)
  | gst (r : BitVec 1) (s : BitVec 8) (a : BitVec 8) (o : BitVec 8) (l : Word)
  | fencePour
  | fenceDev
  | rcopy (d : BitVec 8) (a : BitVec 8)
  | rpat (d : BitVec 8) (a : BitVec 8)
  | put (d : BitVec 8) (a : BitVec 8)
  | wwait (a : BitVec 8) (b : BitVec 8) (l : Word)
  | shld (n : BitVec 4) (a : BitVec 8)
  | shst (n : BitVec 4) (a : BitVec 8)
  | shset (n : BitVec 4) (a : BitVec 8) (b : BitVec 8) (l : Word)
  | shget (d : BitVec 8) (n : BitVec 4) (b : BitVec 8) (l : Word)
  | mldw (a : BitVec 8) (b : BitVec 8) (l : Word)
  | mmul (d : BitVec 3) (a : BitVec 8) (b : BitVec 8) (l : Word)
  | mmulResume (d : BitVec 3) (a : BitVec 8) (b : BitVec 8) (l : Word)
  | mdrain (d : BitVec 3) (a : BitVec 8)
  | mzero (d : BitVec 3) (l : BitVec 3)
  | mspill (d : BitVec 3) (a : BitVec 8)
  | mfill (d : BitVec 3) (a : BitVec 8)
  | trap (c : BitVec 8)
  | hret
  | get (d : BitVec 8) (r : BitVec 8)
  | set (a : BitVec 8) (r : BitVec 8) (l : Word)
  | bkpt (c : BitVec 8)
  | nop
  | halt
  | gadd (n : BitVec 1) (d : BitVec 8) (a : BitVec 8) (b : BitVec 8) (l : Word)
  | gsub (n : BitVec 1) (d : BitVec 8) (a : BitVec 8) (b : BitVec 8) (l : Word)
  | gmul (n : BitVec 1) (d : BitVec 8) (a : BitVec 8) (b : BitVec 8) (l : Word)
  | gand (n : BitVec 1) (d : BitVec 8) (a : BitVec 8) (b : BitVec 8) (l : Word)
  | gor (n : BitVec 1) (d : BitVec 8) (a : BitVec 8) (b : BitVec 8) (l : Word)
  | gxor (n : BitVec 1) (d : BitVec 8) (a : BitVec 8) (b : BitVec 8) (l : Word)
  | gshl (n : BitVec 1) (d : BitVec 8) (a : BitVec 8) (b : BitVec 8) (l : Word)
  | gshr (n : BitVec 1) (d : BitVec 8) (a : BitVec 8) (b : BitVec 8) (l : Word)
  | gsar (n : BitVec 1) (d : BitVec 8) (a : BitVec 8) (b : BitVec 8) (l : Word)
  | gaddi (n : BitVec 1) (d : BitVec 8) (a : BitVec 8) (i : BitVec 8) (l : Word)
  | gcmps (c : BitVec 4) (k : BitVec 4) (a : BitVec 8) (b : BitVec 8) (l : Word)
  | gcmpz (c : BitVec 4) (k : BitVec 4) (a : BitVec 8) (b : BitVec 8) (l : Word)
  | gadd64 (n : BitVec 1) (d : BitVec 8) (a : BitVec 8) (b : BitVec 8) (l : Word)
  | cldy (d : BitVec 5) (a : BitVec 5) (b : BitVec 5) (s : BitVec 1) (f : BitVec 8)
  | csty (d : BitVec 5) (a : BitVec 5) (b : BitVec 5) (m : BitVec 3) (s : BitVec 1) (f : BitVec 8)
  | cldc (d : BitVec 5) (a : BitVec 5) (i : BitVec 17)
  | cmovc (d : BitVec 5) (a : BitVec 5) (u : BitVec 16)
  | caddc (d : BitVec 5) (a : BitVec 5) (b : BitVec 5) (s : BitVec 12)
  | csubc (d : BitVec 5) (a : BitVec 5) (b : BitVec 5)
  | cmulc (d : BitVec 5) (a : BitVec 5) (b : BitVec 5)
  | cbnz (a : BitVec 5) (o : BitVec 22)
  | cjmp (o : BitVec 22)
  | cfma (d : BitVec 5) (a : BitVec 5) (b : BitVec 5)
  | cmul (d : BitVec 5) (a : BitVec 5) (b : BitVec 5)
  | cadd (d : BitVec 5) (a : BitVec 5) (b : BitVec 5)
  | csub (d : BitVec 5) (a : BitVec 5) (b : BitVec 5)
  | cmax (d : BitVec 5) (a : BitVec 5) (b : BitVec 5)
  | cmin (d : BitVec 5) (a : BitVec 5) (b : BitVec 5)
  | crsq (d : BitVec 5) (a : BitVec 5)
  | csqrt (d : BitVec 5) (a : BitVec 5)
  | csplat (d : BitVec 5) (a : BitVec 5)
  | ccvt (d : BitVec 5) (a : BitVec 5) (b : BitVec 5) (m : BitVec 3) (f : BitVec 8)
  | cpair (d : BitVec 5) (a : BitVec 5) (b : BitVec 5) (m : BitVec 3) (f : BitVec 8)
  | cepop (d : BitVec 5) (a : BitVec 5)
  | ctsig (a : BitVec 5) (b : BitVec 5)
  | chalt
  | cfence
  | recastIssue (core quad : Nat)
  | weaveSlotGrant (core quad : Nat)
  | rejoinTimeout (weave j : Nat)
  | placement (part : Nat)
  | runnerCommandStart (core : Nat)
  | copyCompletion (cmd : Nat)
  | putArrival (part : Nat) (p : FabricPut)
  | putAcknowledgement (cmd : Nat) (ok : Bool)
  | loadResultArrival (id : Nat)
  | mldwCompletion (core : Nat)
  | mmulCompletion (core : Nat)
  | mmulErrorCompletion (core : Nat)
  | mdrainCompletion (core : Nat)
  | mdrainErrorCompletion (core : Nat)
  | refreshWindowOpen (group : Nat)
  | refreshWindowClose (group : Nat)
  | appendPortCommit (part : Nat) (pf : Bool) (queue off : Nat) (data : List (BitVec 8))
  | qcfgWrite (part queue : Nat) (v : Word)
  | hostSignal (part : Nat) (v : BitVec 64)
  | weightStoreCopy (part : Nat) (v : Word)
  | weightStoreCopyDone (part : Nat)
  | bindWrite (vf : Nat) (v : Word)
  | functionLevelReset (vf : Nat)
  | invalidation (part : Nat) (v : Word)
  | invalidationDone (part : Nat)
  | winregWrite (part : Nat) (v : BitVec 256)
  | sndregWrite (part : Nat) (v : BitVec 64)
  | faultAnswer (part : Nat) (v : BitVec 64)
  | purgeMessageReceived (port : Nat) (rtag : BitVec 16)
  | contextRun (part : Nat)
  | contextRestoreDone (part : Nat)
  | contextPreempt (part : Nat)
  | contextSaved (part : Nat)
  | assayReplay (part rcore : Nat) (sigr : BitVec 64)
  | injectionArm (v : Word)
  | resyncComplete (unit : Nat)
  | powerOn
  | conventionalReset
  | startctlWrite (v : Word)
  | startComplete (failed : Nat)
  | dbgStop (part : Nat) (cmd : BitVec 256)
  | dbgStep (part : Nat) (cmd : BitVec 256)
  | stepEnd (pour : Nat)
  | stepLimitExpiry (pour : Nat)
  | dbgRun (part : Nat) (cmd : BitVec 256)
  | dbgRegrd (part : Nat) (cmd : BitVec 256)
  | dbgRegwr (part : Nat) (cmd : BitVec 256)
  | dbgRegwrf (part : Nat) (cmd : BitVec 256)
  | dbgIllegal (part : Nat) (cmd : BitVec 256)
  | assayAbandon (part : Nat)
  | registerWrite (t : RegTarget) (off : Nat) (data : List (BitVec 8))
  | mirrorCopyDone (core : Nat)
  | atomicResultArrival (id : Nat)
  | getMeasurements
  | getChallenge (nonce : BitVec 256)
  | unlock (sig : List (BitVec 8))
  | firmwareUpdate (img : FwImage)
  | activateFirmware
  | pldmSensorRead (sensor : Nat)
  | sensorPoll (r : Readings)
  | thermalRecoveryStart (hottest : Nat)
  | thermalFatal
  | managementPortStartRequest (cold : Bool)
  | firmwareDebugCommand (c : FwDebug)
  | suspopRead (width : Nat)
  | escpopRead (width : Nat)
  | portsWrite (part : Nat) (v : Word)
  | keysetWrite (v : BitVec 64)
  | profileSample (core : Nat) (seen : BitVec 6) (served : BitVec 2) (queued : List (BitVec 16))
  | fabricReadRequest (part win off len : Nat)
  | voteDissent (unit : Nat) (copies : BitVec 3)
  | probationEnd (unit : Nat)
  deriving DecidableEq, Repr

end Sys2Proof
end

