-- ==== Sys2Proof/Decode.lean ====
section
/-!
DEFINITION. Decode.lean: the decoder, total on words and on bytes, and the encoder (09 R182 to R198; 13 R281; 14 R306,
R307). A word whose fixed bits are those of no row decodes to nothing: 09 R200 and 14 R309 give its fate, an
illegal-instruction trap, which the step takes. A row's reserved field values (a condition of 13 to 15, a conversion
pair 31, an unlisted format) decode to the row's instruction, whose meaning raises the trap.
-/

namespace Sys2Proof

/-- The code of the literal word in a source field (09 R184, R185). -/
def litCode : BitVec 8 := 245#8

/-- Whether an instruction's source fields of kind s or ws name a literal word (09 R185). -/
def Instr.hasLiteral : Instr → Bool
  | .iadd _ _ a b _ => a == litCode || b == litCode
  | .isub _ _ a b _ => a == litCode || b == litCode
  | .imul _ _ a b _ => a == litCode || b == litCode
  | .imulhs _ _ a b _ => a == litCode || b == litCode
  | .imulhz _ _ a b _ => a == litCode || b == litCode
  | .imad _ _ a b _ => a == litCode || b == litCode
  | .imins _ _ a b _ => a == litCode || b == litCode
  | .imaxs _ _ a b _ => a == litCode || b == litCode
  | .iminz _ _ a b _ => a == litCode || b == litCode
  | .imaxz _ _ a b _ => a == litCode || b == litCode
  | .and _ _ a b _ => a == litCode || b == litCode
  | .or _ _ a b _ => a == litCode || b == litCode
  | .xor _ _ a b _ => a == litCode || b == litCode
  | .shl _ _ a b _ => a == litCode || b == litCode
  | .shr _ _ a b _ => a == litCode || b == litCode
  | .sar _ _ a b _ => a == litCode || b == litCode
  | .iaddi _ _ a _ _ => a == litCode
  | .shimShl _ _ a _ _ => a == litCode
  | .shimShr _ _ a _ _ => a == litCode
  | .shimSar _ _ a _ _ => a == litCode
  | .icmps _ _ a b _ => a == litCode || b == litCode
  | .icmpz _ _ a b _ => a == litCode || b == litCode
  | .iadd64 _ _ a b _ => a == litCode || b == litCode
  | .uniMov _ _ a _ => a == litCode
  | .uniNot _ _ a _ => a == litCode
  | .uniNeg _ _ a _ => a == litCode
  | .uniAbs _ _ a _ => a == litCode
  | .uniPopc _ _ a _ => a == litCode
  | .uniClz _ _ a _ => a == litCode
  | .uniBrev _ _ a _ => a == litCode
  | .uniSext8 _ _ a _ => a == litCode
  | .uniSext16 _ _ a _ => a == litCode
  | .uniBswap _ _ a _ => a == litCode
  | .fadd _ _ a b _ => a == litCode || b == litCode
  | .fsub _ _ a b _ => a == litCode || b == litCode
  | .fmul _ _ a b _ => a == litCode || b == litCode
  | .ffma _ _ a b _ => a == litCode || b == litCode
  | .fmin _ _ a b _ => a == litCode || b == litCode
  | .fmax _ _ a b _ => a == litCode || b == litCode
  | .fcmp _ _ a b _ => a == litCode || b == litCode
  | .fabs _ _ a _ => a == litCode
  | .fneg _ _ a _ => a == litCode
  | .frcp _ _ a _ => a == litCode
  | .frsq _ _ a _ => a == litCode
  | .fsqrt _ _ a _ => a == litCode
  | .fexp2 _ _ a _ => a == litCode
  | .flog2 _ _ a _ => a == litCode
  | .frint _ _ a _ => a == litCode
  | .ffloor _ _ a _ => a == litCode
  | .fceil _ _ a _ => a == litCode
  | .hadd2 _ _ a b _ => a == litCode || b == litCode
  | .hfma2 _ _ a b _ => a == litCode || b == litCode
  | .badd2 _ _ a b _ => a == litCode || b == litCode
  | .bfma2 _ _ a b _ => a == litCode || b == litCode
  | .cvt _ _ a _ _ => a == litCode
  | .selp _ _ a _ _ _ => a == litCode
  | .shfx _ _ a b _ => a == litCode || b == litCode
  | .shfn _ _ a b _ => a == litCode || b == litCode
  | .shfup _ _ a b _ => a == litCode || b == litCode
  | .shfdn _ _ a b _ => a == litCode || b == litCode
  | .rhad _ _ a b _ => a == litCode || b == litCode
  | .st32 _ s _ _ _ => s == litCode
  | .st64 _ s _ _ _ => s == litCode
  | .stnB8 _ s _ _ => s == litCode
  | .stnB16 _ s _ _ => s == litCode
  | .stp s _ _ _ => s == litCode
  | .atadd _ _ _ b _ => b == litCode
  | .atmaxs _ _ _ b _ => b == litCode
  | .atmaxz _ _ _ b _ => b == litCode
  | .atexch _ _ _ b _ => b == litCode
  | .atcas _ _ _ b _ => b == litCode
  | .qcmp _ _ a b _ => a == litCode || b == litCode
  | .qblend _ _ a _ _ => a == litCode
  | .qdraw _ a _ _ => a == litCode
  | .qgradRamp _ _ a _ _ => a == litCode
  | .qgradLogi _ _ a _ _ => a == litCode
  | .qgradAndp _ _ a _ _ => a == litCode
  | .qgradOrp _ _ a _ _ => a == litCode
  | .qgradNot _ _ a _ _ => a == litCode
  | .qgradBlendq _ _ a _ _ => a == litCode
  | .qxferIn _ a _ => a == litCode
  | .tagRead _ _ a _ => a == litCode
  | .tagWrite _ _ a _ => a == litCode
  | .tagCopy _ _ a _ => a == litCode
  | .brx a _ => a == litCode
  | .fspawn _ a _ => a == litCode
  | .memb a _ => a == litCode
  | .join _ a _ => a == litCode
  | .cjoin a _ => a == litCode
  | .fork a _ => a == litCode
  | .tsig a b _ => a == litCode || b == litCode
  | .gst _ s _ _ _ => s == litCode
  | .wwait _ b _ => b == litCode
  | .shset _ a b _ => a == litCode || b == litCode
  | .shget _ _ b _ => b == litCode
  | .mldw _ b _ => b == litCode
  | .mmul _ _ b _ => b == litCode
  | .mmulResume _ _ b _ => b == litCode
  | .set a _ _ => a == litCode
  | .gadd _ _ a b _ => a == litCode || b == litCode
  | .gsub _ _ a b _ => a == litCode || b == litCode
  | .gmul _ _ a b _ => a == litCode || b == litCode
  | .gand _ _ a b _ => a == litCode || b == litCode
  | .gor _ _ a b _ => a == litCode || b == litCode
  | .gxor _ _ a b _ => a == litCode || b == litCode
  | .gshl _ _ a b _ => a == litCode || b == litCode
  | .gshr _ _ a b _ => a == litCode || b == litCode
  | .gsar _ _ a b _ => a == litCode || b == litCode
  | .gaddi _ _ a _ _ => a == litCode
  | .gcmps _ _ a b _ => a == litCode || b == litCode
  | .gcmpz _ _ a b _ => a == litCode || b == litCode
  | .gadd64 _ _ a b _ => a == litCode || b == litCode
  | _ => false

/-- The literal an instruction carries: the word given where a source field is coded 245, and zero where none is. -/
def litOf (named : Bool) (l : Word) : Word := if named then l else 0#32

/-- The Greoskane word `w`, with the literal word `l` that follows it (09 R182, R192, R198) (part 1). -/
def decodeWord1 (m : Nat) (w : Word) (l : Word) : Option Instr :=
  match m with
  | 0 => some (.iadd (w.extractLsb' 24 1) (w.extractLsb' 16 8) (w.extractLsb' 8 8) (w.extractLsb' 0 8) (litOf ((w.extractLsb' 8 8) == litCode || (w.extractLsb' 0 8) == litCode) l))
  | 1 => some (.isub (w.extractLsb' 24 1) (w.extractLsb' 16 8) (w.extractLsb' 8 8) (w.extractLsb' 0 8) (litOf ((w.extractLsb' 8 8) == litCode || (w.extractLsb' 0 8) == litCode) l))
  | 2 => some (.imul (w.extractLsb' 24 1) (w.extractLsb' 16 8) (w.extractLsb' 8 8) (w.extractLsb' 0 8) (litOf ((w.extractLsb' 8 8) == litCode || (w.extractLsb' 0 8) == litCode) l))
  | 3 => some (.imulhs (w.extractLsb' 24 1) (w.extractLsb' 16 8) (w.extractLsb' 8 8) (w.extractLsb' 0 8) (litOf ((w.extractLsb' 8 8) == litCode || (w.extractLsb' 0 8) == litCode) l))
  | 4 => some (.imulhz (w.extractLsb' 24 1) (w.extractLsb' 16 8) (w.extractLsb' 8 8) (w.extractLsb' 0 8) (litOf ((w.extractLsb' 8 8) == litCode || (w.extractLsb' 0 8) == litCode) l))
  | 5 => some (.imad (w.extractLsb' 24 1) (w.extractLsb' 16 8) (w.extractLsb' 8 8) (w.extractLsb' 0 8) (litOf ((w.extractLsb' 8 8) == litCode || (w.extractLsb' 0 8) == litCode) l))
  | 6 => some (.imins (w.extractLsb' 24 1) (w.extractLsb' 16 8) (w.extractLsb' 8 8) (w.extractLsb' 0 8) (litOf ((w.extractLsb' 8 8) == litCode || (w.extractLsb' 0 8) == litCode) l))
  | 7 => some (.imaxs (w.extractLsb' 24 1) (w.extractLsb' 16 8) (w.extractLsb' 8 8) (w.extractLsb' 0 8) (litOf ((w.extractLsb' 8 8) == litCode || (w.extractLsb' 0 8) == litCode) l))
  | 8 => some (.iminz (w.extractLsb' 24 1) (w.extractLsb' 16 8) (w.extractLsb' 8 8) (w.extractLsb' 0 8) (litOf ((w.extractLsb' 8 8) == litCode || (w.extractLsb' 0 8) == litCode) l))
  | 9 => some (.imaxz (w.extractLsb' 24 1) (w.extractLsb' 16 8) (w.extractLsb' 8 8) (w.extractLsb' 0 8) (litOf ((w.extractLsb' 8 8) == litCode || (w.extractLsb' 0 8) == litCode) l))
  | 10 => some (.and (w.extractLsb' 24 1) (w.extractLsb' 16 8) (w.extractLsb' 8 8) (w.extractLsb' 0 8) (litOf ((w.extractLsb' 8 8) == litCode || (w.extractLsb' 0 8) == litCode) l))
  | 11 => some (.or (w.extractLsb' 24 1) (w.extractLsb' 16 8) (w.extractLsb' 8 8) (w.extractLsb' 0 8) (litOf ((w.extractLsb' 8 8) == litCode || (w.extractLsb' 0 8) == litCode) l))
  | 12 => some (.xor (w.extractLsb' 24 1) (w.extractLsb' 16 8) (w.extractLsb' 8 8) (w.extractLsb' 0 8) (litOf ((w.extractLsb' 8 8) == litCode || (w.extractLsb' 0 8) == litCode) l))
  | 13 => some (.shl (w.extractLsb' 24 1) (w.extractLsb' 16 8) (w.extractLsb' 8 8) (w.extractLsb' 0 8) (litOf ((w.extractLsb' 8 8) == litCode || (w.extractLsb' 0 8) == litCode) l))
  | 14 => some (.shr (w.extractLsb' 24 1) (w.extractLsb' 16 8) (w.extractLsb' 8 8) (w.extractLsb' 0 8) (litOf ((w.extractLsb' 8 8) == litCode || (w.extractLsb' 0 8) == litCode) l))
  | 15 => some (.sar (w.extractLsb' 24 1) (w.extractLsb' 16 8) (w.extractLsb' 8 8) (w.extractLsb' 0 8) (litOf ((w.extractLsb' 8 8) == litCode || (w.extractLsb' 0 8) == litCode) l))
  | 16 => some (.iaddi (w.extractLsb' 24 1) (w.extractLsb' 16 8) (w.extractLsb' 8 8) (w.extractLsb' 0 8) (litOf ((w.extractLsb' 8 8) == litCode) l))
  | 17 => if w.extractLsb' 5 3 = 0#3 then some (.shimShl (w.extractLsb' 24 1) (w.extractLsb' 16 8) (w.extractLsb' 8 8) (w.extractLsb' 0 5) (litOf ((w.extractLsb' 8 8) == litCode) l))
    else if w.extractLsb' 5 3 = 2#3 then some (.shimShr (w.extractLsb' 24 1) (w.extractLsb' 16 8) (w.extractLsb' 8 8) (w.extractLsb' 0 5) (litOf ((w.extractLsb' 8 8) == litCode) l))
    else if w.extractLsb' 5 3 = 4#3 then some (.shimSar (w.extractLsb' 24 1) (w.extractLsb' 16 8) (w.extractLsb' 8 8) (w.extractLsb' 0 5) (litOf ((w.extractLsb' 8 8) == litCode) l))
    else none
  | 18 => if w.extractLsb' 24 1 = 0#1 then some (.icmps (w.extractLsb' 20 4) (w.extractLsb' 16 4) (w.extractLsb' 8 8) (w.extractLsb' 0 8) (litOf ((w.extractLsb' 8 8) == litCode || (w.extractLsb' 0 8) == litCode) l))
    else none
  | 19 => if w.extractLsb' 24 1 = 0#1 then some (.icmpz (w.extractLsb' 20 4) (w.extractLsb' 16 4) (w.extractLsb' 8 8) (w.extractLsb' 0 8) (litOf ((w.extractLsb' 8 8) == litCode || (w.extractLsb' 0 8) == litCode) l))
    else none
  | 20 => some (.iadd64 (w.extractLsb' 24 1) (w.extractLsb' 16 8) (w.extractLsb' 8 8) (w.extractLsb' 0 8) (litOf ((w.extractLsb' 8 8) == litCode || (w.extractLsb' 0 8) == litCode) l))
  | 21 => if w.extractLsb' 0 8 = 0#8 then some (.uniMov (w.extractLsb' 24 1) (w.extractLsb' 16 8) (w.extractLsb' 8 8) (litOf ((w.extractLsb' 8 8) == litCode) l))
    else if w.extractLsb' 0 8 = 1#8 then some (.uniNot (w.extractLsb' 24 1) (w.extractLsb' 16 8) (w.extractLsb' 8 8) (litOf ((w.extractLsb' 8 8) == litCode) l))
    else if w.extractLsb' 0 8 = 2#8 then some (.uniNeg (w.extractLsb' 24 1) (w.extractLsb' 16 8) (w.extractLsb' 8 8) (litOf ((w.extractLsb' 8 8) == litCode) l))
    else if w.extractLsb' 0 8 = 3#8 then some (.uniAbs (w.extractLsb' 24 1) (w.extractLsb' 16 8) (w.extractLsb' 8 8) (litOf ((w.extractLsb' 8 8) == litCode) l))
    else if w.extractLsb' 0 8 = 4#8 then some (.uniPopc (w.extractLsb' 24 1) (w.extractLsb' 16 8) (w.extractLsb' 8 8) (litOf ((w.extractLsb' 8 8) == litCode) l))
    else if w.extractLsb' 0 8 = 5#8 then some (.uniClz (w.extractLsb' 24 1) (w.extractLsb' 16 8) (w.extractLsb' 8 8) (litOf ((w.extractLsb' 8 8) == litCode) l))
    else if w.extractLsb' 0 8 = 6#8 then some (.uniBrev (w.extractLsb' 24 1) (w.extractLsb' 16 8) (w.extractLsb' 8 8) (litOf ((w.extractLsb' 8 8) == litCode) l))
    else if w.extractLsb' 0 8 = 7#8 then some (.uniSext8 (w.extractLsb' 24 1) (w.extractLsb' 16 8) (w.extractLsb' 8 8) (litOf ((w.extractLsb' 8 8) == litCode) l))
    else if w.extractLsb' 0 8 = 8#8 then some (.uniSext16 (w.extractLsb' 24 1) (w.extractLsb' 16 8) (w.extractLsb' 8 8) (litOf ((w.extractLsb' 8 8) == litCode) l))
    else if w.extractLsb' 0 8 = 9#8 then some (.uniBswap (w.extractLsb' 24 1) (w.extractLsb' 16 8) (w.extractLsb' 8 8) (litOf ((w.extractLsb' 8 8) == litCode) l))
    else none
  | 22 => some (.fadd (w.extractLsb' 24 1) (w.extractLsb' 16 8) (w.extractLsb' 8 8) (w.extractLsb' 0 8) (litOf ((w.extractLsb' 8 8) == litCode || (w.extractLsb' 0 8) == litCode) l))
  | 23 => some (.fsub (w.extractLsb' 24 1) (w.extractLsb' 16 8) (w.extractLsb' 8 8) (w.extractLsb' 0 8) (litOf ((w.extractLsb' 8 8) == litCode || (w.extractLsb' 0 8) == litCode) l))
  | _ => none

/-- The Greoskane word `w`, with the literal word `l` that follows it (09 R182, R192, R198) (part 2). -/
def decodeWord2 (m : Nat) (w : Word) (l : Word) : Option Instr :=
  match m with
  | 24 => some (.fmul (w.extractLsb' 24 1) (w.extractLsb' 16 8) (w.extractLsb' 8 8) (w.extractLsb' 0 8) (litOf ((w.extractLsb' 8 8) == litCode || (w.extractLsb' 0 8) == litCode) l))
  | 25 => some (.ffma (w.extractLsb' 24 1) (w.extractLsb' 16 8) (w.extractLsb' 8 8) (w.extractLsb' 0 8) (litOf ((w.extractLsb' 8 8) == litCode || (w.extractLsb' 0 8) == litCode) l))
  | 26 => some (.fmin (w.extractLsb' 24 1) (w.extractLsb' 16 8) (w.extractLsb' 8 8) (w.extractLsb' 0 8) (litOf ((w.extractLsb' 8 8) == litCode || (w.extractLsb' 0 8) == litCode) l))
  | 27 => some (.fmax (w.extractLsb' 24 1) (w.extractLsb' 16 8) (w.extractLsb' 8 8) (w.extractLsb' 0 8) (litOf ((w.extractLsb' 8 8) == litCode || (w.extractLsb' 0 8) == litCode) l))
  | 28 => if w.extractLsb' 24 1 = 0#1 then some (.fcmp (w.extractLsb' 20 4) (w.extractLsb' 16 4) (w.extractLsb' 8 8) (w.extractLsb' 0 8) (litOf ((w.extractLsb' 8 8) == litCode || (w.extractLsb' 0 8) == litCode) l))
    else none
  | 29 => if w.extractLsb' 0 8 = 0#8 then some (.fabs (w.extractLsb' 24 1) (w.extractLsb' 16 8) (w.extractLsb' 8 8) (litOf ((w.extractLsb' 8 8) == litCode) l))
    else if w.extractLsb' 0 8 = 1#8 then some (.fneg (w.extractLsb' 24 1) (w.extractLsb' 16 8) (w.extractLsb' 8 8) (litOf ((w.extractLsb' 8 8) == litCode) l))
    else if w.extractLsb' 0 8 = 2#8 then some (.frcp (w.extractLsb' 24 1) (w.extractLsb' 16 8) (w.extractLsb' 8 8) (litOf ((w.extractLsb' 8 8) == litCode) l))
    else if w.extractLsb' 0 8 = 3#8 then some (.frsq (w.extractLsb' 24 1) (w.extractLsb' 16 8) (w.extractLsb' 8 8) (litOf ((w.extractLsb' 8 8) == litCode) l))
    else if w.extractLsb' 0 8 = 4#8 then some (.fsqrt (w.extractLsb' 24 1) (w.extractLsb' 16 8) (w.extractLsb' 8 8) (litOf ((w.extractLsb' 8 8) == litCode) l))
    else if w.extractLsb' 0 8 = 5#8 then some (.fexp2 (w.extractLsb' 24 1) (w.extractLsb' 16 8) (w.extractLsb' 8 8) (litOf ((w.extractLsb' 8 8) == litCode) l))
    else if w.extractLsb' 0 8 = 6#8 then some (.flog2 (w.extractLsb' 24 1) (w.extractLsb' 16 8) (w.extractLsb' 8 8) (litOf ((w.extractLsb' 8 8) == litCode) l))
    else if w.extractLsb' 0 8 = 7#8 then some (.frint (w.extractLsb' 24 1) (w.extractLsb' 16 8) (w.extractLsb' 8 8) (litOf ((w.extractLsb' 8 8) == litCode) l))
    else if w.extractLsb' 0 8 = 8#8 then some (.ffloor (w.extractLsb' 24 1) (w.extractLsb' 16 8) (w.extractLsb' 8 8) (litOf ((w.extractLsb' 8 8) == litCode) l))
    else if w.extractLsb' 0 8 = 9#8 then some (.fceil (w.extractLsb' 24 1) (w.extractLsb' 16 8) (w.extractLsb' 8 8) (litOf ((w.extractLsb' 8 8) == litCode) l))
    else none
  | 30 => some (.hadd2 (w.extractLsb' 24 1) (w.extractLsb' 16 8) (w.extractLsb' 8 8) (w.extractLsb' 0 8) (litOf ((w.extractLsb' 8 8) == litCode || (w.extractLsb' 0 8) == litCode) l))
  | 31 => some (.hfma2 (w.extractLsb' 24 1) (w.extractLsb' 16 8) (w.extractLsb' 8 8) (w.extractLsb' 0 8) (litOf ((w.extractLsb' 8 8) == litCode || (w.extractLsb' 0 8) == litCode) l))
  | 32 => some (.badd2 (w.extractLsb' 24 1) (w.extractLsb' 16 8) (w.extractLsb' 8 8) (w.extractLsb' 0 8) (litOf ((w.extractLsb' 8 8) == litCode || (w.extractLsb' 0 8) == litCode) l))
  | 33 => some (.bfma2 (w.extractLsb' 24 1) (w.extractLsb' 16 8) (w.extractLsb' 8 8) (w.extractLsb' 0 8) (litOf ((w.extractLsb' 8 8) == litCode || (w.extractLsb' 0 8) == litCode) l))
  | 34 => some (.cvt (w.extractLsb' 24 1) (w.extractLsb' 16 8) (w.extractLsb' 8 8) (w.extractLsb' 0 8) (litOf ((w.extractLsb' 8 8) == litCode) l))
  | 35 => if w.extractLsb' 5 3 = 0#3 then some (.selp (w.extractLsb' 24 1) (w.extractLsb' 16 8) (w.extractLsb' 8 8) (w.extractLsb' 4 1) (w.extractLsb' 0 4) (litOf ((w.extractLsb' 8 8) == litCode) l))
    else none
  | 36 => some (.shfx (w.extractLsb' 24 1) (w.extractLsb' 16 8) (w.extractLsb' 8 8) (w.extractLsb' 0 8) (litOf ((w.extractLsb' 8 8) == litCode || (w.extractLsb' 0 8) == litCode) l))
  | 37 => some (.shfn (w.extractLsb' 24 1) (w.extractLsb' 16 8) (w.extractLsb' 8 8) (w.extractLsb' 0 8) (litOf ((w.extractLsb' 8 8) == litCode || (w.extractLsb' 0 8) == litCode) l))
  | 38 => some (.shfup (w.extractLsb' 24 1) (w.extractLsb' 16 8) (w.extractLsb' 8 8) (w.extractLsb' 0 8) (litOf ((w.extractLsb' 8 8) == litCode || (w.extractLsb' 0 8) == litCode) l))
  | 39 => some (.shfdn (w.extractLsb' 24 1) (w.extractLsb' 16 8) (w.extractLsb' 8 8) (w.extractLsb' 0 8) (litOf ((w.extractLsb' 8 8) == litCode || (w.extractLsb' 0 8) == litCode) l))
  | 40 => if w.extractLsb' 24 1 = 0#1 ∧ w.extractLsb' 3 13 = 0#13 then some (.xchb (w.extractLsb' 16 8) (w.extractLsb' 0 3))
    else none
  | 41 => if w.extractLsb' 12 4 = 0#4 ∧ w.extractLsb' 0 8 = 0#8 then some (.voteBallot (w.extractLsb' 24 1) (w.extractLsb' 16 8) (w.extractLsb' 8 4))
    else if w.extractLsb' 12 4 = 0#4 ∧ w.extractLsb' 0 8 = 1#8 then some (.voteAny (w.extractLsb' 24 1) (w.extractLsb' 16 8) (w.extractLsb' 8 4))
    else if w.extractLsb' 12 4 = 0#4 ∧ w.extractLsb' 0 8 = 2#8 then some (.voteAll (w.extractLsb' 24 1) (w.extractLsb' 16 8) (w.extractLsb' 8 4))
    else none
  | 42 => some (.rhad (w.extractLsb' 24 1) (w.extractLsb' 16 8) (w.extractLsb' 8 8) (w.extractLsb' 0 8) (litOf ((w.extractLsb' 8 8) == litCode || (w.extractLsb' 0 8) == litCode) l))
  | 43 => some (.ld32 (w.extractLsb' 24 1) (w.extractLsb' 16 8) (w.extractLsb' 8 8) (w.extractLsb' 0 8))
  | 44 => some (.ld64 (w.extractLsb' 24 1) (w.extractLsb' 16 8) (w.extractLsb' 8 8) (w.extractLsb' 0 8))
  | 45 => some (.ld128 (w.extractLsb' 24 1) (w.extractLsb' 16 8) (w.extractLsb' 8 8) (w.extractLsb' 0 8))
  | 46 => if w.extractLsb' 0 8 = 0#8 then some (.ldnZ8 (w.extractLsb' 24 1) (w.extractLsb' 16 8) (w.extractLsb' 8 8))
    else if w.extractLsb' 0 8 = 1#8 then some (.ldnS8 (w.extractLsb' 24 1) (w.extractLsb' 16 8) (w.extractLsb' 8 8))
    else if w.extractLsb' 0 8 = 2#8 then some (.ldnZ16 (w.extractLsb' 24 1) (w.extractLsb' 16 8) (w.extractLsb' 8 8))
    else if w.extractLsb' 0 8 = 3#8 then some (.ldnS16 (w.extractLsb' 24 1) (w.extractLsb' 16 8) (w.extractLsb' 8 8))
    else none
  | 47 => some (.st32 (w.extractLsb' 24 1) (w.extractLsb' 16 8) (w.extractLsb' 8 8) (w.extractLsb' 0 8) (litOf ((w.extractLsb' 16 8) == litCode) l))
  | _ => none

/-- The Greoskane word `w`, with the literal word `l` that follows it (09 R182, R192, R198) (part 3). DEDUCED (log 82): the map of 09
R192 calls bit 24 of `TAG` zero where 13 R298 gives it as NW; the model follows R298, the instruction's own encoding. -/
def decodeWord3 (m : Nat) (w : Word) (l : Word) : Option Instr :=
  match m with
  | 48 => some (.st64 (w.extractLsb' 24 1) (w.extractLsb' 16 8) (w.extractLsb' 8 8) (w.extractLsb' 0 8) (litOf ((w.extractLsb' 16 8) == litCode) l))
  | 49 => some (.st128 (w.extractLsb' 24 1) (w.extractLsb' 16 8) (w.extractLsb' 8 8) (w.extractLsb' 0 8))
  | 50 => if w.extractLsb' 0 8 = 0#8 then some (.stnB8 (w.extractLsb' 24 1) (w.extractLsb' 16 8) (w.extractLsb' 8 8) (litOf ((w.extractLsb' 16 8) == litCode) l))
    else if w.extractLsb' 0 8 = 2#8 then some (.stnB16 (w.extractLsb' 24 1) (w.extractLsb' 16 8) (w.extractLsb' 8 8) (litOf ((w.extractLsb' 16 8) == litCode) l))
    else none
  | 51 => if w.extractLsb' 24 1 = 0#1 then some (.stp (w.extractLsb' 16 8) (w.extractLsb' 8 8) (w.extractLsb' 0 8) (litOf ((w.extractLsb' 16 8) == litCode) l))
    else none
  | 52 => some (.atadd (w.extractLsb' 24 1) (w.extractLsb' 16 8) (w.extractLsb' 8 8) (w.extractLsb' 0 8) (litOf ((w.extractLsb' 0 8) == litCode) l))
  | 53 => some (.atmaxs (w.extractLsb' 24 1) (w.extractLsb' 16 8) (w.extractLsb' 8 8) (w.extractLsb' 0 8) (litOf ((w.extractLsb' 0 8) == litCode) l))
  | 54 => some (.atmaxz (w.extractLsb' 24 1) (w.extractLsb' 16 8) (w.extractLsb' 8 8) (w.extractLsb' 0 8) (litOf ((w.extractLsb' 0 8) == litCode) l))
  | 55 => some (.atexch (w.extractLsb' 24 1) (w.extractLsb' 16 8) (w.extractLsb' 8 8) (w.extractLsb' 0 8) (litOf ((w.extractLsb' 0 8) == litCode) l))
  | 56 => some (.atcas (w.extractLsb' 24 1) (w.extractLsb' 16 8) (w.extractLsb' 8 8) (w.extractLsb' 0 8) (litOf ((w.extractLsb' 0 8) == litCode) l))
  | 57 => if w.extractLsb' 24 1 = 0#1 then some (.qcmp (w.extractLsb' 20 4) (w.extractLsb' 16 4) (w.extractLsb' 8 8) (w.extractLsb' 0 8) (litOf ((w.extractLsb' 8 8) == litCode || (w.extractLsb' 0 8) == litCode) l))
    else none
  | 58 => if w.extractLsb' 20 5 = 0#5 ∧ w.extractLsb' 12 4 = 0#4 ∧ w.extractLsb' 4 4 = 0#4 then some (.qlogAnd (w.extractLsb' 16 4) (w.extractLsb' 8 4) (w.extractLsb' 0 4))
    else if w.extractLsb' 20 5 = 1#5 ∧ w.extractLsb' 12 4 = 0#4 ∧ w.extractLsb' 4 4 = 0#4 then some (.qlogOr (w.extractLsb' 16 4) (w.extractLsb' 8 4) (w.extractLsb' 0 4))
    else if w.extractLsb' 20 5 = 2#5 ∧ w.extractLsb' 12 4 = 0#4 ∧ w.extractLsb' 0 8 = 0#8 then some (.qlogNot (w.extractLsb' 16 4) (w.extractLsb' 8 4))
    else none
  | 59 => if w.extractLsb' 4 4 = 0#4 then some (.qblend (w.extractLsb' 24 1) (w.extractLsb' 16 8) (w.extractLsb' 8 8) (w.extractLsb' 0 4) (litOf ((w.extractLsb' 8 8) == litCode) l))
    else none
  | 60 => if w.extractLsb' 20 5 = 0#5 ∧ w.extractLsb' 4 4 = 0#4 then some (.qdraw (w.extractLsb' 16 4) (w.extractLsb' 8 8) (w.extractLsb' 0 4) (litOf ((w.extractLsb' 8 8) == litCode) l))
    else none
  | 61 => if w.extractLsb' 4 4 = 0#4 then some (.qgradRamp (w.extractLsb' 24 1) (w.extractLsb' 16 8) (w.extractLsb' 8 8) (w.extractLsb' 0 4) (litOf ((w.extractLsb' 8 8) == litCode) l))
    else if w.extractLsb' 4 4 = 1#4 then some (.qgradLogi (w.extractLsb' 24 1) (w.extractLsb' 16 8) (w.extractLsb' 8 8) (w.extractLsb' 0 4) (litOf ((w.extractLsb' 8 8) == litCode) l))
    else if w.extractLsb' 4 4 = 2#4 then some (.qgradAndp (w.extractLsb' 24 1) (w.extractLsb' 16 8) (w.extractLsb' 8 8) (w.extractLsb' 0 4) (litOf ((w.extractLsb' 8 8) == litCode) l))
    else if w.extractLsb' 4 4 = 3#4 then some (.qgradOrp (w.extractLsb' 24 1) (w.extractLsb' 16 8) (w.extractLsb' 8 8) (w.extractLsb' 0 4) (litOf ((w.extractLsb' 8 8) == litCode) l))
    else if w.extractLsb' 4 4 = 4#4 then some (.qgradNot (w.extractLsb' 24 1) (w.extractLsb' 16 8) (w.extractLsb' 8 8) (w.extractLsb' 0 4) (litOf ((w.extractLsb' 8 8) == litCode) l))
    else if w.extractLsb' 4 4 = 5#4 then some (.qgradBlendq (w.extractLsb' 24 1) (w.extractLsb' 16 8) (w.extractLsb' 8 8) (w.extractLsb' 0 4) (litOf ((w.extractLsb' 8 8) == litCode) l))
    else none
  | 62 => if w.extractLsb' 24 1 = 0#1 ∧ w.extractLsb' 12 4 = 0#4 ∧ w.extractLsb' 0 8 = 0#8 then some (.qxferOut (w.extractLsb' 16 8) (w.extractLsb' 8 4))
    else if w.extractLsb' 20 5 = 16#5 ∧ w.extractLsb' 0 8 = 0#8 then some (.qxferIn (w.extractLsb' 16 4) (w.extractLsb' 8 8) (litOf ((w.extractLsb' 8 8) == litCode) l))
    else none
  | 63 => if w.extractLsb' 0 8 = 0#8 then some (.tagRead (w.extractLsb' 24 1) (w.extractLsb' 16 8) (w.extractLsb' 8 8) (litOf ((w.extractLsb' 8 8) == litCode) l))
    else if w.extractLsb' 0 8 = 1#8 then some (.tagWrite (w.extractLsb' 24 1) (w.extractLsb' 16 8) (w.extractLsb' 8 8) (litOf ((w.extractLsb' 8 8) == litCode) l))
    else if w.extractLsb' 0 16 = 61442#16 then some (.tagMark (w.extractLsb' 24 1) (w.extractLsb' 16 8))
    else if w.extractLsb' 0 8 = 3#8 then some (.tagCopy (w.extractLsb' 24 1) (w.extractLsb' 16 8) (w.extractLsb' 8 8) (litOf ((w.extractLsb' 8 8) == litCode) l))
    else none
  | 64 => some (.br (w.extractLsb' 0 25))
  | 65 => some (.brp (w.extractLsb' 21 4) (w.extractLsb' 20 1) (w.extractLsb' 0 20))
  | 66 => some (.bru (w.extractLsb' 17 8) (w.extractLsb' 0 17))
  | 67 => some (.call (w.extractLsb' 0 25))
  | 68 => if w.extractLsb' 0 25 = 0#25 then some .ret
    else none
  | 69 => if w.extractLsb' 16 9 = 0#9 ∧ w.extractLsb' 0 8 = 0#8 then some (.brx (w.extractLsb' 8 8) (litOf ((w.extractLsb' 8 8) == litCode) l))
    else none
  | 70 => if w.extractLsb' 0 25 = 0#25 then some .fend
    else none
  | 71 => if w.extractLsb' 24 1 = 0#1 ∧ w.extractLsb' 0 8 = 0#8 then some (.fspawn (w.extractLsb' 16 8) (w.extractLsb' 8 8) (litOf ((w.extractLsb' 8 8) == litCode) l))
    else none
  | _ => none

/-- The Greoskane word `w`, with the literal word `l` that follows it (09 R182, R192, R198) (part 4). -/
def decodeWord4 (m : Nat) (w : Word) (l : Word) : Option Instr :=
  match m with
  | 72 => if w.extractLsb' 0 25 = 0#25 then some .yield
    else none
  | 73 => if w.extractLsb' 21 4 = 0#4 ∧ w.extractLsb' 0 8 = 0#8 then some (.guard (w.extractLsb' 20 1) (w.extractLsb' 16 4) (w.extractLsb' 8 8))
    else none
  | 74 => if w.extractLsb' 16 9 = 0#9 ∧ w.extractLsb' 0 8 = 0#8 then some (.memb (w.extractLsb' 8 8) (litOf ((w.extractLsb' 8 8) == litCode) l))
    else none
  | 75 => if w.extractLsb' 19 6 = 0#6 ∧ w.extractLsb' 0 16 = 0#16 then some (.jarm (w.extractLsb' 16 3))
    else none
  | 76 => if w.extractLsb' 19 6 = 0#6 ∧ w.extractLsb' 0 8 = 0#8 then some (.join (w.extractLsb' 16 3) (w.extractLsb' 8 8) (litOf ((w.extractLsb' 8 8) == litCode) l))
    else none
  | 77 => if w.extractLsb' 24 1 = 0#1 ∧ w.extractLsb' 11 5 = 0#5 then some (.jget (w.extractLsb' 16 8) (w.extractLsb' 8 3) (w.extractLsb' 0 8))
    else none
  | 78 => if w.extractLsb' 16 9 = 0#9 ∧ w.extractLsb' 0 8 = 0#8 then some (.cjoin (w.extractLsb' 8 8) (litOf ((w.extractLsb' 8 8) == litCode) l))
    else none
  | 79 => if w.extractLsb' 0 25 = 0#25 then some .cleave
    else none
  | 80 => if w.extractLsb' 0 25 = 0#25 then some .bar
    else none
  | 81 => if w.extractLsb' 16 9 = 0#9 ∧ w.extractLsb' 0 8 = 0#8 then some (.pbarr (w.extractLsb' 8 8))
    else none
  | 82 => if w.extractLsb' 16 9 = 0#9 ∧ w.extractLsb' 1 7 = 0#7 then some (.pbwait (w.extractLsb' 8 8) (w.extractLsb' 0 1))
    else none
  | 83 => if w.extractLsb' 16 9 = 0#9 ∧ w.extractLsb' 0 8 = 0#8 then some (.fork (w.extractLsb' 8 8) (litOf ((w.extractLsb' 8 8) == litCode) l))
    else none
  | 84 => if w.extractLsb' 0 25 = 0#25 then some .rdv
    else none
  | 85 => if w.extractLsb' 24 1 = 0#1 ∧ w.extractLsb' 0 16 = 0#16 then some (.rnext (w.extractLsb' 16 8))
    else none
  | 86 => if w.extractLsb' 16 9 = 0#9 then some (.epush (w.extractLsb' 8 8) (w.extractLsb' 0 8))
    else none
  | 87 => if w.extractLsb' 24 1 = 0#1 ∧ w.extractLsb' 0 8 = 0#8 then some (.epop (w.extractLsb' 16 8) (w.extractLsb' 8 8))
    else none
  | 88 => if w.extractLsb' 24 1 = 0#1 ∧ w.extractLsb' 0 8 = 0#8 then some (.tspawn (w.extractLsb' 16 8) (w.extractLsb' 8 8))
    else none
  | 89 => if w.extractLsb' 16 9 = 0#9 then some (.tsig (w.extractLsb' 8 8) (w.extractLsb' 0 8) (litOf ((w.extractLsb' 8 8) == litCode || (w.extractLsb' 0 8) == litCode) l))
    else none
  | 90 => if w.extractLsb' 0 25 = 0#25 then some .ckpt
    else none
  | 91 => some (.gld (w.extractLsb' 24 1) (w.extractLsb' 16 8) (w.extractLsb' 8 8) (w.extractLsb' 0 8))
  | 92 => some (.gst (w.extractLsb' 24 1) (w.extractLsb' 16 8) (w.extractLsb' 8 8) (w.extractLsb' 0 8) (litOf ((w.extractLsb' 16 8) == litCode) l))
  | 93 => if w.extractLsb' 0 25 = 0#25 then some .fencePour
    else if w.extractLsb' 0 25 = 1#25 then some .fenceDev
    else none
  | 94 => if w.extractLsb' 24 1 = 0#1 ∧ w.extractLsb' 0 8 = 0#8 then some (.rcopy (w.extractLsb' 16 8) (w.extractLsb' 8 8))
    else none
  | 95 => if w.extractLsb' 24 1 = 0#1 ∧ w.extractLsb' 0 8 = 0#8 then some (.rpat (w.extractLsb' 16 8) (w.extractLsb' 8 8))
    else none
  | _ => none

/-- The Greoskane word `w`, with the literal word `l` that follows it (09 R182, R192, R198) (part 5). -/
def decodeWord5 (m : Nat) (w : Word) (l : Word) : Option Instr :=
  match m with
  | 96 => if w.extractLsb' 24 1 = 0#1 ∧ w.extractLsb' 0 8 = 0#8 then some (.put (w.extractLsb' 16 8) (w.extractLsb' 8 8))
    else none
  | 97 => if w.extractLsb' 16 9 = 0#9 then some (.wwait (w.extractLsb' 8 8) (w.extractLsb' 0 8) (litOf ((w.extractLsb' 0 8) == litCode) l))
    else none
  | 98 => if w.extractLsb' 20 5 = 0#5 ∧ w.extractLsb' 0 8 = 0#8 then some (.shld (w.extractLsb' 16 4) (w.extractLsb' 8 8))
    else none
  | 99 => if w.extractLsb' 20 5 = 0#5 ∧ w.extractLsb' 0 8 = 0#8 then some (.shst (w.extractLsb' 16 4) (w.extractLsb' 8 8))
    else none
  | 100 => if w.extractLsb' 20 5 = 0#5 then some (.shset (w.extractLsb' 16 4) (w.extractLsb' 8 8) (w.extractLsb' 0 8) (litOf ((w.extractLsb' 8 8) == litCode || (w.extractLsb' 0 8) == litCode) l))
    else none
  | 101 => if w.extractLsb' 24 1 = 0#1 ∧ w.extractLsb' 12 4 = 0#4 then some (.shget (w.extractLsb' 16 8) (w.extractLsb' 8 4) (w.extractLsb' 0 8) (litOf ((w.extractLsb' 0 8) == litCode) l))
    else none
  | 102 => if w.extractLsb' 16 9 = 0#9 then some (.mldw (w.extractLsb' 8 8) (w.extractLsb' 0 8) (litOf ((w.extractLsb' 0 8) == litCode) l))
    else none
  | 103 => if w.extractLsb' 19 6 = 0#6 then some (.mmul (w.extractLsb' 16 3) (w.extractLsb' 8 8) (w.extractLsb' 0 8) (litOf ((w.extractLsb' 0 8) == litCode) l))
    else if w.extractLsb' 19 6 = 32#6 then some (.mmulResume (w.extractLsb' 16 3) (w.extractLsb' 8 8) (w.extractLsb' 0 8) (litOf ((w.extractLsb' 0 8) == litCode) l))
    else none
  | 104 => if w.extractLsb' 19 6 = 0#6 ∧ w.extractLsb' 0 8 = 0#8 then some (.mdrain (w.extractLsb' 16 3) (w.extractLsb' 8 8))
    else none
  | 105 => if w.extractLsb' 19 6 = 0#6 ∧ w.extractLsb' 11 5 = 0#5 ∧ w.extractLsb' 0 8 = 0#8 then some (.mzero (w.extractLsb' 16 3) (w.extractLsb' 8 3))
    else none
  | 106 => if w.extractLsb' 19 6 = 0#6 ∧ w.extractLsb' 0 8 = 0#8 then some (.mspill (w.extractLsb' 16 3) (w.extractLsb' 8 8))
    else none
  | 107 => if w.extractLsb' 19 6 = 0#6 ∧ w.extractLsb' 0 8 = 0#8 then some (.mfill (w.extractLsb' 16 3) (w.extractLsb' 8 8))
    else none
  | 108 => if w.extractLsb' 8 17 = 0#17 then some (.trap (w.extractLsb' 0 8))
    else none
  | 109 => if w.extractLsb' 0 25 = 0#25 then some .hret
    else none
  | 110 => if w.extractLsb' 24 1 = 0#1 ∧ w.extractLsb' 8 8 = 0#8 then some (.get (w.extractLsb' 16 8) (w.extractLsb' 0 8))
    else none
  | 111 => if w.extractLsb' 16 9 = 0#9 then some (.set (w.extractLsb' 8 8) (w.extractLsb' 0 8) (litOf ((w.extractLsb' 8 8) == litCode) l))
    else none
  | 112 => if w.extractLsb' 8 17 = 0#17 then some (.bkpt (w.extractLsb' 0 8))
    else none
  | 113 => if w.extractLsb' 0 25 = 0#25 then some .nop
    else none
  | 114 => if w.extractLsb' 0 25 = 0#25 then some .halt
    else none
  | 115 => some (.gadd (w.extractLsb' 24 1) (w.extractLsb' 16 8) (w.extractLsb' 8 8) (w.extractLsb' 0 8) (litOf ((w.extractLsb' 8 8) == litCode || (w.extractLsb' 0 8) == litCode) l))
  | 116 => some (.gsub (w.extractLsb' 24 1) (w.extractLsb' 16 8) (w.extractLsb' 8 8) (w.extractLsb' 0 8) (litOf ((w.extractLsb' 8 8) == litCode || (w.extractLsb' 0 8) == litCode) l))
  | 117 => some (.gmul (w.extractLsb' 24 1) (w.extractLsb' 16 8) (w.extractLsb' 8 8) (w.extractLsb' 0 8) (litOf ((w.extractLsb' 8 8) == litCode || (w.extractLsb' 0 8) == litCode) l))
  | 118 => some (.gand (w.extractLsb' 24 1) (w.extractLsb' 16 8) (w.extractLsb' 8 8) (w.extractLsb' 0 8) (litOf ((w.extractLsb' 8 8) == litCode || (w.extractLsb' 0 8) == litCode) l))
  | 119 => some (.gor (w.extractLsb' 24 1) (w.extractLsb' 16 8) (w.extractLsb' 8 8) (w.extractLsb' 0 8) (litOf ((w.extractLsb' 8 8) == litCode || (w.extractLsb' 0 8) == litCode) l))
  | _ => none

/-- The Greoskane word `w`, with the literal word `l` that follows it (09 R182, R192, R198) (part 6). -/
def decodeWord6 (m : Nat) (w : Word) (l : Word) : Option Instr :=
  match m with
  | 120 => some (.gxor (w.extractLsb' 24 1) (w.extractLsb' 16 8) (w.extractLsb' 8 8) (w.extractLsb' 0 8) (litOf ((w.extractLsb' 8 8) == litCode || (w.extractLsb' 0 8) == litCode) l))
  | 121 => some (.gshl (w.extractLsb' 24 1) (w.extractLsb' 16 8) (w.extractLsb' 8 8) (w.extractLsb' 0 8) (litOf ((w.extractLsb' 8 8) == litCode || (w.extractLsb' 0 8) == litCode) l))
  | 122 => some (.gshr (w.extractLsb' 24 1) (w.extractLsb' 16 8) (w.extractLsb' 8 8) (w.extractLsb' 0 8) (litOf ((w.extractLsb' 8 8) == litCode || (w.extractLsb' 0 8) == litCode) l))
  | 123 => some (.gsar (w.extractLsb' 24 1) (w.extractLsb' 16 8) (w.extractLsb' 8 8) (w.extractLsb' 0 8) (litOf ((w.extractLsb' 8 8) == litCode || (w.extractLsb' 0 8) == litCode) l))
  | 124 => some (.gaddi (w.extractLsb' 24 1) (w.extractLsb' 16 8) (w.extractLsb' 8 8) (w.extractLsb' 0 8) (litOf ((w.extractLsb' 8 8) == litCode) l))
  | 125 => if w.extractLsb' 24 1 = 0#1 then some (.gcmps (w.extractLsb' 20 4) (w.extractLsb' 16 4) (w.extractLsb' 8 8) (w.extractLsb' 0 8) (litOf ((w.extractLsb' 8 8) == litCode || (w.extractLsb' 0 8) == litCode) l))
    else if w.extractLsb' 24 1 = 1#1 then some (.gcmpz (w.extractLsb' 20 4) (w.extractLsb' 16 4) (w.extractLsb' 8 8) (w.extractLsb' 0 8) (litOf ((w.extractLsb' 8 8) == litCode || (w.extractLsb' 0 8) == litCode) l))
    else none
  | 126 => some (.gadd64 (w.extractLsb' 24 1) (w.extractLsb' 16 8) (w.extractLsb' 8 8) (w.extractLsb' 0 8) (litOf ((w.extractLsb' 8 8) == litCode || (w.extractLsb' 0 8) == litCode) l))
  | _ => none

/-- The Greoskane word `w`, with the literal word `l` that follows it (09 R182, R192, R198). -/
def decodeWord (w : Word) (l : Word) : Option Instr :=
  let m := (w.extractLsb' 25 7).toNat
  if m ≤ 23 then decodeWord1 m w l else
  if m ≤ 47 then decodeWord2 m w l else
  if m ≤ 71 then decodeWord3 m w l else
  if m ≤ 95 then decodeWord4 m w l else
  if m ≤ 119 then decodeWord5 m w l else
  decodeWord6 m w l

/-- The Crucible word `w` (14 R306, R307) (part 1). -/
def decodeCrucible1 (m : Nat) (w : Word) : Option Instr :=
  match m with
  | 0 => if w.extractLsb' 9 3 = 0#3 then some (.cldy (w.extractLsb' 22 5) (w.extractLsb' 17 5) (w.extractLsb' 12 5) (w.extractLsb' 8 1) (w.extractLsb' 0 8))
    else none
  | 1 => some (.csty (w.extractLsb' 22 5) (w.extractLsb' 17 5) (w.extractLsb' 12 5) (w.extractLsb' 9 3) (w.extractLsb' 8 1) (w.extractLsb' 0 8))
  | 2 => some (.cldc (w.extractLsb' 22 5) (w.extractLsb' 17 5) (w.extractLsb' 0 17))
  | 3 => if w.extractLsb' 16 1 = 0#1 then some (.cmovc (w.extractLsb' 22 5) (w.extractLsb' 17 5) (w.extractLsb' 0 16))
    else none
  | 4 => some (.caddc (w.extractLsb' 22 5) (w.extractLsb' 17 5) (w.extractLsb' 12 5) (w.extractLsb' 0 12))
  | 5 => if w.extractLsb' 0 12 = 0#12 then some (.csubc (w.extractLsb' 22 5) (w.extractLsb' 17 5) (w.extractLsb' 12 5))
    else none
  | 6 => if w.extractLsb' 0 12 = 0#12 then some (.cmulc (w.extractLsb' 22 5) (w.extractLsb' 17 5) (w.extractLsb' 12 5))
    else none
  | 7 => some (.cbnz (w.extractLsb' 22 5) (w.extractLsb' 0 22))
  | 8 => if w.extractLsb' 22 5 = 0#5 then some (.cjmp (w.extractLsb' 0 22))
    else none
  | 9 => if w.extractLsb' 0 12 = 0#12 then some (.cfma (w.extractLsb' 22 5) (w.extractLsb' 17 5) (w.extractLsb' 12 5))
    else none
  | 10 => if w.extractLsb' 0 12 = 0#12 then some (.cmul (w.extractLsb' 22 5) (w.extractLsb' 17 5) (w.extractLsb' 12 5))
    else none
  | 11 => if w.extractLsb' 0 12 = 0#12 then some (.cadd (w.extractLsb' 22 5) (w.extractLsb' 17 5) (w.extractLsb' 12 5))
    else none
  | 12 => if w.extractLsb' 0 12 = 0#12 then some (.csub (w.extractLsb' 22 5) (w.extractLsb' 17 5) (w.extractLsb' 12 5))
    else none
  | 13 => if w.extractLsb' 0 12 = 0#12 then some (.cmax (w.extractLsb' 22 5) (w.extractLsb' 17 5) (w.extractLsb' 12 5))
    else none
  | 14 => if w.extractLsb' 0 12 = 0#12 then some (.cmin (w.extractLsb' 22 5) (w.extractLsb' 17 5) (w.extractLsb' 12 5))
    else none
  | 15 => if w.extractLsb' 0 17 = 0#17 then some (.crsq (w.extractLsb' 22 5) (w.extractLsb' 17 5))
    else none
  | 16 => if w.extractLsb' 0 17 = 0#17 then some (.csqrt (w.extractLsb' 22 5) (w.extractLsb' 17 5))
    else none
  | 17 => if w.extractLsb' 0 17 = 0#17 then some (.csplat (w.extractLsb' 22 5) (w.extractLsb' 17 5))
    else none
  | 18 => if w.extractLsb' 11 1 = 0#1 then some (.ccvt (w.extractLsb' 22 5) (w.extractLsb' 17 5) (w.extractLsb' 12 5) (w.extractLsb' 8 3) (w.extractLsb' 0 8))
    else none
  | 19 => if w.extractLsb' 8 1 = 0#1 then some (.cpair (w.extractLsb' 22 5) (w.extractLsb' 17 5) (w.extractLsb' 12 5) (w.extractLsb' 9 3) (w.extractLsb' 0 8))
    else none
  | 20 => if w.extractLsb' 0 17 = 0#17 then some (.cepop (w.extractLsb' 22 5) (w.extractLsb' 17 5))
    else none
  | 21 => if w.extractLsb' 22 5 = 0#5 ∧ w.extractLsb' 0 12 = 0#12 then some (.ctsig (w.extractLsb' 17 5) (w.extractLsb' 12 5))
    else none
  | 22 => if w.extractLsb' 0 27 = 0#27 then some .chalt
    else none
  | 23 => if w.extractLsb' 0 27 = 0#27 then some .cfence
    else none
  | _ => none

/-- The Crucible word `w` (14 R306, R307). -/
def decodeCrucible (w : Word) : Option Instr :=
  let m := (w.extractLsb' 27 5).toNat
  decodeCrucible1 m w

/-- The literal word an instruction carries (09 R185), zero for one that has none. -/
def Instr.literal : Instr → Word
  | .iadd _ _ _ _ l => l
  | .isub _ _ _ _ l => l
  | .imul _ _ _ _ l => l
  | .imulhs _ _ _ _ l => l
  | .imulhz _ _ _ _ l => l
  | .imad _ _ _ _ l => l
  | .imins _ _ _ _ l => l
  | .imaxs _ _ _ _ l => l
  | .iminz _ _ _ _ l => l
  | .imaxz _ _ _ _ l => l
  | .and _ _ _ _ l => l
  | .or _ _ _ _ l => l
  | .xor _ _ _ _ l => l
  | .shl _ _ _ _ l => l
  | .shr _ _ _ _ l => l
  | .sar _ _ _ _ l => l
  | .iaddi _ _ _ _ l => l
  | .shimShl _ _ _ _ l => l
  | .shimShr _ _ _ _ l => l
  | .shimSar _ _ _ _ l => l
  | .icmps _ _ _ _ l => l
  | .icmpz _ _ _ _ l => l
  | .iadd64 _ _ _ _ l => l
  | .uniMov _ _ _ l => l
  | .uniNot _ _ _ l => l
  | .uniNeg _ _ _ l => l
  | .uniAbs _ _ _ l => l
  | .uniPopc _ _ _ l => l
  | .uniClz _ _ _ l => l
  | .uniBrev _ _ _ l => l
  | .uniSext8 _ _ _ l => l
  | .uniSext16 _ _ _ l => l
  | .uniBswap _ _ _ l => l
  | .fadd _ _ _ _ l => l
  | .fsub _ _ _ _ l => l
  | .fmul _ _ _ _ l => l
  | .ffma _ _ _ _ l => l
  | .fmin _ _ _ _ l => l
  | .fmax _ _ _ _ l => l
  | .fcmp _ _ _ _ l => l
  | .fabs _ _ _ l => l
  | .fneg _ _ _ l => l
  | .frcp _ _ _ l => l
  | .frsq _ _ _ l => l
  | .fsqrt _ _ _ l => l
  | .fexp2 _ _ _ l => l
  | .flog2 _ _ _ l => l
  | .frint _ _ _ l => l
  | .ffloor _ _ _ l => l
  | .fceil _ _ _ l => l
  | .hadd2 _ _ _ _ l => l
  | .hfma2 _ _ _ _ l => l
  | .badd2 _ _ _ _ l => l
  | .bfma2 _ _ _ _ l => l
  | .cvt _ _ _ _ l => l
  | .selp _ _ _ _ _ l => l
  | .shfx _ _ _ _ l => l
  | .shfn _ _ _ _ l => l
  | .shfup _ _ _ _ l => l
  | .shfdn _ _ _ _ l => l
  | .rhad _ _ _ _ l => l
  | .st32 _ _ _ _ l => l
  | .st64 _ _ _ _ l => l
  | .stnB8 _ _ _ l => l
  | .stnB16 _ _ _ l => l
  | .stp _ _ _ l => l
  | .atadd _ _ _ _ l => l
  | .atmaxs _ _ _ _ l => l
  | .atmaxz _ _ _ _ l => l
  | .atexch _ _ _ _ l => l
  | .atcas _ _ _ _ l => l
  | .qcmp _ _ _ _ l => l
  | .qblend _ _ _ _ l => l
  | .qdraw _ _ _ l => l
  | .qgradRamp _ _ _ _ l => l
  | .qgradLogi _ _ _ _ l => l
  | .qgradAndp _ _ _ _ l => l
  | .qgradOrp _ _ _ _ l => l
  | .qgradNot _ _ _ _ l => l
  | .qgradBlendq _ _ _ _ l => l
  | .qxferIn _ _ l => l
  | .tagRead _ _ _ l => l
  | .tagWrite _ _ _ l => l
  | .tagCopy _ _ _ l => l
  | .brx _ l => l
  | .fspawn _ _ l => l
  | .memb _ l => l
  | .join _ _ l => l
  | .cjoin _ l => l
  | .fork _ l => l
  | .tsig _ _ l => l
  | .gst _ _ _ _ l => l
  | .wwait _ _ l => l
  | .shset _ _ _ l => l
  | .shget _ _ _ l => l
  | .mldw _ _ l => l
  | .mmul _ _ _ l => l
  | .mmulResume _ _ _ l => l
  | .set _ _ l => l
  | .gadd _ _ _ _ l => l
  | .gsub _ _ _ _ l => l
  | .gmul _ _ _ _ l => l
  | .gand _ _ _ _ l => l
  | .gor _ _ _ _ l => l
  | .gxor _ _ _ _ l => l
  | .gshl _ _ _ _ l => l
  | .gshr _ _ _ _ l => l
  | .gsar _ _ _ _ l => l
  | .gaddi _ _ _ _ l => l
  | .gcmps _ _ _ _ l => l
  | .gcmpz _ _ _ _ l => l
  | .gadd64 _ _ _ _ l => l
  | _ => 0#32

/-- The instruction word of an encoded row (09 R182, R183; 14 R306), and nothing for a step without encoding. -/
def encodeWord : Instr → Option Word
  | .iadd n d a b _ => some (0#7 ++ n ++ d ++ a ++ b)
  | .isub n d a b _ => some (1#7 ++ n ++ d ++ a ++ b)
  | .imul n d a b _ => some (2#7 ++ n ++ d ++ a ++ b)
  | .imulhs n d a b _ => some (3#7 ++ n ++ d ++ a ++ b)
  | .imulhz n d a b _ => some (4#7 ++ n ++ d ++ a ++ b)
  | .imad n d a b _ => some (5#7 ++ n ++ d ++ a ++ b)
  | .imins n d a b _ => some (6#7 ++ n ++ d ++ a ++ b)
  | .imaxs n d a b _ => some (7#7 ++ n ++ d ++ a ++ b)
  | .iminz n d a b _ => some (8#7 ++ n ++ d ++ a ++ b)
  | .imaxz n d a b _ => some (9#7 ++ n ++ d ++ a ++ b)
  | .and n d a b _ => some (10#7 ++ n ++ d ++ a ++ b)
  | .or n d a b _ => some (11#7 ++ n ++ d ++ a ++ b)
  | .xor n d a b _ => some (12#7 ++ n ++ d ++ a ++ b)
  | .shl n d a b _ => some (13#7 ++ n ++ d ++ a ++ b)
  | .shr n d a b _ => some (14#7 ++ n ++ d ++ a ++ b)
  | .sar n d a b _ => some (15#7 ++ n ++ d ++ a ++ b)
  | .iaddi n d a i _ => some (16#7 ++ n ++ d ++ a ++ i)
  | .shimShl n d a s _ => some (17#7 ++ n ++ d ++ a ++ 0#3 ++ s)
  | .shimShr n d a s _ => some (17#7 ++ n ++ d ++ a ++ 2#3 ++ s)
  | .shimSar n d a s _ => some (17#7 ++ n ++ d ++ a ++ 4#3 ++ s)
  | .icmps c k a b _ => some (18#7 ++ 0#1 ++ c ++ k ++ a ++ b)
  | .icmpz c k a b _ => some (19#7 ++ 0#1 ++ c ++ k ++ a ++ b)
  | .iadd64 n d a b _ => some (20#7 ++ n ++ d ++ a ++ b)
  | .uniMov n d a _ => some (21#7 ++ n ++ d ++ a ++ 0#8)
  | .uniNot n d a _ => some (21#7 ++ n ++ d ++ a ++ 1#8)
  | .uniNeg n d a _ => some (21#7 ++ n ++ d ++ a ++ 2#8)
  | .uniAbs n d a _ => some (21#7 ++ n ++ d ++ a ++ 3#8)
  | .uniPopc n d a _ => some (21#7 ++ n ++ d ++ a ++ 4#8)
  | .uniClz n d a _ => some (21#7 ++ n ++ d ++ a ++ 5#8)
  | .uniBrev n d a _ => some (21#7 ++ n ++ d ++ a ++ 6#8)
  | .uniSext8 n d a _ => some (21#7 ++ n ++ d ++ a ++ 7#8)
  | .uniSext16 n d a _ => some (21#7 ++ n ++ d ++ a ++ 8#8)
  | .uniBswap n d a _ => some (21#7 ++ n ++ d ++ a ++ 9#8)
  | .fadd n d a b _ => some (22#7 ++ n ++ d ++ a ++ b)
  | .fsub n d a b _ => some (23#7 ++ n ++ d ++ a ++ b)
  | .fmul n d a b _ => some (24#7 ++ n ++ d ++ a ++ b)
  | .ffma n d a b _ => some (25#7 ++ n ++ d ++ a ++ b)
  | .fmin n d a b _ => some (26#7 ++ n ++ d ++ a ++ b)
  | .fmax n d a b _ => some (27#7 ++ n ++ d ++ a ++ b)
  | .fcmp c k a b _ => some (28#7 ++ 0#1 ++ c ++ k ++ a ++ b)
  | .fabs n d a _ => some (29#7 ++ n ++ d ++ a ++ 0#8)
  | .fneg n d a _ => some (29#7 ++ n ++ d ++ a ++ 1#8)
  | .frcp n d a _ => some (29#7 ++ n ++ d ++ a ++ 2#8)
  | .frsq n d a _ => some (29#7 ++ n ++ d ++ a ++ 3#8)
  | .fsqrt n d a _ => some (29#7 ++ n ++ d ++ a ++ 4#8)
  | .fexp2 n d a _ => some (29#7 ++ n ++ d ++ a ++ 5#8)
  | .flog2 n d a _ => some (29#7 ++ n ++ d ++ a ++ 6#8)
  | .frint n d a _ => some (29#7 ++ n ++ d ++ a ++ 7#8)
  | .ffloor n d a _ => some (29#7 ++ n ++ d ++ a ++ 8#8)
  | .fceil n d a _ => some (29#7 ++ n ++ d ++ a ++ 9#8)
  | .hadd2 n d a b _ => some (30#7 ++ n ++ d ++ a ++ b)
  | .hfma2 n d a b _ => some (31#7 ++ n ++ d ++ a ++ b)
  | .badd2 n d a b _ => some (32#7 ++ n ++ d ++ a ++ b)
  | .bfma2 n d a b _ => some (33#7 ++ n ++ d ++ a ++ b)
  | .cvt n d a v _ => some (34#7 ++ n ++ d ++ a ++ v)
  | .selp n d a s k _ => some (35#7 ++ n ++ d ++ a ++ 0#3 ++ s ++ k)
  | .shfx n d a b _ => some (36#7 ++ n ++ d ++ a ++ b)
  | .shfn n d a b _ => some (37#7 ++ n ++ d ++ a ++ b)
  | .shfup n d a b _ => some (38#7 ++ n ++ d ++ a ++ b)
  | .shfdn n d a b _ => some (39#7 ++ n ++ d ++ a ++ b)
  | .xchb n s => some (40#7 ++ 0#1 ++ n ++ 0#13 ++ s)
  | .voteBallot n d k => some (41#7 ++ n ++ d ++ 0#4 ++ k ++ 0#8)
  | .voteAny n d k => some (41#7 ++ n ++ d ++ 0#4 ++ k ++ 1#8)
  | .voteAll n d k => some (41#7 ++ n ++ d ++ 0#4 ++ k ++ 2#8)
  | .rhad n d a b _ => some (42#7 ++ n ++ d ++ a ++ b)
  | .ld32 r d a o => some (43#7 ++ r ++ d ++ a ++ o)
  | .ld64 r d a o => some (44#7 ++ r ++ d ++ a ++ o)
  | .ld128 r d a o => some (45#7 ++ r ++ d ++ a ++ o)
  | .ldnZ8 r d a => some (46#7 ++ r ++ d ++ a ++ 0#8)
  | .ldnS8 r d a => some (46#7 ++ r ++ d ++ a ++ 1#8)
  | .ldnZ16 r d a => some (46#7 ++ r ++ d ++ a ++ 2#8)
  | .ldnS16 r d a => some (46#7 ++ r ++ d ++ a ++ 3#8)
  | .st32 r s a o _ => some (47#7 ++ r ++ s ++ a ++ o)
  | .st64 r s a o _ => some (48#7 ++ r ++ s ++ a ++ o)
  | .st128 r s a o => some (49#7 ++ r ++ s ++ a ++ o)
  | .stnB8 r s a _ => some (50#7 ++ r ++ s ++ a ++ 0#8)
  | .stnB16 r s a _ => some (50#7 ++ r ++ s ++ a ++ 2#8)
  | .stp s a b _ => some (51#7 ++ 0#1 ++ s ++ a ++ b)
  | .atadd c d a b _ => some (52#7 ++ c ++ d ++ a ++ b)
  | .atmaxs c d a b _ => some (53#7 ++ c ++ d ++ a ++ b)
  | .atmaxz c d a b _ => some (54#7 ++ c ++ d ++ a ++ b)
  | .atexch c d a b _ => some (55#7 ++ c ++ d ++ a ++ b)
  | .atcas c d a b _ => some (56#7 ++ c ++ d ++ a ++ b)
  | .qcmp c k a b _ => some (57#7 ++ 0#1 ++ c ++ k ++ a ++ b)
  | .qlogAnd d a b => some (58#7 ++ 0#5 ++ d ++ 0#4 ++ a ++ 0#4 ++ b)
  | .qlogOr d a b => some (58#7 ++ 1#5 ++ d ++ 0#4 ++ a ++ 0#4 ++ b)
  | .qlogNot d a => some (58#7 ++ 2#5 ++ d ++ 0#4 ++ a ++ 0#8)
  | .qblend n d a k _ => some (59#7 ++ n ++ d ++ a ++ 0#4 ++ k)
  | .qdraw p a k _ => some (60#7 ++ 0#5 ++ p ++ a ++ 0#4 ++ k)
  | .qgradRamp n d a k _ => some (61#7 ++ n ++ d ++ a ++ 0#4 ++ k)
  | .qgradLogi n d a k _ => some (61#7 ++ n ++ d ++ a ++ 1#4 ++ k)
  | .qgradAndp n d a k _ => some (61#7 ++ n ++ d ++ a ++ 2#4 ++ k)
  | .qgradOrp n d a k _ => some (61#7 ++ n ++ d ++ a ++ 3#4 ++ k)
  | .qgradNot n d a k _ => some (61#7 ++ n ++ d ++ a ++ 4#4 ++ k)
  | .qgradBlendq n d a k _ => some (61#7 ++ n ++ d ++ a ++ 5#4 ++ k)
  | .qxferOut d k => some (62#7 ++ 0#1 ++ d ++ 0#4 ++ k ++ 0#8)
  | .qxferIn k a _ => some (62#7 ++ 16#5 ++ k ++ a ++ 0#8)
  | .tagRead n d a _ => some (63#7 ++ n ++ d ++ a ++ 0#8)
  | .tagWrite n d a _ => some (63#7 ++ n ++ d ++ a ++ 1#8)
  | .tagMark n d => some (63#7 ++ n ++ d ++ 61442#16)
  | .tagCopy n d a _ => some (63#7 ++ n ++ d ++ a ++ 3#8)
  | .br o => some (64#7 ++ o)
  | .brp k s o => some (65#7 ++ k ++ s ++ o)
  | .bru a o => some (66#7 ++ a ++ o)
  | .call o => some (67#7 ++ o)
  | .ret => some (68#7 ++ 0#25)
  | .brx a _ => some (69#7 ++ 0#9 ++ a ++ 0#8)
  | .fend => some (70#7 ++ 0#25)
  | .fspawn d a _ => some (71#7 ++ 0#1 ++ d ++ a ++ 0#8)
  | .yield => some (72#7 ++ 0#25)
  | .guard s k n => some (73#7 ++ 0#4 ++ s ++ k ++ n ++ 0#8)
  | .memb a _ => some (74#7 ++ 0#9 ++ a ++ 0#8)
  | .jarm n => some (75#7 ++ 0#6 ++ n ++ 0#16)
  | .join n a _ => some (76#7 ++ 0#6 ++ n ++ a ++ 0#8)
  | .jget d n w => some (77#7 ++ 0#1 ++ d ++ 0#5 ++ n ++ w)
  | .cjoin a _ => some (78#7 ++ 0#9 ++ a ++ 0#8)
  | .cleave => some (79#7 ++ 0#25)
  | .bar => some (80#7 ++ 0#25)
  | .pbarr a => some (81#7 ++ 0#9 ++ a ++ 0#8)
  | .pbwait a p => some (82#7 ++ 0#9 ++ a ++ 0#7 ++ p)
  | .fork a _ => some (83#7 ++ 0#9 ++ a ++ 0#8)
  | .rdv => some (84#7 ++ 0#25)
  | .rnext d => some (85#7 ++ 0#1 ++ d ++ 0#16)
  | .epush a b => some (86#7 ++ 0#9 ++ a ++ b)
  | .epop d a => some (87#7 ++ 0#1 ++ d ++ a ++ 0#8)
  | .tspawn d a => some (88#7 ++ 0#1 ++ d ++ a ++ 0#8)
  | .tsig a b _ => some (89#7 ++ 0#9 ++ a ++ b)
  | .ckpt => some (90#7 ++ 0#25)
  | .gld r d a o => some (91#7 ++ r ++ d ++ a ++ o)
  | .gst r s a o _ => some (92#7 ++ r ++ s ++ a ++ o)
  | .fencePour => some (93#7 ++ 0#25)
  | .fenceDev => some (93#7 ++ 1#25)
  | .rcopy d a => some (94#7 ++ 0#1 ++ d ++ a ++ 0#8)
  | .rpat d a => some (95#7 ++ 0#1 ++ d ++ a ++ 0#8)
  | .put d a => some (96#7 ++ 0#1 ++ d ++ a ++ 0#8)
  | .wwait a b _ => some (97#7 ++ 0#9 ++ a ++ b)
  | .shld n a => some (98#7 ++ 0#5 ++ n ++ a ++ 0#8)
  | .shst n a => some (99#7 ++ 0#5 ++ n ++ a ++ 0#8)
  | .shset n a b _ => some (100#7 ++ 0#5 ++ n ++ a ++ b)
  | .shget d n b _ => some (101#7 ++ 0#1 ++ d ++ 0#4 ++ n ++ b)
  | .mldw a b _ => some (102#7 ++ 0#9 ++ a ++ b)
  | .mmul d a b _ => some (103#7 ++ 0#6 ++ d ++ a ++ b)
  | .mmulResume d a b _ => some (103#7 ++ 32#6 ++ d ++ a ++ b)
  | .mdrain d a => some (104#7 ++ 0#6 ++ d ++ a ++ 0#8)
  | .mzero d l => some (105#7 ++ 0#6 ++ d ++ 0#5 ++ l ++ 0#8)
  | .mspill d a => some (106#7 ++ 0#6 ++ d ++ a ++ 0#8)
  | .mfill d a => some (107#7 ++ 0#6 ++ d ++ a ++ 0#8)
  | .trap c => some (108#7 ++ 0#17 ++ c)
  | .hret => some (109#7 ++ 0#25)
  | .get d r => some (110#7 ++ 0#1 ++ d ++ 0#8 ++ r)
  | .set a r _ => some (111#7 ++ 0#9 ++ a ++ r)
  | .bkpt c => some (112#7 ++ 0#17 ++ c)
  | .nop => some (113#7 ++ 0#25)
  | .halt => some (114#7 ++ 0#25)
  | .gadd n d a b _ => some (115#7 ++ n ++ d ++ a ++ b)
  | .gsub n d a b _ => some (116#7 ++ n ++ d ++ a ++ b)
  | .gmul n d a b _ => some (117#7 ++ n ++ d ++ a ++ b)
  | .gand n d a b _ => some (118#7 ++ n ++ d ++ a ++ b)
  | .gor n d a b _ => some (119#7 ++ n ++ d ++ a ++ b)
  | .gxor n d a b _ => some (120#7 ++ n ++ d ++ a ++ b)
  | .gshl n d a b _ => some (121#7 ++ n ++ d ++ a ++ b)
  | .gshr n d a b _ => some (122#7 ++ n ++ d ++ a ++ b)
  | .gsar n d a b _ => some (123#7 ++ n ++ d ++ a ++ b)
  | .gaddi n d a i _ => some (124#7 ++ n ++ d ++ a ++ i)
  | .gcmps c k a b _ => some (125#7 ++ 0#1 ++ c ++ k ++ a ++ b)
  | .gcmpz c k a b _ => some (125#7 ++ 1#1 ++ c ++ k ++ a ++ b)
  | .gadd64 n d a b _ => some (126#7 ++ n ++ d ++ a ++ b)
  | .cldy d a b s f => some (0#5 ++ d ++ a ++ b ++ 0#3 ++ s ++ f)
  | .csty d a b m s f => some (1#5 ++ d ++ a ++ b ++ m ++ s ++ f)
  | .cldc d a i => some (2#5 ++ d ++ a ++ i)
  | .cmovc d a u => some (3#5 ++ d ++ a ++ 0#1 ++ u)
  | .caddc d a b s => some (4#5 ++ d ++ a ++ b ++ s)
  | .csubc d a b => some (5#5 ++ d ++ a ++ b ++ 0#12)
  | .cmulc d a b => some (6#5 ++ d ++ a ++ b ++ 0#12)
  | .cbnz a o => some (7#5 ++ a ++ o)
  | .cjmp o => some (8#5 ++ 0#5 ++ o)
  | .cfma d a b => some (9#5 ++ d ++ a ++ b ++ 0#12)
  | .cmul d a b => some (10#5 ++ d ++ a ++ b ++ 0#12)
  | .cadd d a b => some (11#5 ++ d ++ a ++ b ++ 0#12)
  | .csub d a b => some (12#5 ++ d ++ a ++ b ++ 0#12)
  | .cmax d a b => some (13#5 ++ d ++ a ++ b ++ 0#12)
  | .cmin d a b => some (14#5 ++ d ++ a ++ b ++ 0#12)
  | .crsq d a => some (15#5 ++ d ++ a ++ 0#17)
  | .csqrt d a => some (16#5 ++ d ++ a ++ 0#17)
  | .csplat d a => some (17#5 ++ d ++ a ++ 0#17)
  | .ccvt d a b m f => some (18#5 ++ d ++ a ++ b ++ 0#1 ++ m ++ f)
  | .cpair d a b m f => some (19#5 ++ d ++ a ++ b ++ m ++ 0#1 ++ f)
  | .cepop d a => some (20#5 ++ d ++ a ++ 0#17)
  | .ctsig a b => some (21#5 ++ 0#5 ++ a ++ b ++ 0#12)
  | .chalt => some (22#5 ++ 0#27)
  | .cfence => some (23#5 ++ 0#27)
  | _ => none

/-- The words of a well-formed instruction: its word and, where a source field is coded 245, its literal (09 R185). -/
def encode (i : Instr) : List Word :=
  match encodeWord i with
  | none => []
  | some w => if i.hasLiteral then [w, i.literal] else [w]

/-- A word of four bytes, little-endian (00 R7). -/
def wordOfBytes (b0 b1 b2 b3 : Byte) : Word := b3 ++ b2 ++ b1 ++ b0

/-- The bytes of a word, lowest address first (00 R7). -/
def bytesOfWord (w : Word) : List Byte :=
  [w.extractLsb' 0 8, w.extractLsb' 8 8, w.extractLsb' 16 8, w.extractLsb' 24 8]

/-- The Greoskane instruction that begins a list of bytes, and the bytes after it (09 R182, R185). -/
def decode : List Byte → Option (Instr × List Byte)
  | b0 :: b1 :: b2 :: b3 :: rest =>
    match decodeWord (wordOfBytes b0 b1 b2 b3) 0#32 with
    | none => none
    | some i =>
      if i.hasLiteral then
        match rest with
        | c0 :: c1 :: c2 :: c3 :: rest' =>
          (decodeWord (wordOfBytes b0 b1 b2 b3) (wordOfBytes c0 c1 c2 c3)).map fun j => (j, rest')
        | _ => none
      else some (i, rest)
  | _ => none

/-- The instruction read from an instruction of `nbits` bits whose bits are `w`, the word and then its literal, stored
little-endian; a Crucible word where the Greoskane map has none (the two maps share the word space, 14). Bits of `w`
above `nbits` do not count. -/
def decodeTableWord (nbits w : Nat) : Option Instr :=
  let v := w % 2 ^ nbits
  let word := BitVec.ofNat 32 v
  let lit := BitVec.ofNat 32 (v / 2 ^ 32)
  match decode (bytesOfWord word ++ bytesOfWord lit) with
  | some (i, _) => some i
  | none => decodeCrucible word

end Sys2Proof
end

