-- ==== Sys2Proof/Machine/State.lean ====
section
/-!
DEFINITION. Machine/State.lean: everything the spec gives the machine, as plain data, and State.reset. INVENTORY.md lists
each piece with the rule that names it and its reset value.
-/

namespace Sys2Proof.Machine

/-- A register word with its sidecar (06 R133, 22 R399): data, heat tag, poison bit, and whether its parity is wrong. -/
structure Reg where
  val    : Word := 0#32
  tag    : Tag := Config.noTag
  poison : Bool := false
  parity : Bool := false
  deriving DecidableEq, Repr

/-- A probability predicate (07 R148). -/
structure QReg where
  code   : BitVec 16 := 0#16
  srcs   : BitVec 8 := 0#8
  dep    : Bool := false
  poison : Bool := false
  tag    : Tag := Config.noTag
  deriving DecidableEq, Repr

/-- A rejoin link (02 R30): the weave and register of the level, its generation, and whether the level timed out. -/
structure Link where
  weave : Nat
  jreg  : Nat
  gen   : BitVec 8
  stale : Bool
  deriving DecidableEq, Repr

/-- What a fibre knows to have happened before (08 R161): for each fibre, how many of its regions. -/
abbrev Clock := SMap Nat

/-- Where a fibre stands (02 R33, R35, R41): running in its weave, parked at a level, waiting at BAR or RDV, or ready in
the recast pool, with its order of entry and the core cycles it has waited. -/
inductive FStatus where
  | run
  | parked (weave jreg : Nat)
  | bar
  | rdv
  | ready (seq age : Nat)
  deriving DecidableEq, Repr

/-- A fibre (02 R29, R30), its control registers (09 R196) and its region (08 R161, R166). `toks` names the registers that
hold a completed token, with what a read of one acquires (04 R99); `stack` and `ckpt` its places in its core's stack slot and
checkpoint slot (22 R394). -/
structure Fibre where
  pour    : Nat
  num     : Word
  rank    : Nat
  quad    : Nat
  lane    : Nat
  weave   : Option Nat
  status  : FStatus := .run
  pc      : Nat := 0
  pred    : BitVec 16 := 1#16
  q       : List QReg := List.replicate 8 {}
  win     : List Reg
  wbase   : Nat := 0
  crew    : Nat := 0
  link    : Option Link := none
  outer   : List (Option Link) := []
  fpmode  : Word := 0#32
  tagmode : BitVec 2 := 1#2
  qtemp   : Word := 0#32
  qmode   : BitVec 2 := 0#2
  lk      : Word := 0#32
  tinfo   : List Word := [0#32, 0#32, 0#32, 0#32, 0xFFF0FFF0#32, 0#32]
  foot    : List Nat := []
  region  : Nat := 1
  clock   : Clock := []
  saved   : Option (BitVec 2) := none
  stack   : Nat := 0
  ckpt    : Option Nat := none
  toks    : SMap Clock := []
  deriving DecidableEq, Repr

/-- A rejoin register (02 R45), the word at which its level resumes (R48) and what its arrivals release (08 R160). -/
structure JReg where
  expect  : BitVec 32 := 0#32
  arrived : BitVec 32 := 0#32
  state   : BitVec 2 := 0#2
  gen     : BitVec 8 := 0#8
  limit   : BitVec 16 := 0#16
  elapsed : Word := 0#32
  resume  : Nat := 0
  clock   : Clock := []
  deriving DecidableEq, Repr

/-- A guard window (02 R38): the lanes it excludes and the instructions left. -/
structure Guard where
  excl : BitVec 32
  left : Nat
  deriving DecidableEq, Repr

/-- A level in serial mode (02 R53): its register, its members and those arrived, the runner's lane, the word after the
JOIN of the first that arrived, and by fibre the depth at which it stands at the level. -/
structure Serial where
  jreg    : Nat
  members : BitVec 32
  arrived : BitVec 32 := 0#32
  runner  : Option Nat := none
  resume  : Option Nat := none
  depths  : SMap Nat := []
  clock   : Clock := []
  deriving DecidableEq, Repr

/-- An entry of the latch window (09 R188): the words of each lane; one of a variable-latency instruction can never be
read (R190). -/
structure Latch where
  words : SMap (List Reg)
  size  : Nat
  dead  : Bool := false
  deriving DecidableEq, Repr

/-- Why a weave or an engine waits (02 R35, R54; 12 R255). -/
inductive StallKind where
  | result | pbwait | epush | epop | wwait | fork | queue | shape | order | log | pair | matrix | meeting
  deriving DecidableEq, Repr

/-- A stall: its reason, the cycle it began, whether what it waits for had not come about when the weave was last looked at
(03 R72: a stall clears in a cycle), and the page fault that it waits for (22 R391). -/
structure Stall where
  kind   : StallKind
  since  : Nat
  holds  : Bool := true
  fault  : Option Nat := none
  deriving DecidableEq, Repr

/-- The two role-bound engines of a core (03 R79). -/
inductive EngKind where
  | ladle | runner
  deriving DecidableEq, Repr

/-- A weave (02 R33 to R35). Its fibres are those whose `weave` names it. `occ` is the occupancy that `member` was last set to
(R34); `susp` the guard window that the trap of each lane in the handler suspended (13 R299; in serial mode each runner has its own,
02 R53); `gone` the fibres that left it for the recast pool in the core cycle `goneAt` because others of it still waited (R33);
`forked` the engines that a `FORK` that waits for others has settled (03 R79); `owes` that it takes a checkpoint before its next
word (11 R248). -/
structure Weave where
  pour     : Nat
  core     : Nat
  quad     : Nat
  slot     : Option Nat
  idx      : Nat := 0
  member   : BitVec 32
  occ      : BitVec 32
  gone     : List Nat := []
  goneAt   : Nat := 0
  guard    : Option Guard := none
  susp     : SMap Guard := []
  hexcl    : BitVec 32 := 0#32
  j        : List JReg := List.replicate 8 {}
  serial   : List Serial := []
  latches  : List Latch := []
  readyAt  : Nat := 0
  stall    : Option Stall := none
  yielded  : Bool := true
  forked   : List EngKind := []
  owes     : Bool := false
  deriving DecidableEq, Repr

/-- The fields of a kernel header (20 R347). -/
structure Header where
  tier   : Bool := false
  regs   : Nat := 64
  span   : Nat := 0
  rejoin : Nat := 8
  scratch : Nat := 0
  stack  : Nat := 0
  nwords : Nat := 0
  hent   : Option Nat := none
  lent   : Option Nat := none
  rent   : Option Nat := none
  base   : Nat := 0
  deriving DecidableEq, Repr

/-- The stop that a pour comes to (23 R410, R412): its reason, whether it ends a step, the code of a `BKPT`, the word and
rank that it names, and whether a STOP of the debugger waits for it (R413). -/
structure StopRec where
  why  : Nat
  cmd  : Bool := false
  step : Bool := false
  code : Nat := 0
  at_  : Option (Nat × Nat) := none
  deriving DecidableEq, Repr

/-- What a pour has to do with kernel debug (23 R409 to R411): it runs; it comes to a stop; it has stood since a cycle; it
makes a step. -/
inductive DbgMode where
  | free
  | stopping (r : StopRec)
  | stopped (since : Nat)
  | stepping (limit elapsed : Nat)
  deriving DecidableEq, Repr

/-- A pour (03 R65, R68). `shapes` holds sh0 to sh15 (04 R102); `shapesOld` the core cycle of the last writes to them, and what
they held before those (12 R278). -/
structure Pour where
  part    : Nat
  core    : Nat
  slot    : Nat
  task    : Nat
  idx     : Nat
  first   : Word
  hdr     : Header
  code    : BitVec 64
  scratch : Nat
  shapes  : List (BitVec 768) := List.replicate 16 0#768
  shapesOld : Option (Nat × List (BitVec 768)) := none
  late    : Word := 0#32
  pair    : Option Nat := none
  dbg     : DbgMode := .free
  assay   : Bool := false
  deriving DecidableEq, Repr

/-- The latched weight tile (13 R283): format, width, bytes of the bit-plane tile, row tags, poison of its words, and
scales (127 where the tile has none). -/
structure WTile where
  fmt    : Nat
  n      : Nat
  bytes  : SMap Byte
  tags   : List Tag
  poison : SMap Bool
  sv     : Bool
  scales : SMap Byte
  deriving DecidableEq, Repr

/-- An engine program (03 R79, R80; 11 R224; 22 R396). `toks` names the registers that hold a completed token, with what a read
of one acquires (04 R99); `failed`, by the barrier word of an error completion, `here` of the `MMUL` that it ended (06 R142, 13
R287). -/
structure Engine where
  core    : Nat
  kind    : EngKind
  pour    : Nat
  running : Bool := true
  k       : List Reg := List.replicate 64 {}
  pred    : BitVec 16 := 1#16
  lk      : Word := 0#32
  pc      : Nat := 0
  tagmode : BitVec 2 := 1#2
  wtile   : Option WTile := none
  atRdv   : Bool := false
  toks    : SMap Clock := []
  failed  : SMap Tag := []
  stall   : Option Stall := none
  status  : Word := 0#32
  clock   : Clock := []
  region  : Nat := 1
  uid     : Nat := 0
  deriving DecidableEq, Repr

/-- A 64-bit scalar of a Crucible with its poison bit (14 R305). -/
structure CReg where
  val    : BitVec 64 := 0#64
  poison : Bool := false
  deriving DecidableEq, Repr

/-- An FP32 element of a row register with its poison bit (14 R305). -/
structure YElem where
  val    : Word := 0#32
  poison : Bool := false
  deriving DecidableEq, Repr

/-- A Crucible instance on a channel (14 R305). `y` lists the elements that differ from +0 without poison, element `i` of
y`n` at `64 * n + i`; `prog` counts the pieces of a `CPAIR` that it has written (R313). -/
structure Crucible where
  chan   : Nat
  part   : Nat
  task   : Nat
  inst   : Nat
  pc     : Nat := 0
  c      : List CReg := List.replicate 32 {}
  y      : SMap YElem := []
  hdr    : Header
  code   : BitVec 64
  stall  : Option Stall := none
  prog   : Nat := 0
  uid    : Nat := 0
  clock  : Clock := []
  region : Nat := 1
  deriving DecidableEq, Repr

/-- An accumulator tile (13 R279): the elements that differ from `dflt`, element (row, column) at `128 * row + column`;
the sticky saturation flag; the owner, a partition and a context number. -/
structure AccTile where
  dflt   : Reg := {}
  cells  : SMap Reg := []
  sticky : Bool := false
  owner  : Option (Nat × Nat) := none
  deriving DecidableEq, Repr

/-- The matrix instructions that the Ladle issues and the matrix path performs (13 R280). -/
inductive MatKind where
  | mldw | mmul | mdrain
  deriving DecidableEq, Repr

/-- A matrix instruction in flight (13 R280): its captured operands, the tag `here` of its word and what is left of it. -/
structure MatOp where
  kind  : MatKind
  pour  : Nat
  eng   : Nat
  tile  : Nat
  regs  : List Word
  desc  : Word
  here  : Tag
  mode  : BitVec 2
  pc    : Nat
  block : List Byte := []
  blkAt : BitVec 64 := 0#64
  chunk : Nat := 0
  wait  : Option Nat := none
  twin  : Bool := false
  deriving DecidableEq, Repr

/-- Who a result goes to: registers of fibres, each with its own words; a register of an engine. -/
inductive Dest where
  | fibres (d : Nat) (lanes : SMap (List Reg))
  | engine (eng d : Nat) (words : List Reg)
  deriving DecidableEq, Repr

/-- Which step delivers a pending result. -/
inductive PendKind where
  | load | atomic | token | drain
  deriving DecidableEq, Repr

/-- A pending register write (20 R353): the word offset that issued it, and what its arrival acquires. Not `ready` while
the operation has yet to make the result. `drop` names the registers, by fibre or engine, whose part of it a debugger has
discarded (23 R415). -/
structure Pending where
  id    : Nat
  kind  : PendKind
  dest  : Dest
  pour  : Nat
  pc    : Nat
  acq   : Option Clock := none
  ready : Bool := true
  drop  : List (Nat × Nat) := []
  deriving DecidableEq, Repr

/-- The copy instructions (12 R265). -/
inductive CmdKind where
  | rcopy | rpat | put
  deriving DecidableEq, Repr

/-- Where a command of the Runner stands (04 R100): in its entry; in a running slot at its checks; at its walk; sent; in a pair,
waiting for the other member's. -/
inductive CmdState where
  | queued
  | starting
  | running
  | sent
  | twin
  deriving DecidableEq, Repr

/-- A copy command (04 R98, R100, 12 R265): its issuer's pending token, its block's address, the tag of its site, and,
once started, its block with its program's words and the shape registers it snapped; in a pair, how many commands its
issuer had issued, and the other member's command (22 R435); the peer window of a put. `eng` says which engine issued it. -/
structure Cmd where
  id     : Nat
  core   : Nat
  pour   : Nat
  kind   : CmdKind
  addr   : BitVec 64
  here   : Tag
  pc     : Nat
  rank   : Nat
  pend   : Option Nat
  state  : CmdState := .queued
  block  : List Byte := []
  shapes : List (BitVec 768) := []
  wait   : Option Nat := none
  clock  : Clock := []
  nth    : Nat := 0
  counted : Nat := 0
  owner  : Pour
  rtag   : BitVec 16 := 0#16
  eng    : Option EngKind := none
  remote : Option (Nat × Nat) := none
  mate   : Option Nat := none
  deriving DecidableEq, Repr

/-- The atomics (12 R262). -/
inductive AtomKind where
  | add | maxs | maxz | exch | cas
  deriving DecidableEq, Repr

/-- What an access does once its operands are captured (12 R253 to R263, 20 R355). -/
inductive MemKind where
  | load (bytes words : Nat) (signed : Bool)
  | store (bytes : Nat)
  | stp
  | atomic (f : AtomKind) (dev : Bool)
  | gld
  | gst
  | shld (n : Nat)
  | shst (bytes : Nat)
  | epush
  | epop
  | tspawn
  | rnext
  | tsig
  deriving DecidableEq, Repr

/-- Whether a kind of access only stores. -/
def MemKind.isStore : MemKind → Bool
  | .store _ | .stp | .gst | .shst _ => true
  | _ => false

/-- One lane of an access: its fibre, its address (and the second of STP), its data words and its compare word; the operand words
that its issue captured (20 R355). -/
structure LaneAcc where
  fibre : Nat
  lane  : Nat
  addr  : BitVec 64
  addr2 : BitVec 64 := 0#64
  data  : List Reg := []
  cmp   : Reg := {}
  words : List Reg := []
  deriving DecidableEq, Repr

/-- A captured access: everything that its performance needs (20 R355); where it synchronizes and is held, what it releases (08
R160): its issue has ended the regions of its fibres (log 83). -/
structure MemOp where
  kind  : MemKind
  rlx   : Bool
  weave : Nat
  pour  : Nat
  pc    : Nat
  here  : Tag
  dest  : Nat
  lanes : List LaneAcc
  word  : Word
  acts  : List Nat := []
  clock : Option Clock := none
  deriving DecidableEq, Repr

/-- An access held by a not-present page (12 R255): the fault it waits for, 0 where it is to be tried at its place in the next
cycle (22 R392, 03 R74, 04 R94); its
operand tags by lane; whether it is a group word's; of an operation that a pair performs once, the other member's operation and
its pending result (22 R402). -/
structure Held where
  id    : Nat
  op    : MemOp
  pend  : Option Nat
  fault : Nat
  tags  : SMap Word := []
  group : Bool := false
  mate  : Option (MemOp × Option Nat) := none
  deriving DecidableEq, Repr

/-- The fibres whose access it is: those of the word's active lanes, in both members of a pair. -/
def Held.fibres (h : Held) : List Nat := h.op.acts ++ (match h.mate with | some m => m.1.acts | none => [])

/-- Names of the objects through which operations synchronize (08 R160, R171). -/
inductive SyncKey where
  | atomic (loc : Nat) (pour : Option Nat)
  | fence (pour : Option Nat)
  | bar (pour crew : Nat)
  | rdv (pour : Nat)
  | phase (loc : Nat)
  | phaseDone (loc : Nat)
  | edge (loc seq : Nat)
  | task (handle : Nat)
  | window (part win : Nat)
  | cmd (id : Nat)
  deriving DecidableEq, Repr

/-- A performed checked access, as later ones meet it (08 R162 to R164). -/
structure Access where
  fibre  : Nat
  pour   : Nat
  task   : Nat
  ctx    : Nat
  rank   : Nat
  pbits  : BitVec 4
  site   : BitVec 12
  region : Nat
  wrote  : Bool
  atom   : Option Bool
  lo     : Nat
  len    : Nat
  deriving DecidableEq, Repr

/-- A leading store of a redundant pair that its twin has not matched (22 R402). -/
structure PairStore where
  rank  : Nat
  addr  : BitVec 64
  bytes : Nat
  data  : List Reg
  op    : MemOp
  deriving DecidableEq, Repr

/-- An operation of one member that waits for the other's (22 R402). -/
structure PairHeld where
  lead : Bool
  rank : Nat
  op   : MemOp
  deriving DecidableEq, Repr

/-- What a trap tells each lane (13 R300, 06 R147): its cause, the lanes that met it, the word, and by lane the address
or detail, the operand tags and the other access. -/
structure TrapInfo where
  cause : Nat
  mask  : BitVec 32
  pc    : Nat
  addrs : SMap (BitVec 64) := []
  tags  : SMap Word := []
  other : SMap Word := []
  deriving DecidableEq, Repr

/-- A trap, or a consumption of poison (cause 32), of one member that waits for the other's (22 R403). -/
structure PairTrap where
  lead  : Bool
  rank  : Nat
  weave : Nat
  info  : TrapInfo
  deriving DecidableEq, Repr

/-- A weave's checkpoint (11 R248): the weave and its fibres. -/
structure Ckpt where
  weave  : Weave
  fibres : SMap Fibre
  deriving DecidableEq, Repr

/-- A command of one member that ended at its checks before the other member's had started (22 R435): whose, which, and
its code. -/
structure PairFail where
  lead : Bool
  who  : Nat
  nth  : Nat
  code : Nat
  deriving DecidableEq, Repr

/-- An operation of one member's engine that waits for the other's (22 R402): the word and the words
it was given, or the cause of its trap. -/
structure PairEng where
  lead : Bool
  kind : EngKind
  pc   : Nat
  data : List Word
  trap : Option Nat := none
  deriving DecidableEq, Repr

/-- A redundant pair (22 R402 to R404). Checkpoints are kept by weave. `issued` counts the commands of each issuer of each
member; `spawns` holds the fibre numbers that one member has drawn and the other has not yet; `ends` the ranks that one member
has brought to their end. -/
structure Pair where
  lead   : Nat
  trail  : Nat
  stores : List PairStore := []
  held   : List PairHeld := []
  traps  : List PairTrap := []
  ckpt   : SMap Ckpt := []
  misses : SMap Nat := []
  spawns : List (Bool × Nat × Word) := []
  fails  : List PairFail := []
  issued : SMap Nat := []
  ends   : List (Bool × Nat) := []
  engs   : List PairEng := []
  deriving DecidableEq, Repr

/-- A task record (03 R56) in a queue, and how far its placement and its pours have come. `rid` and `heir` are its range and its
successor, each with its valid bit. `adrift` where its queue has been enabled anew since (21 R364): it holds no slot. -/
structure Task where
  part    : Nat
  queue   : Nat
  slot    : Nat
  gen     : Nat
  code    : BitVec 64
  frame   : BitVec 64
  join    : Word
  nfib    : Word
  psize   : Nat
  prio    : Nat
  tier    : Bool
  rpair   : Bool
  assay   : Bool
  rtag    : BitVec 16
  rid     : BitVec 6
  rvalid  : Bool
  heir    : Word
  svalid  : Bool
  status  : BitVec 64
  sw      : BitVec 128 := 0#128
  ready   : Option Nat := none
  placed  : Nat := 0
  live    : Nat := 0
  next    : Nat := 0
  hdr     : Option Header := none
  bound   : Bool := false
  clock   : Clock := []
  suspended : Bool := false
  adrift  : Bool := false
  ending  : Option Nat := none
  unwritten : Bool := false
  deriving DecidableEq, Repr

/-- A sampled memory instruction that has not completed (23 R417, R418). -/
structure ProfReq where
  pc   : Nat
  kind : Nat
  rtag : BitVec 16
  code : BitVec 64
  deriving DecidableEq, Repr

/-- A core: its counts, its accumulators, its matrix instruction in flight and its mirror (09 R196, 13 R279, R303); the
memory instructions counted for profiling and those sampled (23 R417). -/
structure CoreSt where
  cycOff   : Word := 0#32
  ufz      : Word := 0#32
  lossy    : Word := 0#32
  corrected : Word := 0#32
  uncorr   : Word := 0#32
  parity   : Word := 0#32
  mirror   : Bool := false
  copying  : Bool := false
  fixed    : Word := 0#32
  tiles    : SMap AccTile := []
  mat      : Option MatOp := none
  mems     : Nat := 0
  profs    : List ProfReq := []
  turn     : List (Option Nat) := List.replicate 4 none
  lstatus  : Word := 0#32
  rstatus  : Word := 0#32
  cstatus  : Word := 0#32
  deriving DecidableEq, Repr

/-- A task queue (03 R58, 21 R363 to R365): its registers, the slots' generations and the next slot of its search; the
append buffers of the VF and of the PF. -/
structure Queue where
  base  : BitVec 64 := 0#64
  lcap  : Nat := 8
  en    : Bool := false
  gens  : SMap Nat := []
  next  : Nat := 0
  bufVf : SMap Byte := []
  bufPf : SMap Byte := []
  lastVf : Word := 0#32
  lastPf : Word := 0#32
  rej   : Word := 0#32
  deriving DecidableEq, Repr

/-- A range unit (03 R77, R78). -/
structure Range where
  task  : Option Nat := none
  start : Word := 0#32
  total : Word := 0#32
  minc  : Word := 0#32
  left  : Word := 0#32
  pours : Nat := 0
  deriving DecidableEq, Repr

/-- A leaf, as the walk returns it and the partition caches it (22 R385 to R389). -/
structure Leaf where
  level  : Nat
  w      : Bool
  x      : Bool
  key    : BitVec 6
  tagged : Bool
  opt    : Bool
  ws     : Bool
  cache  : BitVec 2
  frame  : Nat
  target : BitVec 2
  deriving DecidableEq, Repr

/-- The parties that a fault-queue entry names (22 R391). -/
inductive FaultSrc where
  | fibre | code | copy | mmul | mdrain | engine | crucible | put
  deriving DecidableEq, Repr

/-- A not-present page that the driver has not answered (22 R391). `entered` once its entry is in the ring; `also` holds
the tags of the tasks that wait for the same answer. -/
structure PageFault where
  id      : Nat
  va      : BitVec 64
  src     : FaultSrc
  wr      : Bool
  core    : Nat
  rtag    : BitVec 16
  seq     : Word := 0#32
  entered : Bool := false
  also    : List (BitVec 16) := []
  walk    : Bool := false
  deriving DecidableEq, Repr

/-- A receive window and its counter (22 R390, 08 R174). -/
structure Window where
  w     : Bool
  base  : BitVec 64
  len   : Nat
  count : Word := 0#32
  deriving DecidableEq, Repr

/-- A ring in device memory with its registers (22 R391, 23 R416, R417). -/
structure Ring where
  base : BitVec 64 := 0#64
  cfg  : Word := 0#32
  head : Word := 0#32
  tail : Word := 0#32
  drop : Word := 0#32
  deriving DecidableEq, Repr

/-- States of a partition's context (22 R393). -/
inductive CtxState where
  | idle | running | saving | saved | restoring
  deriving DecidableEq, Repr

/-- The fields of the context descriptor (22 R393). -/
structure CtxDesc where
  root    : BitVec 64 := 0#64
  tkey    : BitVec 6 := 0#6
  save    : BitVec 64 := 0#64
  back    : BitVec 64 := 0#64
  stack   : BitVec 64 := 0#64
  ckpt    : BitVec 64 := 0#64
  stklen  : Nat := 0
  ckptlen : Nat := 0
  deriving DecidableEq, Repr

/-- The image of a suspended context (22 R395, R396): its parties, taken off their cores, and what they wait for; the
contents of their scratchpads; the place tables under which they ran (20 R359); the fault answers and purges that have come
since. -/
structure Saved where
  ctxNum  : Nat := 0
  tkey    : BitVec 6 := 0#6
  coreTab : List Nat := []
  chanTab : List Nat := []
  tasks   : List Nat := []
  pours   : SMap Pour := []
  weaves  : SMap Weave := []
  fibres  : SMap Fibre := []
  engines : SMap Engine := []
  crucibles : SMap Crucible := []
  mats    : SMap MatOp := []
  held    : List Held := []
  pend    : List Pending := []
  cmds    : List Cmd := []
  pairs   : SMap Pair := []
  faults  : List PageFault := []
  sync    : List (SyncKey × Clock) := []
  scratch : SMap Byte := []
  stags   : SMap Tag := []
  spoison : SMap Bool := []
  sflips  : SMap (BitVec 64) := []
  purges  : List (BitVec 16) := []
  answers : List (Nat × Bool) := []
  deriving DecidableEq, Repr

/-- A place in an Assay log that something under way will fill, by its name: the words of a fibre in a result, or how far a held store
has been performed (log 33). -/
structure LogSlot where
  id    : Nat
  fibre : Nat
  off   : Nat
  deriving DecidableEq, Repr

/-- The sample that a partition holds (24 R419 to R424), with its record and its kernel's header: `logged` the bytes of its log,
`slots` the places in it that what is under way will fill; `counts` the words of its kernel that each of its weaves has
executed to their end (log 33); `replay` the core and the pour of its replay. -/
structure Sample where
  pour   : Nat
  task   : Nat
  core   : Nat
  rtag   : BitVec 16
  handle : Word
  idx    : Nat
  sig    : BitVec 64 := 0#64
  ended  : Bool := false
  waited : Nat := 0
  logged : Nat := 0
  slots  : List LogSlot := []
  counts : SMap Nat := []
  replay : Option (Nat × Nat) := none
  record : Task
  hdr    : Header
  deriving DecidableEq, Repr

/-- An accumulator tile that firmware has spilled (13 R295, 22 R397): its owner's context, the address of that context's save
area, and the tile by the logical number of its core. -/
structure Spill where
  ctxNum : Nat
  save   : Nat
  slot   : Nat
  tile   : Nat
  deriving DecidableEq, Repr

/-- The record whose pour a dispatch has chosen and not placed, and whether it has found no core since a pour last ended (03
R68). -/
structure Choice where
  task    : Nat
  blocked : Bool
  deriving DecidableEq, Repr

/-- The tables of a partition that a hypervisor fills (20 R359). -/
inductive PlaceTab where
  | range | core | chan
  deriving DecidableEq, Repr

/-- A partition: its queues, ages and range units (03), weight-store copy with the source, destination and
length of the one under way (21 R367), translation and context (22), fault
queue, windows with the puts that wait for a page by the fault they wait for, purge registers, debug and profiling (23), and Assay
Unit (24). `saved` holds the images of suspended contexts by the address of their save area, `spilled` names the accumulator
slots in use (22 R397). -/
structure Part where
  queues  : List Queue := List.replicate 4 {}
  ages    : List Nat := [0, 0, 0]
  stray   : Word := 0#32
  cwfail  : Word := 0#32
  ranges  : SMap Range := []
  wssrc   : BitVec 64 := 0#64
  wsdst   : Word := 0#32
  wslen   : Word := 0#32
  wsst    : Nat := 0
  wsjob   : Nat × Nat × Nat := (0, 0, 0)
  ctxd    : BitVec 64 := 0#64
  ctx     : CtxState := .idle
  ctxNum  : Nat := 0
  desc    : CtxDesc := {}
  saved   : SMap Saved := []
  invva   : BitVec 64 := 0#64
  inv     : Option (Nat × Nat) := none
  tlb     : List (Nat × Leaf) := []
  fq      : Ring := {}
  fqseq   : Word := 0#32
  faults  : List PageFault := []
  wins    : SMap Window := []
  landing : List (Nat × FabricPut) := []
  senders : SMap Word := []
  plast   : Word := 0#32
  pcount  : Word := 0#32
  kdbgctl : Word := 0#32
  active  : Bool := false
  tren    : Bool := false
  bpen    : BitVec 4 := 0#4
  bps     : List Word := List.replicate 4 0#32
  dbgcmd  : BitVec 256 := 0#256
  dbgres  : BitVec 128 := 0#128
  trace   : Ring := {}
  prof    : Ring := {}
  asycfg  : Word := 6#32
  asylog  : BitVec 64 := 0#64
  asylen  : Word := 0#32
  asysamp : Word := 0#32
  asyaban : Word := 0#32
  asysus  : Word := 0#32
  asycnt  : Nat := 0
  sample  : Option Sample := none
  mism    : Word := 0#32
  roll    : Word := 0#32
  unrec   : Word := 0#32
  rangeTab : List Nat := List.range 64
  coreTab  : List Nat := List.range 12
  chanTab  : List Nat := List.range 12
  placeAt : Nat := 0
  choice  : Option Choice := none
  spilled : List Spill := []
  deriving DecidableEq, Repr

/-- A control unit (21 R371 to R373): 0 NORMAL, 1 RESYNC, 2 DEGRADED; the copy, and what remains of resync and of
probation; the dissent counts. -/
structure CtlUnit where
  state   : BitVec 2 := 0#2
  who     : BitVec 2 := 0#2
  counts  : List (BitVec 16) := [0#16, 0#16, 0#16]
  resync  : Nat := 0
  probing : Bool := false
  deriving DecidableEq, Repr

/-- A firmware slot (21 R376, R378). -/
structure FwSlot where
  version  : Word := 0#32
  rollback : Word := 0#32
  valid    : Bool := true
  body     : List Byte := []
  sig      : List Byte := []
  deriving DecidableEq, Repr

/-- Messages that leave on the fabric (12 R275, 22 R401, 04 R96). -/
inductive FabricMsg where
  | put (cmd dev win off : Nat) (p : FabricPut)
  | store (dev : Nat) (p : FabricPut)
  | purge (port : Nat) (rtag : BitVec 16)
  | ack (part win : Nat)
  | putFailed (part win : Nat)
  | readData (len : Nat) (flits : List Byte)
  | readFailed (part win : Nat)
  deriving DecidableEq, Repr

/-- What a host read or a management request last returned. -/
structure Answer where
  data : List Byte := []
  code : Nat := 0
  deriving DecidableEq, Repr

/-- The device: the physical function's registers (21 R368, 22 R388, R405, 24 R423, R425), the voted control plane, the
starts and the management core (21), and what has left the device. `nextSlot` is the slot that an activation has named for the
next start, `pickSlot` the one that the start under way takes (21 R376), `training` the results of DRAM training (R382). -/
structure Dev where
  bind     : List Word := List.replicate 24 0#32
  ports    : List Word := List.replicate 24 0#32
  esc      : List (BitVec 128) := []
  escLost  : Word := 0#32
  escDrop  : Bool := false
  jumps    : Word := 0#32
  sus      : List (BitVec 256) := []
  susLost  : Word := 0#32
  susDrop  : Bool := false
  keys     : SMap (BitVec 6) := []
  units    : List CtlUnit := List.replicate 18 {}
  ctlKind  : Bool := false
  startst  : Word := 0#32
  starting : Option (Bool × Nat) := none
  queued   : List (Bool × Nat) := []
  forced   : Bool := false
  dead     : Bool := false
  slots    : List FwSlot := [{}, {}]
  active   : Nat := 0
  nextSlot : Option Nat := none
  pickSlot : Option Nat := none
  training : Word := 0#32
  rollback : Word := 0#32
  nonce    : Option (BitVec 256) := none
  unlocked : Bool := false
  failures : Nat := 0
  fwHalted : List Nat := []
  therm    : Bool := false
  readings : Readings := ⟨0, [], 0, 0⟩
  throttle : Nat := 0
  injsel   : BitVec 64 := 0#64
  injaddr  : BitVec 64 := 0#64
  injarm   : Bool := false
  injfired : Word := 0#32
  ras      : List Word := List.replicate 8 0#32
  msix     : List (Nat × Nat) := []
  readout  : Answer := {}
  fabric   : List FabricMsg := []
  measures : List (List Byte) := []
  deriving DecidableEq, Repr

/-- Memory (04 R83 to R94, 22 R386, R398): one map of bytes, with tags by granule, poison by 8-byte granule, bit
errors by granule, and the granules whose tag has an uncorrectable error (06 R134). Machine/Mem.lean gives the keys. -/
structure Memory where
  bytes  : SMap Byte := []
  tags   : SMap Tag := []
  poison : SMap Bool := []
  flips  : SMap (BitVec 64) := []
  badTag : SMap Bool := []
  deriving DecidableEq, Repr

/-- Whose instruction is executed: a weave's, an engine's, a Crucible's, the firmware's on a core, or none. -/
inductive Party where
  | none
  | weave (w : Nat)
  | engine (e : Nat)
  | crucible (c : Nat)
  | firmware (core part : Nat)
  deriving DecidableEq, Repr

/-- Where an error of the memories' code comes about (22 R398, 24 R425): bits of a granule in memory; a granule as L2, or a core's L1,
holds it; a granule of an accumulator tile, by its first element. -/
inductive EccAt where
  | mem (key : Nat) (flips : BitVec 64)
  | l2 (key : Nat)
  | l1 (core key : Nat)
  | acc (core tile el : Nat)
  deriving DecidableEq, Repr

/-- What happens next where the spec leaves it open, and what the environment does (log 2): a party's turn, a word that
firmware executes on a core's Ladle for a partition (13 R294), a step of the machine or its environment, bytes that the host
writes to memory from outside (log 1), an entry of a place table that the hypervisor writes (20 R359), an uncorrectable error in
the tag of a granule (06 R134), an error in a granule of a memory (22 R398), one that the code cannot correct or that it can, or a
core cycle passing. -/
inductive Turn where
  | run (p : Party)
  | firmware (core part : Nat) (w : Word)
  | event (i : Instr)
  | load (key : Nat) (bytes : List Byte)
  | place (part : Nat) (t : PlaceTab) (i v : Nat)
  | tagError (key : Nat)
  | eccError (e : EccAt) (hard : Bool)
  | cycle
  deriving DecidableEq, Repr

/-- The state of the machine. `agenda`, `turn`, `clk`, `nextId` and `free` are the model's own (log 2, log 10), and
so is `beat`: how far the order of the parties within the present core cycle has come (08 R165, 03 R74, 04 R108). -/
structure State where
  mem       : Memory
  fibres    : SMap Fibre
  weaves    : SMap Weave
  pours     : SMap Pour
  engines   : SMap Engine
  crucibles : SMap Crucible
  tasks     : SMap Task
  cores     : SMap CoreSt
  parts     : SMap Part
  pend      : List Pending
  held      : List Held
  cmds      : List Cmd
  pairs     : SMap Pair
  sync      : List (SyncKey × Clock)
  hist      : List Access
  dev       : Dev
  clk       : Nat
  nextId    : Nat
  free      : Nat
  turn      : Party
  beat      : Nat
  agenda    : List Turn
  deriving DecidableEq, Repr

/-- Why the machine stops. -/
inductive Fault where
  /-- Raised by `MSPILL` and `MFILL` in firmware at an image outside the DRAM of 22 R386: the spec gives no such memory. Safe:
  the machine stops. -/
  | noMemory (pa : Nat)
  /-- Raised by `MSPILL` and `MFILL` in firmware at an address that is not 64-byte aligned, for which 13 R294 names no
  fate. Safe: the machine stops. -/
  | badImage (pa : Nat)
  deriving DecidableEq, Repr

/-- Why the model has no meaning. -/
inductive Refusal where
  /-- Raised by `exec` for an instruction that has no meaning yet. Safe: nothing is claimed of it. -/
  | notModelled (mnemonic : String)
  deriving DecidableEq, Repr

/-- The machine right after power on (21 R379, R380; log 1, log 10): the cold start has begun, nothing is placed, no
context runs, and memory lists nothing. -/
def State.reset : State where
  mem := {}
  fibres := []
  weaves := []
  pours := []
  engines := []
  crucibles := []
  tasks := []
  cores := []
  parts := []
  pend := []
  held := []
  cmds := []
  pairs := []
  sync := []
  hist := []
  dev := { starting := some (true, 0) }
  clk := 0
  nextId := 1
  free := 0
  turn := .none
  beat := 0
  agenda := []

end Sys2Proof.Machine
end

