-- ==== Sys2Proof/Machine/Mem.lean ====
section
/-!
DEFINITION. Machine/Mem.lean: the keys of memory and its plain operations: bytes, tags, poison and the SEC-DED code of 22
R398. One map holds DRAM, the weight store, the scratchpads and host memory (log 5).
-/

namespace Sys2Proof.Machine

/-- Key of a DRAM physical address (22 R386). -/
def dramKey (pa : Nat) : Nat := pa

/-- Key of a weight-store address: partition in bits 31:27, offset in bits 26:0 (22 R386). -/
def wsKey (a : Nat) : Nat := 2 ^ 40 + a

/-- Key of a byte of a core's scratchpad (04 R85). -/
def scratchKey (core off : Nat) : Nat := 2 ^ 41 + core * 2 ^ 20 + off

/-- Key of a byte of host memory (04 R92). -/
def hostKey (iova : Nat) : Nat := 2 ^ 64 + iova

/-- Bytes of device DRAM: 288 channels of 2 GiB (00 R2). -/
def dramBytes : Nat := 288 * 2 ^ 31

/-- The kinds of memory a key lies in. -/
inductive MemSort where
  | dram | ws | scratch (core : Nat) | host
  deriving DecidableEq, Repr

/-- The memory that a key lies in. -/
def sortOfKey (k : Nat) : MemSort :=
  if k < 2 ^ 40 then .dram
  else if k < 2 ^ 41 then .ws
  else if k < 2 ^ 64 then .scratch ((k - 2 ^ 41) / 2 ^ 20)
  else .host

/-- The first byte of the 8-byte granule of a key (22 R398). -/
def granOf (k : Nat) : Nat := k - k % 8

/-- The key under which a byte's tag is held: its word in scratchpad, its 8-byte granule elsewhere (06 R134). -/
def tagKey (k : Nat) : Nat :=
  match sortOfKey k with
  | .scratch _ => k - k % 4
  | _ => k - k % 8

/-- A byte as it was written; an address that nothing has written reads zero (log 4). -/
def Memory.byte (m : Memory) (k : Nat) : Byte := SMap.getD m.bytes k 0#8

/-- Write one byte. -/
def Memory.setByte (m : Memory) (k : Nat) (b : Byte) : Memory :=
  { m with bytes := SMap.putD 0#8 m.bytes k b }

/-- `n` bytes from a key, lowest address first. -/
def Memory.rawBytes (m : Memory) (k : Nat) : Nat → List Byte
  | 0 => []
  | n + 1 => m.byte k :: Memory.rawBytes m (k + 1) n

/-- Write bytes from a key upward. -/
def Memory.setBytes (m : Memory) (k : Nat) : List Byte → Memory
  | [] => m
  | b :: bs => Memory.setBytes (m.setByte k b) (k + 1) bs

/-- Whether the tag of a byte's granule has an uncorrectable error (06 R134). -/
def Memory.tagBad (m : Memory) (k : Nat) : Bool := SMap.getD m.badTag (tagKey k) false

/-- The tag held for a byte (06 R134): one with an uncorrectable error reads as 0xFFF0. -/
def Memory.tag (m : Memory) (k : Nat) : Tag := if m.tagBad k then Config.noTag else SMap.getD m.tags (tagKey k) Config.noTag

/-- An uncorrectable error in the tag of a byte's granule (06 R134): only DRAM and the weight store have the
carve-out. -/
def Memory.spoilTag (m : Memory) (k : Nat) : Memory :=
  match sortOfKey k with
  | .dram | .ws => { m with badTag := SMap.putD false m.badTag (tagKey k) true }
  | _ => m

/-- Write the tag of a byte's granule, without its error. -/
def Memory.setTag (m : Memory) (k : Nat) (t : Tag) : Memory :=
  { m with tags := SMap.putD Config.noTag m.tags (tagKey k) t, badTag := SMap.putD false m.badTag (tagKey k) false }

/-- Write the error bits of a byte's granule. -/
def Memory.setFlips (m : Memory) (k : Nat) (f : BitVec 64) : Memory :=
  { m with flips := SMap.putD 0#64 m.flips (granOf k) f }

/-- The number of set bits of a natural, over its low `n` bits. -/
def popNat : Nat → Nat → Nat
  | 0, _ => 0
  | n + 1, x => x % 2 + popNat n (x / 2)

/-- The columns of the data bits (22 R398): the 56 bytes of weight 3 in ascending order, then the first eight of
weight 5. -/
def eccCols : List Nat :=
  ((List.range 256).filter fun x => popNat 8 x = 3) ++ [0x1F, 0x2F, 0x37, 0x3B, 0x3D, 0x3E, 0x4F, 0x57]

/-- The check byte of a granule's data: the XOR of the columns of its set bits (22 R398). -/
def eccCheck (d : BitVec 64) : Nat :=
  (List.range 64).foldl (fun acc i => if d.getLsbD i then acc ^^^ (eccCols.getD i 0) else acc) 0

/-- Verdicts on a granule read (22 R398). -/
inductive Verdict where
  | clean | corrected | poisoned | uncorrectable
  deriving DecidableEq, Repr

/-- The verdict of a syndrome, and the data bit that a correction inverts. -/
def verdictOf (s : Nat) : Verdict × Option Nat :=
  if s = 0 then (.clean, none)
  else if s = 0x7F then (.poisoned, none)
  else
    match eccCols.idxOf? s with
    | some i => (.corrected, some i)
    | none => if (List.range 8).any (fun j => s = 2 ^ j) then (.corrected, none) else (.uncorrectable, none)

/-- The syndrome of a stored granule: its error bits, and the mark 0x7F of a poisoned one. -/
def Memory.syndrome (m : Memory) (k : Nat) : Nat :=
  eccCheck (SMap.getD m.flips (granOf k) 0#64) ^^^ (if SMap.getD m.poison (granOf k) false then 0x7F else 0)

/-- The error bits left in the data that a read returns. -/
def Memory.residual (m : Memory) (k : Nat) : BitVec 64 :=
  let f := SMap.getD m.flips (granOf k) 0#64
  match verdictOf (m.syndrome k) with
  | (.corrected, some i) => f ^^^ (1#64 <<< i)
  | _ => f

/-- Whether a read of a byte's granule returns it poisoned (22 R398). -/
def Memory.isPoison (m : Memory) (k : Nat) : Bool :=
  match SMap.get? m.flips (granOf k) with
  | none => SMap.getD m.poison (granOf k) false
  | some _ =>
    match (verdictOf (m.syndrome k)).1 with
    | .poisoned | .uncorrectable => true
    | _ => false

/-- The byte a read returns: corrected where the code corrects it. -/
def Memory.read1 (m : Memory) (k : Nat) : Byte :=
  match SMap.get? m.flips (granOf k) with
  | none => m.byte k
  | some _ => m.byte k ^^^ ((m.residual k).extractLsb' (8 * (k % 8)) 8)

/-- `n` bytes as a read returns them. -/
def Memory.readBytes (m : Memory) (k : Nat) : Nat → List Byte
  | 0 => []
  | n + 1 => m.read1 k :: Memory.readBytes m (k + 1) n

/-- A granule is written anew as a read of it returns it: the check byte is computed over what its errors have left (22 R398). -/
def Memory.settleFlips (m : Memory) (k : Nat) : Memory :=
  match SMap.get? m.flips (granOf k) with
  | none => m
  | some _ => (m.setBytes (granOf k) (m.readBytes (granOf k) 8)).setFlips k 0#64

/-- Write the poison mark of a byte's granule: a poisoned granule's syndrome is 0x7F (22 R398). -/
def Memory.setPoison (m : Memory) (k : Nat) (p : Bool) : Memory :=
  let m := if p then m.settleFlips k else m
  { m with poison := SMap.putD false m.poison (granOf k) p }

/-- Whether any granule of `n` bytes reads poisoned. -/
def Memory.anyPoison (m : Memory) (k n : Nat) : Bool := (List.range n).any fun i => m.isPoison (k + i)

/-- Correct a granule in place, and say what a read of it finds: a poisoned granule whose errors make a column's syndrome is
corrected by the table like any other (22 R398). -/
def Memory.scrub (m : Memory) (k : Nat) : Memory × Verdict :=
  match SMap.get? m.flips (granOf k) with
  | none => (m, .clean)
  | some _ =>
    match (verdictOf (m.syndrome k)).1 with
    | .corrected =>
      let g := granOf k
      let bs := m.readBytes g 8
      (((m.setFlips k 0#64).setPoison k false).setBytes g bs, .corrected)
    | v => (m, v)

/-- A little-endian number of a list of bytes (00 R7). -/
def leNat : List Byte → Nat
  | [] => 0
  | b :: bs => b.toNat + 256 * leNat bs

/-- The `n` low bytes of a number, little-endian. -/
def leBytes : Nat → Nat → List Byte
  | 0, _ => []
  | n + 1, x => BitVec.ofNat 8 x :: leBytes n (x / 256)

/-- `n` bytes as a number. -/
def Memory.readNat (m : Memory) (k n : Nat) : Nat := leNat (m.readBytes k n)

/-- Store bytes: a granule that the store covers whole loses its poison and its errors, and a narrower store leaves a
poisoned granule poisoned (22 R398). -/
def Memory.store (m : Memory) (k : Nat) (bs : List Byte) : Memory :=
  let n := bs.length
  let m := (List.range n).foldl (fun m i =>
    let a := k + i
    if a % 8 = 0 ∧ i + 8 ≤ n then (m.setPoison a false).setFlips a 0#64
    else if a % 8 = 0 ∨ i = 0 then (m.scrub a).1 else m) m
  m.setBytes k bs

/-- Store bytes and mark every granule they touch, where marked poison is stored (12 R259, R266). -/
def Memory.storePoison (m : Memory) (k : Nat) (bs : List Byte) (p : Bool) : Memory :=
  let m := m.store k bs
  if p then (List.range bs.length).foldl (fun m i => m.setPoison (k + i) true) m else m

/-- The canonical form of memory: each map rises strictly and lists no default. -/
def Memory.wf (m : Memory) : Bool :=
  SMap.wfD 0#8 m.bytes && SMap.wfD Config.noTag m.tags && SMap.wfD false m.poison && SMap.wfD 0#64 m.flips
    && SMap.wfD false m.badTag

end Sys2Proof.Machine
end

