-- ==== Sys2Proof/Machine/Base.lean ====
section
/-!
DEFINITION. Machine/Base.lean: the accessors of the state: fibres of a weave, cores and partitions, the tag of an
instruction, clocks of happens-before, messages to the host.
-/

namespace Sys2Proof.Machine

/-- A core's state; a core that nothing has touched is as at reset. -/
def State.core (s : State) (c : Nat) : CoreSt := SMap.getD s.cores c {}

/-- A partition's state; one that nothing has touched is as at reset. -/
def State.part (s : State) (p : Nat) : Part := SMap.getD s.parts p {}

def State.setCore (s : State) (c : Nat) (v : CoreSt) : State := { s with cores := SMap.putD {} s.cores c v }
def State.setPart (s : State) (p : Nat) (v : Part) : State := { s with parts := SMap.putD {} s.parts p v }
def State.modCore (s : State) (c : Nat) (f : CoreSt → CoreSt) : State := s.setCore c (f (s.core c))
def State.modPart (s : State) (p : Nat) (f : Part → Part) : State := s.setPart p (f (s.part p))

def State.fibre? (s : State) (f : Nat) : Option Fibre := SMap.get? s.fibres f
def State.weave? (s : State) (w : Nat) : Option Weave := SMap.get? s.weaves w
def State.pour? (s : State) (p : Nat) : Option Pour := SMap.get? s.pours p
def State.engine? (s : State) (e : Nat) : Option Engine := SMap.get? s.engines e
def State.task? (s : State) (t : Nat) : Option Task := SMap.get? s.tasks t
def State.crucible? (s : State) (c : Nat) : Option Crucible := SMap.get? s.crucibles c

def State.modFibre (s : State) (f : Nat) (g : Fibre → Fibre) : State := { s with fibres := SMap.modify s.fibres f g }
def State.modWeave (s : State) (w : Nat) (g : Weave → Weave) : State := { s with weaves := SMap.modify s.weaves w g }
def State.modPour (s : State) (p : Nat) (g : Pour → Pour) : State := { s with pours := SMap.modify s.pours p g }
def State.modEngine (s : State) (e : Nat) (g : Engine → Engine) : State :=
  { s with engines := SMap.modify s.engines e g }
def State.modTask (s : State) (t : Nat) (g : Task → Task) : State := { s with tasks := SMap.modify s.tasks t g }
def State.modCrucible (s : State) (c : Nat) (g : Crucible → Crucible) : State :=
  { s with crucibles := SMap.modify s.crucibles c g }
def State.modDev (s : State) (g : Dev → Dev) : State := { s with dev := g s.dev }

/-- Apply a change to each fibre of a list. -/
def State.modFibres (s : State) (fs : List Nat) (g : Fibre → Fibre) : State :=
  { s with fibres := s.fibres.map fun e => if fs.contains e.1 then (e.1, g e.2) else e }

/-- A fresh name. -/
def State.fresh (s : State) : Nat × State := (s.nextId, { s with nextId := s.nextId + 1 })

/-- A register of a window, zero beyond it. -/
def Fibre.reg (f : Fibre) (r : Nat) : Reg := f.win.getD r {}

/-- Replace the word of a register, as a check of its parity does. -/
def Fibre.putReg (f : Fibre) (r : Nat) (v : Reg) : Fibre := { f with win := f.win.set r v }

/-- Write a register of a window: a token that it held is gone (04 R99). -/
def Fibre.setReg (f : Fibre) (r : Nat) (v : Reg) : Fibre := { f with win := f.win.set r v, toks := SMap.erase f.toks r }

/-- Write successive registers of a window. -/
def Fibre.setRegs (f : Fibre) (r : Nat) : List Reg → Fibre
  | [] => f
  | v :: vs => Fibre.setRegs (f.setReg r v) (r + 1) vs

/-- Write the words of a result that arrives to successive registers, but for those that a debugger has discarded (23
R415). -/
def Fibre.landRegs (f : Fibre) (skip : List Nat) (r : Nat) : List Reg → Fibre
  | [] => f
  | v :: vs => Fibre.landRegs (if skip.contains r then f else f.setReg r v) skip (r + 1) vs

/-- The registers of a fibre or engine that a pending result is no longer to write (23 R415). -/
def Pending.skips (p : Pending) (id : Nat) : List Nat := (p.drop.filter fun e => e.1 == id).map (·.2)

/-- Predicate `k`; p0 reads as 1 (02 R29). -/
def Fibre.p (f : Fibre) (k : Nat) : Bool := k == 0 || f.pred.getLsbD k

/-- Set a bit of a predicate word; a write to p0 is discarded (09 R193). -/
def setPred (w : BitVec 16) (k : Nat) (b : Bool) : BitVec 16 :=
  if k = 0 then w else if b then w ||| (1#16 <<< k) else w &&& ~~~(1#16 <<< k)

def Fibre.setP (f : Fibre) (k : Nat) (b : Bool) : Fibre := { f with pred := setPred f.pred k b }

def Fibre.qr (f : Fibre) (k : Nat) : QReg := f.q.getD k {}
def Fibre.setQ (f : Fibre) (k : Nat) (v : QReg) : Fibre := { f with q := f.q.set k v }
def Fibre.tinfoAt (f : Fibre) (k : Nat) : Word := f.tinfo.getD k 0#32

/-- The bit of a lane in a 32-lane mask. -/
def laneBit (l : Nat) : BitVec 32 := 1#32 <<< l

/-- The fibres that a weave holds, by rising name. -/
def State.members (s : State) (w : Nat) : SMap Fibre := s.fibres.filter fun e => e.2.weave == some w

/-- The fibres that a weave holds, in ascending home lane (02 R33). -/
def State.byLane (s : State) (w : Nat) : SMap Fibre :=
  let ms := s.members w
  (List.range 32).flatMap fun l => ms.filter fun e => e.2.lane == l

/-- The mask of the lanes of a list of fibres. -/
def laneMask (fs : SMap Fibre) : BitVec 32 := fs.foldl (fun m e => m ||| laneBit e.2.lane) 0#32

def FStatus.isParked : FStatus → Bool
  | .parked _ _ => true
  | _ => false

def FStatus.isReady : FStatus → Bool
  | .ready _ _ => true
  | _ => false

/-- The occupancy mask (02 R34): the lanes whose fibre is not parked. -/
def State.occupancy (s : State) (w : Nat) : BitVec 32 :=
  laneMask ((s.members w).filter fun e => !e.2.status.isParked)

/-- Set `member` to the occupancy, as every change of occupancy does (02 R34). -/
def State.reMember (s : State) (w : Nat) : State :=
  let o := s.occupancy w
  s.modWeave w fun v => { v with member := o, occ := o }

/-- The fibres of a weave that move with it: those running that the handler does not leave behind, and in serial mode the
runner alone (02 R38, R53). -/
def State.movers (s : State) (w : Nat) : SMap Fibre :=
  match s.weave? w with
  | none => []
  | some v =>
    let fs := (s.byLane w).filter fun e => e.2.status == .run && !v.hexcl.getLsbD e.2.lane
    match v.serial with
    | [] => fs
    | sr :: _ => fs.filter fun e => some e.2.lane == sr.runner

/-- The active fibres: the movers that no guard window excludes (02 R38). -/
def State.actives (s : State) (w : Nat) : SMap Fibre :=
  match s.weave? w with
  | none => []
  | some v =>
    match v.guard with
    | none => s.movers w
    | some g => (s.movers w).filter fun e => !g.excl.getLsbD e.2.lane

/-- The site of a word (06 R131). -/
def Header.site (h : Header) (pc : Nat) : Nat := (h.base + pc / 2 ^ h.span) % 4096

/-- `here` (05 R121): the site of a word with the pour's low index bits. -/
def hereOf (h : Header) (idx pc : Nat) : Tag := BitVec.ofNat 16 (h.site pc * 16 + idx % 16)

def Pour.here (p : Pour) (pc : Nat) : Tag := hereOf p.hdr p.idx pc

/-- The join of two clocks (08 R161). -/
def joinClock (a b : Clock) : Clock :=
  b.foldl (fun m e => if SMap.getD m e.1 0 < e.2 then SMap.put m e.1 e.2 else m) a

/-- What a synchronization object has been released (08 R160). -/
def State.syncOf (s : State) (k : SyncKey) : Clock :=
  match s.sync.find? fun e => e.1 == k with
  | some e => e.2
  | none => []

def State.setSync (s : State) (k : SyncKey) (c : Clock) : State :=
  { s with sync := (k, c) :: s.sync.filter fun e => !(e.1 == k) }

/-- The pair of a pour. -/
def State.pairOf (s : State) (pid : Nat) : Option (Nat × Pair) :=
  s.pairs.find? fun e => e.2.lead == pid || e.2.trail == pid

/-- The name under which a fibre's accesses and releases count: the members of a pair count as one fibre (08 R162). -/
def State.fibreKey (s : State) (f : Nat) : Nat :=
  match s.fibre? f with
  | none => f
  | some v =>
    match s.pairOf v.pour with
    | some (_, p) =>
      if p.trail = v.pour then
        match s.fibres.find? fun e => e.2.pour == p.lead && e.2.rank == v.rank with
        | some e => e.1
        | none => f
      else f
    | none => f

/-- What a fibre releases: all it knows, and its own region, under the name `key`. -/
def Fibre.released (f : Fibre) (key : Nat) : Clock := joinClock f.clock [(key, f.region)]

/-- What fibres release together. -/
def State.releasedBy (s : State) (fs : List Nat) : Clock :=
  fs.foldl (fun c f => match s.fibre? f with | some v => joinClock c (v.released (s.fibreKey f)) | none => c) []

/-- Begin a new region (08 R161, R166). -/
def Fibre.newRegion (f : Fibre) : Fibre := { f with region := f.region + 1, foot := [] }

/-- Releases of fibres into an object: each ends its region (08 R160). -/
def State.release (s : State) (fs : List Nat) (k : SyncKey) : State :=
  (s.setSync k (joinClock (s.syncOf k) (s.releasedBy fs))).modFibres fs Fibre.newRegion

/-- Acquires of an object by fibres: each begins a region that follows what was released (08 R160, R161). -/
def State.acquire (s : State) (fs : List Nat) (k : SyncKey) : State :=
  let c := s.syncOf k
  s.modFibres fs fun v => { v with clock := joinClock v.clock c }.newRegion

/-- The release of an operation (08 R160): one that was held ended its regions at its issue (log 83). -/
def State.releaseOp (s : State) (op : MemOp) (k : SyncKey) : State :=
  match op.clock with
  | some c => s.setSync k (joinClock (s.syncOf k) c)
  | none => s.release op.acts k

/-- The acquire of an operation (08 R160): one that was held began its regions at its issue (log 83). -/
def State.acquireOp (s : State) (op : MemOp) (k : SyncKey) : State :=
  match op.clock with
  | some _ =>
    let c := s.syncOf k
    s.modFibres op.acts fun v => { v with clock := joinClock v.clock c }
  | none => s.acquire op.acts k

/-- A synchronizing operation is held (12 R255): it ends the regions of its fibres at its issue, and what it releases is what
they have done before it (03 R75, 08 R161; log 83). An atomic is a region of its own (08 R162). -/
def State.holdSync (s : State) (op : MemOp) (fs : List Nat) : MemOp × State :=
  match op.kind with
  | .epush | .epop => ({ op with clock := some (s.releasedBy fs) }, s.modFibres fs Fibre.newRegion)
  | .atomic _ _ => ({ op with clock := some (s.releasedBy fs) }, s.modFibres fs fun f => f.newRegion.newRegion)
  | _ => (op, s)

/-- Acquire a clock that travels with a result. -/
def State.acquireClock (s : State) (fs : List Nat) (c : Clock) : State :=
  s.modFibres fs fun v => { v with clock := joinClock v.clock c }.newRegion

/-- The engine programs take part under their own names. -/
def Engine.released (e : Engine) (id : Nat) : Clock := joinClock e.clock [(id, e.region)]

def State.releaseEngine (s : State) (e : Nat) (k : SyncKey) : State :=
  match s.engine? e with
  | none => s
  | some v => (s.setSync k (joinClock (s.syncOf k) (v.released e))).modEngine e fun v => { v with region := v.region + 1 }

def State.acquireEngine (s : State) (e : Nat) (k : SyncKey) : State :=
  let c := s.syncOf k
  s.modEngine e fun v => { v with clock := joinClock v.clock c, region := v.region + 1 }

/-- A message to the host on a function's MSI-X vector: function 0 is the PF (21 R361). -/
def State.msix (s : State) (fn vec : Nat) : State := s.modDev fun d => { d with msix := d.msix ++ [(fn, vec)] }

/-- The virtual function bound to a partition, if any (21 R362, R368). -/
def State.vfOf (s : State) (p : Nat) : Option Nat :=
  (List.range 24).findSome? fun v =>
    let r := s.dev.bind.getD v 0#32
    if r.getLsbD 5 && r.toNat % 32 == p then some (v + 1) else none

/-- The partition of a core or channel (log 5). -/
def partOf (core : Nat) : Nat := core / Config.perPart

/-- The die of a partition: four quarters each (00 R4). -/
def dieOf (part : Nat) : Nat := part / 4

/-- The fabric ports that a partition holds (21 R362). -/
def State.portsOf (s : State) (p : Nat) : List Nat :=
  (List.range 32).filter fun k => (s.dev.ports.getD p 0#32).getLsbD k

/-- Raise a device RAS counter (24 R425), in the order of its offsets. -/
def State.rasAdd (s : State) (i n : Nat) : State :=
  s.modDev fun d => { d with ras := d.ras.set i (satAdd (d.ras.getD i 0#32) n) }

/-- Correct the granules of an access in place and count what it finds (22 R398, 24 R425). -/
def State.touch (s : State) (k n : Nat) : State :=
  if s.mem.flips.isEmpty then s
  else
    (List.range n).foldl (fun s i =>
      if i = 0 ∨ (k + i) % 8 = 0 then
        let (m, v) := s.mem.scrub (k + i)
        let s := { s with mem := m }
        let idx (c : Nat) : Nat := match sortOfKey k with | .ws => 2 + c | _ => c
        match v, sortOfKey k with
        | .corrected, .scratch c => s.modCore c fun x => { x with corrected := satAdd x.corrected 1 }
        | .uncorrectable, .scratch c => s.modCore c fun x => { x with uncorr := satAdd x.uncorr 1 }
        | .corrected, _ => s.rasAdd (idx 0) 1
        | .uncorrectable, _ => s.rasAdd (idx 1) 1
        | _, _ => s
      else s) s

/-- A store of `n` bytes reads, corrects and counts the granules that it covers in part (22 R398, 24 R425). -/
def State.touchPart (s : State) (k n : Nat) : State :=
  if s.mem.flips.isEmpty || n == 0 then s
  else
    let s := if k % 8 ≠ 0 ∨ n < 8 then s.touch k 1 else s
    if (k + n) % 8 ≠ 0 ∧ granOf k ≠ granOf (k + n) then s.touch (k + n - 1) 1 else s

/-- Count the tags of an access that have an uncorrectable error (06 R134, 24 R425). -/
def State.touchTags (s : State) (k n : Nat) : State :=
  if s.mem.badTag.isEmpty then s
  else
    (List.range n).foldl (fun s i =>
      if (i = 0 ∨ (k + i) % 8 = 0) ∧ s.mem.tagBad (k + i) then s.rasAdd 6 1 else s) s

/-- Whether no granule has an error and no tag is bad, so that a read finds nothing to correct or count. -/
def Memory.sound (m : Memory) : Bool := m.flips.isEmpty && m.badTag.isEmpty

/-- The free value of the next open point (log 23). -/
def State.takeFree (s : State) : Word × State := (Config.freeWord s.free, { s with free := s.free + 1 })

/-- The request tag of a pour's task. -/
def State.rtagOf (s : State) (p : Pour) : BitVec 16 := match s.task? p.task with | some t => t.rtag | none => 0#16

/-- Whether a debugger lets a pour run (23 R409). -/
def DbgMode.runs : DbgMode → Bool
  | .free | .stepping _ _ => true
  | .stopping _ | .stopped _ => false

/-- Bits `hi` down to `lo` of a number. -/
def bits (x lo n : Nat) : Nat := x / 2 ^ lo % 2 ^ n

end Sys2Proof.Machine
end

