-- ==== Sys2Proof/Machine/Operands.lean ====
section
/-!
DEFINITION. Machine/Operands.lean: every operand form: which codes a field may hold (09 R184 to R187, R191), what a source
reads in a fibre's lane or on an engine, and the latch window (R188 to R190).
-/

namespace Sys2Proof.Machine

/-- How a source field is read: one word, a pair, a quad, or an address pair (09 R191). -/
inductive SKind where
  | s | ws | xs | ap
  deriving DecidableEq, Repr

/-- Words that a source kind reads. -/
def SKind.words : SKind → Nat
  | .s => 1 | .ws => 2 | .xs => 4 | .ap => 2

/-- Whether a register index fits a window of `n` registers for `k` words: aligned, and its last register below `n` (09
R184, R186). -/
def indexOk (n c k : Nat) : Bool := decide (c % k = 0) && decide (c + k ≤ n)

/-- The entry that a latch code names (09 R188). -/
def latchAt (ls : List Latch) (c : Nat) : Option Latch := ls[c - 248]?

/-- Whether a source code is illegal in a fibre's word (09 R184 to R186): a window of `n` registers, the weave's latch
entries. DESIGN CHOICE (log 106): of an entry that can never be read, latch-lost (R190) is raised whatever its size. -/
def srcBad (n : Nat) (ls : List Latch) (k : SKind) (code : BitVec 8) : Bool :=
  let c := code.toNat
  if c < 240 then !indexOk n c k.words
  else if c = 240 then false
  else if c ≤ 244 then k != .s
  else if c = 245 then k == .xs || k == .ap
  else if c ≤ 247 then true
  else
    match latchAt ls c with
    | none => false
    | some e => !e.dead && decide (e.size < k.words)

/-- Whether a destination code is illegal (09 R186), for `k` words. -/
def dstBad (n : Nat) (k : Nat) (code : BitVec 8) : Bool :=
  let c := code.toNat
  if c < 240 then !indexOk n c k else decide (c ≠ 240)

/-- Whether a source reads a latch entry that is not there, or is still pending (09 R190). -/
def latchLost (ls : List Latch) (code : BitVec 8) : Bool :=
  let c := code.toNat
  if c < 248 then false
  else
    match latchAt ls c with
    | none => true
    | some e => e.dead

/-- A literal as one word, or as a pair sign-extended from 32 bits (09 R185). -/
def litWords (l : Word) (k : Nat) : List Reg :=
  if k = 1 then [{ val := l }]
  else [{ val := l }, { val := if l.getLsbD 31 then 0xFFFFFFFF#32 else 0#32 }]

/-- The words that a source supplies in a lane (09 R184, R186, R190). -/
def readSrc (f : Fibre) (idx : Nat) (ls : List Latch) (k : Nat) (code : BitVec 8) (l : Word) : List Reg :=
  let c := code.toNat
  if c < 240 then (List.range k).map fun i => f.reg (c + i)
  else if c = 240 then List.replicate k {}
  else if c = 241 then [{ val := BitVec.ofNat 32 f.lane }]
  else if c = 242 then [{ val := f.num }]
  else if c = 243 then [{ val := BitVec.ofNat 32 idx }]
  else if c = 244 then [{ val := BitVec.ofNat 32 f.rank }]
  else if c = 245 then litWords l k
  else
    match latchAt ls c with
    | some e => (List.range k).map fun i => (SMap.getD e.words f.lane []).getD i {}
    | none => List.replicate k {}

/-- Number of registers of an engine: 64 on the Ladle, 16 on the Runner (09 R187). -/
def EngKind.regs : EngKind → Nat
  | .ladle => 64
  | .runner => 16

/-- Whether a source code is illegal on an engine (09 R187). -/
def engSrcBad (e : EngKind) (k : SKind) (code : BitVec 8) : Bool :=
  let c := code.toNat
  if c < 64 then !indexOk e.regs c k.words
  else if c = 240 then false
  else if c = 245 then k == .xs || k == .ap
  else true

/-- Whether a destination code is illegal on an engine (09 R187). -/
def engDstBad (e : EngKind) (k : Nat) (code : BitVec 8) : Bool :=
  let c := code.toNat
  if c < 64 then !indexOk e.regs c k else decide (c ≠ 240)

/-- The words that a source supplies on an engine; k registers carry no tags (06 R133). -/
def engRead (e : Engine) (k : Nat) (code : BitVec 8) (l : Word) : List Reg :=
  let c := code.toNat
  if c < 64 then (List.range k).map fun i => { e.k.getD (c + i) {} with tag := Config.noTag }
  else if c = 245 then litWords l k
  else List.replicate k {}

/-- Write words to a destination of an engine: a token that it held is gone (04 R99); a tag is discarded, and 240 discards the words (06 R133, 09 R187). -/
def Engine.setK (e : Engine) (c : Nat) : List Reg → Engine
  | [] => e
  | v :: vs =>
    let e := if c < 64 then
        { e with k := e.k.set c { v with tag := Config.noTag, parity := false }, toks := SMap.erase e.toks c }
      else e
    Engine.setK e (c + 1) vs

/-- Write the words of a result that arrives to a destination of an engine, but for those that a debugger has discarded (23
R415). -/
def Engine.landK (e : Engine) (skip : List Nat) (c : Nat) : List Reg → Engine
  | [] => e
  | v :: vs => Engine.landK (if skip.contains c then e else e.setK c [v]) skip (c + 1) vs

/-- The 64-bit address of an address pair, low word first (09 R191). -/
def pairAddr (rs : List Reg) : BitVec 64 := (rs.getD 1 {}).val ++ (rs.getD 0 {}).val

/-- The first word of what a source supplies. -/
def head1 (rs : List Reg) : Reg := rs.getD 0 {}

/-- Whether any word read is poisoned: `poi` of 05 R121. -/
def poi (rs : List Reg) : Bool := rs.any (·.poison)

/-- Sign extension of an 8-bit immediate (09 R191). -/
def imm8 (i : BitVec 8) : Word := i.signExtend 32

end Sys2Proof.Machine
end

