-- ==== Sys2Proof/Machine/Flags.lean ====
section
/-!
DEFINITION. Machine/Flags.lean: every flag, predicate and tag computation: compare conditions (09 R193), integer
operations and compares (10 R205 to R209), the choice of a heat tag (05 R122), floating flags and their traps (10 R204).
-/

namespace Sys2Proof.Machine

/-- A compare condition over an ordering, none where the pair is unordered (09 R193). -/
def condHolds (c : BitVec 4) (o : Option Ordering) : Bool :=
  match c.toNat, o with
  | 0, o => o == some .eq
  | 1, o => o != some .eq
  | 2, o => o == some .lt
  | 3, o => o == some .lt || o == some .eq
  | 4, o => o == some .gt
  | 5, o => o == some .gt || o == some .eq
  | 6, o => o == none
  | 7, o => o != none
  | 8, o => o == none || o == some .eq
  | 9, o => o == none || o == some .lt
  | 10, o => o == none || o == some .lt || o == some .eq
  | 11, o => o == none || o == some .gt
  | 12, o => o == none || o == some .gt || o == some .eq
  | _, _ => false

/-- Whether a condition code is reserved (09 R193). -/
def condBad (c : BitVec 4) : Bool := decide (12 < c.toNat)

def ordS (a b : Word) : Option Ordering := some (compare a.toInt b.toInt)
def ordZ (a b : Word) : Option Ordering := some (compare a.toNat b.toNat)

/-- The ordering of two FP32 words, none where either is a NaN (09 R193). -/
def ordF (a b : FVal) : Option Ordering := if a.isNaN || b.isNaN then none else some (cmpV a b)

/-- Shifts by a whole 32-bit count (10 R205). -/
def shlW (a b : Word) : Word := if b.toNat < 32 then a <<< b.toNat else 0#32
def shrW (a b : Word) : Word := if b.toNat < 32 then a >>> b.toNat else 0#32
def sarW (a b : Word) : Word := a.sshiftRight (min b.toNat 31)

/-- High words of products (10 R205). -/
def mulhsW (a b : Word) : Word := BitVec.ofInt 32 ((a.toInt * b.toInt) / 2 ^ 32)
def mulhzW (a b : Word) : Word := BitVec.ofNat 32 (a.toNat * b.toNat / 2 ^ 32)

def minS (a b : Word) : Word := if a.toInt ≤ b.toInt then a else b
def maxS (a b : Word) : Word := if a.toInt ≤ b.toInt then b else a
def minZ (a b : Word) : Word := if a.toNat ≤ b.toNat then a else b
def maxZ (a b : Word) : Word := if a.toNat ≤ b.toNat then b else a

/-- Functions of UNI (10 R208). -/
def popcW (a : Word) : Word := BitVec.ofNat 32 (popNat 32 a.toNat)
def clzW (a : Word) : Word := BitVec.ofNat 32 (if a = 0#32 then 32 else 31 - Nat.log2 a.toNat)
def brevW (a : Word) : Word := a.reverse
def bswapW (a : Word) : Word :=
  a.extractLsb' 0 8 ++ a.extractLsb' 8 8 ++ a.extractLsb' 16 8 ++ a.extractLsb' 24 8
def absW (a : Word) : Word := if a.toInt < 0 then -a else a

/-- The sum of two pairs, low word first (10 R207). -/
def add64 (a b : List Reg) : List Word :=
  let x := pairAddr a + pairAddr b
  [x.extractLsb' 0 32, x.extractLsb' 32 32]

/-- An operand as the tag choice sees it: whether it is special, and its tag. -/
abbrev TagOp := Bool × Tag

/-- The lowest site among candidates, ties to the first (05 R122). -/
def lowestSite : List Tag → Tag → Tag
  | [], best => best
  | t :: ts, best => lowestSite ts (if t.toNat / 16 < best.toNat / 16 then t else best)

/-- `tagpick` (05 R122) under a tag mode. -/
def tagpick (mode : BitVec 2) (here : Tag) (sp : Bool) (ops : List TagOp) (old : Tag) : Tag :=
  if mode = 0#2 then old
  else if mode = 1#2 || !sp then here
  else
    match (ops.filter (·.1)).map (·.2) with
    | [] => here
    | t :: ts => if mode = 2#2 then t else lowestSite ts t

/-- The tag of a movement's result (06 R137, R138): the source's, but the prior one under OFF. -/
def moveTag (mode : BitVec 2) (src old : Tag) : Tag := if mode = 0#2 then old else src

/-- The flags that trap under `fpmode` (09 R197). -/
def trapping (fpmode : Word) (fl : Flags) : Flags := fl &&& fpmode.extractLsb' 3 5

/-- OR flags into the sticky bits of `fpmode` (09 R197, 10 R204). -/
def stickyOr (fpmode : Word) (fl : Flags) : Word := fpmode ||| ((fl.zeroExtend 32) <<< 8)

/-- A floating result: its bits and its flags. -/
abbrev FRes := Nat × Flags

/-- Round an exact value with the flags of its operation (05 R121). -/
def finish (v : FVal × Flags) (c : Nat) (fpmode : Word) : FRes :=
  let (b, fl) := fpr v.1 c fpmode
  (b, fl ||| v.2)

def fMode (fpmode : Word) : Nat := fpmode.toNat % 4

/-- FADD, FSUB, FMUL and FFMA on the elements of a format (10 R210, R213). -/
def faddR (c : Nat) (fm : Word) (a b : Nat) : FRes := finish (addV (decArith a c fm) (decArith b c fm) (fMode fm)) c fm
def fsubR (c : Nat) (fm : Word) (a b : Nat) : FRes :=
  finish (addV (decArith a c fm) (decArith b c fm).negate (fMode fm)) c fm
def fmulR (c : Nat) (fm : Word) (a b : Nat) : FRes := finish (mulV (decArith a c fm) (decArith b c fm)) c fm
def ffmaR (c : Nat) (fm : Word) (a b d : Nat) : FRes :=
  finish (fmaV (decArith a c fm) (decArith b c fm) (decArith d c fm) (fMode fm)) c fm

/-- Whether a value is a signaling NaN (10 R204). -/
def FVal.isSig : FVal → Bool
  | .nan s => s
  | _ => false

/-- FP32 bits as an operand reads them: a flushed subnormal is the zero it is read as (10 R210). -/
def flushed (a : Nat) (fm : Word) : Nat := if fm.getLsbD 2 && isSub a fFP32 then a / 2 ^ 31 * 2 ^ 31 else a

/-- FMIN and FMAX: minimumNumber and maximumNumber, -0 below +0 (10 R210). -/
def fminmaxR (isMax : Bool) (fm : Word) (a b : Nat) : FRes :=
  let x := decArith a fFP32 fm
  let y := decArith b fFP32 fm
  let fl := if x.isSig || y.isSig then flInvalid else 0#5
  if x.isNaN && y.isNaN then (canonNaN fFP32, fl)
  else if x.isNaN then (flushed b fm, fl)
  else if y.isNaN then (flushed a fm, fl)
  else
    let less := match cmpV x y with
      | .lt => true
      | .gt => false
      | .eq => decide (a / 2 ^ 31 > b / 2 ^ 31)
    (if less != isMax then flushed a fm else flushed b fm, fl)

/-- The special cases shared by FUNI functions: a NaN operand (10 R212). -/
def nanR (sig : Bool) : FRes := (canonNaN fFP32, if sig then flInvalid else 0#5)

/-- FRCP, FRSQ and FSQRT (10 R212). -/
def frcpR (fm : Word) (a : Nat) : FRes :=
  match decArith a fFP32 fm with
  | .nan s => nanR s
  | .inf n => finish (.fin n 0 0 false, 0#5) fFP32 fm
  | .fin n m e _ =>
    if m = 0 then (infBits fFP32 n, flDivZero) else finish (divFin false 1 0 n m e, 0#5) fFP32 fm

def frsqR (fm : Word) (a : Nat) : FRes :=
  match decArith a fFP32 fm with
  | .nan s => nanR s
  | .inf n => if n then (canonNaN fFP32, flInvalid) else (0, 0#5)
  | .fin n m e _ =>
    if m = 0 then (infBits fFP32 n, flDivZero)
    else if n then (canonNaN fFP32, flInvalid)
    else finish (rsqrtFin m e, 0#5) fFP32 fm

def fsqrtR (fm : Word) (a : Nat) : FRes :=
  match decArith a fFP32 fm with
  | .nan s => nanR s
  | .inf n => if n then (canonNaN fFP32, flInvalid) else (infBits fFP32 false, 0#5)
  | .fin n m e _ =>
    if m = 0 then (signBit fFP32 n, 0#5)
    else if n then (canonNaN fFP32, flInvalid)
    else finish (sqrtFin m e, 0#5) fFP32 fm

/-- FEXP2 and FLOG2 (10 R212). -/
def fexp2R (fm : Word) (a : Nat) : FRes :=
  match decArith a fFP32 fm with
  | .nan s => nanR s
  | .inf n => if n then (0, 0#5) else (infBits fFP32 false, 0#5)
  | .fin n m e _ => finish (exp2V n m e, 0#5) fFP32 fm

def flog2R (fm : Word) (a : Nat) : FRes :=
  match decArith a fFP32 fm with
  | .nan s => nanR s
  | .inf n => if n then (canonNaN fFP32, flInvalid) else (infBits fFP32 false, 0#5)
  | .fin n m e _ =>
    if m = 0 then (infBits fFP32 true, flDivZero)
    else if n then (canonNaN fFP32, flInvalid)
    else finish (log2V m e, 0#5) fFP32 fm

/-- FRINT, FFLOOR and FCEIL (10 R212): `mode` is none for the rounding of `fpmode`, which alone raises inexact. -/
def frintR (mode : Option Nat) (fm : Word) (a : Nat) : FRes :=
  match decArith a fFP32 fm with
  | .nan s => nanR s
  | .inf n => (infBits fFP32 n, 0#5)
  | .fin n m e _ =>
    let (v, inx) := rintV n m e (mode.getD (fMode fm))
    ((fprNoFtz v fFP32 mRNE).1, if inx && mode.isNone then flInexact else 0#5)

/-- A packed operation on the two 16-bit elements of words (10 R213); flags are ORed. -/
def packed2 (g : Nat → Nat → Nat → FRes) (a b d : Word) : Word × Flags :=
  let lo := g (a.toNat % 65536) (b.toNat % 65536) (d.toNat % 65536)
  let hi := g (a.toNat / 65536) (b.toNat / 65536) (d.toNat / 65536)
  (BitVec.ofNat 32 (lo.1 + 65536 * hi.1), lo.2 ||| hi.2)

end Sys2Proof.Machine
end

