-- ==== Sys2Proof/Machine/Flux.lean ====
section
/-!
DEFINITION. Machine/Flux.lean: the lossless code of the Farkin Link ports (24 R427 to R430): blocks of 256 bytes, their
modes, the headers of groups, and the tags of a transfer in groups of their own; what a port sends and what it receives.
-/

namespace Sys2Proof.Machine

/-- The modes of a block (24 R428). -/
inductive FluxMode where
  | raw | zero | repeat32 | baseDelta | expStrip | poison
  deriving DecidableEq, Repr

/-- The code of a mode (24 R428). -/
def FluxMode.code : FluxMode → Nat
  | .raw => 0 | .zero => 1 | .repeat32 => 2 | .baseDelta => 3 | .expStrip => 4 | .poison => 5

/-- The mode of a code: 6 and 7 are never sent (24 R428). -/
def fluxMode (n : Nat) : Option FluxMode :=
  [FluxMode.raw, .zero, .repeat32, .baseDelta, .expStrip, .poison].find? fun m => m.code == n

/-- A block as it is coded: its mode and its flits' bytes. -/
structure FluxBlock where
  mode  : FluxMode
  flits : List Byte
  deriving DecidableEq, Repr

/-- Flits that a coded block occupies. -/
def FluxBlock.len (b : FluxBlock) : Nat := b.flits.length / 32

/-- Pad with zeros to whole flits (24 R428). -/
def padFlits (bs : List Byte) : List Byte := bs ++ List.replicate ((32 - bs.length % 32) % 32) 0#8

/-- Cut bytes into `n` pieces of `k`. -/
def pieces (k : Nat) : Nat → List Byte → List (List Byte)
  | 0, _ => []
  | n + 1, bs => bs.take k :: pieces k n (bs.drop k)

/-- Whether a signed `d`-byte field holds a difference modulo 2^64 (24 R428). -/
def deltaFits (d : Nat) (x : BitVec 64) : Bool := decide ((x.extractLsb' 0 (8 * d)).signExtend 64 = x)

/-- The 64-bit words of a block. -/
def words64 (bs : List Byte) : List (BitVec 64) := (pieces 8 32 bs).map fun p => BitVec.ofNat 64 (leNat p)

/-- BASE-DELTA with `d`-byte fields, where they hold every difference (24 R428). -/
def tryDelta (d : Nat) (bs : List Byte) : Option FluxBlock :=
  let ws := words64 bs
  let w0 := ws.getD 0 0#64
  let ds := ws.map fun w => w - w0
  if ds.all (deltaFits d) then
    some ⟨.baseDelta, padFlits (leBytes 8 w0.toNat ++ ds.flatMap fun x => leBytes d x.toNat)⟩
  else none

/-- The exponent byte of an element of `k` bytes: bits 14:7 of a half, bits 30:23 of a word (24 R428). -/
def expByte (k : Nat) (p : List Byte) : Byte := BitVec.ofNat 8 (leNat p / 2 ^ (8 * k - 9))

/-- What an element keeps beside the exponent: its sign above its fraction (24 R428). -/
def stripped (k : Nat) (p : List Byte) : Nat :=
  leNat p % 2 ^ (8 * k - 9) + leNat p / 2 ^ (8 * k - 1) * 2 ^ (8 * k - 9)

/-- EXPONENT-STRIP of elements of `k` bytes, where all share their exponent (24 R428). -/
def tryStrip (k : Nat) (bs : List Byte) : Option FluxBlock :=
  let es := pieces k (256 / k) bs
  let x := expByte k (es.getD 0 [])
  if es.all fun p => expByte k p == x then
    some ⟨.expStrip, padFlits (x :: es.flatMap fun p => leBytes (k - 1) (stripped k p))⟩
  else none

/-- RAW (24 R428). -/
def fluxRaw (bs : List Byte) : FluxBlock := ⟨.raw, padFlits bs⟩

/-- The flit that marks the poisoned granules (24 R428). -/
def poisonFlit (ps : List Bool) : List Byte :=
  leBytes 32 (ps.zipIdx.foldl (fun n e => if e.1 then n + 2 ^ e.2 else n) 0)

/-- REPEAT32, where the bytes repeat (24 R428). -/
def tryRepeat (bs : List Byte) : Option FluxBlock :=
  if (pieces 32 8 bs).all fun p => p == bs.take 32 then some ⟨.repeat32, bs.take 32⟩ else none

/-- The candidates of a block of 256 bytes in the order of ties (24 R429). -/
def fluxCandidates (bs : List Byte) : List FluxBlock :=
  (if bs.all (· == 0#8) then [⟨.zero, []⟩] else [])
  ++ (if bs.length = 256 then
      [tryRepeat bs, tryDelta 1 bs, tryDelta 2 bs, tryDelta 4 bs, tryStrip 2 bs, tryStrip 4 bs].filterMap id
    else [])

/-- The first block of a list with the fewest flits. -/
def fewest : FluxBlock → List FluxBlock → FluxBlock
  | b, [] => b
  | b, c :: cs => fewest (if c.len < b.len then c else b) cs

/-- How a block is coded (24 R429): POISON where a granule is poisoned, else the mode with the fewest flits. A short block
with a poisoned granule is sent so too (log 34). -/
def fluxEncode (bs : List Byte) (ps : List Bool) : FluxBlock :=
  if ps.any id then ⟨.poison, padFlits bs ++ poisonFlit ps⟩
  else
    match fluxCandidates bs ++ [fluxRaw bs] with
    | [] => fluxRaw bs
    | b :: rest => fewest b rest

/-- The element that a stripped one of `k` bytes stands for. -/
def unstrip (k : Nat) (x : Byte) (p : List Byte) : List Byte :=
  let v := leNat p
  leBytes k (v % 2 ^ (8 * k - 9) + x.toNat * 2 ^ (8 * k - 9) + v / 2 ^ (8 * k - 9) % 2 * 2 ^ (8 * k - 1))

/-- The bytes of a coded block of `n` bytes (24 R428), with its poisoned granules; none where its length does not suit its
mode, which is delivered as a fabric error. -/
def fluxDecode (n : Nat) (b : FluxBlock) : Option (List Byte × List Bool) :=
  let clean (bs : List Byte) : Option (List Byte × List Bool) := some (bs, List.replicate ((n + 7) / 8) false)
  let flits := (n + 31) / 32
  match b.mode with
  | .raw => if b.len = flits then clean (b.flits.take n) else none
  | .zero => if b.len = 0 then clean (List.replicate n 0#8) else none
  | .repeat32 => if b.len = 1 ∧ n = 256 then clean ((List.replicate 8 b.flits).flatten) else none
  | .baseDelta =>
    if n ≠ 256 then none
    else
      let d := if b.len = 2 then 1 else if b.len = 3 then 2 else if b.len = 5 then 4 else 0
      if d = 0 then none
      else
        let w0 := BitVec.ofNat 64 (leNat (b.flits.take 8))
        clean ((pieces d 32 (b.flits.drop 8)).flatMap fun p =>
          leBytes 8 (w0 + (BitVec.ofNat (8 * d) (leNat p)).signExtend 64).toNat)
  | .expStrip =>
    if n ≠ 256 then none
    else
      let k := if b.len = 5 then 2 else if b.len = 7 then 4 else 0
      if k = 0 then none
      else clean ((pieces (k - 1) (256 / k) (b.flits.drop 1)).flatMap (unstrip k (b.flits.getD 0 0#8)))
  | .poison =>
    if b.len = flits + 1 then
      let m := leNat (b.flits.drop (32 * flits))
      some (b.flits.take n, (List.range ((n + 7) / 8)).map fun g => m.testBit g)
    else none

/-- The header flit of a group of 1 to 31 coded blocks (24 R427). -/
def fluxHeader (bs : List FluxBlock) : List Byte :=
  leBytes 32 (bs.length + (bs.zipIdx.map fun e => (e.1.mode.code + e.1.len * 8) * 2 ^ (8 * e.2 + 8)).sum)

/-- A group as it is sent (24 R427): its header, and the flits of its blocks in order. -/
def fluxGroup (bs : List FluxBlock) : List Byte := fluxHeader bs ++ bs.flatMap (·.flits)

/-- A payload: its bytes, the poison of its granules and their tags. -/
structure Payload where
  bytes  : List Byte := []
  poison : List Bool := []
  tags   : List Tag := []
  deriving DecidableEq, Repr

/-- Bytes in blocks of 256, the last of which may be shorter (24 R427), with the poison of their granules. -/
def fluxBlocks : Nat → List Byte → List Bool → List FluxBlock
  | 0, _, _ => []
  | n + 1, bs, ps =>
    if bs.isEmpty then [] else fluxEncode (bs.take 256) (ps.take 32) :: fluxBlocks n (bs.drop 256) (ps.drop 32)

/-- The tag group that follows a data group: the tag bytes of its granules in blocks of 256 (24 R430). -/
def tagGroup (ts : List Tag) : List Byte := fluxGroup (fluxBlocks 31 (ts.flatMap fun t => leBytes 2 t.toNat) [])

/-- A transfer as it is sent (24 R427, R430): groups of up to 31 blocks, each followed by its tags where the transfer carries them. -/
def fluxSend (tagged : Bool) : Nat → Payload → List Byte
  | 0, _ => []
  | n + 1, p =>
    if p.bytes.isEmpty then []
    else
      fluxGroup (fluxBlocks 31 (p.bytes.take 7936) (p.poison.take 992)) ++ (if tagged then tagGroup (p.tags.take 992) else [])
        ++ fluxSend tagged n { bytes := p.bytes.drop 7936, poison := p.poison.drop 992, tags := p.tags.drop 992 }

/-- What a port sends for a payload. -/
def fluxCode (tagged : Bool) (p : Payload) : List Byte := fluxSend tagged (p.bytes.length / 7936 + 1) p

/-- Read the blocks of a group, from block `j` of its header on: `left` bytes of the transfer remain to be read. None where a block's
mode is never sent or its length does not suit it (24 R428). -/
def fluxRead (header : Nat) : Nat → Nat → Nat → List Byte → Option (List Byte × List Bool × List Byte)
  | 0, _, _, fs => some ([], [], fs)
  | n + 1, j, left, fs =>
    let k := min 256 left
    let len := header / 2 ^ (8 * j + 11) % 32
    match fluxMode (header / 2 ^ (8 * j + 8) % 8) with
    | none => none
    | some m =>
      let body := fs.take (32 * len)
      if body.length ≠ 32 * len ∨ k = 0 then none
      else
        match fluxDecode k ⟨m, body⟩, fluxRead header n (j + 1) (left - k) (fs.drop (32 * len)) with
        | some (bs, ps), some (bs', ps', rest) => some (bs ++ bs', ps ++ ps', rest)
        | _, _ => none

/-- Read a group (24 R427): its header says how many blocks of the `left` bytes it holds. -/
def fluxReadGroup (left : Nat) (fs : List Byte) : Option (List Byte × List Bool × List Byte) :=
  let header := leNat (fs.take 32)
  if fs.length < 32 ∨ header % 32 = 0 then none else fluxRead header (header % 32) 0 left (fs.drop 32)

/-- What a port receives as a transfer of `left` bytes: none is a fabric error (24 R428). -/
def fluxReceive (tagged : Bool) : Nat → Nat → List Byte → Option Payload
  | 0, left, fs => if left = 0 ∧ fs = [] then some {} else none
  | n + 1, left, fs =>
    if left = 0 then (if fs = [] then some {} else none)
    else
      match fluxReadGroup left fs with
      | none => none
      | some (bs, ps, rest) =>
        let ts : Option (List Byte × List Byte) :=
          if tagged then (fluxReadGroup (2 * ps.length) rest).map fun g => (g.1, g.2.2) else some ([], rest)
        match ts with
        | none => none
        | some (tb, rest) =>
          if tb.length ≠ (if tagged then 2 * ps.length else 0) then none
          else
            (fluxReceive tagged n (left - bs.length) rest).map fun p =>
              { bytes := bs ++ p.bytes, poison := ps ++ p.poison
                tags := ((pieces 2 (tb.length / 2) tb).map fun b => BitVec.ofNat 16 (leNat b)) ++ p.tags }

/-- The payload of a put. -/
def payloadOf (p : FabricPut) : Option Payload := fluxReceive p.tagged (p.len / 256 + 1) p.len p.flits

/-- What a fabric read of `n` bytes at a peer gives (24 R427, R428): the response as its port receives it; none is a fabric error,
of the access (12 R266) or of flits that do not decode. -/
def peerRead (dev win off n : Nat) (tagged : Bool) (at_ : Nat) : Option Payload :=
  if Config.peerFails dev win off at_ then none
  else fluxReceive tagged (n / 256 + 1) n (Config.peerFlits dev win off n at_)

/-- A put as a port sends it. -/
def putOf (win off : Nat) (tagged : Bool) (p : Payload) (rtag : BitVec 16) : FabricPut :=
  { win := win, off := off, len := p.bytes.length, tagged := tagged, flits := fluxCode tagged p, rtag := rtag }

end Sys2Proof.Machine
end

