-- ==== Sys2Proof/Machine/Translate.lean ====
section
/-!
DEFINITION. Machine/Translate.lean: apertures (04 R83), the five-level walk and its checks (22 R384 to R388), cached
translations (R389), and the place in memory that an address names.
-/

namespace Sys2Proof.Machine

/-- Where a generic address lies (04 R83). -/
inductive Aperture where
  | outside
  | scratch (off : Nat)
  | stack (off : Nat)
  | global (va : Nat)
  deriving DecidableEq, Repr

/-- The aperture comparators, in order (04 R83). -/
def aperture (a : BitVec 64) : Aperture :=
  let n := a.toNat
  if 2 ^ 57 ≤ n then .outside
  else if 0x01FFFFFF00000000 ≤ n ∧ n ≤ 0x01FFFFFF00FFFFFF then .scratch (n % 2 ^ 24)
  else if 0x01FFFFFE00000000 ≤ n ∧ n ≤ 0x01FFFFFEFFFFFFFF then .stack (n % 2 ^ 32)
  else .global n

/-- What a walk finds (22 R387): a leaf for the page, a not-present entry, or the fatal translation fault. -/
inductive Walk where
  | leaf (l : Leaf)
  | notPresent
  | fatal
  deriving DecidableEq, Repr

/-- One level of the table: its number, the lowest address bit it indexes, and how many bits (22 R384). -/
structure Level where
  num  : Nat
  lo   : Nat
  bits : Nat
  deriving DecidableEq, Repr

/-- The levels from the root down (22 R384). -/
def levels : List Level := [⟨4, 44, 13⟩, ⟨3, 32, 12⟩, ⟨2, 27, 5⟩, ⟨1, 21, 6⟩, ⟨0, 16, 5⟩]

/-- Low frame bits that a leaf at a level must have zero (22 R386). -/
def frameLow (level : Nat) : Nat := if level = 1 then 5 else if level = 2 then 11 else if level = 3 then 16 else 0

/-- The key map's entry for a local frame (22 R388). -/
def State.keyOf (s : State) (ws : Bool) (frame : Nat) : BitVec 6 :=
  SMap.getD s.dev.keys ((if ws then 2 ^ 24 else 0) + frame % 2 ^ 24) 0#6

/-- The frame of the 64 KiB page that a leaf maps at an address (22 R384, R386). -/
def pageFrame (level frame va : Nat) : Nat := frame + bits va 16 (frameLow level)

/-- Whether a local page lies in the partition (22 R386, R387). -/
def localIn (part : Nat) (ws : Bool) (frame : Nat) : Bool :=
  if ws then decide (frame / 2 ^ 11 = part) && decide (frame % 2 ^ 11 < 1536)
  else decide (frame < 2 ^ 24) && decide (frame / 2 ^ 15 / Config.perPart = part)

/-- The leaf that an entry makes for an address, or its fatal fault (22 R385 to R387). -/
def leafOf (s : State) (part level e va : Nat) : Walk :=
  let frame := bits e 16 40
  let target := bits e 56 2
  let ws := bits e 12 1 = 1
  let opt := bits e 11 1 = 1
  let page := pageFrame level frame va
  if level = 4 ∨ bits e 15 1 ≠ 0 ∨ bits e 58 6 ≠ 0 ∨ bits e 13 2 = 3 ∨ target = 3
      ∨ (ws ∧ target ≠ 0) ∨ (opt ∧ ws) ∨ frame % 2 ^ frameLow level ≠ 0 then .fatal
  else if target = 0 ∧ ¬ localIn part ws page then .fatal
  else if target = 0 ∧ s.keyOf ws page ≠ BitVec.ofNat 6 (bits e 4 6) then .fatal
  else
    .leaf { level := level, w := bits e 2 1 = 1, x := bits e 3 1 = 1, key := BitVec.ofNat 6 (bits e 4 6),
            tagged := bits e 10 1 = 1, opt := opt, ws := ws, cache := BitVec.ofNat 2 (bits e 13 2), frame := page,
            target := BitVec.ofNat 2 target }

/-- Descend from a table (22 R384, R387). A table outside the device's DRAM is a fatal fault (log 20), and so is one in a frame
whose key map entry is not the context's table key, under which the walker reads (22 R388, R393; log 71). -/
def walkFrom (s : State) (part va : Nat) : Nat → List Level → Walk
  | _, [] => .fatal
  | table, l :: ls =>
    let pa := table + 8 * bits va l.lo l.bits
    if dramBytes < pa + 8 ∨ s.keyOf false (pa / 65536) ≠ (s.part part).desc.tkey then .fatal
    else
      let e := s.mem.readNat (dramKey pa) 8
      if e % 2 = 0 then .notPresent
      else if bits e 1 1 = 1 then leafOf s part l.num e va
      else
        let next := bits e 8 48 * 256
        let size := match ls with | [] => 1 | n :: _ => 8 * 2 ^ n.bits
        if l.num = 0 ∨ bits e 2 6 ≠ 0 ∨ bits e 56 8 ≠ 0 ∨ next % size ≠ 0 then .fatal
        else walkFrom s part va next ls

/-- The table entries that a walk reads, by physical address (22 R384). -/
def walkReads (s : State) (part va : Nat) : Nat → List Level → List Nat
  | _, [] => []
  | table, l :: ls =>
    let pa := table + 8 * bits va l.lo l.bits
    if dramBytes < pa + 8 ∨ s.keyOf false (pa / 65536) ≠ (s.part part).desc.tkey then []
    else
      let e := s.mem.readNat (dramKey pa) 8
      pa :: (if e % 4 = 1 then walkReads s part va (bits e 8 48 * 256) ls else [])

/-- Whether the walker unit of a partition's die stalls, because the firmware core that serves it is halted (21 R370, 23 R406). -/
def State.walkerHalted (s : State) (part : Nat) : Bool := s.dev.fwHalted.contains (3 * dieOf part + 2)

/-- The walk of a virtual address in a partition's context: a cached translation where there is one (22 R389). A walk that the
walker unit cannot make waits as for a page that is not present, until the unit goes on (23 R406). -/
def State.walk (s : State) (part va : Nat) : Walk :=
  let p := s.part part
  match p.tlb.find? fun e => e.1 == va / 65536 with
  | some e => .leaf e.2
  | none => if s.walkerHalted part then .notPresent else walkFrom s part va p.desc.root.toNat levels

/-- Keep the translation of a successful walk (22 R389). -/
def State.cacheLeaf (s : State) (part va : Nat) (l : Leaf) : State :=
  s.modPart part fun p =>
    if p.tlb.any fun e => e.1 == va / 65536 then p else { p with tlb := (va / 65536, l) :: p.tlb }

/-- A place that an address names: its key, whether it holds tags, whether the page is optimizer-managed. -/
structure Place where
  key    : Nat
  tagged : Bool
  opt    : Bool := false
  deriving DecidableEq, Repr

/-- Correct and count what an access of `n` bytes finds at a place (22 R398), and count the bad tags that it reads (06 R134). -/
def State.touchPlace (s : State) (pl : Place) (n : Nat) (reads : Bool) : State :=
  let s := s.touch pl.key n
  if reads && pl.tagged then s.touchTags pl.key n else s

/-- Where an address leads. -/
inductive Loc where
  | mem (p : Place)
  | peer (dev win off : Nat) (tagged : Bool)
  | notPresent (va : Nat)
  | violation
  | fatal
  | scratchOut
  | stackOut
  | noncanon
  deriving DecidableEq, Repr

/-- A read of `n` bytes of a place by something other than a fibre's access corrects and counts what it finds in the same way; `tags`
where it reads their tags too. -/
def State.touchLoc (s : State) (l : Loc) (n : Nat) (tags : Bool := true) : State :=
  match l with
  | .mem pl => if s.mem.sound then s else s.touchPlace pl n tags
  | _ => s

/-- The location of a byte of a global page, under write permission where it is written (22 R386, R387). -/
def State.globalLoc (s : State) (part va : Nat) (write : Bool) : Loc :=
  match s.walk part va with
  | .notPresent => .notPresent va
  | .fatal => .fatal
  | .leaf l =>
    let off := va % 65536
    if write && (!l.w || l.ws) then .violation
    else if l.target = 0#2 then
      if l.ws then .mem ⟨wsKey (l.frame * 65536 + off), l.tagged, false⟩
      else .mem ⟨dramKey (l.frame * 65536 + off), l.tagged, l.opt⟩
    else if l.target = 1#2 then .mem ⟨hostKey (l.frame * 65536 + off), false, false⟩
    else .peer (bits l.frame 30 10) (bits l.frame 20 10) (bits l.frame 0 20 * 65536 + off) l.tagged

/-- A walk that an access takes corrects and counts what it finds in the tables (22 R398). -/
def State.touchWalk (s : State) (part va : Nat) : State :=
  let q := s.part part
  if s.mem.sound || (q.tlb.any fun e => e.1 == va / 65536) then s
  else (walkReads s part va q.desc.root.toNat levels).foldl (fun s pa => s.touch (dramKey pa) 8) s

/-- Keep the translation that an access used. -/
def State.cached (s : State) (part va : Nat) : State :=
  match s.walk part va with
  | .leaf l => (s.touchWalk part va).cacheLeaf part va l
  | _ => s

/-- Whether bytes at a physical address lie in a partition's own DRAM (22 R386). -/
def ownDram (part pa n : Nat) : Bool :=
  decide (partOf (pa / 2 ^ 31) = part) && decide (partOf ((pa + (n - 1)) / 2 ^ 31) = part) && decide (pa + n ≤ dramBytes)

/-- The logical number of a core of a partition (20 R359). -/
def Part.coreSlot (q : Part) (core : Nat) : Nat := (q.coreTab.idxOf? (core % Config.perPart)).getD (core % Config.perPart)

/-- The physical address of offset `o` of a fibre's stack (04 R91, 22 R394). -/
def State.stackAt (s : State) (p : Pour) (base o : Nat) : Nat :=
  let q := s.part p.part
  q.desc.stack.toNat + q.desc.stklen * q.coreSlot p.core + base + o

/-- The physical key of offset `o` of a fibre's stack. -/
def State.stackKey (s : State) (p : Pour) (base o : Nat) : Nat := dramKey (s.stackAt p base o)

/-- The location of `w` bytes for a lane of a fibre (04 R83 to R92). `stk` is the fibre's stack base, if it has one. A stack that
the descriptor lays outside the partition's own DRAM meets the fatal fault of a frame there (00 R12, 22 R387; log 20). -/
def State.locate (s : State) (p : Pour) (stk : Option Nat) (a : BitVec 64) (w : Nat) (write : Bool) : Loc :=
  match aperture a with
  | .outside => .noncanon
  | .scratch o =>
    if o + w ≤ p.hdr.scratch then .mem ⟨scratchKey p.core (p.scratch + o), true, false⟩ else .scratchOut
  | .stack o =>
    match stk with
    | none => .stackOut
    | some b =>
      if p.hdr.stack < o + w then .stackOut
      else if ownDram p.part (s.stackAt p b o) w then .mem ⟨s.stackKey p b o, true, false⟩
      else .fatal
  | .global va => s.globalLoc p.part va write

/-- Whether a key lies in an open refresh window of its weave's die at a core cycle (04 R94): die of the partition and
bank group. -/
def wsGroup (k : Nat) : Option (Nat × Nat) :=
  match sortOfKey k with
  | .ws =>
    let a := k - 2 ^ 40
    some (dieOf (a / 2 ^ 27), a / 4096 % 4)
  | _ => none

/-- The refresh phase (04 R94): core cycles since the weight store left reset, modulo 56,320. -/
def refreshPhase (clk : Nat) : Nat := clk % 56320

/-- Whether the window of a group is open (04 R94). -/
def windowOpen (clk g : Nat) : Bool :=
  let ph := refreshPhase clk
  decide (g * 14080 ≤ ph) && decide (ph < g * 14080 + 1760)

end Sys2Proof.Machine
end

