-- ==== Sys2Proof/Machine/Queue.lean ====
section
/-!
DEFINITION. Machine/Queue.lean: task records, queues and signals (03 R56 to R63), the rings of device memory (22 R391, 23
R416), the fault queue (22 R391), the end of pours and tasks, and the request-tag purge (22 R400, R401).
-/

namespace Sys2Proof.Machine

/-- The range that a record names (03 R56). -/
def Task.range (t : Task) : Option Nat := if t.rvalid then some t.rid.toNat else none

/-- The successor that a record names (03 R56). -/
def Task.succ (t : Task) : Option Word := if t.svalid then some t.heir else none

/-- The fields of a 64-byte record image (03 R56), where it is well-formed (R57). -/
def parseRecord (part : Nat) (n : Nat) : Option Task :=
  let code := bits n 0 64
  let frame := bits n 64 64
  let tier := bits n 205 1 = 1
  let psize := bits n 192 11
  let nfib := bits n 160 32
  let rpair := bits n 206 1 = 1
  let status := bits n 320 64
  if bits n 231 25 ≠ 0 ∨ bits n 289 31 ≠ 0 ∨ nfib = 0 ∨ psize = 0 ∨ psize > 1024 ∨ (tier ∧ psize ≠ 1)
      ∨ (tier ∧ rpair) ∨ 2 ^ 57 ≤ code ∨ 2 ^ 57 ≤ frame ∨ status % 8 ≠ 0 then none
  else
    some { part := part, queue := bits n 203 2, slot := 0, gen := 0, code := BitVec.ofNat 64 code,
           frame := BitVec.ofNat 64 frame, join := BitVec.ofNat 32 (bits n 128 32), nfib := BitVec.ofNat 32 nfib,
           psize := psize, prio := bits n 203 2, tier := tier, rpair := rpair, assay := bits n 207 1 = 1,
           rtag := BitVec.ofNat 16 (bits n 208 16),
           rid := BitVec.ofNat 6 (bits n 224 6), rvalid := bits n 230 1 = 1,
           heir := BitVec.ofNat 32 (bits n 256 32), svalid := bits n 288 1 = 1,
           status := BitVec.ofNat 64 status, sw := BitVec.ofNat 128 (bits n 384 128) }

/-- The task in a slot of a queue. -/
def State.slotTask (s : State) (part q slot : Nat) : Option (Nat × Task) :=
  s.tasks.find? fun e => e.2.part == part && e.2.queue == q && e.2.slot == slot && !e.2.adrift

/-- The first free slot of a queue in ring order from `i`, where one is found within the count of slots left. -/
def State.freeSlotFrom (s : State) (part q cap : Nat) : Nat → Nat → Option Nat
  | 0, _ => none
  | n + 1, i =>
    match s.slotTask part q (i % cap) with
    | none => some (i % cap)
    | some _ => State.freeSlotFrom s part q cap n (i + 1)

/-- How many records a queue holds. -/
def State.queueLoad (s : State) (part q : Nat) : Nat :=
  (s.tasks.filter fun e => e.2.part == part && e.2.queue == q && !e.2.adrift).length

/-- The handle of a slot (03 R58). -/
def handleOf (q gen slot : Nat) : Word := BitVec.ofNat 32 (q * 2 ^ 30 + gen * 2 ^ 20 + slot)

def Task.handle (t : Task) : Word := handleOf t.queue t.gen t.slot

/-- The 64 bytes of a record (03 R56). -/
def Task.image (t : Task) : Nat :=
  t.code.toNat + t.frame.toNat * 2 ^ 64 + t.join.toNat * 2 ^ 128 + t.nfib.toNat * 2 ^ 160 + t.psize * 2 ^ 192
    + t.prio * 2 ^ 203 + (if t.tier then 2 ^ 205 else 0) + (if t.rpair then 2 ^ 206 else 0)
    + (if t.assay then 2 ^ 207 else 0) + t.rtag.toNat * 2 ^ 208
    + t.rid.toNat * 2 ^ 224 + (if t.rvalid then 2 ^ 230 else 0) + t.heir.toNat * 2 ^ 256 + (if t.svalid then 2 ^ 288 else 0)
    + t.status.toNat * 2 ^ 320
    + t.sw.toNat * 2 ^ 384

/-- Whether the dispatch of a partition cannot write at an address now (23 R406): the firmware core that serves the die's dispatcher
is halted, or that of the walker unit is, and the write needs a walk. -/
def State.dispatchWaits (s : State) (part : Nat) (a : BitVec 64) : Bool :=
  s.dev.fwHalted.contains (3 * dieOf part + 1)
    || (match aperture a with
        | .global va =>
          s.walkerHalted part && (match s.globalLoc part va true with | .notPresent _ => true | _ => false)
        | _ => false)

/-- The address of a record's slot of the ring (03 R58). -/
def State.slotAddr (s : State) (t : Task) : BitVec 64 :=
  ((s.part t.part).queues.getD t.queue {}).base + BitVec.ofNat 64 (64 * t.slot)

/-- Keep a record's bytes in its slot of the ring (03 R58, 21 R363), where the context maps the slot for writing. A write that the
dispatch cannot make now is made when its unit goes on (23 R406, log 29). -/
def State.writeSlot (s : State) (tid : Nat) : State :=
  match s.task? tid with
  | none => s
  | some t =>
    if t.adrift then s
    else if s.dispatchWaits t.part (s.slotAddr t) then s.modTask tid fun t => { t with unwritten := true }
    else
      let s := s.modTask tid fun t => { t with unwritten := false }
      match aperture (s.slotAddr t) with
      | .global va =>
        match s.globalLoc t.part va true with
        | .mem p => { s with mem := s.mem.store p.key (leBytes 64 t.image) }
        | _ => s
      | _ => s

/-- Enter a record in its queue (03 R58, R62): the handle, or none where the queue is disabled or full. -/
def State.enter (s : State) (t : Task) : Option Word × State :=
  let q := (s.part t.part).queues.getD t.queue {}
  let cap := 2 ^ q.lcap
  if !q.en then (none, s)
  else
    match s.freeSlotFrom t.part t.queue cap (min cap (s.queueLoad t.part t.queue + 1)) q.next with
    | none => (none, s)
    | some slot =>
      let gen := SMap.getD q.gens slot 0
      let t := { t with slot := slot, gen := gen, ready := if t.join = 0#32 then some s.clk else none }
      let (id, s) := s.fresh
      let s := { s with tasks := SMap.put s.tasks id t }
      let s := s.modPart t.part fun p =>
        { p with queues := p.queues.set t.queue { q with next := (slot + 1) % cap } }
      (some t.handle, (s.writeSlot id))

/-- Pours, or instances, of a record (03 R65, R71). -/
def Task.total (t : Task) : Nat := (t.nfib.toNat + t.psize - 1) / t.psize

/-- The ready records of a level that are not placed whole, in ready order (03 R62, R65). -/
def State.readyAt (s : State) (part lvl : Nat) : List (Nat × Task) :=
  (s.tasks.filter fun e =>
    e.2.part == part && e.2.queue == lvl && e.2.ready.isSome && decide (e.2.placed < e.2.total) && !e.2.suspended
      && e.2.ending.isNone).mergeSort
      fun a b =>
        let x := a.2.ready.getD 0
        let y := b.2.ready.getD 0
        decide (x < y) || (decide (x = y) && decide (a.2.slot ≤ b.2.slot))

/-- An age count is 0 whenever its level has no ready unplaced record (03 R67). -/
def State.settleAges (s : State) (part : Nat) : State :=
  s.modPart part fun p =>
    { p with ages := p.ages.zipIdx.map fun a => if (s.readyAt part (a.2 + 1)).isEmpty then 0 else a.1 }

/-- Free a task's slot: its generation rises (03 R58, R63). -/
def State.freeTask (s : State) (tid : Nat) : State :=
  match s.task? tid with
  | none => s
  | some t =>
    let s := s.modPart t.part fun p =>
      let q := p.queues.getD t.queue {}
      { p with
        queues := if t.adrift then p.queues else p.queues.set t.queue { q with gens := SMap.putD 0 q.gens t.slot ((t.gen + 1) % 1024) }
        choice := if p.choice.any fun c => c.task == tid then none else p.choice.map fun c => { c with blocked := false }
        ranges := p.ranges.map fun e => if e.2.task == some tid then (e.1, {}) else e }
    ({ s with tasks := SMap.erase s.tasks tid, sync := s.sync.filter fun e => !(e.1 == SyncKey.task tid) }).settleAges t.part

/-- Whether a record, still in its slot, is named by a handle (03 R58). -/
def State.byHandle (s : State) (part : Nat) (h : Word) : Option (Nat × Task) :=
  let q := bits h.toNat 30 2
  let gen := bits h.toNat 20 10
  let slot := bits h.toNat 0 20
  match s.slotTask part q slot with
  | none => none
  | some e => if e.2.gen = gen then some e else none

/-- Count a stray signal (03 R61). -/
def State.strayed (s : State) (part : Nat) : State := s.modPart part fun p => { p with stray := satAdd p.stray 1 }

/-- `TSIG` (03 R61): reduce a record's join counter by an amount; a stray signal is counted, and an amount of zero changes nothing. The clock is what the
signal releases (R64). -/
def State.signal (s : State) (part : Nat) (h amount : Word) (clock : Clock) : State :=
  match s.byHandle part h with
  | none => s.strayed part
  | some (tid, t) =>
    if t.ready.isSome then s.strayed part
    else if amount = 0#32 ∧ t.join ≠ 0#32 then s
    else
      let left := t.join.toNat - min amount.toNat t.join.toNat
      let s := if t.join.toNat < amount.toNat then s.strayed part else s
      let t := { t with join := BitVec.ofNat 32 left, clock := joinClock t.clock clock,
                        ready := if left = 0 then some s.clk else none }
      ((s.modTask tid fun _ => t).writeSlot tid)

/-- Write for a partition at a physical address that its driver gave. DESIGN CHOICE (log 20): bytes outside the partition's own
DRAM are not written, so that a bad address stays confined to it (00 R12). -/
def State.writePhys (s : State) (part pa : Nat) (bs : List Byte) : State :=
  if ownDram part pa bs.length then let s := s.touchPart (dramKey pa) bs.length; { s with mem := s.mem.store (dramKey pa) bs } else s

/-- Write for a partition under a key (22 R393). DEDUCED (log 71): a frame whose key map entry is another key takes no write. -/
def State.writeUnder (s : State) (part : Nat) (k : BitVec 6) (pa : Nat) (bs : List Byte) : State :=
  if s.keyOf false (pa / 65536) = k ∧ s.keyOf false ((pa + (bs.length - 1)) / 65536) = k then s.writePhys part pa bs else s

/-- Write under the table key of a partition's context (22 R393, 23 R416, 24 R419). -/
def State.writeCtx (s : State) (part pa : Nat) (bs : List Byte) : State := s.writeUnder part (s.part part).desc.tkey pa bs

/-- The entries of a ring, and whether it is on and has room (22 R391, 23 R416). -/
def Ring.cap (r : Ring) : Nat := 2 ^ (r.cfg.toNat % 32)
def Ring.en (r : Ring) : Bool := r.cfg.getLsbD 31
def Ring.used (r : Ring) : Nat := (r.tail - r.head).toNat
def Ring.room (r : Ring) : Bool := r.en && decide (r.used < r.cap)

/-- The place of a ring's next entry. -/
def Ring.at (r : Ring) : Nat := r.base.toNat + 32 * (r.tail.toNat % r.cap)

/-- A ring after an entry for it: one that finds it full or off is dropped and counted (23 R416). -/
def Ring.put (r : Ring) : Ring := if r.room then { r with tail := r.tail + 1#32 } else { r with drop := satAdd r.drop 1 }

/-- Append 32 bytes to a ring of a partition. -/
def State.ringPut (s : State) (part : Nat) (r : Ring) (bs : List Byte) : Ring × State :=
  (r.put, if r.room then s.writePhys part r.at bs else s)

/-- A record of the kernel trace (23 R416). -/
structure TraceRec where
  type   : Nat
  why    : Nat := 0
  core   : Nat
  handle : Word
  pour   : Nat
  pc     : Nat
  rank   : Nat
  detail : Nat := 0
  deriving DecidableEq, Repr

/-- Bits 31:0 of a core's count of core cycles (09 R196). -/
def State.cyc (s : State) (core : Nat) : Word := (s.core core).cycOff + BitVec.ofNat 32 s.clk

/-- Write a trace record (23 R416), under the context's table key. -/
def State.trace (s : State) (part : Nat) (r : TraceRec) : State :=
  let n := r.type + r.why * 2 ^ 4 + r.core * 2 ^ 8 + r.handle.toNat * 2 ^ 32 + (r.pour % 2 ^ 32) * 2 ^ 64
    + (s.cyc r.core).toNat * 2 ^ 96 + (r.pc % 2 ^ 27) * 2 ^ 128 + r.rank * 2 ^ 160 + r.detail * 2 ^ 192
  let ring := (s.part part).trace
  let s := if ring.room then s.writeCtx part ring.at (leBytes 32 n) else s
  s.modPart part fun p => { p with trace := ring.put }

/-- The number of an entry's source (22 R391). -/
def FaultSrc.num : FaultSrc → Nat
  | .fibre => 0 | .code => 1 | .copy => 2 | .mmul => 3 | .mdrain => 4 | .engine => 5 | .crucible => 6 | .put => 7

/-- Enter waiting faults in the partition's ring while it has room, oldest first (22 R391). -/
def State.flushFaults (s : State) (part : Nat) : State :=
  (s.part part).faults.foldl (fun s f =>
    let p := s.part part
    if f.entered || f.walk || !p.fq.room then s
    else
      let seq := p.fqseq
      let n := f.va.toNat + f.src.num * 2 ^ 64 + (if f.wr then 2 ^ 67 else 0) + f.core * 2 ^ 68 + seq.toNat * 2 ^ 96
        + f.rtag.toNat * 2 ^ 128
      let s := s.writePhys part p.fq.at (leBytes 32 n)
      let s := if p.fq.used = 0 then s.msix 0 3 else s
      s.modPart part fun p =>
        { p with
          fq := { p.fq with tail := p.fq.tail + 1#32 }
          fqseq := p.fqseq + 1#32
          faults := p.faults.map fun g => if g.id == f.id then { g with seq := seq, entered := true } else g }) s

/-- Report a not-present page (22 R391): the fault that its party waits for. A page with an unanswered fault adds no
entry, and a walk that the walker unit has yet to make enters none either (23 R406). -/
def State.reportFault (s : State) (part va : Nat) (src : FaultSrc) (wr : Bool) (core : Nat) (rtag : BitVec 16) :
    Nat × State :=
  match (s.part part).faults.find? fun f => f.va.toNat / 65536 == va / 65536 with
  | some f =>
    (f.id, s.modPart part fun p =>
      { p with faults := p.faults.map fun g =>
          if g.id == f.id && !(g.rtag == rtag || g.also.contains rtag) then { g with also := rtag :: g.also } else g })
  | none =>
    let (id, s) := s.fresh
    let f : PageFault :=
      { id := id, va := BitVec.ofNat 64 va, src := src, wr := wr, core := core, rtag := rtag, walk := s.walkerHalted part }
    (id, (s.modPart part fun p => { p with faults := p.faults ++ [f] }).flushFaults part)

/-- Words of a fibre's footprint in its lane bank (02 R30). -/
def Header.footprint (h : Header) : Nat := (16 + h.rejoin + h.regs + 3) / 4 * 4

/-- Words allocated in a lane bank of a core. -/
def State.bankUse (s : State) (core quad lane : Nat) : Nat :=
  s.fibres.foldl (fun n e =>
    match s.pour? e.2.pour with
    | some p => if p.core = core ∧ e.2.quad = quad ∧ e.2.lane = lane then n + p.hdr.footprint else n
    | none => n) 0

/-- Whether some lane bank of a core has more than 512 words allocated (20 R350). -/
def State.bankOver (s : State) (core : Nat) : Bool :=
  (s.fibres.any fun e =>
    match s.pour? e.2.pour with
    | some p => p.core == core && decide (512 < s.bankUse core e.2.quad e.2.lane)
    | none => false)

/-- Keep the mirror's state with the allocation (20 R350): it stops above 512 words in a bank, and its copy starts once
every bank is at or below; where nothing is allocated there is nothing to copy. -/
def State.mirrorCheck (s : State) (core : Nat) : State :=
  let above := s.bankOver core
  let used := s.fibres.any fun e => match s.pour? e.2.pour with | some p => p.core == core | none => false
  s.modCore core fun c =>
    if above then { c with mirror := false, copying := false }
    else if c.mirror then c
    else { c with mirror := !used, copying := used }

/-- Whether a peer window has a sender entry (22 R390). -/
def State.hasSender (s : State) (part dev win : Nat) : Bool := (SMap.get? (s.part part).senders (dev * 1024 + win)).isSome

/-- The pour that stands for a task in a remote store that no fibre makes. -/
def Task.stub (t : Task) : Pour :=
  { part := t.part, core := Config.perPart * t.part, slot := 0, task := 0, idx := 0, first := 0#32, hdr := {}, code := t.code, scratch := 0 }

/-- A one-sided put of a few words (04 R97): it is in flight until its acknowledgement, which counts on the window's sender
counter. -/
def State.sendStore (s : State) (c : Cmd) (dev win : Nat) (m : FabricPut) : State :=
  let (id, s) := s.fresh
  let s := { s with cmds := s.cmds ++ [{ c with id := id, kind := .put, state := .sent, remote := some (dev, win) }] }
  s.modDev fun d => { d with fabric := d.fabric ++ [.store dev m] }

/-- A completion word that is not written (03 R63): CWFAIL rises. -/
def State.wordLost (s : State) (part : Nat) : State := s.modPart part fun q => { q with cwfail := satAdd q.cwfail 1 }

/-- Write a task's completion word (03 R63), at a peer by a remote store (04 R97); where its address cannot be written, CWFAIL
rises. DESIGN CHOICE (log 72): an address in a scratchpad or stack aperture, or outside the apertures, is one that cannot be
written, and so is a window without a sender entry. -/
def State.completionWord (s : State) (t : Task) (outcome : Nat) : State :=
  let bs := leBytes 8 (t.rtag.toNat + outcome * 65536)
  if t.status = 0#64 then s
  else
    match aperture t.status with
    | .global va =>
      match s.globalLoc t.part va true with
      | .mem p =>
        let s := (s.cached t.part va).touchPart p.key 8
        let m := s.mem.store p.key bs
        { s with mem := if p.tagged then m.setTag p.key Config.noTag else m }
      | .peer d w o _ =>
        if s.hasSender t.part d w then
          s.sendStore { id := 0, core := Config.perPart * t.part, pour := 0, kind := .put, addr := 0#64, here := Config.noTag, pc := 0
                        rank := 0, pend := none, owner := t.stub, rtag := t.rtag } d w
            (putOf w o false { bytes := bs, poison := [false] } t.rtag)
        else s.wordLost t.part
      | _ => s.wordLost t.part
    | _ => s.wordLost t.part

/-- A task ends (03 R63): its completion word, its signal where it completed, its slot. While its dispatch cannot write the word, the
outcome that it began to complete with stands until the unit goes on (23 R406, log 29). -/
def State.endTask (s : State) (tid outcome : Nat) : State :=
  match s.task? tid with
  | none => s
  | some t =>
    let outcome := t.ending.getD outcome
    if s.dispatchWaits t.part t.status then s.modTask tid fun t => { t with ending := some outcome }
    else
      let s := s.completionWord t outcome
      let s :=
        match t.succ with
        | some h => if outcome = 0 then s.signal t.part h 1#32 (s.syncOf (.task tid)) else s
        | none => s
      (s.freeTask tid)

/-- A dispatcher or a walker unit goes on (23 R406): the slots and the completions that waited for it. -/
def State.dispatchOn (s : State) (part : Nat) : State :=
  let s := (s.tasks.filter fun e => e.2.part == part && e.2.unwritten).foldl (fun s e => s.writeSlot e.1) s
  (s.tasks.filter fun e => e.2.part == part && e.2.ending.isSome && !e.2.suspended).foldl (fun s e => s.endTask e.1 0) s

/-- Whether a command or result belongs to a pour. -/
def pendOf (pid : Nat) (p : Pending) : Bool := p.pour == pid

/-- Whether a synchronization object is a pour's own, or lies in its scratchpad range. -/
def SyncKey.ofPour (k : SyncKey) (pid lo len : Nat) : Bool :=
  let inside (l : Nat) : Bool := decide (lo ≤ l) && decide (l < lo + len)
  match k with
  | .atomic l p => p == some pid || inside l
  | .fence p => p == some pid
  | .bar p _ | .rdv p => p == pid
  | .phase l | .phaseDone l => inside l
  | _ => false

/-- Forget the accesses and the synchronization of a pour's own memory, which the next pour there does not meet. -/
def State.forgetPour (s : State) (pid : Nat) (p : Pour) : State :=
  let lo := scratchKey p.core p.scratch
  { s with
    hist := s.hist.filter fun h => !(decide (lo ≤ h.lo) && decide (h.lo < lo + p.hdr.scratch))
    sync := s.sync.filter fun e => !e.1.ofPour pid lo p.hdr.scratch }

/-- A pour has ended: the dispatch of the partition tries its choice again (03 R68), and a STOP that waited for the pour names none
any more (23 R409, R414; log 31). -/
def State.unblock (s : State) (p : Pour) : State :=
  let cmd := match p.dbg with | .stopping r => r.cmd | _ => false
  s.modPart p.part fun q =>
    { q with
      choice := q.choice.map fun c => { c with blocked := false }
      dbgres := if cmd then 4#128 else q.dbgres }

/-- Take a pour and all that runs for it off its core (03 R32, 22 R401). Copies in flight stay unless `stop`. -/
def State.removePour (s : State) (pid : Nat) (stop : Bool) : State :=
  match s.pour? pid with
  | none => s
  | some p =>
    let ws := (s.weaves.filter fun e => e.2.pour == pid).map (·.1)
    let s := (s.forgetPour pid p).unblock p
    let s := { s with
      fibres := s.fibres.filter fun e => e.2.pour != pid
      weaves := s.weaves.filter fun e => e.2.pour != pid
      engines := s.engines.filter fun e => e.2.pour != pid
      pours := SMap.erase s.pours pid
      held := s.held.filter fun h => h.op.pour != pid
      pend := if stop then s.pend.filter fun q => !pendOf pid q else s.pend
      cmds := if stop then s.cmds.filter fun c => c.pour != pid else s.cmds
      pairs := s.pairs.filter fun e => e.2.lead != pid && e.2.trail != pid }
    let s := s.modCore p.core fun c =>
      { c with
        mat := match c.mat with
               | some m => if m.pour = pid then none else some m
               | none => none
        turn := c.turn.map fun t => match t with
               | some w => if ws.contains w then none else some w
               | none => none }
    s.mirrorCheck p.core

/-- Send a purge message on every fabric port of the partition (22 R401). -/
def State.purgeMessages (s : State) (part : Nat) (rtag : BitVec 16) : State :=
  s.modDev fun d => { d with fabric := d.fabric ++ ((s.portsOf part).map fun k => FabricMsg.purge k rtag) }

/-- The pour of a sample's replay leaves its core (24 R421). -/
def State.dropReplay (s : State) (m : Sample) : State :=
  match m.replay with
  | none => s
  | some (core, pid) =>
    { s with
      pours := SMap.erase s.pours pid
      fibres := s.fibres.filter fun e => e.2.pour != pid }.mirrorCheck core

/-- Abandon the partition's sample (24 R424). -/
def State.abandon (s : State) (part : Nat) : State :=
  match (s.part part).sample with
  | none => s
  | some m =>
    ((s.dropReplay m).modPart part fun p => { p with sample := none, asyaban := satAdd p.asyaban 1 }).modPour m.pour fun p =>
      { p with assay := false }

/-- Steps 1 to 4 of a purge for some tasks (22 R401): each leaves its queue, its pours and instances stop, and its completion word is
written with outcome 1. A task whose completion has begun keeps its outcome. -/
def State.purgeIds (s : State) (ts : List Nat) : State :=
  ts.foldl (fun s t =>
    let ps := (s.pours.filter fun q => q.2.task == t).map (·.1)
    let s := ps.foldl (fun s p => s.removePour p true) s
    let s := { s with
      crucibles := s.crucibles.filter fun c => c.2.task != t
      cmds := s.cmds.filter fun c => !(c.owner.task == t) }
    s.endTask t 1) s

/-- Steps 1 to 4 of a purge in a partition (22 R401): every task bearing the tag leaves its queue, its pours and
instances stop, and its completion word is written with outcome 1. -/
def State.purgeTasks (s : State) (part : Nat) (rtag : BitVec 16) : State :=
  s.purgeIds ((s.tasks.filter fun e => e.2.part == part && e.2.rtag == rtag && !e.2.suspended).map (·.1))

/-- The steps of a purge in the device (22 R401): every task bearing the tag, the puts that land for it, and a record with
each suspended context that it names, to be applied at its restore. -/
def State.purgeHere (s : State) (part : Nat) (rtag : BitVec 16) : State :=
  let s := s.modPart part fun p =>
    { p with landing := p.landing.filter fun e => e.2.rtag != rtag, saved := p.saved.map fun e =>
        if e.2.tasks.any fun t => match s.task? t with | some t => t.rtag == rtag | none => false then
          (e.1, { e.2 with purges := e.2.purges ++ [rtag] })
        else e }
  (s.purgeTasks part rtag)

/-- The steps of a purge (22 R401), with its messages on the fabric. -/
def State.purgeTag (s : State) (part : Nat) (rtag : BitVec 16) : State := (s.purgeMessages part rtag).purgeHere part rtag

/-- Note a purge (22 R400): PLAST with its cause in the order of that list, PCOUNT, vector 4, the trace record (23 R416),
and the sample that it abandons (24 R424). A purge that the list does not name has a free cause, and the record's other fields,
which no rule gives for a purge, are free (log 23). -/
def State.notePurge (s : State) (part : Nat) (rtag : BitVec 16) (cause : Option Nat) : State :=
  let (c, s) := match cause with
    | some c => (c, s)
    | none => let (w, s) := s.takeFree; (w.toNat % 16, s)
  let s := s.modPart part fun p =>
    { p with plast := BitVec.ofNat 32 (rtag.toNat + c * 65536), pcount := satAdd p.pcount 1 }
  let s := s.msix 0 4
  let p := s.part part
  let s :=
    if p.tren then
      let (w0, s) := s.takeFree
      let (w1, s) := s.takeFree
      let (w2, s) := s.takeFree
      let (w3, s) := s.takeFree
      s.trace part { type := 4, core := Config.perPart * part + w0.toNat % Config.perPart, handle := w1, pour := w2.toNat
                     pc := w3.toNat % 2 ^ 27, rank := w0.toNat / 2 ^ 16, detail := p.plast.toNat }
    else s
  match p.sample with
  | some m => if m.rtag = rtag then s.abandon part else s
  | none => s

/-- The request-tag purge (22 R400, R401), with its cause in the order of R400. -/
def State.purge (s : State) (part : Nat) (rtag : BitVec 16) (cause : Nat) : State :=
  (s.notePurge part rtag (some cause)).purgeTag part rtag

/-- Purge the request tag of a pour's task. -/
def State.purgePour (s : State) (pid cause : Nat) : State :=
  match s.pour? pid with
  | none => s
  | some p =>
    match s.task? p.task with
    | none => s
    | some t => s.purge p.part t.rtag cause

/-- The end of a pour (03 R32, R63, R82): its task completes with the last one. -/
def State.endPour (s : State) (pid : Nat) : State :=
  match s.pour? pid with
  | none => s
  | some p =>
    let s := s.removePour pid false
    let s := s.modPart p.part fun q =>
      { q with sample := match q.sample with
        | some m => if m.pour = pid then some { m with ended := true } else some m
        | none => none }
    let s := s.modTask p.task fun t => { t with live := t.live - 1 }
    match s.task? p.task with
    | none => s
    | some t =>
      if t.live = 0 ∧ t.placed = t.total then s.endTask p.task 0 else s

/-- End a pour whose fibres have all ended and whose engines have halted (03 R32, R82). A pair's members end
together. -/
def State.endIfDone (s : State) (pid : Nat) : State :=
  let busy (q : Nat) : Bool := (s.fibres.any fun e => e.2.pour == q) || (s.engines.any fun e => e.2.pour == q)
  if busy pid then s
  else
    match s.pairs.find? fun e => e.2.lead == pid || e.2.trail == pid with
    | none => s.endPour pid
    | some e =>
      if busy e.2.lead || busy e.2.trail then s
      else (s.removePour e.2.trail false).endPour e.2.lead

end Sys2Proof.Machine
end

