-- ==== Sys2Proof/Machine/Records.lean ====
section
/-!
DEFINITION. Machine/Records.lean: fibres and weaves as bytes, in the layouts of 02 R30, R41 and 22 R396: header words, link words,
recast records, fibre records and weave records. Where R396 names the contents of a record and no places within it, the places
are the model's (log 73).
-/

namespace Sys2Proof.Machine

/-- A rejoin link in the layout of header word 14 (02 R30). A weave that is gone has no number in the weave table, and shows 0. -/
def State.linkWord (s : State) : Option Link → Nat
  | none => 0
  | some l =>
    (match s.weave? l.weave with | some v => v.idx % 4096 | none => 0) + l.jreg % 8 * 2 ^ 12 + l.gen.toNat * 2 ^ 15
      + (if l.stale then 2 ^ 23 else 0)

/-- A q register in its header word (02 R30). -/
def QReg.headWord (q : QReg) : Nat :=
  q.code.toNat + q.srcs.toNat * 2 ^ 16 + (if q.dep then 2 ^ 24 else 0) + (if q.poison then 2 ^ 25 else 0)

/-- Where a fibre stands in its pour (02 R30): rank, crew, home lane and quadrant, rejoin depth. -/
def Fibre.homeWord (f : Fibre) : Nat :=
  f.rank % 1024 + f.crew % 16 * 2 ^ 10 + f.lane % 32 * 2 ^ 14 + f.quad % 4 * 2 ^ 19 + f.outer.length % 128 * 2 ^ 21

/-- The 16 header words (02 R30). -/
def State.headWords (s : State) (f : Fibre) : List Nat :=
  let q (i : Nat) : QReg := f.q.getD i {}
  ((List.range 8).map fun i => (q i).headWord)
    ++ ((List.range 4).map fun i => (q (2 * i)).tag.toNat + (q (2 * i + 1)).tag.toNat * 2 ^ 16)
    ++ [f.num.toNat, f.homeWord, s.linkWord f.link, 0]

/-- The D link words (02 R30): word d − 1 holds the outer link that the `JARM` at depth d saved. -/
def State.linkWords (s : State) (f : Fibre) (depth : Nat) : List Nat :=
  let saved := f.outer.reverse
  (List.range depth).map fun i => s.linkWord (saved.getD i none)

/-- The words of a fibre's footprint (02 R30). Header and link words carry no tags and no poison. -/
def State.footWords (s : State) (f : Fibre) (h : Header) : List Reg :=
  let ws := s.headWords f ++ s.linkWords f h.rejoin
  let head := ws ++ List.replicate ((16 + h.rejoin + 3) / 4 * 4 - ws.length) 0
  (head.map fun w => { val := BitVec.ofNat 32 w }) ++ f.win

/-- Bits, eight to a byte. -/
def packBits (bs : List Bool) : List Byte :=
  (List.range ((bs.length + 7) / 8)).map fun k =>
    BitVec.ofNat 8 (((List.range 8).map fun j => if bs.getD (8 * k + j) false then 2 ^ j else 0).foldl (· + ·) 0)

/-- Zeros up to a multiple of `a` bytes. -/
def padTo (a : Nat) (bs : List Byte) : List Byte := bs ++ List.replicate ((a - bs.length % a) % a) 0#8

/-- The control words of a fibre (22 R396). Home lane, quadrant and crew stand as in header word 13 (log 73). -/
def Fibre.controlWords (f : Fibre) : List Nat :=
  [f.pc, f.pred.toNat, f.fpmode.toNat, f.tagmode.toNat, f.qtemp.toNat, f.qmode.toNat, f.lk.toNat, f.foot.length]
    ++ ((List.range 6).map fun i => (f.tinfoAt i).toNat)
    ++ [f.crew % 16 * 2 ^ 10 + f.lane % 32 * 2 ^ 14 + f.quad % 4 * 2 ^ 19, f.num.toNat]

/-- A fibre's record (22 R396): its control words, then the words of its footprint, their tags and their poison bits. -/
def State.fibreRecord (s : State) (f : Fibre) (h : Header) : List Byte :=
  let ws := s.footWords f h
  padTo 64 (f.controlWords.flatMap (leBytes 4) ++ ws.flatMap (fun w => leBytes 4 w.val.toNat)
    ++ ws.flatMap (fun w => leBytes 2 w.tag.toNat) ++ packBits (ws.map (·.poison)))

/-- A recast record (02 R41). -/
def State.recastRecord (s : State) (f : Fibre) (slot : Nat) : List Byte :=
  let state := match f.status with | .parked _ _ => 1 | .bar => 2 | .ready _ _ => 0 | .run | .rdv => 3
  let link := s.linkWord f.link
  leBytes 16 (f.pc % 2 ^ 32 + (f.pred ||| 1#16).toNat * 2 ^ 32 + f.wbase % 2 ^ 10 * 2 ^ 48 + f.lane % 32 * 2 ^ 58
    + f.quad % 4 * 2 ^ 63 + slot % 64 * 2 ^ 65 + state * 2 ^ 71 + link % 2 ^ 23 * 2 ^ 73 + f.outer.length % 128 * 2 ^ 96
    + link / 2 ^ 23 % 2 * 2 ^ 103)

/-- A guard window in two words. -/
def guardWords : Option Guard → List Nat
  | none => [0, 0]
  | some g => [g.excl.toNat, g.left]

/-- A rejoin register (02 R45). -/
def JReg.image (j : JReg) : Nat :=
  j.expect.toNat + j.arrived.toNat * 2 ^ 32 + j.state.toNat * 2 ^ 64 + j.gen.toNat * 2 ^ 66 + j.limit.toNat * 2 ^ 74
    + j.elapsed.toNat * 2 ^ 96

/-- A level of serial mode in four words: register and the runner's lane, members, arrived, the word of the first arrival; the lane
and the word each with a bit that says whether there is one. -/
def Serial.image (r : Serial) : List Nat :=
  let opt : Option Nat → Nat := fun o => match o with | some x => 2 * x + 1 | none => 0
  [r.jreg + 256 * opt r.runner, r.members.toNat, r.arrived.toNat, opt r.resume]

/-- The serial state of a weave: how many levels it has, then the innermost of them, as many as the record's first half holds. -/
def serialWords (ls : List Serial) : List Nat := ls.length :: (ls.take 5).flatMap Serial.image

/-- A weave's record (22 R396): occupancy, `member`, PC, guard state, the slot's priority, serial state, and j0 to j7 in its last
128 bytes (log 73). -/
def State.weaveRecord (s : State) (w : Nat) (v : Weave) : List Byte :=
  let prio := match s.pour? v.pour with
    | some p => (match s.task? p.task with | some t => t.prio | none => 0)
    | none => 0
  let pc := match (s.movers w).head? with | some e => e.2.pc | none => 0
  let ws := [(s.occupancy w).toNat, v.member.toNat, pc] ++ guardWords v.guard ++ guardWords (v.susp.head?.map (·.2)) ++ [v.hexcl.toNat]
    ++ [prio] ++ serialWords v.serial
  (padTo 128 (ws.flatMap (leBytes 4))) ++ (List.range 8).flatMap fun i => leBytes 16 (v.j.getD i {}).image

/-- Write the checkpoint of a weave to the context's checkpoint area (11 R248, 22 R394): for each of its fibres that has a place,
its record and that of the weave. -/
def State.writeCkpt (s : State) (w : Nat) (v : Weave) : State :=
  match s.pour? v.pour with
  | none => s
  | some p =>
    let q := s.part p.part
    let wr := s.weaveRecord w v
    (s.members w).foldl (fun s e =>
      match e.2.ckpt with
      | none => s
      | some o =>
        s.writePhys p.part (q.desc.ckpt.toNat + q.desc.ckptlen * q.coreSlot p.core + o) (s.fibreRecord e.2 p.hdr ++ wr)) s

/-- Write a weave's entry of the weave table to the context's backing area (02 R35, 22 R394), at the place of its number in its
core's slot. DESIGN CHOICE (log 96): the table holds the entries of the numbers below 256, and a weave of a higher number spills
where it gives up its issue slot. -/
def State.spillWeave (s : State) (w : Nat) : State :=
  match s.weave? w with
  | none => s
  | some v =>
    if v.idx < 256 || 2048 ≤ v.idx || v.slot.isNone then s
    else
      match s.pour? v.pour with
      | none => s
      | some p =>
        let q := s.part p.part
        s.writeCtx p.part (q.desc.back.toNat + 557056 * q.coreSlot p.core + 32768 + 256 * v.idx) (s.weaveRecord w v)

end Sys2Proof.Machine
end

