-- ==== Sys2Proof/Machine/Ops.lean ====
section
/-!
DEFINITION. Machine/Ops.lean: the named operations that instructions share: yield points and stalls (02 R54), the advance
of a weave and of an engine, the scoreboard (20 R353), the latch window (09 R188), result writes with error injection (22
R405), taking a trap and returning from it (13 R299 to R302), and the rendezvous of a redundant pair's traps (22 R403).
-/

namespace Sys2Proof.Machine

/-- The outcome of a step of this machine. -/
abbrev Out := Host.Outcome State Fault Refusal

/-! ## Pending registers -/

/-- Whether a register of a fibre waits for a result (20 R353). -/
def State.regPending (s : State) (f r : Nat) : Bool :=
  s.pend.any fun p =>
    match p.dest with
    | .fibres d lanes =>
      match SMap.get? lanes f with
      | some ws => decide (d ≠ 240) && decide (d ≤ r) && decide (r < d + ws.length) && !p.drop.contains (f, r)
      | none => false
    | .engine _ _ _ => false

/-- Whether any of `k` registers from a window code waits for a result. -/
def State.codePending (s : State) (f : Nat) (code : BitVec 8) (k : Nat) : Bool :=
  decide (code.toNat < 240) && (List.range k).any fun i => s.regPending f (code.toNat + i)

/-- Whether a register of an engine waits for a result. -/
def State.kPending (s : State) (e r : Nat) : Bool :=
  s.pend.any fun p =>
    match p.dest with
    | .engine g d ws =>
      g == e && decide (d ≠ 240) && decide (d ≤ r) && decide (r < d + ws.length) && !p.drop.contains (e, r)
    | .fibres _ _ => false

def State.kCodePending (s : State) (e : Nat) (code : BitVec 8) (k : Nat) : Bool :=
  decide (code.toNat < 64) && (List.range k).any fun i => s.kPending e (code.toNat + i)

/-! ## Yield points, stalls and the advance -/

/-- Whether a lane still runs to a serial level's JOIN (02 R53). -/
def Serial.has (sr : Serial) (lane : Nat) : Bool := sr.members.getLsbD lane && !sr.arrived.getLsbD lane

/-- Choose the runner of a weave in serial mode afresh (02 R53): the lowest home lane among the members of the outermost level
that run and have not arrived, but for those that a handler leaves behind. A level inside it is a lone fibre's, and each level
shows the weave's one runner. -/
def State.pickRunner (s : State) (w : Nat) : State :=
  match s.weave? w with
  | none => s
  | some v =>
    match v.serial.getLast? with
    | none => s
    | some sr =>
      let c := (s.byLane w).filter fun e => e.2.status == .run && sr.has e.2.lane && !v.hexcl.getLsbD e.2.lane
      let lane := c.head?.map (·.2.lane)
      s.modWeave w fun v => { v with serial := v.serial.map fun sr => { sr with runner := lane } }

/-- A yield point (02 R54): the latches are lost, the quadrant may pick another weave, and a runner is chosen afresh. -/
def State.yieldWeave (s : State) (w : Nat) : State :=
  match s.weave? w with
  | none => s
  | some v =>
    let s := s.modWeave w fun v => { v with latches := [], yielded := true, readyAt := s.clk }
    let s := s.modCore v.core fun c => { c with turn := c.turn.set v.quad none }
    s.pickRunner w

/-- A weave stalls at its instruction, which it will issue again; unless `keep`, the stall is a yield point (02 R54, 20
R355). -/
def State.stallWeave (s : State) (w : Nat) (k : StallKind) (keep : Bool := false) (fault : Option Nat := none) : State :=
  let s := if keep then s else s.yieldWeave w
  s.modWeave w fun v =>
    { v with stall := some { kind := k, since := (match v.stall with | some t => t.since | none => s.clk), fault := fault } }

/-- An engine stalls at its instruction. -/
def State.stallEngine (s : State) (e : Nat) (k : StallKind) (fault : Option Nat := none) : State :=
  s.modEngine e fun v =>
    { v with stall := some { kind := k, since := (match v.stall with | some t => t.since | none => s.clk), fault := fault } }

/-- Move fibres to a word. -/
def State.goTo (s : State) (fs : List Nat) (pc : Nat) : State := s.modFibres fs fun f => { f with pc := pc }

/-- The word offset a number of words after another. DESIGN CHOICE (log 92): modulo 2^32. -/
def offPc (pc : Nat) (off : Int) : Nat := (((pc : Int) + off) % 2 ^ 32).toNat

/-- A weave has executed an instruction of `len` words: its fibres stand at the next word, its guard window counts a lane
instruction (02 R38), and it holds the quadrant's turn unless this was a yield point. -/
def State.after (s : State) (w len : Nat) (lane yields : Bool) : State :=
  let ms := s.movers w
  let pc := match ms.head? with | some e => e.2.pc | none => 0
  let s := s.goTo (ms.map (·.1)) (pc + len)
  let s := s.modWeave w fun v =>
    { v with
      stall := none
      forked := []
      guard := if lane then
          match v.guard with
          | some g => if g.left ≤ 1 then none else some { g with left := g.left - 1 }
          | none => none
        else v.guard }
  if yields then s.yieldWeave w
  else
    match s.weave? w with
    | none => s
    | some v =>
      (s.modWeave w fun v => { v with yielded := false }).modCore v.core fun c => { c with turn := c.turn.set v.quad (some w) }

/-- An engine has executed an instruction of `len` words. -/
def State.afterEngine (s : State) (e len : Nat) : State :=
  s.modEngine e fun v => { v with pc := v.pc + len, stall := none }

/-! ## Results -/

/-- An armed injection of a kind at a word, for a lane of a pour (22 R405). -/
def State.injects (s : State) (p : Pour) (trail : Bool) (kind pc lane : Nat) : Bool :=
  let n := s.dev.injsel.toNat
  s.dev.injarm && decide (bits n 0 4 = kind) && decide (bits n 4 5 = p.part) && decide (bits n 10 27 = pc)
    && decide (bits n 37 5 = lane) && ((bits n 9 1 == 1) == trail) && decide (0 < bits n 48 8)

/-- One firing of the armed injection (22 R405). -/
def State.injFire (s : State) : State :=
  s.modDev fun d =>
    let n := d.injsel.toNat
    let shots := bits n 48 8
    { d with
      injsel := d.injsel - (1#64 <<< 48)
      injarm := decide (1 < shots)
      injfired := d.injfired + 1#32 }

/-- Whether a pour is the trailing member of its pair (22 R402). -/
def State.isTrail (s : State) (pid : Nat) : Bool := s.pairs.any fun e => e.2.trail == pid

/-- The words that an instruction writes in a lane, after an armed result flip or register parity error (22 R405): a flip
inverts the bit in the latch and in the banks, a parity error marks the word. -/
def State.inject (s : State) (pid pc lane : Nat) (ws : List Reg) : List Reg × State :=
  match s.pour? pid, ws with
  | some p, w0 :: rest =>
    let bit := bits s.dev.injsel.toNat 42 6
    if s.injects p (s.isTrail pid) 1 pc lane then
      ({ w0 with val := w0.val ^^^ (1#32 <<< bit) } :: rest, s.injFire)
    else if s.injects p (s.isTrail pid) 4 pc lane then ({ w0 with parity := true } :: rest, s.injFire)
    else (ws, s)
  | _, ws => (ws, s)

/-- Inject into the result words of each lane in order. -/
def State.injectAll (s : State) (pid pc : Nat) : SMap (List Reg) → SMap (List Reg) × State
  | [] => ([], s)
  | (f, ws) :: rest =>
    let lane := match s.fibre? f with | some v => v.lane | none => 0
    let (ws, s) := s.inject pid pc lane ws
    let (rest, s) := State.injectAll s pid pc rest
    ((f, ws) :: rest, s)

/-- Push a latch entry (09 R188): the result of each executing lane, by lane; for every other lane of the weave the
current words of the destination, or zero where it is 240. -/
def State.pushLatch (s : State) (w : Nat) (code : BitVec 8) (size : Nat) (res : SMap (List Reg)) (dead : Bool := false) :
    State :=
  let words := (s.byLane w).map fun e =>
    (e.2.lane,
      match SMap.get? res e.1 with
      | some ws => ws
      | none =>
        if code.toNat < 240 then (List.range size).map fun i => e.2.reg (code.toNat + i) else List.replicate size {})
  s.modWeave w fun v => { v with latches := (⟨words, size, dead⟩ :: v.latches).take 8 }

/-- Write result words to the banks of each executing lane, unless the word is `.NW` or the destination is 240 (09 R186,
R189). -/
def State.writeDest (s : State) (code : BitVec 8) (nw : Bool) (res : SMap (List Reg)) : State :=
  if nw || decide (240 ≤ code.toNat) then s
  else res.foldl (fun s e => s.modFibre e.1 fun f => f.setRegs code.toNat e.2) s

/-- A result of an instruction with a vector destination: the latch entry and the banks (09 R188, R189), with an armed
injection where a vector register is written (22 R405). -/
def State.result (s : State) (w pid pc : Nat) (code : BitVec 8) (nw : Bool) (size : Nat) (res : SMap (List Reg)) : State :=
  let (res, s) := if nw || decide (240 ≤ code.toNat) then (res, s) else s.injectAll pid pc res
  let s := s.pushLatch w code size res
  s.writeDest code nw res

/-- Correct or mark the parity errors of a register (22 R399): in the lanes that read it, corrected from the mirror and counted
in mirst; without a mirror, marked poisoned and counted, in the lanes that read it and in the weave's other lanes, whose words
are detected but not consumed (log 37). -/
def State.parityRead (s : State) (core : Nat) (readers others : List Nat) (code : BitVec 8) (k : Nat) : State :=
  if 240 ≤ code.toNat then s
  else
    (if (s.core core).mirror then readers else readers ++ others).foldl (fun s f =>
      (List.range k).foldl (fun s i =>
        match s.fibre? f with
        | none => s
        | some v =>
          let r := v.reg (code.toNat + i)
          if !r.parity then s
          else if (s.core core).mirror then
            (s.modFibre f fun v => v.putReg (code.toNat + i) { r with parity := false }).modCore core fun c =>
              { c with fixed := BitVec.ofNat 32 (min (c.fixed.toNat + 1) 0xFFFF) }
          else
            (s.modFibre f fun v => v.putReg (code.toNat + i) { r with parity := false, poison := true }).modCore core
              fun c => { c with parity := satAdd c.parity 1 }) s) s

/-- A read of a completed token is an acquire that ends the region (04 R99). -/
def State.tokenRead (s : State) (fs : List Nat) (code : BitVec 8) (k : Nat) : State :=
  if 240 ≤ code.toNat then s
  else
    fs.foldl (fun s f =>
      match s.fibre? f with
      | none => s
      | some v =>
        (List.range k).foldl (fun s i =>
          match SMap.get? v.toks (code.toNat + i) with
          | none => s
          | some c => s.acquireClock [f] c) s) s

/-! ## Checkpoints and rollback of redundant pairs -/

/-- Change a pair. -/
def State.modPair (s : State) (k : Nat) (g : Pair → Pair) : State := { s with pairs := SMap.modify s.pairs k g }

/-- Take the checkpoint of a weave of a pair (11 R248); a later one replaces it and ends a run of mismatches. -/
def State.checkpoint (s : State) (w : Nat) : State :=
  match s.weave? w with
  | none => s
  | some v =>
    match s.pairOf v.pour with
    | none => s
    | some (k, _) =>
      let c : Ckpt := { weave := { v with latches := [], stall := none, owes := false }, fibres := s.members w }
      (s.modPair k fun p => { p with ckpt := SMap.put p.ckpt w c, misses := SMap.erase p.misses w }).writeCkpt w v

/-- Whether fibres of a leading member's weave still have unmatched stores (22 R402). -/
def State.unmatched (s : State) (w : Nat) : Bool :=
  match s.weave? w with
  | none => false
  | some v =>
    match s.pairOf v.pour with
    | none => false
    | some (_, p) => p.lead == v.pour && (s.members w).any fun e => p.stores.any fun t => t.rank == e.2.rank

/-- The ranks at which a member of a pair waits for the other: at a trap, at a held operation, at its end. -/
def State.pairWaits (s : State) (p : Pair) (lead : Bool) : List Nat :=
  let ranks (w : Nat) : List Nat := (s.movers w).map (·.2.rank)
  (p.traps.filter (·.lead == lead)).flatMap (fun t => ranks t.weave)
    ++ (p.held.filter (·.lead == lead)).flatMap (fun h => ranks h.op.weave)
    ++ (p.ends.filter (·.1 == lead)).map (·.2)

/-- Discard what is pending for fibres: a result that arrives later is not written (22 R403, 23 R415). -/
def State.dropPending (s : State) (fs : List Nat) : State :=
  { s with pend := s.pend.map fun p =>
      match p.dest with
      | .fibres d lanes => { p with dest := .fibres d (lanes.filter fun e => !fs.contains e.1) }
      | .engine _ _ _ => p }

/-- The weave of a pour that holds the fibre of a rank. -/
def State.weaveOfRank (s : State) (pid rank : Nat) : Option Nat :=
  match s.fibres.find? fun e => e.2.pour == pid && e.2.rank == rank with
  | some e => e.2.weave
  | none => none

/-- Restore a weave of a pair from its checkpoint (22 R403). A store that is held was compared before it was, and is still to be
performed. -/
def State.restoreCkpt (s : State) (k w : Nat) : State :=
  match SMap.get? s.pairs k with
  | none => s
  | some p =>
    match SMap.get? p.ckpt w with
    | none => s
    | some c =>
      let fs := c.fibres.map (·.1)
      let s := s.dropPending fs
      let s := { s with
        fibres := c.fibres.foldl (fun m e =>
          match SMap.get? m e.1 with
          | some now => SMap.put m e.1 { e.2 with region := now.region + 1, clock := now.clock, foot := [] }
          | none => SMap.put m e.1 e.2) s.fibres
        held := s.held.filter fun h =>
          (h.op.kind.isStore && h.mate.isNone) || !(h.fibres.any fun f => fs.contains f)
        weaves := SMap.modify s.weaves w fun v => { c.weave with slot := v.slot, readyAt := s.clk, yielded := true, owes := v.owes } }
      s

/-- The fibres of one rank of a pair count as one (08 R162): after a rollback both stand in the same region, the later of the two. -/
def State.evenRegions (s : State) (p : Pair) (ranks : List Nat) : State :=
  let twins (r : Nat) : SMap Fibre := s.fibres.filter fun e => (e.2.pour == p.lead || e.2.pour == p.trail) && e.2.rank == r
  ranks.foldl (fun s r =>
    let n := (twins r).foldl (fun n e => max n e.2.region) 0
    s.modFibres ((twins r).map (·.1)) fun f => { f with region := n }) s

/-- A mismatch (22 R403, R404): both members' weaves roll back to their checkpoints, and unmatched stores and held
operations are discarded; the third in a row from one checkpoint makes the pair unrecoverable. -/
def State.mismatch (s : State) (k rank : Nat) : State :=
  match SMap.get? s.pairs k with
  | none => s
  | some p =>
    match s.pour? p.lead with
    | none => s
    | some lp =>
      let part := lp.part
      let s := s.modPart part fun q => { q with mism := satAdd q.mism 1 }
      let s := s.abandon part
      let w1 := (s.weaveOfRank p.lead rank).getD 0
      let w2 := (s.weaveOfRank p.trail rank).getD 0
      let n := SMap.getD p.misses w1 0 + 1
      if 3 ≤ n then (s.modPart part fun q => { q with unrec := satAdd q.unrec 1 }).purgePour p.lead 5
      else
        let old (w : Nat) : SMap Fibre := match SMap.get? p.ckpt w with | some c => c.fibres | none => []
        let ranks := (((s.members w1) ++ (s.members w2) ++ old w1 ++ old w2).map (·.2.rank)).eraseDups
        let s := s.modPair k fun p =>
          { p with
            misses := SMap.put p.misses w1 n
            stores := p.stores.filter fun t => !ranks.contains t.rank
            held := p.held.filter fun t => !ranks.contains t.rank
            traps := p.traps.filter fun t => !ranks.contains t.rank
            ends := p.ends.filter fun t => !ranks.contains t.2
            fails := p.fails.filter fun t => !ranks.contains t.who
            spawns := p.spawns.filter fun t => !ranks.contains t.2.1
            issued := ranks.foldl (fun m r =>
              let n := max (SMap.getD m (2 * r) 0) (SMap.getD m (2 * r + 1) 0)
              SMap.put (SMap.put m (2 * r) n) (2 * r + 1) n) p.issued }
        let s := { s with cmds := s.cmds.filter fun c =>
          !((c.pour == p.lead || c.pour == p.trail) && c.state == CmdState.twin && c.mate.isNone && c.eng.isNone
            && ranks.contains c.rank) }
        let s := ((s.restoreCkpt k w1).restoreCkpt k w2).evenRegions p ranks
        (s.modPart part fun q => { q with roll := satAdd q.roll 1 })

/-- A weave waits for the other member of its pair (22 R402); where that waits for one of its fibres at another point, one of
them did what the other did not, and they mismatch (R403). -/
def State.waitPair (s : State) (w : Nat) : State :=
  match s.weave? w with
  | none => s
  | some v =>
    match s.pairOf v.pour with
    | none => s
    | some (k, p) =>
      let mine := (s.movers w).map (·.2.rank)
      let there := s.pairWaits p (p.lead != v.pour)
      match mine.find? fun r => there.contains r with
      | some r => s.mismatch k r
      | none => s.stallWeave w .pair

/-! ## Traps -/

/-- Cause codes (13 R300). -/
def cFp : Nat := 1
def cTrap : Nat := 2
def cConflict : Nat := 3
def cRegion : Nat := 4
def cScratch : Nat := 5
def cHalfDone : Nat := 6
def cDepend : Nat := 7
def cReserved : Nat := 8
def cLatch : Nat := 9
def cIllegal : Nat := 10
def cOperand : Nat := 11
def cMisalign : Nat := 12
def cAccess : Nat := 13
def cEngineOnly : Nat := 14
/-- Not a cause of 13 R300: poison consumed (02 R38 and 10 R203 end the task by a purge). -/
def cPoison : Nat := 32

/-- `tinfo1` (13 R300). DESIGN CHOICE (log 92): of a word offset that 27 bits do not hold, its low 27 bits show. -/
def tinfo1Of (cause pc : Nat) : Word := BitVec.ofNat 32 (cause * 2 ^ 27 + pc % 2 ^ 27)

/-- The word that no operand tag fills (06 R147). -/
def noTags : Word := 0xFFF0FFF0#32

/-- What entering the handler does to an active fibre (13 R299, R300). -/
def Fibre.trapped (f : Fibre) (hent : Nat) (i : TrapInfo) : Fibre :=
  let a := SMap.getD i.addrs f.lane 0#64
  { f with
    tinfo := [i.mask, tinfo1Of i.cause i.pc, a.extractLsb' 0 32, a.extractLsb' 32 32,
              SMap.getD i.tags f.lane noTags, SMap.getD i.other f.lane 0#32]
    saved := some f.tagmode
    pc := hent }

/-- The windows that the traps of lanes suspend (13 R299). -/
def suspend (g : Option Guard) (m : SMap Guard) (lanes : List Nat) : SMap Guard :=
  lanes.foldl (fun m l => match g with | some x => SMap.put m l x | none => SMap.erase m l) m

/-- Enter the handler of a weave, or end the task by a purge where there is none, where a lane is in it already, or where
poison was consumed (13 R299). A trap of a word in a guard window that leaves no lane active is taken by the lanes that it
excludes (log 42). The trace of kernel debug notes it where `tren` is set (23 R408). -/
def State.enterTrap (s : State) (w : Nat) (i : TrapInfo) : State :=
  match s.weave? w with
  | none => s
  | some v =>
    match s.pour? v.pour with
    | none => s
    | some p =>
      let acts := if (s.actives w).isEmpty then s.movers w else s.actives w
      if i.cause = cPoison then s.purgePour v.pour 0
      else if acts.any fun e => e.2.saved.isSome then s.purgePour v.pour 1
      else
        match p.hdr.hent with
        | none => s.purgePour v.pour 1
        | some h =>
          let excl := laneMask ((s.movers w).filter fun e => !acts.any fun a => a.1 == e.1)
          let tr := (s.part p.part).tren
          let rank := match acts.head? with | some e => e.2.rank | none => 0
          let hd := match s.task? p.task with | some t => t.handle | none => 0#32
          let s := s.modFibres (acts.map (·.1)) fun f => f.trapped h i
          let s := s.modWeave w fun v =>
            { v with susp := suspend v.guard v.susp (acts.map (·.2.lane)), guard := none, hexcl := v.hexcl ||| excl, stall := none }
          let s := if tr then
              s.trace p.part { type := 3, core := p.core, handle := hd, pour := p.idx, pc := i.pc, rank := rank,
                               detail := (tinfo1Of i.cause i.pc).toNat }
            else s
          s.yieldWeave w

/-- A trap of a weave (13 R299). In a redundant pair it waits for the other member's trap: equal traps are taken in both,
and unequal ones, or a trap in one member only, are a mismatch (22 R403, R435). -/
def State.trapWeave (s : State) (w : Nat) (i : TrapInfo) : State :=
  match s.weave? w with
  | none => s
  | some v =>
    match s.pairOf v.pour with
    | none => s.enterTrap w i
    | some (k, p) =>
      let lead := p.lead == v.pour
      let rank := match (s.actives w).head? with | some e => e.2.rank | none => 0
      match p.traps.find? fun t => t.lead != lead && t.rank == rank with
      | some t =>
        if t.info = i then
          let s := s.modPair k fun p => { p with traps := p.traps.filter fun u => u != t }
          (s.enterTrap t.weave i).enterTrap w i
        else s.mismatch k rank
      | none =>
        let ahead := !lead && (s.movers w).any fun e => p.stores.any fun t => t.rank == e.2.rank
        if ahead then s.mismatch k rank
        else
          let t : PairTrap := { lead := lead, rank := rank, weave := w, info := i }
          let s := if p.traps.contains t then s
            else (s.modPair k fun p => { p with traps := t :: p.traps.filter fun u => u.weave != w })
          s.waitPair w

/-- The cause that a status records. The spec gives consumed poison no code: a free value (log 77). -/
def State.causeCode (s : State) (cause : Nat) : Nat × State :=
  if cause < 32 then (cause, s) else ((Config.freeWord s.free).toNat % 32, s.takeFree.2)

/-- An engine's program halts at its word and shows a cause and the word offset (09 R187). -/
def State.stopEngine (s : State) (e cause : Nat) : State :=
  match s.engine? e with
  | none => s
  | some v =>
    let (code, s) := s.causeCode cause
    let st := tinfo1Of code v.pc
    let s := s.modCore v.core fun c => match v.kind with
      | .ladle => { c with lstatus := st }
      | .runner => { c with rstatus := st }
    s.modEngine e fun v => { v with running := false, status := st, stall := none }

/-- Every trap of an engine halts its program at the word, records the cause and the word offset, and ends the task by a
purge (09 R187). -/
def State.haltEngine (s : State) (e cause : Nat) : State :=
  match s.engine? e with
  | none => s
  | some v => (s.stopEngine e cause).purgePour v.pour (if cause = cPoison then 0 else 2)

/-- The engine of the same kind of a pair's other member. -/
def State.mateEngine (s : State) (p : Pair) (v : Engine) : Option (Nat × Engine) :=
  s.engines.find? fun e => e.2.pour == (if p.lead = v.pour then p.trail else p.lead) && e.2.kind == v.kind

/-- The drain of a core's Ladle that waits for the other member of its pair (22 R435). -/
def CoreSt.heldDrain (c : CoreSt) (pid : Nat) : Option MatOp :=
  c.mat.filter fun m => m.kind == .mdrain && m.pour == pid && m.twin

/-- Discard the drains of a pair that wait for each other unperformed (22 R403, R435): not those that have met, of which the
leading one is under way. -/
def State.dropDrains (s : State) (k : Nat) : State :=
  match SMap.get? s.pairs k with
  | none => s
  | some p =>
    match s.pour? p.lead, s.pour? p.trail with
    | some lp, some tp =>
      let met : Bool := match (s.core lp.core).mat, (s.core tp.core).heldDrain p.trail with
        | some a, some b => a.kind == .mdrain && a.pour == p.lead && !a.twin && a.block == b.block && a.tile == b.tile
        | _, _ => false
      let drop (s : State) (core pid : Nat) : State :=
        if ((s.core core).heldDrain pid).isSome then s.modCore core fun c => { c with mat := none } else s
      if met then s else drop (drop s lp.core p.lead) tp.core p.trail
    | _, _ => s

/-- A mismatch of a pair's engines (22 R403): an engine has no checkpoint, so the weave of rank 0 rolls back (log 26), and what the
engines hold for each other is discarded. -/
def State.engMismatch (s : State) (k : Nat) : State :=
  ((s.dropDrains k).mismatch k 0).modPair k fun p => { p with engs := [] }

/-- A trap of an engine. In a redundant pair it waits for the same trap of the other member's engine, and one in one member alone,
or another one, is a mismatch (22 R403). -/
def State.trapEngine (s : State) (e cause : Nat) : State :=
  match s.engine? e with
  | none => s
  | some v =>
    match s.pairOf v.pour with
    | none => s.haltEngine e cause
    | some (k, p) =>
      let lead := p.lead == v.pour
      match p.engs.find? (fun h => h.lead != lead && h.kind == v.kind), s.mateEngine p v with
      | some h, some y =>
        if h.trap = some cause ∧ h.pc = v.pc then (s.stopEngine y.1 cause).haltEngine e cause else s.engMismatch k
      | none, some y =>
        if !y.2.running then s.engMismatch k
        else
          let h : PairEng := { lead := lead, kind := v.kind, pc := v.pc, data := [], trap := some cause }
          let s := if p.engs.contains h then s
            else s.modPair k fun p => { p with engs := h :: p.engs.filter fun g => !(g.lead == lead && g.kind == v.kind) }
          s.stallEngine e .pair
      | _, none => s.engMismatch k

/-- Whether the other member's engine waits at a trap or at an operation while an engine ends, so that it will never do alike (22
R402, R403): their pair. -/
def State.engAlone (s : State) (v : Engine) : Option Nat :=
  match s.pairOf v.pour with
  | none => none
  | some (k, p) => if p.engs.any fun h => h.lead != (p.lead == v.pour) && h.kind == v.kind then some k else none

/-- Whether a word lies in the handler section (01 R25): from its entry up to the next section or the end. -/
def Header.inHandler (h : Header) (pc : Nat) : Bool :=
  match h.hent with
  | none => false
  | some a =>
    let stop := match h.lent, h.rent with
      | some l, _ => l
      | none, some r => r
      | none, none => h.nwords
    decide (a ≤ pc) && decide (pc < stop)

/-- The moving fibres of a weave leave the handler (13 R302) at the word given, with the guard window given: `tagmode` is restored.
The lanes that the window excluded go on with the weave; in serial mode, in which a runner leaves alone (02 R53), with the last. -/
def State.leaveHandler (s : State) (w pc : Nat) (window : Option Guard) : State :=
  match s.weave? w with
  | none => s
  | some v =>
    let out := (s.movers w).filter fun e => e.2.saved.isSome
    let last := v.serial.isEmpty || !(s.members w).any fun e => e.2.saved.isSome && !out.any fun o => o.1 == e.1
    let back := if last then (s.byLane w).filter fun e => e.2.status == .run && v.hexcl.getLsbD e.2.lane else []
    let s := s.modFibres ((out ++ back).map (·.1)) fun f => { f with pc := pc, tagmode := f.saved.getD f.tagmode, saved := none }
    s.modWeave w fun v =>
      { v with guard := window, susp := if last then [] else v.susp.filter fun g => !out.any fun o => o.2.lane == g.1
               hexcl := if last then 0#32 else v.hexcl }

/-- Return from the handler (13 R302): the weave continues at the trapping word of its lowest active lane, or at the word
after a TRAP. -/
def State.hret (s : State) (w : Nat) : State :=
  match (s.actives w).head? with
  | none => s
  | some e =>
    let t1 := (e.2.tinfoAt 1).toNat
    let pc := t1 % 2 ^ 27
    let pc := if t1 / 2 ^ 27 = cTrap then pc + 1 else pc
    let window := match s.weave? w with | some v => SMap.get? v.susp e.2.lane | none => none
    ((s.leaveHandler w pc window).modWeave w fun v => { v with stall := none }).yieldWeave w

/-- A branch of a weave's moving fibres to a word (11 R224, R225): one that leaves the handler section leaves the handler
(13 R302). It is a yield point. -/
def State.branchTo (s : State) (w pc : Nat) : State :=
  match s.weave? w with
  | none => s
  | some v =>
    let hdr := match s.pour? v.pour with | some p => p.hdr | none => {}
    let inH := (s.actives w).any fun e => e.2.saved.isSome
    let s := if inH && !hdr.inHandler pc then s.leaveHandler w pc none
      else s.goTo ((s.movers w).map (·.1)) pc
    (s.modWeave w fun v => { v with stall := none }).yieldWeave w

end Sys2Proof.Machine
end

