-- ==== Sys2Proof/Machine/Access.lean ====
section
/-!
DEFINITION. Machine/Access.lean: the performance of a fibre's captured access: its faults in order (12 R254), pages not
present (R255), region capacity and conflicts (08 R162 to R166), and its reads and writes of data, tags and poison (06
R135, R141).
-/

namespace Sys2Proof.Machine

/-- Bytes that a kind of access covers in each lane. -/
def MemKind.width : MemKind → Nat
  | .load b _ _ => b
  | .store b => b
  | .stp => 4
  | .atomic _ _ => 4
  | .gld => 4
  | .gst => 4
  | .shld _ => 32
  | .shst b => b
  | .epush => 64
  | .epop => 64
  | .tspawn => 64
  | .rnext => 4
  | .tsig => 4

/-- The alignment of a kind of access (04 R84, 12 R277, 03 R60, R73). -/
def MemKind.align : MemKind → Nat
  | .shld _ => 32
  | .shst _ => 32
  | k => k.width

/-- Whether a kind of access writes what its address names. -/
def MemKind.writes : MemKind → Bool
  | .store _ | .stp | .atomic _ _ | .gst | .shst _ | .epush | .epop => true
  | _ => false

def MemKind.isAtomic : MemKind → Bool
  | .atomic _ _ => true
  | _ => false

/-- The words that a register result of a kind has. -/
def MemKind.resWords : MemKind → Nat
  | .load _ n _ => n
  | .atomic _ _ => 1
  | .gld => 1
  | .epop => 4
  | .tspawn => 1
  | .rnext => 2
  | _ => 0

/-- A fault of an access: its cause, the lanes that meet it, what the other access of a conflict was, and the lanes that meet
it at the transposed address of STP alone. -/
structure AccFault where
  cause : Nat
  lanes : List Nat
  other : SMap Word := []
  trans : List Nat := []
  deriving DecidableEq, Repr

/-- The mask of a list of lanes. -/
def maskOf (ls : List Nat) : BitVec 32 := ls.foldl (fun m l => m ||| laneBit l) 0#32

/-- Where the lanes' addresses lead. `second` takes the transposed address of STP. -/
def State.laneLocs (s : State) (p : Pour) (op : MemOp) (second : Bool) : List (LaneAcc × Loc) :=
  op.lanes.map fun a =>
    let stk := match s.fibre? a.fibre with | some f => some f.stack | none => none
    (a, s.locate p stk (if second then a.addr2 else a.addr) op.kind.width op.kind.writes)

/-- The fault of a cause over places (the lane, its address and where it leads; whether it is the transposed one) that meet it:
each lane shows its plain address where that meets it. -/
def faultAt (cause : Nat) (xs : List (Bool × LaneAcc × Loc)) : AccFault :=
  let lanes := (xs.map (·.2.1.lane)).eraseDups
  { cause := cause, lanes := lanes, trans := lanes.filter fun l => !xs.any fun e => !e.1 && e.2.1.lane == l }

/-- The first of items 2 to 4 of 12 R254 that some address of an access meets. -/
def firstStop (op : MemOp) (xs : List (Bool × LaneAcc × Loc)) : Option AccFault :=
  let at_ (e : Bool × LaneAcc × Loc) : BitVec 64 := if e.1 then e.2.1.addr2 else e.2.1.addr
  [(cAccess, xs.filter fun e => e.2.2 == .noncanon), (cMisalign, xs.filter fun e => (at_ e).toNat % op.kind.align != 0),
    (cScratch, xs.filter fun e => e.2.2 == .scratchOut), (cAccess, xs.filter fun e => e.2.2 == .stackOut)].findSome? fun g =>
      if g.2.isEmpty then none else some (faultAt g.1 g.2)

/-- Items 2 to 4 of 12 R254 on the addresses of an access. -/
def addrFaults (op : MemOp) (ls : List (LaneAcc × Loc)) : Option AccFault := firstStop op (ls.map fun e => (false, e))

/-- Item 5 of 12 R254: translation and kind. -/
def State.kindFaults (s : State) (p : Pour) (op : MemOp) (ls : List (LaneAcc × Loc)) (second : Bool) : Option AccFault :=
  let bad := ls.filter fun e =>
    match e.2 with
    | .fatal | .violation => true
    | .peer d w _ _ =>
      if op.kind.isAtomic then true
      else if op.kind.writes then !s.hasSender p.part d w else false
    | .mem pl => op.kind.isAtomic && sortOfKey pl.key == .host
    | _ => false
  if bad.isEmpty then none else some (faultAt cAccess (bad.map fun e => (second, e)))

/-- The keys of the lanes whose access is checked (08 R162): not relaxed, and in scratchpad or in global memory that is
neither the weight store, nor a peer, nor optimizer-managed. -/
def checkedKey (op : MemOp) (a : BitVec 64) (l : Loc) : Option Nat :=
  if op.rlx then none
  else
    match l with
    | .mem pl =>
      match aperture a with
      | .stack _ => none
      | _ => if sortOfKey pl.key == .ws || pl.opt then none else some pl.key
    | _ => none

/-- The 64-byte lines of a range of bytes (08 R166). -/
def linesOf (k w : Nat) : List Nat :=
  if k / 64 = (k + w - 1) / 64 then [k / 64] else [k / 64, (k + w - 1) / 64]

/-- Lines not yet in a footprint. -/
def newLines (foot ls : List Nat) : List Nat := ls.filter fun l => !foot.contains l

/-- Whether an earlier access conflicts with one (08 R163): another fibre of the context, overlapping bytes, one of them
writing, and not ordered before it by the clock. -/
def conflicts (me : Nat) (pour ctx : Nat) (clock : Clock) (wr : Bool) (atom : Option Bool) (k w : Nat) (h : Access) : Bool :=
  h.fibre != me && h.ctx == ctx && decide (h.lo < k + w) && decide (k < h.lo + h.len) && (wr || h.wrote)
    && decide (SMap.getD clock h.fibre 0 < h.region)
    && (match atom, h.atom with
        | some d, some e => !d && !e && h.pour != pour
        | _, _ => true)

/-- `tinfo5` of a conflict (08 R164). -/
def otherWord (rank : Nat) (pbits : BitVec 4) (site : BitVec 12) (same wrote atom : Bool) : Word :=
  BitVec.ofNat 32 (rank % 1024 + pbits.toNat * 2 ^ 10 + site.toNat * 2 ^ 14 + (if same then 2 ^ 26 else 0)
    + (if wrote then 2 ^ 27 else 0) + (if atom then 2 ^ 28 else 0))

/-- The scope of an atomic as it acts: scratchpad atomics act at pour scope (08 R171). -/
def atomDev (op : MemOp) (key : Nat) : Option Bool :=
  match op.kind with
  | .atomic _ d => some (d && (match sortOfKey key with | .scratch _ => false | _ => true))
  | _ => none

/-- The clock with which a lane's access meets earlier ones: an atomic's own acquire comes first (08 R162, R171). -/
def State.accClock (s : State) (f : Fibre) (pour : Nat) (atom : Option Bool) (k : Nat) : Clock :=
  match atom with
  | none => f.clock
  | some d =>
    let c := joinClock f.clock (s.syncOf (.atomic k (some pour)))
    if d then joinClock c (s.syncOf (.atomic k none)) else c

/-- Items 6 and 7 of 12 R254 over the checked lanes `ks` (lane, key): region overflow, then conflicts, with earlier
accesses first and with other lanes of the instruction next (08 R164 to R166). -/
def State.regionFaults (s : State) (ks : List (LaneAcc × Nat × Nat)) : List Nat :=
  ks.foldl (fun acc e =>
    match s.fibre? e.1.fibre with
    | none => acc
    | some f =>
      let mine := (ks.filter fun g => g.1.fibre == e.1.fibre).flatMap fun g => linesOf g.2.1 g.2.2
      if Config.regionLines < f.foot.length + (newLines f.foot mine).eraseDups.length && !acc.contains e.1.lane
      then acc ++ [e.1.lane] else acc) []

/-- What the lanes of an atomic that come before a lane on the same word have released when its turn comes: they are ordered in
ascending home lane (08 R171, 12 R262). -/
def State.lanesBefore (s : State) (op : MemOp) (ks : List (LaneAcc × Nat × Nat)) (lane key : Nat) : Clock :=
  (ks.filter fun g => decide (g.1.lane < lane) && g.2.1 == key).foldl (fun c g =>
    match s.fibre? g.1.fibre with
    | none => c
    | some f =>
      let r := if op.clock.isSome then f.region - 1 else f.region + 1
      joinClock c (joinClock (s.accClock f op.pour (atomDev op key) key) [(s.fibreKey g.1.fibre, r)])) []

def State.conflictFaults (s : State) (p : Pour) (op : MemOp) (ks : List (LaneAcc × Nat × Nat)) : SMap Word :=
  let ctx := p.part * 2 ^ 32 + (s.part p.part).ctxNum
  let wr := op.kind.writes
  ks.foldl (fun acc e =>
    match s.fibre? e.1.fibre with
    | none => acc
    | some f =>
      let atom := atomDev op e.2.1
      let before := if op.kind.isAtomic then s.lanesBefore op ks e.1.lane e.2.1 else []
      let clock := joinClock (s.accClock f op.pour atom e.2.1) before
      match s.hist.find? (conflicts (s.fibreKey e.1.fibre) op.pour ctx clock wr atom e.2.1 e.2.2) with
      | some h => SMap.put acc e.1.lane (otherWord h.rank h.pbits h.site (h.task == p.task) h.wrote h.atom.isSome)
      | none =>
        if op.kind.isAtomic || !wr then acc
        else
          match ks.find? fun g => g.1.lane != e.1.lane && decide (g.2.1 < e.2.1 + e.2.2) && decide (e.2.1 < g.2.1 + g.2.2) with
          | some g =>
            let rank := match s.fibre? g.1.fibre with | some v => v.rank | none => 0
            SMap.put acc e.1.lane (otherWord rank (BitVec.ofNat 4 p.idx) (op.here.extractLsb' 4 12) true true false)
          | none => acc) []

/-- The checked lanes of an access, with their keys and widths. -/
def checkedLanes (op : MemOp) (ls : List (LaneAcc × Loc)) (second : Bool) : List (LaneAcc × Nat × Nat) :=
  ls.filterMap fun e =>
    (checkedKey op (if second then e.1.addr2 else e.1.addr) e.2).map fun k => (e.1, k, op.kind.width)

/-- Items 6 and 7: none of the lanes overflows or conflicts. Atomics add no lines (08 R166). -/
def State.orderFaults (s : State) (p : Pour) (op : MemOp) (ks : List (LaneAcc × Nat × Nat)) : Option AccFault :=
  let ovf := if op.kind.isAtomic then [] else s.regionFaults ks
  if !ovf.isEmpty then some { cause := cRegion, lanes := ovf }
  else
    let c := s.conflictFaults p op ks
    if c.isEmpty then none else some { cause := cConflict, lanes := c.map (·.1), other := c }

/-- Add the lines of checked accesses to the regions' footprints (08 R166): an atomic adds none. -/
def State.addLines (s : State) (op : MemOp) (ks : List (LaneAcc × Nat × Nat)) : State :=
  if op.kind.isAtomic then s
  else
    ks.foldl (fun s e => s.modFibre e.1.fibre fun f =>
      { f with foot := f.foot ++ (newLines f.foot (linesOf e.2.1 e.2.2)).eraseDups }) s

/-- Record performed checked accesses, and add their lines (08 R163, R166). -/
def State.recordAcc (s : State) (p : Pour) (op : MemOp) (ks : List (LaneAcc × Nat × Nat)) : State :=
  let ctx := p.part * 2 ^ 32 + (s.part p.part).ctxNum
  (ks.foldl (fun s e =>
    match s.fibre? e.1.fibre with
    | none => s
    | some f =>
      let a : Access := {
        fibre := s.fibreKey e.1.fibre, pour := op.pour, task := p.task, ctx := ctx, rank := f.rank,
        pbits := BitVec.ofNat 4 p.idx, site := op.here.extractLsb' 4 12, region := f.region,
        wrote := op.kind.writes, atom := atomDev op e.2.1, lo := e.2.1, len := e.2.2 }
      { s with hist := a :: s.hist }) s).addLines op ks

/-! ## Reads and writes -/

/-- The tag that a load gives the word at a key (06 R134, R135). -/
def Memory.wordTag (m : Memory) (pl : Place) (k : Nat) : Tag := if pl.tagged then m.tag k else Config.noTag

/-- Words loaded from a place: `n` words of 4 bytes each. -/
def loadWords (m : Memory) (pl : Place) : Nat → Nat → List Reg
  | _, 0 => []
  | k, n + 1 =>
    { val := BitVec.ofNat 32 (m.readNat k 4), tag := m.wordTag pl k, poison := m.isPoison k } :: loadWords m pl (k + 4) n

/-- A narrow load, zero- or sign-extended (12 R258). -/
def loadNarrow (m : Memory) (pl : Place) (bytes : Nat) (signed : Bool) : Reg :=
  let v := m.readNat pl.key bytes
  let x := if signed && decide (2 ^ (8 * bytes - 1) ≤ v) then v + 2 ^ 32 - 2 ^ (8 * bytes) else v
  { val := BitVec.ofNat 32 x, tag := m.wordTag pl pl.key, poison := m.isPoison pl.key }

/-- The tag that a store gives a granule from the words it writes into it (06 R135). -/
def granuleTag (ws : List Reg) : Tag :=
  match ws.find? fun r => special32 r.val with
  | some r => r.tag
  | none => (ws.getD 0 {}).tag

/-- Rewrite the tags of the granules that stored words cover (06 R135, R136): per word in scratchpad, per 8 bytes
elsewhere. -/
def storeTags (m : Memory) (pl : Place) (ws : List Reg) : Memory :=
  if !pl.tagged then m
  else
    match sortOfKey pl.key with
    | .scratch _ => (ws.zipIdx).foldl (fun m e => m.setTag (pl.key + 4 * e.2) e.1.tag) m
    | _ =>
      let n := ws.length
      (List.range n).foldl (fun m i =>
        let k := pl.key + 4 * i
        if i = 0 ∨ k % 8 = 0 then
          m.setTag k (granuleTag (if k % 8 = 0 then (ws.drop i).take 2 else (ws.drop i).take 1))
        else m) m

/-- The bytes of words, little-endian. -/
def wordsBytes (ws : List Reg) : List Byte := ws.flatMap fun r => bytesOfWord r.val

/-- Store words, or the low bytes of one word, at a place with their tags (12 R259). -/
def storeAt (m : Memory) (pl : Place) (bytes : Nat) (ws : List Reg) : Memory :=
  storeTags (m.store pl.key ((wordsBytes ws).take bytes)) pl ws

/-- The new value of an atomic (12 R262), or none where nothing is written. -/
def atomicNew (f : AtomKind) (old b cmp : Word) : Option Word :=
  match f with
  | .add => some (old + b)
  | .maxs => some (maxS old b)
  | .maxz => some (maxZ old b)
  | .exch => some b
  | .cas => if old = cmp then some b else none

/-- The tag that an atomic leaves in memory (06 R141): none where it leaves it. -/
def atomicTag (mode : BitVec 2) (f : AtomKind) (here data : Tag) : Option Tag :=
  if mode = 0#2 then none
  else
    match f with
    | .exch | .cas => some data
    | _ => some here

/-- The words of `n` bytes read from a peer (04 R96), as its response brings them (24 R427, R430): each takes the tag and the poison
of its granule (06 R135). DESIGN CHOICE (log 99): of a response that is a fabric error they are free values. -/
def peerWords (dev win off n : Nat) (tagged : Bool) (free : Nat) : List Reg :=
  let r := peerRead dev win off n tagged free
  (List.range ((n + 3) / 4)).map fun i =>
    match r with
    | some p =>
      { val := BitVec.ofNat 32 (leNat ((p.bytes.drop (4 * i)).take 4))
        tag := if tagged then p.tags.getD (i / 2) Config.noTag else Config.noTag, poison := p.poison.getD (i / 2) false }
    | none =>
      let x := Config.lostWord dev win (off + 4 * i) free
      { val := x.extractLsb' 0 32, tag := if tagged then x.extractLsb' 32 16 else Config.noTag, poison := x.getLsbD 48 }

/-- The bytes of a read from a peer, and whether a granule of them is poisoned. -/
def peerBytes (dev win off n : Nat) (tagged : Bool) (free : Nat) : List Byte × Bool :=
  let ws := peerWords dev win off n tagged free
  ((wordsBytes ws).take n, ws.any (·.poison))

/-- The value that a lane loads. -/
def State.loadLane (s : State) (k : MemKind) (l : Loc) : List Reg :=
  match l, k with
  | .mem pl, .load b n sg => if b < 4 then [loadNarrow s.mem pl b sg] else loadWords s.mem pl pl.key n
  | .mem pl, _ => loadWords s.mem pl pl.key 1
  | .peer d w o t, .load b n sg =>
    if b < 4 then
      (peerWords d w o b t s.free).map fun r =>
        let v := r.val.toNat % 2 ^ (8 * b)
        let x := if sg && decide (2 ^ (8 * b - 1) ≤ v) then v + 2 ^ 32 - 2 ^ (8 * b) else v
        { r with val := BitVec.ofNat 32 x }
    else peerWords d w o (4 * n) t s.free
  | .peer d w o t, _ => peerWords d w o 4 t s.free
  | _, _ => [{}]

/-- The result of a load or movement in a lane, its tags kept under OFF (06 R137). -/
def moved (mode : BitVec 2) (old : List Reg) (ws : List Reg) : List Reg :=
  ws.zipIdx.map fun e => { e.1 with tag := moveTag mode e.1.tag (old.getD e.2 {}).tag }

/-- The registers that a destination code names now, in a fibre. -/
def Fibre.regsAt (f : Fibre) (d n : Nat) : List Reg :=
  if d < 240 then (List.range n).map fun i => f.reg (d + i) else List.replicate n {}

/-- The rank by which debug and trace name an engine (23 R416). -/
def engRank : EngKind → Nat
  | .ladle => 0xFFFF
  | .runner => 0xFFFE

/-- The rank of a fibre. -/
def State.rankOf (s : State) (f : Nat) : Nat := match s.fibre? f with | some v => v.rank | none => 0

/-- A remote store: one put of a lane (04 R97), in flight until its acknowledgement. A leaf that is not tagged discards the
tags (04 R92). -/
def State.remoteStore (s : State) (p : Pour) (op : MemOp) (rank dev win off : Nat) (tagged : Bool) (bytes : Nat) (ws : List Reg) :
    State :=
  let gs := (List.range ((ws.length + 1) / 2)).map fun i => (ws.drop (2 * i)).take 2
  let msg := putOf win off tagged { bytes := (wordsBytes ws).take bytes, tags := gs.map granuleTag
                                    poison := gs.map fun g => g.any (·.poison) } (s.rtagOf p)
  s.sendStore { id := 0, core := p.core, pour := op.pour, kind := .put, addr := 0#64, here := op.here, pc := op.pc, rank := rank
                pend := none, owner := p, rtag := s.rtagOf p } dev win msg

/-! ## Signatures and samples -/

/-- One byte of the CRC-64 of 24 R422. -/
def crcByte (c : BitVec 64) (b : Byte) : BitVec 64 :=
  (List.range 8).foldl (fun c _ => if c.msb then (c <<< 1) ^^^ 0x42F0E1EBA9EA3693#64 else c <<< 1) (c ^^^ (b.zeroExtend 64 <<< 56))

/-- The CRC-64 of bytes. -/
def crc64 (bs : List Byte) : BitVec 64 := bs.foldl crcByte 0#64

/-- The store record of 24 R422, added to the signature of a sampled pour. -/
def State.sign (s : State) (part pour : Nat) (a : BitVec 64) (width : Nat) (data : List Byte) : State :=
  match (s.part part).sample with
  | none => s
  | some m =>
    if m.pour = pour && !m.ended then
      s.modPart part fun p =>
        { p with sample := some { m with sig := m.sig + crc64 (leBytes 8 a.toNat ++ [BitVec.ofNat 8 width] ++ data) } }
    else s

/-- The head of a record of an Assay log: its kind (0 the values that a word brings, 1 a weave, 2 a trap, 3 what a drain writes), how
far the store of its word is performed (1 wholly; 0 not yet; 2 an `STP` by half; 3 by half at its issue, with its trap), words for each
fibre, fibres; a destination, a weave's `member` or a trap's `tinfo1`; a weave, and the words that it had executed. DESIGN CHOICE (log
33): 24 R420 says what the log holds and not how. -/
def logHead (kind mark words n at_ w count : Nat) : List Byte :=
  leBytes 1 kind ++ leBytes 1 mark ++ leBytes 2 words ++ leBytes 4 n ++ leBytes 8 at_ ++ leBytes 8 w ++ leBytes 8 count

/-- A word of a log: value, tag, poison. -/
def logWord (r : Reg) : List Byte := leBytes 4 r.val.toNat ++ leBytes 2 r.tag.toNat ++ leBytes 2 (if r.poison then 1 else 0)

/-- The values of fibres in a log: for each its rank, then its words. -/
def State.logLanes (s : State) (lanes : SMap (List Reg)) : List Byte :=
  lanes.flatMap fun e => leBytes 8 (s.rankOf e.1) ++ e.2.flatMap logWord

/-- Write at a place of the log of a partition's sample, under the context's table key (24 R419). -/
def State.logWrite (s : State) (part off : Nat) (bs : List Byte) : State :=
  s.writeCtx part ((s.part part).asylog.toNat + off) bs

/-- Append to the log of a partition's sample; a log that would exceed ASYLEN abandons the sample (24 R420, R424). -/
def State.logPut (s : State) (part : Nat) (bs : List Byte) : State :=
  let q := s.part part
  match q.sample with
  | none => s
  | some m =>
    if q.asylen.toNat < m.logged + bs.length then s.abandon part
    else
      (s.logWrite part m.logged bs).modPart part fun q =>
        { q with sample := q.sample.map fun n => { n with logged := m.logged + bs.length } }

/-- Append a record about a weave, with the words that it has executed. -/
def State.logRow (s : State) (part kind mark words n at_ w : Nat) (bs : List Byte) : State :=
  match (s.part part).sample with
  | none => s
  | some m => s.logPut part (logHead kind mark words n at_ w (SMap.getD m.counts w 0) ++ bs)

/-- The words that each of some fibres gets. -/
def laneWords : SMap (List Reg) → Nat
  | e :: _ => e.2.length
  | [] => 0

/-- Log the values that a word of a weave brings to register `d` of the fibres of a sampled pour (24 R420). -/
def State.logValues (s : State) (pid w d : Nat) (lanes : SMap (List Reg)) : State :=
  match s.pour? pid with
  | none => s
  | some p => if p.assay then s.logRow p.part 0 1 (laneWords lanes) lanes.length d w (s.logLanes lanes) else s

/-- The kind by which a profile sample names an access (23 R418), of the memory instructions that R417 counts. -/
def MemKind.profKind : MemKind → Option Nat
  | .load _ _ _ => some 0
  | .store _ | .stp => some 1
  | .atomic _ _ => some 2
  | .gld => some 3
  | .gst => some 4
  | _ => none

/-- Count a memory instruction that fibres issue, and sample every 2^p-th of its core while PRCFG enables it (23 R417). -/
def State.profile (s : State) (op : MemOp) : State :=
  match op.kind.profKind, s.pour? op.pour with
  | some k, some p =>
    let cfg := (s.part p.part).prof.cfg
    if !cfg.getLsbD 31 then s
    else
      let n := (s.core p.core).mems + 1
      let t := s.task? p.task
      s.modCore p.core fun c =>
        { c with
          mems := n
          profs := if n % 2 ^ bits cfg.toNat 8 5 = 0 then
              c.profs ++ [{ pc := op.pc, kind := k, rtag := (match t with | some t => t.rtag | none => 0#16), code := p.code }]
            else c.profs }
  | _, _ => s

/-! ## Performance -/

/-- The region of an atomic's lane begins, with what it acquires (08 R162, R171). The issue of one that was held has made room
for it (log 83). -/
def State.atomicOpens (s : State) (op : MemOp) (f : Nat) (atom : Option Bool) (key : Nat) : State :=
  s.modFibre f fun v =>
    let v := { v with clock := s.accClock v op.pour atom key }
    if op.clock.isSome then { v with region := v.region - 1 } else v.newRegion

/-- The region of an atomic's lane ends, with its release (08 R162, R171). -/
def State.atomicCloses (s : State) (op : MemOp) (f : Nat) (k : SyncKey) : State :=
  (s.setSync k (joinClock (s.syncOf k) (s.releasedBy [f]))).modFibre f fun v =>
    if op.clock.isSome then { v with region := v.region + 1 } else v.newRegion

/-- One lane of an atomic (12 R262): an acquire, the read and write, a release (08 R171). The lane's result, or a poisoned
word that it would combine. DESIGN CHOICE (log 105): the tag that it writes follows the tag mode that its fibre has now (06 R141). -/
def State.atomicLane (s : State) (p : Pour) (op : MemOp) (f : AtomKind) (a : LaneAcc) (pl : Place) : Reg × State :=
  let atom := atomDev op pl.key
  let s := s.atomicOpens op a.fibre atom pl.key
  let s := s.touchPlace pl 4 true
  let old := (loadWords s.mem pl pl.key 1).getD 0 {}
  let b := head1 a.data
  let mode := match s.fibre? a.fibre with | some v => v.tagmode | none => 1#2
  let m :=
    match atomicNew f old.val b.val a.cmp.val with
    | none => s.mem
    | some v =>
      let m := s.mem.store pl.key (bytesOfWord v)
      match atomicTag mode f op.here b.tag with
      | none => m
      | some t => storeTags m pl [{ val := v, tag := t }]
  let s := match atomicNew f old.val b.val a.cmp.val with
    | none => s
    | some v => s.sign p.part op.pour a.addr 4 (bytesOfWord v)
  let s := { s with mem := m }
  let s := s.recordAcc p op (checkedLanes op [(a, .mem pl)] false)
  let s := s.atomicCloses op a.fibre (.atomic pl.key (some op.pour))
  let s := if atom = some true then
      s.setSync (.atomic pl.key none) (joinClock (s.syncOf (.atomic pl.key none)) (s.syncOf (.atomic pl.key (some op.pour))))
    else s
  (old, s)

/-- What comes of performing an access. -/
inductive AccRes where
  | fault (f : AccFault)
  | consume
  | hold (va : Nat)
  | done (s : State) (res : SMap (List Reg))
  deriving DecidableEq, Repr

/-- The first lane whose page is not present. -/
def missing (ls : List (LaneAcc × Loc)) : Option Nat :=
  ls.findSome? fun e => match e.2 with | .notPresent va => some va | _ => none

/-- Keep the translations of an access. -/
def State.cacheAll (s : State) (p : Pour) (as : List (BitVec 64)) : State :=
  as.foldl (fun s a => match aperture a with | .global va => s.cached p.part va | _ => s) s

/-- Store one lane's data at its place, `bytes` of it, signed for a sample (12 R259, 24 R422). -/
def State.putLane (s : State) (p : Pour) (op : MemOp) (bytes : Nat) (e : LaneAcc × Loc) : State :=
  let s := s.sign p.part op.pour e.1.addr bytes ((wordsBytes e.1.data).take bytes)
  match e.2 with
  | .mem pl => { s with mem := storeAt s.mem pl bytes e.1.data }
  | .peer d w o t => s.remoteStore p op (s.rankOf e.1.fibre) d w o t bytes e.1.data
  | _ => s

/-- An access corrects and counts what it finds (22 R398, 06 R134): a store the granules that it writes in part; an atomic counts its tag
when it is performed. -/
def State.touchLanes (s : State) (op : MemOp) (ls : List (LaneAcc × Loc)) : State :=
  ls.foldl (fun s e =>
    match e.2 with
    | .mem pl => if op.kind.isStore then s.touchPart pl.key op.kind.width else s.touchPlace pl op.kind.width (!op.kind.isAtomic)
    | _ => s) s

/-- Perform a lane load, a store, an atomic, GLD or GST (12 R254 to R263): faults in order, then every lane. -/
def State.perform (s : State) (p : Pour) (op : MemOp) : AccRes :=
  let ls := s.laneLocs p op false
  match addrFaults op ls with
  | some f => .fault f
  | none =>
    match s.kindFaults p op ls false with
    | some f => .fault f
    | none =>
      match missing ls with
      | some va => .hold va
      | none =>
        let ks := checkedLanes op ls false
        match s.orderFaults p op ks with
        | some f => .fault f
        | none =>
          let s := (s.cacheAll p (op.lanes.map (·.addr))).touchLanes op ls
          match op.kind with
          | .load _ _ _ | .gld =>
            let vals := ls.map fun e => (e.1.fibre, s.loadLane op.kind e.2)
            let s := if ls.any fun e => match e.2 with | .peer _ _ _ _ => true | _ => false then
                { s with free := s.free + 1 } else s
            .done (s.recordAcc p op ks) vals
          | .store b => .done (ls.foldl (fun s e => s.putLane p op b e) (s.recordAcc p op ks)) []
          | .shst b =>
            let s := s.recordAcc p op ks
            let s := ls.foldl (fun s e =>
              match e.2 with
              | .mem pl => { s with mem := storeAt s.mem pl b e.1.data }
              | .peer d w o t => s.remoteStore p op (s.rankOf e.1.fibre) d w o t b e.1.data
              | _ => s) s
            .done s []
          | .gst =>
            let s := s.recordAcc p op ks
            let s := ls.foldl (fun s e =>
              let s := s.sign p.part op.pour e.1.addr 4 (wordsBytes e.1.data)
              match e.2 with
              | .mem pl => { s with mem := storeAt s.mem pl 4 e.1.data }
              | .peer d w o t => s.remoteStore p op (s.rankOf e.1.fibre) d w o t 4 e.1.data
              | _ => s) s
            .done s []
          | .atomic f _ =>
            let poisoned := ls.any fun e =>
              match e.2 with
              | .mem pl => f != .exch && s.mem.isPoison pl.key
              | _ => false
            if poisoned then .consume
            else
              let (s, res) := ls.foldl (fun (acc : State × SMap (List Reg)) e =>
                match e.2 with
                | .mem pl =>
                  let (r, s) := acc.1.atomicLane p op f e.1 pl
                  (s, acc.2 ++ [(e.1.fibre, [r])])
                | _ => acc) (s, [])
              .done s res
          | .shld _ => .done (s.recordAcc p op ks) []
          | _ => .done s []

/-- Perform `STP` (12 R260, R261): checks of both addresses, the plain writes, then the transposed writes; a fault of the
second write leaves the plain copy written. -/
def State.performStp (s : State) (p : Pour) (op : MemOp) : AccRes × Option State :=
  let l1 := s.laneLocs p op false
  let l2 := s.laneLocs p op true
  match firstStop op ((l1.map fun e => (false, e)) ++ l2.map fun e => (true, e)) with
  | some f => (.fault f, none)
  | none =>
      match s.kindFaults p op l1 false with
      | some f => (.fault f, none)
      | none =>
        match missing l1, missing l2 with
        | some va, _ => (.hold va, none)
        | none, some va => (.hold va, none)
        | none, none =>
          let k1 := checkedLanes op l1 false
          let k2 := checkedLanes op l2 true
          let ovf := s.regionFaults (k1 ++ k2)
          if !ovf.isEmpty then
            let one := s.regionFaults k1
            (.fault { cause := cRegion, lanes := ovf, trans := ovf.filter fun l => !one.contains l }, none)
          else
            let c := s.conflictFaults p op k1
            if !c.isEmpty then (.fault { cause := cConflict, lanes := c.map (·.1), other := c }, none)
            else
              let s := s.cacheAll p ((op.lanes.map (·.addr)) ++ (op.lanes.map (·.addr2)))
              let write (s : State) (ls : List (LaneAcc × Loc)) (second : Bool) : State :=
                ls.foldl (fun s e =>
                  (s.touchLanes op [e]).putLane p op 4 (if second then ({ e.1 with addr := e.1.addr2 }, e.2) else e)) s
              let s1 := write (s.recordAcc p op k1) l1 false
              match s1.kindFaults p op l2 true with
              | some f => (.fault { f with cause := cHalfDone }, some s1)
              | none =>
                let c2 := s1.conflictFaults p op k2
                if !c2.isEmpty then
                  (.fault { cause := cHalfDone, lanes := c2.map (·.1), other := c2, trans := c2.map (·.1) }, some s1)
                else (.done (write (s1.recordAcc p op k2) l2 true) [], none)

/-- The trap that a fault of an access raises: each lane holds its own address (13 R300). -/
def AccFault.info (f : AccFault) (op : MemOp) (tags : SMap Word) : TrapInfo :=
  { cause := f.cause, mask := maskOf f.lanes, pc := op.pc,
    addrs := op.lanes.map fun a => (a.lane, if f.trans.contains a.lane then a.addr2 else a.addr), tags := tags,
    other := f.other }

end Sys2Proof.Machine
end

