-- ==== Sys2Proof/Machine/Flow.lean ====
section
/-!
DEFINITION. Machine/Flow.lean: how every Greoskane word runs (09 R182, R200; 10 R202; 11 R222): what its fields name, the
fates of 09 R200 in their order, the scoreboard, and its operands, for lane words and group words, on fibres and engines.
-/

namespace Sys2Proof.Machine

/-- Which lanes read which operands (22 R399): every active lane reads all; the lanes that contribute (10 R217); of a block from
register `n`, the words that change places in stage `k` of an exchange, in pairs of lanes that contribute (10 R219); D or A by
the code of a probability predicate (07 R155); A or D by a predicate (10 R216). -/
inductive Reads where
  | all
  | member
  | exch (n k : Nat)
  | blend (k : Nat)
  | pick (k : Nat) (sense : Bool)
  deriving DecidableEq, Repr

/-- What the fields of a word name: its vector destination with the words it takes, its sources, its literal, whether B names a
register beside an address pair in A, which lanes read what, whether the word itself is illegal (09 R200 item 1) or has an
operand that is (item 3), and where it may run. -/
structure Form where
  instr  : Instr
  nw     : BitVec 1 := 0#1
  dst    : Option (BitVec 8 × Nat) := none
  a      : Option (SKind × BitVec 8) := none
  b      : Option (SKind × BitVec 8) := none
  lit    : Word := 0#32
  bReg   : Bool := false
  reads  : Reads := .all
  bad    : Bool := false
  badOp  : Bool := false
  fibre  : Bool := true
  ladle  : Bool := true
  runner : Bool := true
  only   : Bool := false
  deriving DecidableEq, Repr

/-- The word as it is encoded, which tinfo2 shows (13 R300). -/
def Form.word (h : Form) : Word := (encodeWord h.instr).getD 0#32

/-- Whether a source names the literal (09 R185). -/
def isLit : Option (SKind × BitVec 8) → Bool
  | some (_, c) => c == litCode
  | none => false

/-- The words that an instruction takes (09 R185). -/
def Form.len (h : Form) : Nat := if isLit h.a || isLit h.b then 2 else 1

/-- Item 3 of 09 R200 on a fibre: window size `n`, latch entries `ls`. -/
def Form.operandBad (h : Form) (n : Nat) (ls : List Latch) : Bool :=
  h.badOp || (match h.dst with | some (c, k) => dstBad n k c | none => false)
    || (match h.a with | some (k, c) => srcBad n ls k c | none => false)
    || (match h.b with | some (k, c) => srcBad n ls k c | none => false)
    || (isLit h.a && isLit h.b)

/-- Item 3 of 09 R200 on an engine. -/
def Form.engBad (h : Form) (e : EngKind) : Bool :=
  h.badOp || (match h.dst with | some (c, k) => engDstBad e k c | none => false)
    || (match h.a with | some (k, c) => engSrcBad e k c | none => false)
    || (match h.b with | some (k, c) => engSrcBad e k c | none => false)
    || (isLit h.a && isLit h.b)

/-- Whether a source names a latch entry that is lost or pending (09 R190). -/
def srcLost (ls : List Latch) : Option (SKind × BitVec 8) → Bool
  | some (_, c) => latchLost ls c
  | none => false

/-- The weave that executes, its record, its pour, its word and its active fibres in ascending lane. -/
structure Ctx where
  w    : Nat
  v    : Weave
  p    : Pour
  pc   : Nat
  acts : SMap Fibre
  deriving DecidableEq, Repr

def State.ctxOf (s : State) (w : Nat) : Option Ctx :=
  match s.weave? w with
  | none => none
  | some v =>
    match s.pour? v.pour with
    | none => none
    | some p =>
      match (s.movers w).head? with
      | none => none
      | some e => some { w := w, v := v, p := p, pc := e.2.pc, acts := s.actives w }

def Ctx.pid (c : Ctx) : Nat := c.v.pour
def Ctx.here (c : Ctx) : Tag := c.p.here c.pc
def Ctx.ids (c : Ctx) : List Nat := c.acts.map (·.1)
def Ctx.mask (c : Ctx) : BitVec 32 := laneMask c.acts

/-- What a lane reads: its fibre, its A and B operands, and the words of D as they stand. -/
structure LaneIn where
  f : Fibre
  a : List Reg
  b : List Reg
  d : List Reg
  deriving DecidableEq, Repr

def LaneIn.a0 (x : LaneIn) : Reg := head1 x.a
def LaneIn.b0 (x : LaneIn) : Reg := head1 x.b
def LaneIn.d0 (x : LaneIn) : Reg := head1 x.d

/-- The words of an optional source. -/
def readOpt (f : Fibre) (c : Ctx) (h : Form) : Option (SKind × BitVec 8) → List Reg
  | some (k, code) => readSrc f c.p.idx c.v.latches k.words code h.lit
  | none => []

/-- What a fibre's lane reads for a word. -/
def laneIn (c : Ctx) (h : Form) (f : Fibre) : LaneIn where
  f := f
  a := readOpt f c h h.a
  b := readOpt f c h h.b
  d := match h.dst with | some (d, k) => f.regsAt d.toNat k | none => []

/-- The active lanes with their operands, as the state now holds them. -/
def State.inputs (s : State) (c : Ctx) (h : Form) : SMap LaneIn := (s.actives c.w).map fun e => (e.1, laneIn c h e.2)

/-- `tinfo4` (06 R147): the tag of A and, above it, that of B. -/
def tagsWord (a b : Tag) : Word := b ++ a

/-- `tinfo4` of a lane (06 R147): of an address pair the tags of its low and high words, unless B names a register; a field
whose latch is lost reads 0xFFF0. DESIGN CHOICE (log 84): of `STP`, whose A and B both name pairs, it shows A's. -/
def LaneIn.tagsBut (x : LaneIn) (h : Form) (lostA lostB : Bool) : Word :=
  let ta := if h.a.isNone || lostA then Config.noTag else x.a0.tag
  let tb := if h.b.isNone || lostB then Config.noTag else x.b0.tag
  match h.a with
  | some (.ap, _) => tagsWord ta (if h.bReg then tb else if lostA then Config.noTag else (x.a.getD 1 {}).tag)
  | _ => tagsWord ta tb

def LaneIn.tags (x : LaneIn) (h : Form) : Word := x.tagsBut h false false

/-- Tags by lane. -/
def laneTags (h : Form) (ins : SMap LaneIn) : SMap Word := ins.map fun e => (e.2.f.lane, e.2.tags h)

/-- The fates of every active lane alike (09 R200 items 1 to 3): tinfo2 shows the word. -/
def Ctx.wordTrap (c : Ctx) (cause : Nat) (h : Form) : TrapInfo :=
  { cause := cause, mask := c.mask, pc := c.pc, addrs := c.acts.map fun e => (e.2.lane, h.word.zeroExtend 64) }

/-- The latch-lost trap (09 R190): tinfo2 says which field, and that field's tag reads 0xFFF0 (log 15). PRESUMED (log 15): a store's
data, which field D names, shows 1. A group word holds the tags of the lowest active lane in every lane (06 R147). -/
def Ctx.latchTrap (c : Ctx) (h : Form) (group : Bool) : TrapInfo :=
  let lostA := srcLost c.v.latches h.a
  let lostB := srcLost c.v.latches h.b
  let tags (f : Fibre) : Word := (laneIn c h (if group then ((c.acts.head?).map (·.2)).getD f else f)).tagsBut h lostA lostB
  { cause := cLatch, mask := c.mask, pc := c.pc
    addrs := c.acts.map fun e => (e.2.lane, if lostA then 0#64 else 1#64)
    tags := c.acts.map fun e => (e.2.lane, tags e.2) }

/-- The first of the fates of 09 R200, items 1 to 4, that a word meets on a fibre. -/
def Ctx.fate (c : Ctx) (h : Form) (group : Bool) : Option TrapInfo :=
  if h.bad || !h.fibre || (group && c.v.guard.isSome) then some (c.wordTrap cIllegal h)
  else if h.only then some (c.wordTrap cEngineOnly h)
  else if h.operandBad c.p.hdr.regs c.v.latches then some (c.wordTrap cOperand h)
  else if srcLost c.v.latches h.a || srcLost c.v.latches h.b then some (c.latchTrap h group)
  else none

/-- Whether a source of fibres waits for a result. -/
def State.srcPending (s : State) (fs : List Nat) : Option (SKind × BitVec 8) → Bool
  | some (k, code) => fs.any fun f => s.codePending f code k.words
  | none => false

/-- Whether a destination of fibres waits for a result (10 R202). -/
def State.dstPending (s : State) (fs : List Nat) : Option (BitVec 8 × Nat) → Bool
  | some (code, k) => fs.any fun f => s.codePending f code k
  | none => false

/-- Whether a lane contributes (10 R217): it is active, and in `member`. -/
def Ctx.contributes (c : Ctx) (lane : Nat) : Bool := c.v.member.getLsbD lane && c.mask.getLsbD lane

/-- What a lane of a word reads: A, B, and D or what it reads beside its fields. -/
structure LaneReads where
  a : Bool
  b : Bool
  d : Bool
  deriving DecidableEq, Repr

def Ctx.readsOf (c : Ctx) (h : Form) (f : Fibre) : LaneReads :=
  match h.reads with
  | .all => ⟨true, true, true⟩
  | .member => let m := c.contributes f.lane; ⟨m, m, m⟩
  | .exch _ k => let m := c.contributes f.lane && c.contributes (f.lane ^^^ 2 ^ k); ⟨m, m, m⟩
  | .blend k => let q := (f.qr k).code; ⟨q != 0#16, true, q != 65535#16⟩
  | .pick k sense => let t := f.p k == sense; ⟨t, true, !t⟩

/-- The active lanes that read an operand. -/
def Ctx.who (c : Ctx) (h : Form) (g : LaneReads → Bool) : List Nat := (c.acts.filter fun e => g (c.readsOf h e.2)).map (·.1)

/-- The active lanes that read a register which a word names beside its fields. -/
def Ctx.whoExtra (c : Ctx) (h : Form) (code : BitVec 8) : List Nat :=
  match h.reads with
  | .exch n k =>
    (c.acts.filter fun e => (c.readsOf h e.2).d && (code.toNat - n).testBit k != e.2.lane.testBit k).map (·.1)
  | _ => c.who h (·.d)

/-- The fibres of a weave whose words no lane reads because they are masked off, excluded by a window or do not contribute (22
R399). A word that an instruction's own rule leaves unread in a lane that takes part is not among them (log 37). -/
def Ctx.dark (c : Ctx) (s : State) (h : Form) : List Nat :=
  ((s.members c.w).map (·.1)).filter (fun f => !c.ids.contains f)
    ++ (match h.reads with
        | .member | .exch _ _ => (c.acts.filter fun e => !c.contributes e.2.lane).map (·.1)
        | _ => [])

/-- The read of registers by some fibres: a check of parity, in `dark` ones too (22 R399), and the acquire of completed tokens (04
R99). -/
def State.readRegs (s : State) (core : Nat) (dark fs : List Nat) (code : BitVec 8) (k : Nat) : State :=
  (s.parityRead core fs dark code k).tokenRead fs code k

/-- The read of a source by some fibres. -/
def State.readOpt (s : State) (core : Nat) (dark fs : List Nat) : Option (SKind × BitVec 8) → State
  | some (k, code) => s.readRegs core dark fs code k.words
  | none => s

/-- The state once a lane word has read its operands. `acc` says that D is read, `extra` names the registers that a word reads
beside its fields. -/
def State.laneRead (s : State) (c : Ctx) (h : Form) (acc : Bool) (extra : List (BitVec 8 × Nat)) : State :=
  let dark := c.dark s h
  let s := (s.readOpt c.p.core dark (c.who h (·.a)) h.a).readOpt c.p.core dark (c.who h (·.b)) h.b
  let s := match h.dst with
    | some (d, k) => if acc then s.readRegs c.p.core dark (c.who h (·.d)) d k else s
    | none => s
  extra.foldl (fun s e => s.readRegs c.p.core dark (c.whoExtra h e.1) e.1 e.2) s

/-- Whether a lane word has to wait for a register that it reads or writes (10 R202): an operand that a lane does not read, and the
D of a `.NW` word, which is not written, hold nothing up. DESIGN CHOICE (log 107): so does the prior tag of D, which a `.NW` word takes for
its latch entry under tag mode OFF. -/
def State.laneWaits (s : State) (c : Ctx) (h : Form) (acc : Bool) (extra : List (BitVec 8 × Nat)) : Bool :=
  s.srcPending (c.who h (·.a)) h.a || s.srcPending (c.who h (·.b)) h.b
    || (h.nw == 0#1 && s.dstPending c.ids h.dst) || (acc && s.dstPending (c.who h (·.d)) h.dst)
    || extra.any fun e => s.dstPending (c.whoExtra h e.1) (some e)

/-- Whether registers from a window code hold a completed token in one of some fibres. -/
def State.holdsToken (s : State) (fs : List Nat) (code : BitVec 8) (k : Nat) : Bool :=
  decide (code.toNat < 240) && fs.any fun f =>
    match s.fibre? f with
    | some v => (List.range k).any fun i => (SMap.get? v.toks (code.toNat + i)).isSome
    | none => false

def State.srcToken (s : State) (fs : List Nat) : Option (SKind × BitVec 8) → Bool
  | some (k, code) => s.holdsToken fs code k.words
  | none => false

/-- Whether a lane word reads a completed token, which makes it a synchronizing operation (08 R160). -/
def State.laneToken (s : State) (c : Ctx) (h : Form) (acc : Bool) (extra : List (BitVec 8 × Nat)) : Bool :=
  s.srcToken (c.who h (·.a)) h.a || s.srcToken (c.who h (·.b)) h.b
    || (match h.dst with | some (d, k) => acc && s.holdsToken (c.who h (·.d)) d k | none => false)
    || extra.any fun e => s.holdsToken (c.whoExtra h e.1) e.1 e.2

/-- The accesses of a weave's fibres that wait in the operand log (12 R255). -/
def State.heldOf (s : State) (w : Nat) : List Held :=
  let ms := (s.members w).map (·.1)
  s.held.filter fun h => h.fibres.any ms.contains

/-- Those of a weave's fibres that are still to be performed: in the operand log of the weave, or, of a leading member's store that the
trailing member has matched, in that of the other (12 R255, 22 R402). -/
def State.heldFor (s : State) (w : Nat) : List Held :=
  match s.weave? w with
  | none => []
  | some v =>
    s.heldOf w ++ (match s.pairOf v.pour with
      | some (_, pr) =>
        let ranks := (s.members w).map (·.2.rank)
        if pr.lead ≠ v.pour then []
        else
          s.held.filter fun h => h.op.pour == pr.trail && h.op.kind.isStore && h.mate.isNone
            && h.op.lanes.any fun l => match s.fibre? l.fibre with | some f => ranks.contains f.rank | none => false
      | none => [])

/-- Whether a synchronizing operation of a weave has to wait (12 R255, 22 R402): for its held accesses, or in a pair for its
unmatched stores. -/
def State.syncWait (s : State) (w : Nat) : Option (StallKind × Bool) :=
  if !(s.heldFor w).isEmpty then some (.order, true) else if s.unmatched w then some (.pair, false) else none

/-- Whether a weave belongs to a member of a redundant pair (22 R402). -/
def State.inPair (s : State) (w : Nat) : Bool :=
  match s.weave? w with
  | some v => (s.pairOf v.pour).isSome
  | none => false

/-- A read of a completed token is a synchronizing operation: it waits as one, and a pair's weave retakes its checkpoint after
it (04 R99, 12 R255, 22 R402). -/
def State.tokenGate (s : State) (w : Nat) (token : Bool) (body : State → State) : State :=
  if !token then body s
  else
    match s.syncWait w with
    | some (.pair, _) => s.waitPair w
    | some (k, keep) => s.stallWeave w k keep
    | none => if s.inPair w then (body s).checkpoint w else body s

/-- A weave executes a lane word: fates, the scoreboard, then `body`, over the lanes that read (09 R200, 10 R202). -/
def State.laneWeave (s : State) (w : Nat) (h : Form) (acc : Bool) (extra : List (BitVec 8 × Nat))
    (body : State → Ctx → SMap LaneIn → State) : State :=
  match s.ctxOf w with
  | none => s
  | some c =>
    if c.acts.isEmpty then
      let s := match h.dst with | some (d, k) => s.pushLatch w d k [] | none => s
      s.after w h.len true false
    else
      match c.fate h false with
      | some i => s.trapWeave w i
      | none =>
        if s.laneWaits c h acc extra then s.stallWeave w .result
        else
          s.tokenGate w (s.laneToken c h acc extra) fun s =>
            let s := s.laneRead c h acc extra
            body s c (s.inputs c h)

/-- A lane word (09 R182): on an engine it is illegal (R199). -/
def State.laneOp (s : State) (h : Form) (acc : Bool) (extra : List (BitVec 8 × Nat))
    (body : State → Ctx → SMap LaneIn → State) : Out :=
  match s.turn with
  | .weave w => .next (s.laneWeave w h acc extra body)
  | .engine e => .next (s.trapEngine e cIllegal)
  | _ => .next s

/-- The state once a group word has read l0's operands: the other lanes of the weave do not contribute to it (22 R399). -/
def State.groupRead (s : State) (c : Ctx) (h : Form) (l0 : Nat × Fibre) : State :=
  let dark := ((s.members c.w).map (·.1)).filter fun f => f != l0.1
  (s.readOpt c.p.core dark [l0.1] h.a).readOpt c.p.core dark [l0.1] h.b

/-- Whether a group word has to wait for a register that it reads in its lowest active lane, or writes (10 R202, 11 R222). -/
def State.groupWaits (s : State) (c : Ctx) (h : Form) (l0 : Nat × Fibre) : Bool :=
  s.srcPending [l0.1] h.a || s.srcPending [l0.1] h.b || (h.nw == 0#1 && s.dstPending c.ids h.dst)

/-- A weave executes a group word (11 R222): its operands are those of its lowest active lane. In a guard window it is illegal
(02 R39), and where the window leaves no lane active, the lanes that it excludes take the trap (log 42). -/
def State.groupWeave (s : State) (w : Nat) (h : Form) (body : State → Ctx → LaneIn → State) : State :=
  match s.ctxOf w with
  | none => s
  | some c =>
    match c.acts.head? with
    | none => s.trapWeave w ({ c with acts := s.movers w }.wordTrap cIllegal h)
    | some l0 =>
      match c.fate h true with
      | some i => s.trapWeave w i
      | none =>
        if s.groupWaits c h l0 then s.stallWeave w .result
        else
          s.tokenGate w (s.srcToken [l0.1] h.a || s.srcToken [l0.1] h.b) fun s =>
            let s := s.groupRead c h l0
            body s c (laneIn c h ((s.fibre? l0.1).getD l0.2))

/-- What an engine reads for a word. -/
structure EngIn where
  v : Engine
  p : Pour
  a : List Reg
  b : List Reg
  deriving DecidableEq, Repr

def EngIn.a0 (x : EngIn) : Reg := head1 x.a
def EngIn.b0 (x : EngIn) : Reg := head1 x.b
def EngIn.here (x : EngIn) : Tag := x.p.here x.v.pc

def engOpt (v : Engine) (h : Form) : Option (SKind × BitVec 8) → List Reg
  | some (k, code) => engRead v k.words code h.lit
  | none => []

def State.engPending (s : State) (e : Nat) : Option (SKind × BitVec 8) → Bool
  | some (k, code) => s.kCodePending e code k.words
  | none => false

/-- What an engine's read of a source acquires: the completed tokens in its registers (04 R99). -/
def Engine.srcToks (v : Engine) : Option (SKind × BitVec 8) → List Clock
  | some (k, code) =>
    if code.toNat < 64 then (List.range k.words).filterMap fun i => SMap.get? v.toks (code.toNat + i) else []
  | none => []

/-- Each token read is an acquire, which begins a region (04 R99, 08 R160). -/
def Engine.readToks (v : Engine) (cs : List Clock) : Engine :=
  cs.foldl (fun v c => { v with clock := joinClock v.clock c, region := v.region + 1 }) v

/-- An engine executes a group word (09 R187, R199): every fault is a trap that halts it. -/
def State.groupEngine (s : State) (e : Nat) (h : Form) (body : State → EngIn → State) : State :=
  match s.engine? e with
  | none => s
  | some v =>
    match s.pour? v.pour with
    | none => s
    | some p =>
      if !v.running then s
      else if h.bad || h.nw = 1#1 then s.trapEngine e cIllegal
      else if !(match v.kind with | .ladle => h.ladle | .runner => h.runner) then
        s.trapEngine e (if h.only then cEngineOnly else cIllegal)
      else if h.engBad v.kind then s.trapEngine e cOperand
      else if s.engPending e h.a || s.engPending e h.b
          || (match h.dst with | some (c, k) => s.kCodePending e c k | none => false) then s.stallEngine e .result
      else
        let ts := v.srcToks h.a ++ v.srcToks h.b
        let s := if ts.isEmpty then s else s.modEngine e fun v => v.readToks ts
        let v := v.readToks ts
        body s { v := v, p := p, a := engOpt v h h.a, b := engOpt v h h.b }

/-- A group word (11 R222). -/
def State.groupOp (s : State) (h : Form) (fib : State → Ctx → LaneIn → State)
    (eng : State → Nat → EngIn → State) : Out :=
  match s.turn with
  | .weave w => .next (s.groupWeave w h fib)
  | .engine e => .next (s.groupEngine e h (fun s x => eng s e x))
  | _ => .next s

/-- The body of a word that no engine may execute. -/
def noEngine (s : State) (_ : Nat) (_ : EngIn) : State := s

/-- End a lane word: write its result and advance. -/
def Ctx.finish (c : Ctx) (h : Form) (s : State) (res : SMap (List Reg)) : State :=
  let s := match h.dst with
    | some (d, k) => s.result c.w c.pid c.pc d (h.nw == 1#1) k res
    | none => s
  s.after c.w h.len true false

/-- End a group word: write its result to every active lane and advance. -/
def Ctx.finishG (c : Ctx) (h : Form) (s : State) (res : SMap (List Reg)) (yields : Bool := false) : State :=
  let s := match h.dst with
    | some (d, k) => s.result c.w c.pid c.pc d (h.nw == 1#1) k res
    | none => s
  s.after c.w h.len false yields

/-- End a word whose result enters the fibres from outside their own computation: a sampled pour logs it (24 R420). -/
def Ctx.finishIn (c : Ctx) (h : Form) (s : State) (res : SMap (List Reg)) : State :=
  c.finishG h (s.logValues c.pid c.w (match h.dst with | some (d, _) => d.toNat | none => 240) res) res

/-- End an engine's word: write its result, and advance. -/
def finishE (h : Form) (s : State) (e : Nat) (res : List Reg) : State :=
  let s := match h.dst with
    | some (d, _) => s.modEngine e fun v => v.setK d.toNat res
    | none => s
  s.afterEngine e h.len

/-- Poison consumed by a weave ends the task by a purge (10 R203, 11 R222). -/
def Ctx.consume (c : Ctx) (s : State) : State := s.trapWeave c.w { cause := cPoison, mask := c.mask, pc := c.pc }

/-- A trap of some lanes of a word, with the operand tags of every active lane; tinfo2 by lane. -/
def Ctx.trap (c : Ctx) (s : State) (h : Form) (ins : SMap LaneIn) (cause : Nat) (lanes : List Nat)
    (detail : SMap (BitVec 64)) : State :=
  s.trapWeave c.w { cause := cause, mask := maskOf lanes, pc := c.pc, addrs := detail, tags := laneTags h ins }

/-- An illegal operand that a value makes: the lanes that met it are named, and every lane shows the word (13 R300). -/
def Ctx.valueTrap (c : Ctx) (s : State) (h : Form) (ins : SMap LaneIn) (lanes : List Nat) : State :=
  c.trap s h ins cOperand lanes (c.acts.map fun e => (e.2.lane, h.word.zeroExtend 64))

/-- A trap of a group word in every active lane, with the tags of the lowest active lane (06 R147). -/
def Ctx.trapG (c : Ctx) (s : State) (h : Form) (x : LaneIn) (cause : Nat) (mask : BitVec 32) (addr : BitVec 64) : State :=
  s.trapWeave c.w
    { cause := cause, mask := mask, pc := c.pc, addrs := c.acts.map fun e => (e.2.lane, addr)
      tags := c.acts.map fun e => (e.2.lane, x.tags h) }

/-- Poison consumed by an engine's word. -/
def consumeE (s : State) (e : Nat) : State := s.trapEngine e cPoison

/-- The tag of a supplied result (06 R137): 0xFFF0, or the prior one under OFF. -/
def suppliedTag (f : Fibre) (old : Tag) : Tag := if f.tagmode = 0#2 then old else Config.noTag

/-- The prior tags of a destination in a fibre. -/
def oldTags (f : Fibre) (h : Form) : List Tag :=
  match h.dst with
  | some (d, k) => (f.regsAt d.toNat k).map (·.tag)
  | none => []

/-- A value that a group word supplies to each active lane, tagged 0xFFF0 and never poisoned (06 R137). -/
def Ctx.supply (c : Ctx) (h : Form) (s : State) (g : Fibre → List Word) : SMap (List Reg) :=
  (s.actives c.w).map fun e =>
    (e.1, (g e.2).zipIdx.map fun x => { val := x.1, tag := suppliedTag e.2 ((oldTags e.2 h).getD x.2 Config.noTag) })

end Sys2Proof.Machine
end

