-- ==== Sys2Proof/Machine/Lane.lean ====
section
/-!
DEFINITION. Machine/Lane.lean: the integer lane instructions, compares and SELP (10 R205 to R209, R216).
-/

namespace Sys2Proof.Machine

/-- A computing result word of an integer instruction (06 R139, 10 R203): `here`, or the prior tag under OFF; poisoned
where a word read is. -/
def intWord (c : Ctx) (h : Form) (x : LaneIn) (i : Nat) (v : Word) (read : List Reg) : Reg :=
  { val := v, tag := tagpick x.f.tagmode c.here false [] ((oldTags x.f h).getD i Config.noTag), poison := poi read }

/-- The form of an integer instruction with two sources (10 R205). -/
def intForm (i : Instr) (n : BitVec 1) (d a b : BitVec 8) (l : Word) : Form :=
  { instr := i, nw := n, dst := some (d, 1), a := some (.s, a), b := some (.s, b), lit := l }

/-- An integer instruction of two operands (10 R205). -/
def State.intOp (s : State) (h : Form) (f : Word → Word → Word) : Out :=
  s.laneOp h false [] fun s c ins =>
    c.finish h s (ins.map fun e => (e.1, [intWord c h e.2 0 (f e.2.a0.val e.2.b0.val) (e.2.a ++ e.2.b)]))

/-- An integer instruction of one operand (10 R206, R208). -/
def State.intUni (s : State) (h : Form) (f : Word → Word) : Out :=
  s.laneOp h false [] fun s c ins => c.finish h s (ins.map fun e => (e.1, [intWord c h e.2 0 (f e.2.a0.val) e.2.a]))

/-- The form of an instruction with one source. -/
def uniForm (i : Instr) (n : BitVec 1) (d a : BitVec 8) (l : Word) : Form :=
  { instr := i, nw := n, dst := some (d, 1), a := some (.s, a), lit := l }

/-- A compare (10 R209): the predicate in every active lane; poison is consumed (10 R203). -/
def State.cmpOp (s : State) (h : Form) (k : BitVec 4) (g : Word → Word → Bool) : Out :=
  s.laneOp h false [] fun s c ins =>
    if ins.any fun e => poi (e.2.a ++ e.2.b) then c.consume s
    else
      let s := ins.foldl (fun s e => s.modFibre e.1 fun f => f.setP k.toNat (g e.2.a0.val e.2.b0.val)) s
      c.finish h s []

/-- The form of a compare. -/
def cmpForm (i : Instr) (cond : BitVec 4) (a b : BitVec 8) (l : Word) : Form :=
  { instr := i, a := some (.s, a), b := some (.s, b), lit := l, bad := condBad cond }

/-- `IADD` (10 R205). -/
def execIadd (n : BitVec 1) (d a b : BitVec 8) (l : Word) (s : State) : Out :=
  s.intOp (intForm (.iadd n d a b l) n d a b l) (fun a b => a + b)

/-- `ISUB` (10 R205). -/
def execIsub (n : BitVec 1) (d a b : BitVec 8) (l : Word) (s : State) : Out :=
  s.intOp (intForm (.isub n d a b l) n d a b l) (fun a b => a - b)

/-- `IMUL` (10 R205). -/
def execImul (n : BitVec 1) (d a b : BitVec 8) (l : Word) (s : State) : Out :=
  s.intOp (intForm (.imul n d a b l) n d a b l) (fun a b => a * b)

/-- `IMULHS` (10 R205). -/
def execImulhs (n : BitVec 1) (d a b : BitVec 8) (l : Word) (s : State) : Out :=
  s.intOp (intForm (.imulhs n d a b l) n d a b l) mulhsW

/-- `IMULHZ` (10 R205). -/
def execImulhz (n : BitVec 1) (d a b : BitVec 8) (l : Word) (s : State) : Out :=
  s.intOp (intForm (.imulhz n d a b l) n d a b l) mulhzW

/-- `IMINS` (10 R205). -/
def execImins (n : BitVec 1) (d a b : BitVec 8) (l : Word) (s : State) : Out :=
  s.intOp (intForm (.imins n d a b l) n d a b l) minS

/-- `IMAXS` (10 R205). -/
def execImaxs (n : BitVec 1) (d a b : BitVec 8) (l : Word) (s : State) : Out :=
  s.intOp (intForm (.imaxs n d a b l) n d a b l) maxS

/-- `IMINZ` (10 R205). -/
def execIminz (n : BitVec 1) (d a b : BitVec 8) (l : Word) (s : State) : Out :=
  s.intOp (intForm (.iminz n d a b l) n d a b l) minZ

/-- `IMAXZ` (10 R205). -/
def execImaxz (n : BitVec 1) (d a b : BitVec 8) (l : Word) (s : State) : Out :=
  s.intOp (intForm (.imaxz n d a b l) n d a b l) maxZ

/-- `AND` (10 R205). -/
def execAnd (n : BitVec 1) (d a b : BitVec 8) (l : Word) (s : State) : Out :=
  s.intOp (intForm (.and n d a b l) n d a b l) (fun a b => a &&& b)

/-- `OR` (10 R205). -/
def execOr (n : BitVec 1) (d a b : BitVec 8) (l : Word) (s : State) : Out :=
  s.intOp (intForm (.or n d a b l) n d a b l) (fun a b => a ||| b)

/-- `XOR` (10 R205). -/
def execXor (n : BitVec 1) (d a b : BitVec 8) (l : Word) (s : State) : Out :=
  s.intOp (intForm (.xor n d a b l) n d a b l) (fun a b => a ^^^ b)

/-- `SHL` (10 R205). -/
def execShl (n : BitVec 1) (d a b : BitVec 8) (l : Word) (s : State) : Out :=
  s.intOp (intForm (.shl n d a b l) n d a b l) shlW

/-- `SHR` (10 R205). -/
def execShr (n : BitVec 1) (d a b : BitVec 8) (l : Word) (s : State) : Out :=
  s.intOp (intForm (.shr n d a b l) n d a b l) shrW

/-- `SAR` (10 R205). -/
def execSar (n : BitVec 1) (d a b : BitVec 8) (l : Word) (s : State) : Out :=
  s.intOp (intForm (.sar n d a b l) n d a b l) sarW

/-- `IMAD` (10 R205): D is the accumulate-in. -/
def execImad (n : BitVec 1) (d a b : BitVec 8) (l : Word) (s : State) : Out :=
  let h := intForm (.imad n d a b l) n d a b l
  s.laneOp h true [] fun s c ins =>
    c.finish h s (ins.map fun e =>
      (e.1, [intWord c h e.2 0 (e.2.a0.val * e.2.b0.val + e.2.d0.val) (e.2.a ++ e.2.b ++ e.2.d)]))

/-- `IADDI` (10 R206). -/
def execIaddi (n : BitVec 1) (d a i : BitVec 8) (l : Word) (s : State) : Out :=
  s.intUni (uniForm (.iaddi n d a i l) n d a l) (fun a => a + imm8 i)

/-- `SHIM.SHL` (10 R206). -/
def execShimShl (n : BitVec 1) (d a : BitVec 8) (amt : BitVec 5) (l : Word) (s : State) : Out :=
  s.intUni (uniForm (.shimShl n d a amt l) n d a l) (fun a => shlW a (amt.zeroExtend 32))

/-- `SHIM.SHR` (10 R206). -/
def execShimShr (n : BitVec 1) (d a : BitVec 8) (amt : BitVec 5) (l : Word) (s : State) : Out :=
  s.intUni (uniForm (.shimShr n d a amt l) n d a l) (fun a => shrW a (amt.zeroExtend 32))

/-- `SHIM.SAR` (10 R206). -/
def execShimSar (n : BitVec 1) (d a : BitVec 8) (amt : BitVec 5) (l : Word) (s : State) : Out :=
  s.intUni (uniForm (.shimSar n d a amt l) n d a l) (fun a => sarW a (amt.zeroExtend 32))

/-- `IADD64` (10 R207). -/
def execIadd64 (n : BitVec 1) (d a b : BitVec 8) (l : Word) (s : State) : Out :=
  let h : Form := { instr := .iadd64 n d a b l, nw := n, dst := some (d, 2), a := some (.ws, a), b := some (.ws, b), lit := l }
  s.laneOp h false [] fun s c ins =>
    c.finish h s (ins.map fun e =>
      (e.1, (add64 e.2.a e.2.b).zipIdx.map fun x => intWord c h e.2 x.2 x.1 (e.2.a ++ e.2.b)))

/-- `UNI.MOV` (10 R208): a movement. -/
def execUniMov (n : BitVec 1) (d a : BitVec 8) (l : Word) (s : State) : Out :=
  let h := uniForm (.uniMov n d a l) n d a l
  s.laneOp h false [] fun s c ins =>
    c.finish h s (ins.map fun e => (e.1, moved e.2.f.tagmode e.2.d [{ e.2.a0 with parity := false }]))

/-- `UNI.NOT` (10 R208). -/
def execUniNot (n : BitVec 1) (d a : BitVec 8) (l : Word) (s : State) : Out :=
  s.intUni (uniForm (.uniNot n d a l) n d a l) (fun a => ~~~a)

/-- `UNI.NEG` (10 R208). -/
def execUniNeg (n : BitVec 1) (d a : BitVec 8) (l : Word) (s : State) : Out :=
  s.intUni (uniForm (.uniNeg n d a l) n d a l) (fun a => -a)

/-- `UNI.ABS` (10 R208). -/
def execUniAbs (n : BitVec 1) (d a : BitVec 8) (l : Word) (s : State) : Out :=
  s.intUni (uniForm (.uniAbs n d a l) n d a l) absW

/-- `UNI.POPC` (10 R208). -/
def execUniPopc (n : BitVec 1) (d a : BitVec 8) (l : Word) (s : State) : Out :=
  s.intUni (uniForm (.uniPopc n d a l) n d a l) popcW

/-- `UNI.CLZ` (10 R208). -/
def execUniClz (n : BitVec 1) (d a : BitVec 8) (l : Word) (s : State) : Out :=
  s.intUni (uniForm (.uniClz n d a l) n d a l) clzW

/-- `UNI.BREV` (10 R208). -/
def execUniBrev (n : BitVec 1) (d a : BitVec 8) (l : Word) (s : State) : Out :=
  s.intUni (uniForm (.uniBrev n d a l) n d a l) brevW

/-- `UNI.SEXT8` (10 R208). -/
def execUniSext8 (n : BitVec 1) (d a : BitVec 8) (l : Word) (s : State) : Out :=
  s.intUni (uniForm (.uniSext8 n d a l) n d a l) (fun a => (a.extractLsb' 0 8).signExtend 32)

/-- `UNI.SEXT16` (10 R208). -/
def execUniSext16 (n : BitVec 1) (d a : BitVec 8) (l : Word) (s : State) : Out :=
  s.intUni (uniForm (.uniSext16 n d a l) n d a l) (fun a => (a.extractLsb' 0 16).signExtend 32)

/-- `UNI.BSWAP` (10 R208). -/
def execUniBswap (n : BitVec 1) (d a : BitVec 8) (l : Word) (s : State) : Out :=
  s.intUni (uniForm (.uniBswap n d a l) n d a l) bswapW

/-- `ICMPS` (10 R209). -/
def execIcmps (cond k : BitVec 4) (a b : BitVec 8) (l : Word) (s : State) : Out :=
  s.cmpOp (cmpForm (.icmps cond k a b l) cond a b l) k fun a b => condHolds cond (ordS a b)

/-- `ICMPZ` (10 R209). -/
def execIcmpz (cond k : BitVec 4) (a b : BitVec 8) (l : Word) (s : State) : Out :=
  s.cmpOp (cmpForm (.icmpz cond k a b l) cond a b l) k fun a b => condHolds cond (ordZ a b)

/-- `SELP` (10 R216): a movement of the word selected; the other word is not read. -/
def execSelp (n : BitVec 1) (d a : BitVec 8) (sense : BitVec 1) (k : BitVec 4) (l : Word) (s : State) : Out :=
  let h := { uniForm (.selp n d a sense k l) n d a l with reads := .pick k.toNat (sense == 1#1) }
  s.laneOp h true [] fun s c ins =>
    c.finish h s (ins.map fun e =>
      let r := if e.2.f.p k.toNat == (sense == 1#1) then e.2.a0 else e.2.d0
      (e.1, moved e.2.f.tagmode e.2.d [{ r with parity := false }]))

end Sys2Proof.Machine
end

