-- ==== Sys2Proof/Machine/LaneFp.lean ====
section
/-!
DEFINITION. Machine/LaneFp.lean: the floating lane instructions (10 R204, R210 to R213) and CVT (R214, R215).
-/

namespace Sys2Proof.Machine

/-- The end of an instruction that raises flags (10 R204): the FP-exception trap where an enabled flag arises in some
active lane, with each lane's enabled flags in tinfo2; else the sticky flags, and what follows. -/
def Ctx.fpGate (c : Ctx) (h : Form) (s : State) (ins : SMap LaneIn) (fl : LaneIn → Flags) (k : State → State) : State :=
  let met (x : LaneIn) : Flags := trapping x.f.fpmode (fl x)
  let bad := ins.filter fun e => met e.2 != 0#5
  if bad.isEmpty then
    k (ins.foldl (fun s e => s.modFibre e.1 fun f => { f with fpmode := stickyOr f.fpmode (fl e.2) }) s)
  else
    c.trap s h ins cFp (bad.map (·.2.f.lane)) (ins.map fun e => (e.2.f.lane, (met e.2).zeroExtend 64))

/-- A floating result word (06 R139, 10 R203). -/
def fpWord (c : Ctx) (h : Form) (x : LaneIn) (v : Word) (sp : Bool) (ops : List TagOp) (read : List Reg) : Reg :=
  { val := v, tag := tagpick x.f.tagmode c.here sp ops ((oldTags x.f h).getD 0 Config.noTag), poison := poi read }

/-- Operands as the tag choice sees them under a test of specialness. -/
def tagOps (sp : Word → Bool) (rs : List Reg) : List TagOp := rs.map fun r => (sp r.val, r.tag)

/-- An instruction that computes a word and flags in each lane from the words it reads (10 R204). -/
def State.fpOp (s : State) (h : Form) (acc : Bool) (sp : Word → Bool) (g : LaneIn → Word × Flags)
    (read : LaneIn → List Reg) : Out :=
  s.laneOp h acc [] fun s c ins =>
    c.fpGate h s ins (fun x => (g x).2) fun s =>
      c.finish h s (ins.map fun e =>
        let v := (g e.2).1
        (e.1, [fpWord c h e.2 v (sp v) (tagOps sp (read e.2)) (read e.2)]))

/-- An FP32 operation of A and B (10 R210). -/
def State.fp2 (s : State) (h : Form) (g : Word → Nat → Nat → FRes) : Out :=
  s.fpOp h false special32 (fun x =>
    let r := g x.f.fpmode x.a0.val.toNat x.b0.val.toNat
    (BitVec.ofNat 32 r.1, r.2)) fun x => [x.a0, x.b0]

/-- An FP32 function of A (10 R212). -/
def State.fp1 (s : State) (h : Form) (g : Word → Nat → FRes) : Out :=
  s.fpOp h false special32 (fun x =>
    let r := g x.f.fpmode x.a0.val.toNat
    (BitVec.ofNat 32 r.1, r.2)) fun x => [x.a0]

/-- `FADD` (10 R210). -/
def execFadd (n : BitVec 1) (d a b : BitVec 8) (l : Word) (s : State) : Out :=
  s.fp2 (intForm (.fadd n d a b l) n d a b l) (faddR fFP32)

/-- `FSUB` (10 R210). -/
def execFsub (n : BitVec 1) (d a b : BitVec 8) (l : Word) (s : State) : Out :=
  s.fp2 (intForm (.fsub n d a b l) n d a b l) (fsubR fFP32)

/-- `FMUL` (10 R210). -/
def execFmul (n : BitVec 1) (d a b : BitVec 8) (l : Word) (s : State) : Out :=
  s.fp2 (intForm (.fmul n d a b l) n d a b l) (fmulR fFP32)

/-- `FMIN` (10 R210). -/
def execFmin (n : BitVec 1) (d a b : BitVec 8) (l : Word) (s : State) : Out :=
  s.fp2 (intForm (.fmin n d a b l) n d a b l) (fminmaxR false)

/-- `FMAX` (10 R210). -/
def execFmax (n : BitVec 1) (d a b : BitVec 8) (l : Word) (s : State) : Out :=
  s.fp2 (intForm (.fmax n d a b l) n d a b l) (fminmaxR true)

/-- `FFMA` (10 R210): rounded once; D is the accumulate-in. -/
def execFfma (n : BitVec 1) (d a b : BitVec 8) (l : Word) (s : State) : Out :=
  s.fpOp (intForm (.ffma n d a b l) n d a b l) true special32 (fun x =>
    let r := ffmaR fFP32 x.f.fpmode x.a0.val.toNat x.b0.val.toNat x.d0.val.toNat
    (BitVec.ofNat 32 r.1, r.2)) fun x => [x.a0, x.b0, x.d0]

/-- `FCMP` (10 R211): invalid for a signaling NaN alone; poison is consumed. DESIGN CHOICE (log 85): a poisoned word of one active lane
is consumed before the invalid operand of any is raised, since the compare stops with no value at the poison. -/
def execFcmp (cond k : BitVec 4) (a b : BitVec 8) (l : Word) (s : State) : Out :=
  let h := cmpForm (.fcmp cond k a b l) cond a b l
  let va (x : LaneIn) : FVal := decArith x.a0.val.toNat fFP32 x.f.fpmode
  let vb (x : LaneIn) : FVal := decArith x.b0.val.toNat fFP32 x.f.fpmode
  s.laneOp h false [] fun s c ins =>
    if ins.any fun e => poi (e.2.a ++ e.2.b) then c.consume s
    else
      c.fpGate h s ins (fun x => if (va x).isSig || (vb x).isSig then flInvalid else 0#5) fun s =>
        let s := ins.foldl (fun s e => s.modFibre e.1 fun f =>
          f.setP k.toNat (condHolds cond (ordF (va e.2) (vb e.2)))) s
        c.finish h s []

/-- `FUNI.FABS` (10 R212). -/
def execFabs (n : BitVec 1) (d a : BitVec 8) (l : Word) (s : State) : Out :=
  s.fp1 (uniForm (.fabs n d a l) n d a l) (fun _ a => (a % 2 ^ 31, 0#5))

/-- `FUNI.FNEG` (10 R212). -/
def execFneg (n : BitVec 1) (d a : BitVec 8) (l : Word) (s : State) : Out :=
  s.fp1 (uniForm (.fneg n d a l) n d a l) (fun _ a => ((a + 2 ^ 31) % 2 ^ 32, 0#5))

/-- `FUNI.FRCP` (10 R212). -/
def execFrcp (n : BitVec 1) (d a : BitVec 8) (l : Word) (s : State) : Out :=
  s.fp1 (uniForm (.frcp n d a l) n d a l) (frcpR)

/-- `FUNI.FRSQ` (10 R212). -/
def execFrsq (n : BitVec 1) (d a : BitVec 8) (l : Word) (s : State) : Out :=
  s.fp1 (uniForm (.frsq n d a l) n d a l) (frsqR)

/-- `FUNI.FSQRT` (10 R212). -/
def execFsqrt (n : BitVec 1) (d a : BitVec 8) (l : Word) (s : State) : Out :=
  s.fp1 (uniForm (.fsqrt n d a l) n d a l) (fsqrtR)

/-- `FUNI.FEXP2` (10 R212). -/
def execFexp2 (n : BitVec 1) (d a : BitVec 8) (l : Word) (s : State) : Out :=
  s.fp1 (uniForm (.fexp2 n d a l) n d a l) (fexp2R)

/-- `FUNI.FLOG2` (10 R212). -/
def execFlog2 (n : BitVec 1) (d a : BitVec 8) (l : Word) (s : State) : Out :=
  s.fp1 (uniForm (.flog2 n d a l) n d a l) (flog2R)

/-- `FUNI.FRINT` (10 R212). -/
def execFrint (n : BitVec 1) (d a : BitVec 8) (l : Word) (s : State) : Out :=
  s.fp1 (uniForm (.frint n d a l) n d a l) (frintR none)

/-- `FUNI.FFLOOR` (10 R212). -/
def execFfloor (n : BitVec 1) (d a : BitVec 8) (l : Word) (s : State) : Out :=
  s.fp1 (uniForm (.ffloor n d a l) n d a l) (frintR (some mRDN))

/-- `FUNI.FCEIL` (10 R212). -/
def execFceil (n : BitVec 1) (d a : BitVec 8) (l : Word) (s : State) : Out :=
  s.fp1 (uniForm (.fceil n d a l) n d a l) (frintR (some mRUP))

/-- `HADD2` (10 R213): two elements; flags are ORed, the tag is chosen once for the word. -/
def execHadd2 (n : BitVec 1) (d a b : BitVec 8) (l : Word) (s : State) : Out :=
  s.fpOp (intForm (.hadd2 n d a b l) n d a b l) false (specialPair fFP16) (fun x =>
    packed2 (fun a b _ => faddR fFP16 x.f.fpmode a b) x.a0.val x.b0.val 0#32) fun x => [x.a0, x.b0]

/-- `BADD2` (10 R213): two elements; flags are ORed, the tag is chosen once for the word. -/
def execBadd2 (n : BitVec 1) (d a b : BitVec 8) (l : Word) (s : State) : Out :=
  s.fpOp (intForm (.badd2 n d a b l) n d a b l) false (specialPair fBF16) (fun x =>
    packed2 (fun a b _ => faddR fBF16 x.f.fpmode a b) x.a0.val x.b0.val 0#32) fun x => [x.a0, x.b0]

/-- `HFMA2` (10 R213): two elements; flags are ORed, the tag is chosen once for the word. -/
def execHfma2 (n : BitVec 1) (d a b : BitVec 8) (l : Word) (s : State) : Out :=
  s.fpOp (intForm (.hfma2 n d a b l) n d a b l) true (specialPair fFP16) (fun x =>
    packed2 (ffmaR fFP16 x.f.fpmode) x.a0.val x.b0.val x.d0.val) fun x => [x.a0, x.b0, x.d0]

/-- `BFMA2` (10 R213): two elements; flags are ORed, the tag is chosen once for the word. -/
def execBfma2 (n : BitVec 1) (d a b : BitVec 8) (l : Word) (s : State) : Out :=
  s.fpOp (intForm (.bfma2 n d a b l) n d a b l) true (specialPair fBF16) (fun x =>
    packed2 (ffmaR fBF16 x.f.fpmode) x.a0.val x.b0.val x.d0.val) fun x => [x.a0, x.b0, x.d0]

/-- The formats of a conversion pair (09 R195). -/
def cvtPair (p : Nat) : Nat × Nat :=
  [(0, 0), (fFP32, fBF16), (fFP32, fFP16), (fFP32, fE4M3), (fFP32, fE5M2), (fFP32, fFP4), (fFP32, fLG6),
   (fFP32, fINT32), (fFP32, fZ32), (fBF16, fFP32), (fFP16, fFP32), (fE4M3, fFP32), (fE5M2, fFP32), (fFP4, fFP32),
   (fLG6, fFP32), (fINT32, fFP32), (fZ32, fFP32), (fBF16, fE4M3), (fBF16, fE5M2), (fBF16, fFP4), (fBF16, fLG6),
   (fFP16, fE4M3), (fFP16, fE5M2), (fFP16, fBF16), (fBF16, fFP16), (fINT32, fINT8), (fINT32, fINT4), (fINT8, fINT32),
   (fINT4, fINT32), (fFP32, fINT8), (fFP32, fZ8)].getD p (0, 0)

/-- Bits that an element takes in a word: an LG6 element takes a byte (05 R112). -/
def slotBits (c : Nat) : Nat := if c = fLG6 then 8 else fmtBits c

/-- The elements that a pair converts (10 R214). -/
def cvtCount (p : Nat) : Nat := if 17 ≤ p ∧ p ≤ 24 then 2 else 1

/-- The conversions of a word (10 R215): element `j` takes its noise from half `j` of the prior destination. -/
def cvtConvs (p mode : Nat) (a d : Word) : List Conv :=
  let (f, t) := cvtPair p
  (List.range (cvtCount p)).map fun j =>
    rnd (dec (bits a.toNat (slotBits f * j) (fmtBits f)) f) t mode (bits d.toNat (16 * j) 16)

/-- The word that conversions make (10 R214). -/
def cvtWord (p : Nat) (cs : List Conv) : Word :=
  BitVec.ofNat 32 ((cs.zipIdx.map fun e => e.1.bits * 2 ^ (slotBits (cvtPair p).2 * e.2)).foldl (· + ·) 0)

/-- Whether a word holds a special source element (06 R140). -/
def cvtSpecial (p : Nat) (a : Word) : Bool :=
  let f := (cvtPair p).1
  (List.range (cvtCount p)).any fun j => (dec (bits a.toNat (slotBits f * j) (fmtBits f)) f).special

/-- Count flushes and lossy specials on a core (05 R117, R120). -/
def State.countConv (s : State) (core : Nat) (cs : List Conv) : State :=
  let fl := (cs.filter (·.flush)).length
  let lo := (cs.filter (·.lossy)).length
  if fl = 0 ∧ lo = 0 then s
  else s.modCore core fun c => { c with ufz := satAdd c.ufz fl, lossy := satAdd c.lossy lo }

/-- The pairs whose conversions are exact, and so ignore their rounding (09 R195). -/
def exactPair (pair : Nat) : Bool := (decide (9 ≤ pair) && decide (pair ≤ 13)) || pair == 27 || pair == 28

/-- `CVT` (10 R214, R215): no flags and no trap; the prior destination is read under DITHER alone. -/
def execCvt (n : BitVec 1) (d a v : BitVec 8) (l : Word) (s : State) : Out :=
  let pair := bits v.toNat 3 5
  let mode := bits v.toNat 0 3
  let h := { uniForm (.cvt n d a v l) n d a l with bad := pair == 0 || pair == 31 || decide (4 < mode) }
  let dith := mode == mDITHER && !exactPair pair
  s.laneOp h dith [] fun s c ins =>
    let conv (x : LaneIn) : List Conv := cvtConvs pair mode x.a0.val x.d0.val
    let s := s.countConv c.p.core (ins.flatMap fun e => conv e.2)
    c.finish h s (ins.map fun e =>
      let sp := cvtSpecial pair e.2.a0.val
      let read := if dith then [e.2.a0, e.2.d0] else [e.2.a0]
      (e.1, [fpWord c h e.2 (cvtWord pair (conv e.2)) sp [(sp, e.2.a0.tag)] read]))

end Sys2Proof.Machine
end

