-- ==== Sys2Proof/Machine/Cross.lean ====
section
/-!
DEFINITION. Machine/Cross.lean: the cross-lane instructions (10 R217 to R221).
-/

namespace Sys2Proof.Machine

/-- The operands of a lane. -/
def atLane (ins : SMap LaneIn) (lane : Nat) : Option LaneIn := (ins.find? fun e => e.2.f.lane == lane).map (·.2)

/-- A shuffle (10 R218): a movement of the source lane's A, or of the lane's own. -/
def State.shuffle (s : State) (h : Form) (src : Int → Int → Int) : Out :=
  s.laneOp h false [] fun s c ins =>
    c.finish h s (ins.map fun e =>
      let l : Nat := e.2.f.lane
      let m := src (l : Int) e.2.b0.val.toNat
      let ok := decide (0 ≤ m) && decide (m ≤ 31) && c.contributes m.toNat && c.contributes l
      let r := if ok then (match atLane ins m.toNat with | some x => x.a0 | none => e.2.a0) else e.2.a0
      (e.1, moved e.2.f.tagmode e.2.d [{ r with parity := false }]))

/-- `SHFX` (10 R218). -/
def execShfx (n : BitVec 1) (d a b : BitVec 8) (l : Word) (s : State) : Out :=
  s.shuffle (intForm (.shfx n d a b l) n d a b l) fun l b => ((l.toNat ^^^ b.toNat : Nat) : Int)

/-- `SHFN` (10 R218). -/
def execShfn (n : BitVec 1) (d a b : BitVec 8) (l : Word) (s : State) : Out :=
  s.shuffle (intForm (.shfn n d a b l) n d a b l) fun _ b => b

/-- `SHFUP` (10 R218). -/
def execShfup (n : BitVec 1) (d a b : BitVec 8) (l : Word) (s : State) : Out :=
  s.shuffle (intForm (.shfup n d a b l) n d a b l) fun l b => l - b

/-- `SHFDN` (10 R218). -/
def execShfdn (n : BitVec 1) (d a b : BitVec 8) (l : Word) (s : State) : Out :=
  s.shuffle (intForm (.shfdn n d a b l) n d a b l) fun l b => l + b

/-- The registers of the block of `XCHB`. -/
def xchbRegs (n : BitVec 8) : List (BitVec 8 × Nat) := (List.range 32).map fun i => (n + BitVec.ofNat 8 i, 1)

/-- The words of a block that change places in stage `k` in a lane: register `i` of the block where its bit differs from the
lane's. -/
def moves (k lane : Nat) : List Nat := (List.range 32).filter fun i => i.testBit k != lane.testBit k

/-- What `XCHB` gives to each lane of a pair of contributing lanes (10 R219): the words of the other, in the order of its own
registers. -/
def Ctx.exchanged (c : Ctx) (n : BitVec 8) (k : Nat) (ins : SMap LaneIn) : SMap (List Reg) :=
  ins.filterMap fun e =>
    let l := e.2.f.lane
    let m := l ^^^ 2 ^ k
    if c.contributes l && c.contributes m then
      (atLane ins m).map fun x => (e.1, (moves k l).map fun i => x.f.reg (n.toNat + (i ^^^ 2 ^ k)))
    else none

/-- Write the words that a lane takes in an exchange. -/
def Fibre.landWords (f : Fibre) (k n : Nat) (ws : List Reg) : Fibre :=
  ((moves k f.lane).zip ws).foldl (fun f e => f.setReg (n + e.1) e.2) f

/-- `XCHB` (10 R219): the words of contributing pairs of lanes change places, with their tags and poison, under every
`tagmode`. -/
def execXchb (n : BitVec 8) (st : BitVec 3) (s : State) : Out :=
  let k := st.toNat
  match s.turn with
  | .weave w =>
    let regs := match s.ctxOf w with | some c => c.p.hdr.regs | none => 0
    let h : Form := { instr := .xchb n st, bad := decide (4 < k),
                      badOp := decide (240 ≤ n.toNat) || decide (regs < n.toNat + 32), reads := .exch n.toNat k }
    .next (s.laneWeave w h false (xchbRegs n) fun s c ins =>
      let (res, s) := s.injectAll c.pid c.pc (c.exchanged n k ins)
      c.finish h (res.foldl (fun s e => s.modFibre e.1 fun f => f.landWords k n.toNat e.2) s) [])
  | .engine e => .next (s.trapEngine e cIllegal)
  | _ => .next s

/-- The mask of the contributing lanes, and of those whose predicate holds (10 R220). -/
def Ctx.ballot (c : Ctx) (k : Nat) : BitVec 32 × BitVec 32 :=
  let cs := c.acts.filter fun e => c.contributes e.2.lane
  (laneMask cs, laneMask (cs.filter fun e => e.2.p k))

/-- A vote (10 R220): a computing result that is never poisoned. -/
def State.vote (s : State) (h : Form) (k : BitVec 4) (g : BitVec 32 → BitVec 32 → Word) : Out :=
  s.laneOp h false [] fun s c ins =>
    let m := c.ballot k.toNat
    c.finish h s (ins.map fun e => (e.1, [intWord c h e.2 0 (g m.1 m.2) []]))

/-- `VOTE.BALLOT` (10 R220). -/
def execVoteBallot (n : BitVec 1) (d : BitVec 8) (k : BitVec 4) (s : State) : Out :=
  s.vote { instr := .voteBallot n d k, nw := n, dst := some (d, 1) } k fun _ m => m

/-- `VOTE.ANY` (10 R220). -/
def execVoteAny (n : BitVec 1) (d : BitVec 8) (k : BitVec 4) (s : State) : Out :=
  s.vote { instr := .voteAny n d k, nw := n, dst := some (d, 1) } k fun _ m => if m = 0#32 then 0#32 else 1#32

/-- `VOTE.ALL` (10 R220). -/
def execVoteAll (n : BitVec 1) (d : BitVec 8) (k : BitVec 4) (s : State) : Out :=
  s.vote { instr := .voteAll n d k, nw := n, dst := some (d, 1) } k fun c m => if m = c then 1#32 else 0#32

/-- `RHAD` (10 R221): a lane that does not contribute counts as +0 with the tag 0xFFF0. -/
def execRhad (n : BitVec 1) (d a b : BitVec 8) (l : Word) (s : State) : Out :=
  let h := { intForm (.rhad n d a b l) n d a b l with reads := .member }
  s.laneOp h false [] fun s c ins =>
    let cs := ins.filter fun e => c.contributes e.2.f.lane
    let at32 (i : Nat) : Option LaneIn := atLane cs i
    let xs := (List.range 32).map fun i =>
      match at32 i with | some x => dec x.a0.val.toNat fFP32 | none => .fin false 0 0 false
    let sg := laneMask ((cs.filter fun e => e.2.b0.val.getLsbD 0).map fun e => (e.1, e.2.f))
    let y := rht32 xs sg.toNat
    let ops := cs.map fun e => (special32 e.2.a0.val, e.2.a0.tag)
    let read := cs.flatMap fun e => [e.2.a0, e.2.b0]
    c.finish h s (ins.map fun e =>
      let v := BitVec.ofNat 32 (y.getD e.2.f.lane 0)
      (e.1, [fpWord c h e.2 v (special32 v) ops read]))

end Sys2Proof.Machine
end

