-- ==== Sys2Proof/Machine/MemInstr.lean ====
section
/-!
DEFINITION. Machine/MemInstr.lean: the issue of accesses (12 R253 to R263): the operand log (R255, 20 R355), the compare
buffer and the held operations of a redundant pair (22 R402), and the lane loads, stores, STP, atomics, GLD and GST.
-/

namespace Sys2Proof.Machine

/-! ## Results that arrive later -/

/-- Register a result that a later step delivers. -/
def State.addPend (s : State) (kind : PendKind) (dest : Dest) (pour pc : Nat) (acq : Option Clock := none)
    (ready : Bool := true) : Nat × State :=
  let (id, s) := s.fresh
  (id, { s with pend := s.pend ++ [{ id := id, kind := kind, dest := dest, pour := pour, pc := pc, acq := acq,
                                     ready := ready }] })

/-- The kind of step that delivers the result of an access. -/
def MemKind.pend : MemKind → PendKind
  | .atomic _ _ => .atomic
  | _ => .load

/-- The words that each active fibre of an access is to receive, with the tags that its mode gives (06 R137). A group
access gives every active fibre the words of its one lane. -/
def State.resultLanes (s : State) (op : MemOp) (res : SMap (List Reg)) : SMap (List Reg) :=
  op.acts.map fun f =>
    let ws := match SMap.get? res f with
      | some ws => ws
      | none => match res.head? with | some e => e.2 | none => []
    match s.fibre? f with
    | some v => (f, moved v.tagmode (v.regsAt op.dest ws.length) (ws.map fun r => { r with parity := false }))
    | none => (f, ws)

/-- Put the result of an access under way. -/
def State.sendResult (s : State) (op : MemOp) (res : SMap (List Reg)) : State :=
  if op.kind.resWords = 0 then s
  else (s.addPend op.kind.pend (.fibres op.dest (s.resultLanes op res)) op.pour op.pc).2

/-- A weave goes on past an access (09 R188, R190): the entry of a variable-latency result can never be read. The
instruction counts for profiling (23 R417). -/
def State.passAccess (s : State) (w : Nat) (op : MemOp) (len : Nat) (lane yields : Bool) : State :=
  let s := if op.kind.resWords = 0 then s
    else s.pushLatch w (BitVec.ofNat 8 op.dest) op.kind.resWords (op.acts.map fun f => (f, List.replicate op.kind.resWords {}))
      true
  (s.profile op).after w len lane yields

/-! ## The operand log -/

/-- Perform an access of any kind that this file issues. -/
def State.performAny (s : State) (p : Pour) (op : MemOp) : AccRes × Option State :=
  match op.kind with
  | .stp => s.performStp p op
  | _ => (s.perform p op, none)

/-- Whether two ranges of generic addresses share a byte. Stack addresses are each fibre's own (04 R91). -/
def lanesOverlap (a b : LaneAcc) (x y : BitVec 64) (w v : Nat) : Bool :=
  let stk := match aperture x with | .stack _ => true | _ => false
  decide (x.toNat < y.toNat + v) && decide (y.toNat < x.toNat + w) && (!stk || a.fibre == b.fibre)

/-- Whether two accesses overlap in bytes. -/
def opsOverlap (a b : MemOp) : Bool :=
  let pts (o : MemOp) (l : LaneAcc) : List (BitVec 64) := if o.kind = .stp then [l.addr, l.addr2] else [l.addr]
  a.lanes.any fun x => b.lanes.any fun y =>
    (pts a x).any fun p => (pts b y).any fun q => lanesOverlap x y p q a.kind.width b.kind.width

/-- Whether an access has to wait for held ones before it (12 R255, 20 R355): the log is full, it overlaps one, or it
synchronizes. -/
def State.logWait (s : State) (op : MemOp) : Option StallKind :=
  let hs := s.heldOf op.weave
  if 4 ≤ hs.length then some .log
  else if hs.any fun h => opsOverlap h.op op then some .order
  else if op.kind.isAtomic && !(s.heldFor op.weave).isEmpty then some .order
  else none

/-- Whether an access reads a weight-store group whose refresh window is open (04 R94). -/
def State.refreshWait (s : State) (p : Pour) (op : MemOp) : Bool :=
  (s.laneLocs p op false).any fun e =>
    match e.2 with
    | .mem pl => match wsGroup pl.key with | some (_, g) => windowOpen s.clk g | none => false
    | _ => false

/-- The trap of an access's fault, with tinfo for every active lane; a group access's is raised in all of them (12
R263). -/
def State.accInfo (s : State) (op : MemOp) (f : AccFault) (tags : SMap Word) (group : Bool) : TrapInfo :=
  let i := f.info op tags
  if group then
    let lanes := op.acts.filterMap fun g => (s.fibre? g).map fun v => v.lane
    let a := match op.lanes.head? with | some l => l.addr | none => 0#64
    let o := match f.other.head? with | some e => e.2 | none => 0#32
    { i with mask := maskOf lanes, addrs := lanes.map fun l => (l, a), other := lanes.map fun l => (l, o) }
  else i

def Ctx.accTrap (c : Ctx) (s : State) (op : MemOp) (f : AccFault) (tags : SMap Word) (group : Bool) : State :=
  s.trapWeave c.w (s.accInfo op f tags group)

/-- The result of an access that is not performed yet: its registers wait (12 R255). -/
def State.blankPend (s : State) (op : MemOp) : Option Nat × State :=
  if op.kind.resWords = 0 then (none, s)
  else
    let blank : SMap (List Reg) := op.acts.map fun f => (f, List.replicate op.kind.resWords {})
    let (id, s) := s.addPend op.kind.pend (.fibres op.dest blank) op.pour op.pc none false
    (some id, s)

/-- Hold an access whole until the driver has answered for a page (12 R255, 20 R355); the weave goes on. -/
def Ctx.hold (c : Ctx) (s : State) (op : MemOp) (len va : Nat) (tags : SMap Word) (group yields : Bool) : State :=
  let (fid, s) := s.reportFault c.p.part va .fibre op.kind.writes c.p.core (s.rtagOf c.p)
  let (op, s) := s.holdSync op op.acts
  let (pd, s) := s.blankPend op
  let (id, s) := s.fresh
  let s := { s with held := s.held ++ [({ id := id, op := op, pend := pd, fault := fid, tags := tags, group := group } : Held)] }
  s.passAccess c.w op len (!group) yields

/-- Issue an access of a weave outside a pair (12 R254, R255). -/
def Ctx.issueSolo (c : Ctx) (s : State) (op : MemOp) (len : Nat) (tags : SMap Word) (group : Bool) : State :=
  match s.logWait op with
  | some k => s.stallWeave c.w k true
  | none =>
    match s.performAny c.p op with
    | (.fault f, s2) => c.accTrap (s2.getD s) op f tags group
    | (.consume, _) => c.consume s
    | (.hold va, _) => c.hold s op len va tags group false
    | (.done s2 res, _) =>
      if s.refreshWait c.p op then s.stallWeave c.w .order
      else (s2.sendResult op res).passAccess c.w op len (!group) false

/-! ## Redundant pairs -/

/-- The stores of an access, in order: rank, address, bytes and data. -/
def State.pairStores (s : State) (op : MemOp) : List PairStore :=
  let bytes := match op.kind with | .store b | .shst b => b | _ => 4
  let one (l : LaneAcc) (a : BitVec 64) : PairStore :=
    { rank := (match s.fibre? l.fibre with | some f => f.rank | none => 0), addr := a, bytes := bytes, data := l.data, op := op }
  (op.lanes.map fun l => one l l.addr) ++ (if op.kind = .stp then op.lanes.map fun l => one l l.addr2 else [])

/-- The stores of the leading fibre of a rank that are still to be performed, in program order: those that the trailing member
has matched and that wait for a page (12 R255), then the unmatched ones. -/
def State.ownStores (s : State) (pr : Pair) (rank : Nat) : List PairStore :=
  ((s.held.filter fun h => h.op.pour == pr.trail && h.op.kind.isStore && h.mate.isNone).flatMap (fun h => s.pairStores h.op)
    ++ pr.stores).filter fun t => t.rank == rank

/-- The stores of the leading fibre of a rank that are still to be performed, applied to memory: what that fibre itself would
read (08 R168). -/
def State.ownView (s : State) (p : Pour) (pr : Pair) (f : Fibre) : Memory :=
  (s.ownStores pr f.rank).foldl (fun m t =>
    match s.locate p (some f.stack) t.addr t.bytes true with
    | .mem pl => storeAt m pl t.bytes t.data
    | _ => m) s.mem

/-- Memory as the first lane of an access reads it: a leading member's fibre finds its own stores (08 R168, 22 R402). -/
def State.viewOf (s : State) (p : Pour) (op : MemOp) : State :=
  match s.pairOf op.pour, op.lanes.head?.bind fun l => s.fibre? l.fibre with
  | some (_, pr), some f => if pr.lead = op.pour then { s with mem := s.ownView p pr f } else s
  | _, _ => s

/-- The values that a leading member's load finds, its own stores included. -/
def State.leadValues (s : State) (p : Pour) (pr : Pair) (op : MemOp) (res : SMap (List Reg)) : SMap (List Reg) :=
  res.map fun e =>
    match op.lanes.find? fun a => a.fibre == e.1 with
    | none => e
    | some a =>
      match s.fibre? e.1 with
      | none => e
      | some f =>
        if (s.ownStores pr f.rank).isEmpty then e
        else
          match s.locate p (some f.stack) a.addr op.kind.width false with
          | .mem pl => (e.1, ({ s with mem := s.ownView p pr f } : State).loadLane op.kind (.mem pl))
          | _ => e

/-- Whether two stores are equal (22 R402): address, width, the bytes stored and their tags. -/
def sameStore (a b : PairStore) : Bool :=
  a.addr == b.addr && a.bytes == b.bytes && (wordsBytes a.data).take a.bytes == (wordsBytes b.data).take b.bytes
    && a.data.map (·.tag) == b.data.map (·.tag)

/-- Match trailing stores with the oldest unmatched leading ones of their ranks: what is left, or none where one differs
or is not there yet. -/
def matchStores : List PairStore → List PairStore → Option (List PairStore)
  | [], buf => some buf
  | t :: ts, buf =>
    match buf.find? fun b => b.rank == t.rank with
    | none => none
    | some b => if sameStore b t then matchStores ts (buf.erase b) else none

/-- Whether a trailing store has no leading store of its rank to meet yet. -/
def missingStores (ts buf : List PairStore) : Bool :=
  ts.any fun t =>
    decide ((buf.filter fun b => b.rank == t.rank).length < (ts.filter fun b => b.rank == t.rank).length)

/-- Perform a matched store once for the pair in global memory, and in each member's own scratchpad and stack. The
trailing access has been performed in `s2`; the leading member's own memories are written beside it. -/
def State.twinStores (s : State) (pr : Pair) (lead : List PairStore) : State :=
  match s.pour? pr.lead with
  | none => s
  | some p =>
    lead.foldl (fun s t =>
      match aperture t.addr with
      | .global _ => s
      | _ =>
        let stk := match s.fibres.find? fun e => e.2.pour == pr.lead && e.2.rank == t.rank with
          | some e => some e.2.stack
          | none => none
        match s.locate p stk t.addr t.bytes true with
        | .mem pl => let s := s.touchPart pl.key t.bytes; { s with mem := storeAt s.mem pl t.bytes t.data }
        | _ => s) s

/-- The first rank of a list of stores. -/
def firstRank (ts : List PairStore) : Nat := match ts.head? with | some t => t.rank | none => 0

/-- The lines of a store that the leading member keeps in the compare buffer (08 R166): they count in both members. -/
def State.pairLines (s : State) (p : Pour) (op : MemOp) : State :=
  let ks := checkedLanes op (s.laneLocs p op false) false
    ++ (if op.kind = .stp then checkedLanes op (s.laneLocs p op true) true else [])
  s.addLines op ks

/-- An access of one member of a pair as the fibres of the same ranks in the other would make it. -/
def State.asMember (s : State) (pid : Nat) (op : MemOp) : MemOp :=
  let twin (f : Nat) : Option Nat :=
    (s.fibres.find? fun e => e.2.pour == pid && e.2.rank == s.rankOf f).map (·.1)
  { op with pour := pid, acts := op.acts.filterMap twin
            lanes := op.lanes.filterMap fun l => (twin l.fibre).map fun f => { l with fibre := f } }

/-- The lines of an access that one member performs count in the other's footprint too (08 R162, R166). -/
def State.twinLines (s : State) (pid : Nat) (op : MemOp) : State :=
  match s.pour? pid with
  | some p => s.pairLines p (s.asMember pid op)
  | none => s

/-- A leading member's stores enter the compare buffer, up to 64 a fibre (22 R402). -/
def Ctx.pairLead (c : Ctx) (s : State) (k : Nat) (pr : Pair) (ts : List PairStore) (go : State → State) : State :=
  let n (l : List PairStore) (t : PairStore) : Nat := (l.filter fun b => b.rank == t.rank).length
  let there := s.pairWaits pr false
  if ts.any fun t => there.contains t.rank then s.mismatch k (firstRank ts)
  else if ts.any fun t => decide (64 < n pr.stores t + n ts t) then s.stallWeave c.w .pair
  else go (s.modPair k fun p => { p with stores := p.stores ++ ts })

/-- A trailing member's stores are compared with the oldest unmatched leading ones of their ranks (22 R402); `go` has what is
left in the buffer. -/
def Ctx.pairTrail (c : Ctx) (s : State) (k : Nat) (pr : Pair) (ts : List PairStore) (go : List PairStore → State) : State :=
  if missingStores ts pr.stores then
    let there := s.pairWaits pr true
    if ts.any fun t => there.contains t.rank then s.mismatch k (firstRank ts) else s.stallWeave c.w .pair
  else
    match matchStores ts pr.stores with
    | none => s.mismatch k (firstRank ts)
    | some buf => go buf

/-- A store of a pair's member (22 R402): the leading one waits in the compare buffer; the trailing one is compared, and
performed where it is equal. A page that is not present holds the trailing store once it is compared (12 R255). The plain
copies of an STP that is half done are stores like any other (08 R176). -/
def Ctx.pairStore (c : Ctx) (s : State) (k : Nat) (pr : Pair) (op : MemOp) (len : Nat) (tags : SMap Word)
    (group : Bool) : State :=
  let lead := pr.lead == c.pid
  match s.logWait op with
  | some y => s.stallWeave c.w y true
  | none =>
    match s.performAny c.p op with
    | (.fault f, none) => c.accTrap s op f tags group
    | (.fault f, some s2) =>
      let ts := s.pairStores { op with kind := .store 4 }
      if pr.traps.any fun t => t.lead == lead && t.weave == c.w && t.info.pc == c.pc then c.accTrap s op f tags group
      else if lead then
        c.pairLead s k pr ts fun s => c.accTrap (s.pairLines c.p { op with kind := .store 4 }) op f tags group
      else
        c.pairTrail s k pr ts fun buf =>
          c.accTrap (((s2.modPair k fun p => { p with stores := buf }).twinStores pr ts).twinLines pr.lead { op with kind := .store 4 })
            op f tags group
    | (.consume, _) => c.consume s
    | (r, _) =>
      let ts := s.pairStores op
      if lead then c.pairLead s k pr ts fun t => (t.pairLines c.p op).passAccess c.w op len (!group) false
      else
        c.pairTrail s k pr ts fun buf =>
          match r with
          | .hold va => c.hold (s.modPair k fun p => { p with stores := buf }) op len va tags group false
          | .done s2 _ =>
            (((s2.modPair k fun p => { p with stores := buf }).twinStores pr ts).twinLines pr.lead op).passAccess c.w op len
              (!group) false
          | _ => s

/-- Whether two held operations are equal (22 R402): kind, addresses, data and tags. -/
def sameHeld (a b : MemOp) : Bool :=
  let sig (o : MemOp) := o.lanes.map fun l =>
    (l.lane, l.addr, l.data.map (fun r => (r.val, r.tag)), l.cmp.val)
  decide (a.kind = b.kind) && decide (a.word = b.word) && decide (a.pc = b.pc) && sig a == sig b

/-- A weave goes on past an operation that its pair performs once; the member that waited for it has yielded. -/
def State.passBoth (s : State) (w : Nat) (a b : MemOp) (len : Nat) (lane yields : Bool) : State :=
  let go (s : State) (o : MemOp) : State := s.passAccess o.weave o len lane (yields || o.weave != w)
  go (go s a) b

/-- The two weaves that meet in a held operation go on with its result (22 R402), and retake their checkpoints (R248). `w` is the
weave that issues. -/
def State.passPair (s : State) (w : Nat) (a b : MemOp) (len : Nat) (lane yields : Bool) : State :=
  ((s.passBoth w a b len lane yields).checkpoint a.weave).checkpoint b.weave

/-- Hold an operation that a pair performs once, `a` of the leading and `b` of the trailing member, for a page that is not
present (12 R255, 20 R355): both weaves go on. `o` is the one that had waited. -/
def Ctx.holdBoth (c : Ctx) (s : State) (k : Nat) (o : PairHeld) (lp : Pour) (a b : MemOp) (len va : Nat) (tags : SMap Word)
    (lane yields : Bool) : State :=
  let s := s.modPair k fun p => { p with held := p.held.filter fun h => h != o }
  let (fid, s) := s.reportFault lp.part va .fibre a.kind.writes lp.core (s.rtagOf lp)
  let (a, s) := s.holdSync a (a.acts ++ b.acts)
  let (pa, s) := s.blankPend a
  let (pb, s) := s.blankPend b
  let (id, s) := s.fresh
  let h : Held := { id := id, op := a, pend := pa, fault := fid, tags := tags, group := !lane, mate := some (b, pb) }
  ({ s with held := s.held ++ [h] } : State).passBoth c.w a b len lane yields

/-- A fault of an operation that both members of a pair have issued: both take its trap (22 R435). -/
def State.trapBoth (s : State) (k : Nat) (o : PairHeld) (w : Nat) (i : TrapInfo) : State :=
  let s := s.modPair k fun p => { p with held := p.held.filter fun h => h != o }
  ((s.enterTrap o.op.weave i).enterTrap w i)

/-- The lanes of an access whose address lies in scratchpad. -/
def scratchLanes (op : MemOp) : MemOp :=
  { op with lanes := op.lanes.filter fun l => match aperture l.addr with | .scratch _ => true | _ => false }

/-- Hold an operation of a pair's member until the other has issued it (22 R402): a leading store that the trailing member
has not issued before it is a mismatch (R403). -/
def Ctx.pairHold (c : Ctx) (s : State) (k : Nat) (pr : Pair) (op : MemOp) (rank : Nat) : State :=
  let lead := pr.lead == c.pid
  if !lead && (s.movers c.w).any (fun e => pr.stores.any fun t => t.rank == e.2.rank) then s.mismatch k rank
  else
    let h : PairHeld := { lead := lead, rank := rank, op := op }
    let s := if pr.held.contains h then s
      else (s.modPair k fun p => { p with held := h :: p.held.filter fun h => h.op.weave != c.w })
    s.waitPair c.w

/-- The trailing members' regions follow those of the leading ones in an operation that the latter perform for both (08 R162). -/
def State.followLead (s : State) (a b : MemOp) : State :=
  b.acts.foldl (fun s x =>
    match (a.acts.filterMap s.fibre?).find? fun f => (s.fibre? x).any fun v => v.rank == f.rank with
    | some f =>
      s.modFibre x fun v =>
        { v with clock := joinClock v.clock f.clock, region := max v.region f.region, foot := if a.clock.isSome then v.foot else [] }
    | none => s) s

/-- A pair's atomic, performed once by the leading member, and in each member's own scratchpad (22 R402): what it comes to, and
the trailing member's words. -/
def State.pairAtomicDo (s : State) (lp tp : Pour) (a b : MemOp) : AccRes × SMap (List Reg) :=
  match s.perform lp a with
  | .done s1 res =>
    let mine := match s1.perform tp (scratchLanes { b with clock := a.clock }) with
      | .done s2 r2 => (s2, r2)
      | _ => (s1, [])
    let res2 := b.acts.map fun f =>
      match SMap.get? mine.2 f with
      | some ws => (f, ws)
      | none =>
        let lane := match b.lanes.find? fun l => l.fibre == f with | some l => l.lane | none => 0
        let src := match a.lanes.find? fun l => l.lane == lane with | some l => l.fibre | none => 0
        (f, (SMap.get? res src).getD [])
    (.done (mine.1.followLead a b) res, res2)
  | r => (r, [])

/-- An atomic of a pair's member (22 R402): held until both members have issued it. Poison that it meets is consumed in both
(R403). -/
def Ctx.pairAtomic (c : Ctx) (s : State) (k : Nat) (pr : Pair) (op : MemOp) (len : Nat) (tags : SMap Word) : State :=
  let lead := pr.lead == c.pid
  let rank := match op.lanes.head? with
    | some l => (match s.fibre? l.fibre with | some f => f.rank | none => 0)
    | none => 0
  match s.logWait op with
  | some y => s.stallWeave c.w y true
  | none =>
    if s.unmatched c.w then s.waitPair c.w
    else
      match pr.held.find? fun h => h.lead != lead && h.rank == rank with
      | none => c.pairHold s k pr op rank
      | some o =>
        if !sameHeld o.op op then s.mismatch k rank
        else
          let a := if lead then op else o.op
          let b := if lead then o.op else op
          match s.pour? pr.lead, s.pour? pr.trail with
          | some lp, some tp =>
            match s.pairAtomicDo lp tp a b with
            | (.fault f, _) => s.trapBoth k o c.w (s.accInfo op f tags false)
            | (.consume, _) => s.purgePour c.pid 0
            | (.hold va, _) => c.holdBoth s k o lp a b len va tags true false
            | (.done s1 res, res2) =>
              let s1 := s1.modPair k fun p => { p with held := p.held.filter fun h => h != o }
              ((s1.sendResult a res).sendResult b res2).passPair c.w a b len true false
          | _, _ => s

/-- Issue an access of a weave (12 R254): in a pair, the compare buffer comes between. -/
def Ctx.issue (c : Ctx) (s : State) (op : MemOp) (len : Nat) (tags : SMap Word) (group : Bool) : State :=
  match s.pairOf c.pid with
  | none => c.issueSolo s op len tags group
  | some (k, pr) =>
    match op.kind with
    | .store _ | .stp | .gst | .shst _ => c.pairStore s k pr op len tags group
    | .atomic _ _ => c.pairAtomic s k pr op len tags
    | _ =>
      if pr.lead = c.pid then
        match s.logWait op, s.perform c.p op with
        | none, .done s2 res =>
          if s.refreshWait c.p op then s.stallWeave c.w .order
          else (s2.sendResult op (s.leadValues c.p pr op res)).passAccess c.w op len (!group) false
        | _, _ => c.issueSolo s op len tags group
      else c.issueSolo s op len tags group

/-! ## Lane accesses -/

/-- The captured access of a lane word (20 R355): `addr` by lane, the data it stores or combines, and STP's second pair. -/
def Ctx.laneMem (c : Ctx) (h : Form) (kind : MemKind) (rlx : Bool) (dest : Nat) (ins : SMap LaneIn) (off : Nat)
    (data : LaneIn → List Reg) (second : LaneIn → List Reg) (cmp : LaneIn → Reg) : MemOp :=
  { kind := kind, rlx := rlx, weave := c.w, pour := c.pid, pc := c.pc, here := c.here, dest := dest
    word := h.word, acts := ins.map (·.1)
    lanes := ins.map fun e =>
      { fibre := e.1, lane := e.2.f.lane, addr := pairAddr e.2.a + BitVec.ofNat 64 off, addr2 := pairAddr (second e.2),
        data := data e.2, cmp := cmp e.2, words := e.2.a ++ e.2.b ++ e.2.d ++ second e.2 } }

/-- A lane load (12 R258). -/
def State.laneLoad (s : State) (i : Instr) (r : BitVec 1) (d a : BitVec 8) (off bytes words : Nat) (signed : Bool) : Out :=
  let h : Form := { instr := i, dst := some (d, words), a := some (.ap, a) }
  s.laneOp h false [] fun s c ins =>
    if ins.any fun e => poi e.2.a then c.consume s
    else
      c.issue s (c.laneMem h (.load bytes words signed) (r == 1#1) d.toNat ins off (fun _ => []) (fun _ => []) fun _ => {})
        h.len (laneTags h ins) false

/-- `LD32` (12 R258). -/
def execLd32 (r : BitVec 1) (d a o : BitVec 8) (s : State) : Out := s.laneLoad (.ld32 r d a o) r d a (o.toNat * 4) 4 1 false

/-- `LD64` (12 R258). -/
def execLd64 (r : BitVec 1) (d a o : BitVec 8) (s : State) : Out := s.laneLoad (.ld64 r d a o) r d a (o.toNat * 8) 8 2 false

/-- `LD128` (12 R258). -/
def execLd128 (r : BitVec 1) (d a o : BitVec 8) (s : State) : Out :=
  s.laneLoad (.ld128 r d a o) r d a (o.toNat * 16) 16 4 false

/-- `LDN.Z8` (12 R258). -/
def execLdnZ8 (r : BitVec 1) (d a : BitVec 8) (s : State) : Out := s.laneLoad (.ldnZ8 r d a) r d a 0 1 1 false

/-- `LDN.S8` (12 R258). -/
def execLdnS8 (r : BitVec 1) (d a : BitVec 8) (s : State) : Out := s.laneLoad (.ldnS8 r d a) r d a 0 1 1 true

/-- `LDN.Z16` (12 R258). -/
def execLdnZ16 (r : BitVec 1) (d a : BitVec 8) (s : State) : Out := s.laneLoad (.ldnZ16 r d a) r d a 0 2 1 false

/-- `LDN.S16` (12 R258). -/
def execLdnS16 (r : BitVec 1) (d a : BitVec 8) (s : State) : Out := s.laneLoad (.ldnS16 r d a) r d a 0 2 1 true

/-- A lane store (12 R259): poison in the address or the data is consumed (R254). -/
def State.laneStore (s : State) (i : Instr) (r : BitVec 1) (sd a : BitVec 8) (k : SKind) (l : Word) (off bytes : Nat) : Out :=
  let h : Form := { instr := i, a := some (.ap, a), b := some (k, sd), lit := l }
  s.laneOp h false [] fun s c ins =>
    if ins.any fun e => poi e.2.a || poi e.2.b then c.consume s
    else
      c.issue s (c.laneMem h (.store bytes) (r == 1#1) 240 ins off (·.b) (fun _ => []) fun _ => {}) h.len
        (laneTags h ins) false

/-- `ST32` (12 R259). -/
def execSt32 (r : BitVec 1) (sd a o : BitVec 8) (l : Word) (s : State) : Out :=
  s.laneStore (.st32 r sd a o l) r sd a .s l (o.toNat * 4) 4

/-- `ST64` (12 R259). -/
def execSt64 (r : BitVec 1) (sd a o : BitVec 8) (l : Word) (s : State) : Out :=
  s.laneStore (.st64 r sd a o l) r sd a .ws l (o.toNat * 8) 8

/-- `ST128` (12 R259): a literal is an illegal operand. -/
def execSt128 (r : BitVec 1) (sd a o : BitVec 8) (s : State) : Out :=
  s.laneStore (.st128 r sd a o) r sd a .xs 0#32 (o.toNat * 16) 16

/-- `STN.B8` (12 R259). -/
def execStnB8 (r : BitVec 1) (sd a : BitVec 8) (l : Word) (s : State) : Out :=
  s.laneStore (.stnB8 r sd a l) r sd a .s l 0 1

/-- `STN.B16` (12 R259). -/
def execStnB16 (r : BitVec 1) (sd a : BitVec 8) (l : Word) (s : State) : Out :=
  s.laneStore (.stnB16 r sd a l) r sd a .s l 0 2

/-- `STP` (12 R260, R261): the A field holds the plain address, the B field the transposed one. -/
def execStp (sd a b : BitVec 8) (l : Word) (s : State) : Out :=
  let h : Form := { instr := .stp sd a b l, a := some (.ap, a), b := some (.s, sd), lit := l }
  match s.turn with
  | .weave w =>
    let regs := match s.ctxOf w with | some c => c.p.hdr.regs | none => 0
    let ls := match s.weave? w with | some v => v.latches | none => []
    let h := { h with badOp := srcBad regs ls .ap b }
    .next (s.laneWeave w h false [(b, 2)] fun s c ins =>
      let second (x : LaneIn) : List Reg := readSrc x.f c.p.idx c.v.latches 2 b 0#32
      if latchLost c.v.latches b then s.trapWeave c.w { c.latchTrap h false with addrs := c.acts.map fun e => (e.2.lane, 1#64) }
      else if ins.any fun e => poi e.2.a || poi e.2.b || poi (second e.2) then c.consume s
      else
        c.issue s (c.laneMem h .stp false 240 ins 0 (·.b) second fun _ => {}) h.len
          (laneTags h ins) false)
  | .engine e => .next (s.trapEngine e cIllegal)
  | _ => .next s

/-- An atomic (12 R262): poison in the address, the operand or the compare value is consumed. -/
def State.laneAtomic (s : State) (i : Instr) (f : AtomKind) (sc : BitVec 1) (d a b : BitVec 8) (l : Word) : Out :=
  let h : Form := { instr := i, dst := some (d, 1), a := some (.ap, a), b := some (.s, b), lit := l, bReg := true }
  let cas := f == .cas
  s.laneOp h cas [] fun s c ins =>
    if ins.any fun e => poi e.2.a || poi e.2.b || (cas && e.2.d0.poison) then c.consume s
    else
      c.issue s (c.laneMem h (.atomic f (sc == 1#1)) false d.toNat ins 0 (·.b) (fun _ => []) fun x =>
        if cas then x.d0 else {}) h.len (laneTags h ins) false

/-- `ATADD` (12 R262). -/
def execAtadd (sc : BitVec 1) (d a b : BitVec 8) (l : Word) (s : State) : Out :=
  s.laneAtomic (.atadd sc d a b l) .add sc d a b l

/-- `ATMAXS` (12 R262). -/
def execAtmaxs (sc : BitVec 1) (d a b : BitVec 8) (l : Word) (s : State) : Out :=
  s.laneAtomic (.atmaxs sc d a b l) .maxs sc d a b l

/-- `ATMAXZ` (12 R262). -/
def execAtmaxz (sc : BitVec 1) (d a b : BitVec 8) (l : Word) (s : State) : Out :=
  s.laneAtomic (.atmaxz sc d a b l) .maxz sc d a b l

/-- `ATEXCH` (12 R262). -/
def execAtexch (sc : BitVec 1) (d a b : BitVec 8) (l : Word) (s : State) : Out :=
  s.laneAtomic (.atexch sc d a b l) .exch sc d a b l

/-- `ATCAS` (12 R262): vD's prior value is the compare value. -/
def execAtcas (sc : BitVec 1) (d a b : BitVec 8) (l : Word) (s : State) : Out :=
  s.laneAtomic (.atcas sc d a b l) .cas sc d a b l

/-! ## Group accesses -/

/-- The captured access of a group word (12 R263): l0's alone. -/
def Ctx.groupMem (c : Ctx) (h : Form) (kind : MemKind) (rlx : Bool) (dest : Nat) (x : LaneIn) (off : Nat)
    (data : List Reg) : MemOp :=
  { kind := kind, rlx := rlx, weave := c.w, pour := c.pid, pc := c.pc, here := c.here, dest := dest
    word := h.word, acts := c.ids
    lanes := [{ fibre := (match c.acts.head? with | some e => e.1 | none => 0), lane := x.f.lane,
                addr := pairAddr x.a + BitVec.ofNat 64 off, data := data, words := x.a ++ x.b ++ x.d }] }

/-- l0's tags for every active lane (06 R147). -/
def Ctx.groupTags (c : Ctx) (h : Form) (x : LaneIn) : SMap Word := c.acts.map fun e => (e.2.lane, x.tags h)

/-- The cause of an engine access's fault, if it meets one (12 R254, R263): its address, its alignment, its place. -/
def engFault (s : State) (p : Pour) (a : BitVec 64) (align : Nat) (write : Bool) (l : Loc) : Option Nat :=
  match l with
  | .noncanon => some cAccess
  | _ =>
    if a.toNat % align ≠ 0 then some cMisalign
    else
      match l with
      | .scratchOut => some cScratch
      | .stackOut | .fatal | .violation => some cAccess
      | .peer d w _ _ => if write && !s.hasSender p.part d w then some cAccess else none
      | _ => none

/-- Whether a place is in a weight-store group whose window is open. -/
def State.locRefresh (s : State) : Loc → Bool
  | .mem pl => match wsGroup pl.key with | some (_, g) => windowOpen s.clk g | none => false
  | _ => false

/-- An engine's load or store of one word (12 R263): unchecked, without tags. -/
def State.engAccess (s : State) (e : Nat) (x : EngIn) (a : BitVec 64) (write : Bool)
    (k : State → Loc → State) : State :=
  let l := s.locate x.p none a 4 write
  match engFault s x.p a 4 write l with
  | some cause => s.trapEngine e cause
  | none =>
    match l with
    | .notPresent va =>
      let (fid, s) := s.reportFault x.p.part va .engine write x.p.core (s.rtagOf x.p)
      s.stallEngine e .order (some fid)
    | _ =>
      if s.locRefresh l then s.stallEngine e .order
      else
        let s := s.cacheAll x.p [a]
        k (if write then s else s.touchLoc l 4 false) l

/-- `GLD` (12 R263). -/
def execGld (r : BitVec 1) (d a o : BitVec 8) (s : State) : Out :=
  let h : Form := { instr := .gld r d a o, dst := some (d, 1), a := some (.ap, a) }
  let off := o.toNat * 4
  match s.turn with
  | .weave w => .next (s.groupWeave w h fun s c x =>
      if poi x.a then c.consume s
      else c.issue s (c.groupMem h .gld (r == 1#1) d.toNat x off []) h.len (c.groupTags h x) true)
  | .engine e => .next (s.groupEngine e h fun s x =>
      if poi x.a then consumeE s e
      else
        s.engAccess e x (pairAddr x.a + BitVec.ofNat 64 off) false fun s l =>
          let ws := (s.loadLane .gld l).map fun r => { r with tag := Config.noTag }
          let s := match l with | .peer _ _ _ _ => { s with free := s.free + 1 } | _ => s
          ((s.addPend .load (.engine e d.toNat ws) x.v.pour x.v.pc).2).afterEngine e h.len)
  | _ => .next s

/-- `GST` (12 R263). -/
def execGst (r : BitVec 1) (sd a o : BitVec 8) (l : Word) (s : State) : Out :=
  let h : Form := { instr := .gst r sd a o l, a := some (.ap, a), b := some (.s, sd), lit := l }
  let off := o.toNat * 4
  match s.turn with
  | .weave w => .next (s.groupWeave w h fun s c x =>
      if poi x.a || poi x.b then c.consume s
      else c.issue s (c.groupMem h .gst (r == 1#1) 240 x off x.b) h.len (c.groupTags h x) true)
  | .engine e => .next (s.groupEngine e h fun s x =>
      if poi x.a then consumeE s e
      else
        s.engAccess e x (pairAddr x.a + BitVec.ofNat 64 off) true fun s l =>
          let op : MemOp := { kind := .gst, rlx := true, weave := 0, pour := x.v.pour, pc := x.v.pc, here := x.here, dest := 240,
                              lanes := [], word := h.word }
          let s := match l with
            | .mem pl =>
              let s := s.touchPart pl.key 4
              let m := storeAt s.mem pl 4 x.b
              { s with mem := if poi x.b then m.setPoison pl.key true else m }
            | .peer dv wn of t => s.remoteStore x.p op (engRank x.v.kind) dv wn of t 4 x.b
            | _ => s
          s.afterEngine e h.len)
  | _ => .next s

/-! ## Arrivals -/

/-- Write a result that arrives (20 R353), with an armed injection (22 R405), to its registers. -/
def State.deliver (s : State) (p : Pending) (flip : Bool) : State :=
  let s := { s with pend := s.pend.filter fun q => q.id != p.id }
  match p.dest with
  | .fibres d lanes =>
    let (lanes, s) := if flip && decide (d < 240) then s.injectAll p.pour p.pc lanes else (lanes, s)
    let s := if d < 240 then lanes.foldl (fun s e => s.modFibre e.1 fun f => f.landRegs (p.skips e.1) d e.2) s else s
    let s := match p.acq with | some c => s.acquireClock (lanes.map Prod.fst) c | none => s
    s
  | .engine e d ws =>
    let s := s.modEngine e fun v => v.landK (p.skips e) d ws
    let s := match p.acq with
      | some c => s.modEngine e fun v => { v with clock := joinClock v.clock c, region := v.region + 1 }
      | none => s
    s

/-- LOAD_RESULT_ARRIVAL (95): a loaded word, or another variable-latency result, arrives. -/
def execLoadResultArrival (id : Nat) (s : State) : Out :=
  match s.pend.find? fun p => p.id == id && p.kind == .load && p.ready with
  | some p => .next (s.deliver p true)
  | none => .next s

/-- ATOMIC_RESULT_ARRIVAL (95): an atomic's old word arrives. -/
def execAtomicResultArrival (id : Nat) (s : State) : Out :=
  match s.pend.find? fun p => p.id == id && p.kind == .atomic && p.ready with
  | some p => .next (s.deliver p true)
  | none => .next s

/-- Drop a held access with its pending results. -/
def State.dropHeld (s : State) (h : Held) : State :=
  let gone (q : Pending) : Bool := some q.id == h.pend || (match h.mate with | some m => some q.id == m.2 | none => false)
  { s with held := s.held.filter fun g => g.id != h.id
           pend := s.pend.filter fun q => !gone q }

/-- A pending result gets its words, and is under way. -/
def State.fillPend (s : State) (id : Option Nat) (ws : SMap (List Reg)) : State :=
  { s with
    pend := s.pend.map fun (q : Pending) =>
      if some q.id = id then
        match q.dest with
        | .fibres d lanes => { q with ready := true, dest := .fibres d (lanes.map fun (e : Nat × List Reg) => (e.1, (SMap.get? ws e.1).getD e.2)) }
        | .engine _ _ _ => q
      else q }

/-- A held access has been performed: its result is under way. DESIGN CHOICE (log 105): its tags follow the tag mode that the fibre has
now (06 R137). -/
def State.finishHeld (s : State) (h : Held) (res : SMap (List Reg)) : State :=
  ({ s with held := s.held.filter fun g => g.id != h.id } : State).fillPend h.pend (s.resultLanes h.op res)

/-- A held access meets a page that is still not present: a new entry (22 R392). -/
def State.reHold (s : State) (p : Pour) (h : Held) (va : Nat) : State :=
  let (fid, s) := s.reportFault p.part va .fibre h.op.kind.writes p.core (s.rtagOf p)
  { s with held := s.held.map fun g => if g.id == h.id then { g with fault := fid } else g }

/-- A held operation that still waits, for its edge (03 R74) or for a refresh window (04 R94), is tried again each cycle. -/
def State.keepHeld (s : State) (h : Held) : State :=
  { s with held := s.held.map fun g => if g.id == h.id then { g with fault := 0 } else g }

/-- The fault of a held access traps in the weaves that now hold its fibres, which have gone on (22 R392): each shows the lanes
that it holds. -/
def State.trapHeld (s : State) (h : Held) (i : TrapInfo) : State :=
  let ws := (h.fibres.filterMap fun f => (s.fibre? f).bind fun v => v.weave).eraseDups
  ws.foldl (fun t w =>
    let here := laneMask ((s.members w).filter fun e => h.fibres.contains e.1)
    if i.mask &&& here = 0#32 then t else t.trapWeave w { i with mask := i.mask &&& here }) (s.dropHeld h)

/-- A pair's atomic that was held for a page is performed again for both members. -/
def State.replayPairAtomic (s : State) (h : Held) (lp : Pour) (b : MemOp) (pb : Option Nat) : State :=
  match s.pour? b.pour with
  | none => s.dropHeld h
  | some tp =>
    match s.pairAtomicDo lp tp h.op b with
    | (.fault f, _) => s.trapHeld h (s.accInfo h.op f h.tags h.group)
    | (.consume, _) => (s.dropHeld h).purgePour h.op.pour 0
    | (.hold va, _) => s.reHold lp h va
    | (.done s2 res, res2) =>
      (((s2.finishHeld h res).fillPend pb (s2.resultLanes b res2)).checkpoint h.op.weave).checkpoint b.weave

/-- A held access of this file is performed again, after the driver's answer (22 R392). A leading member's load finds its own
unmatched stores; a trailing member's store is performed for both. -/
def State.replay (s : State) (h : Held) : State :=
  match s.pour? h.op.pour with
  | none => s.dropHeld h
  | some p =>
    match h.mate with
    | some (b, pb) => s.replayPairAtomic h p b pb
    | none =>
      match s.performAny p h.op with
      | (.fault f, s2) =>
        let s := match s2, s.pairOf h.op.pour with
          | some s2, some (_, pr) =>
            let plain := { h.op with kind := .store 4 }
            if pr.trail = h.op.pour then (s2.twinStores pr (s.pairStores plain)).twinLines pr.lead plain else s2
          | some s2, none => s2
          | none, _ => s
        s.trapHeld h (s.accInfo h.op f h.tags h.group)
      | (.consume, _) => (s.dropHeld h).purgePour h.op.pour 0
      | (.hold va, _) => s.reHold p h va
      | (.done s2 res, _) =>
        if s.refreshWait p h.op then s.keepHeld h
        else
          match s.pairOf h.op.pour with
          | some (_, pr) =>
            let s2 := if pr.trail = h.op.pour ∧ h.op.kind.isStore then
                (s2.twinStores pr (s.pairStores h.op)).twinLines pr.lead h.op
              else s2
            s2.finishHeld h (if pr.lead = h.op.pour then s2.leadValues p pr h.op res else res)
          | none => s2.finishHeld h res

end Sys2Proof.Machine
end

