-- ==== Sys2Proof/Machine/Block.lean ====
section
/-!
DEFINITION. Machine/Block.lean: the structures that engine commands read: shape registers (04 R102, R103), copy and put
blocks (04 R106, 12 R274), pattern programs (12 R270), and phase-barrier words (04 R107 to R109).
-/

namespace Sys2Proof.Machine

/-- A signed number of `n` bits. -/
def toSigned (x n : Nat) : Int := if x < 2 ^ (n - 1) then (x : Int) else (x : Int) - (2 ^ n : Nat)

/-- A shape register, decoded (04 R102); dimensions at or above the rank act as extent 1, window 1, origin 0. -/
structure Shape where
  base  : BitVec 64
  rank  : Nat
  fmt   : Nat
  bank  : Nat
  tagd  : Bool
  plane : Bool
  fill  : Bool
  tlast : Bool
  ext   : List Nat
  std   : List Int
  win   : List Nat
  org   : List Int
  fval  : Nat
  resv  : Bool
  deriving DecidableEq, Repr

def decodeShape (v : BitVec 768) : Shape :=
  let n := v.toNat
  let rank := bits n 64 4
  let dim (d : Nat) : Bool := decide (d < rank)
  { base := BitVec.ofNat 64 n, rank := rank, fmt := bits n 68 8, bank := bits n 76 4, tagd := bits n 80 1 = 1,
    plane := bits n 81 1 = 1, fill := bits n 82 1 = 1, tlast := bits n 83 1 = 1
    ext := (List.range 5).map fun d => if dim d then bits n (96 + 32 * d) 32 else 1
    std := (List.range 5).map fun d => if dim d then toSigned (bits n (256 + 40 * d) 40) 40 else 0
    win := (List.range 5).map fun d => if dim d then bits n (456 + 16 * d) 16 else 1
    org := (List.range 5).map fun d => if dim d then toSigned (bits n (536 + 32 * d) 32) 32 else 0
    fval := bits n 696 32
    resv := decide (bits n 84 12 ≠ 0) || decide (bits n 728 40 ≠ 0) }

/-- Whether an address lies in the scratchpad aperture. -/
def inScratch (a : BitVec 64) : Bool := match aperture a with | .scratch _ => true | _ => false

/-- Tile width of a format (04 R89), zero for a format that makes no tile. -/
def tileCols (c : Nat) : Nat :=
  if c = fLG6 ∨ c = fFP4 ∨ c = fINT4 then 512
  else if c = fE4M3 ∨ c = fE5M2 ∨ c = fINT8 then 256
  else if c = fBF16 ∨ c = fFP16 then 128
  else 0

/-- The reserved-field fault of a shape register (04 R103). -/
def Shape.bad (h : Shape) : Bool :=
  h.resv || decide (h.rank = 0) || decide (5 < h.rank) || !isFmt h.fmt || decide (2 ^ 57 ≤ h.base.toNat)
    || (h.plane && (decide (h.rank ≠ 2) || decide (tileCols h.fmt = 0) || !inScratch h.base))
    || decide (3 < h.bank)
    || (decide (0 < h.bank) && (!inScratch h.base || decide (2 ^ (h.bank + 1) * 8 < slotBits h.fmt)))

/-- A copy block (04 R106). -/
structure CopyBlock where
  insh   : Nat
  outsh  : Nat
  conv   : Nat
  rmode  : Nat
  acq    : Bool
  rel    : Bool
  scope  : Nat
  tmode  : Nat
  pvalid : Bool
  bvalid : Bool
  pat    : BitVec 64
  bar    : BitVec 64
  resv   : Bool
  deriving DecidableEq, Repr

def decodeBlock (bs : List Byte) : CopyBlock :=
  let n := leNat bs
  { insh := bits n 0 4, outsh := bits n 4 4, conv := bits n 8 8, rmode := bits n 16 3, acq := bits n 19 1 = 1,
    rel := bits n 20 1 = 1, scope := bits n 21 2, tmode := bits n 23 2, pvalid := bits n 25 1 = 1,
    bvalid := bits n 26 1 = 1, pat := BitVec.ofNat 64 (bits n 64 64), bar := BitVec.ofNat 64 (bits n 128 64)
    resv := decide (3 < bits n 16 3) || decide (1 < bits n 21 2) || decide (bits n 23 2 = 3)
      || decide (bits n 27 37 ≠ 0) || decide (bits n 192 320 ≠ 0) }

/-- A put block (12 R274). -/
structure PutBlock where
  src    : BitVec 64
  dst    : BitVec 64
  len    : Nat
  acq    : Bool
  scope  : Nat
  tmode  : Nat
  bvalid : Bool
  bar    : BitVec 64
  resv   : Bool
  deriving DecidableEq, Repr

def decodePut (bs : List Byte) : PutBlock :=
  let n := leNat bs
  { src := BitVec.ofNat 64 (bits n 0 64), dst := BitVec.ofNat 64 (bits n 64 64), len := bits n 128 24,
    acq := bits n 154 1 = 1, scope := bits n 155 1, tmode := bits n 156 2, bvalid := bits n 158 1 = 1,
    bar := BitVec.ofNat 64 (bits n 192 64)
    resv := decide (bits n 156 2 = 3) || decide (bits n 159 33 ≠ 0) || decide (bits n 256 256 ≠ 0)
      || decide (bits n 128 24 % 8 ≠ 0) || decide (bits n 128 24 = 0) }

/-- A pattern operation (12 R270). -/
inductive POp where
  | pend
  | pdim (d : Nat) (rev : Bool) (step : Nat)
  | pperm (ds : List Nat)
  | ptile (d t : Nat)
  | ppad (d m v : Nat)
  | pconv (c : Nat)
  | pplane (kfast : Bool) (t : Nat)
  | pscale (fmt sh : Nat)
  | prot (mask : Nat)
  | pemit (sh : Nat)
  deriving DecidableEq, Repr

/-- One pattern operation (12 R270), none where it is reserved. DESIGN CHOICE (log 93): a `PPLANE` whose table offset is not 64-byte
aligned counts as reserved, so that its command ends with −3. -/
def decodePOp (n : Nat) : Option POp :=
  let d := bits n 8 3
  let only (mask : Nat) : Bool := decide (n &&& (2 ^ 64 - 1 - mask) = 0)
  match bits n 0 8 with
  | 0 => if only 0xFF then some .pend else none
  | 1 => if only 0xFFFF0FFF ∧ d ≤ 4 ∧ bits n 16 16 ≠ 0 then some (.pdim d (bits n 11 1 = 1) (bits n 16 16)) else none
  | 2 =>
    let ds := (List.range 5).map fun i => bits n (8 + 3 * i) 3
    if only 0x7FFFFF ∧ (List.range 5).all (fun x => ds.contains x) then some (.pperm ds) else none
  | 3 => if only 0xFFFF07FF ∧ d ≤ 4 ∧ bits n 16 16 ≠ 0 then some (.ptile d (bits n 16 16)) else none
  | 4 =>
    if only 0xFFFFFFFFFFFF07FF ∧ d ≤ 4 ∧ bits n 16 16 ≠ 0 then some (.ppad d (bits n 16 16) (bits n 32 32)) else none
  | 5 => if only 0xFFFF ∧ bits n 8 3 = 0 then some (.pconv (bits n 8 8)) else none
  | 6 => if only 0xFFFFFF01FF ∧ bits n 16 24 % 64 = 0 then some (.pplane (bits n 8 1 = 1) (bits n 16 24)) else none
  | 7 => if only 0xFFFFF ∧ 3 ≤ bits n 8 8 ∧ bits n 8 8 ≤ 6 then some (.pscale (bits n 8 8) (bits n 16 4)) else none
  | 8 => if only 0xFFFFFFFF000000FF then some (.prot (bits n 32 32)) else none
  | 9 => if only 0xFFF then some (.pemit (bits n 8 4)) else none
  | _ => none

/-- Whether an operation belongs to the walk group. -/
def POp.walks : POp → Bool
  | .pdim _ _ _ | .pperm _ | .ptile _ _ | .ppad _ _ _ => true
  | _ => false

def POp.emits : POp → Bool
  | .pplane _ _ | .pemit _ => true
  | _ => false

/-- A program of at most 16 operations, up to its PEND (04 R101); none where an operation is reserved, or there is no
PEND. -/
def decodeProg : List Nat → Option (List POp)
  | [] => none
  | n :: ns =>
    match decodePOp n with
    | none => none
    | some .pend => some []
    | some o => (decodeProg ns).map fun os => o :: os

/-- Whether every walk operation comes before every other, with PPERM and each dimension's PPAD at most once (12 R270),
and the emissions fit the command: none under RCOPY, one to four under RPAT (R268, R273). -/
def progBad (ops : List POp) (rpat : Bool) : Bool :=
  let tail := ops.dropWhile (·.walks)
  let pads := ops.filterMap fun o => match o with | .ppad d _ _ => some d | _ => none
  let perms := ops.filter fun o => match o with | .pperm _ => true | _ => false
  let emits := (ops.filter (·.emits)).length
  tail.any (·.walks) || decide (1 < perms.length) || decide (pads.eraseDups.length ≠ pads.length)
    || (if rpat then decide (emits = 0) || decide (4 < emits) else decide (0 < emits))

/-! ## Reading engine structures -/

/-- What reading a structure through an engine's path gives: its bytes, a page to wait for, a refresh window to wait for (04
R94), or a failing code (04 R98). -/
inductive EngRead where
  | bytes (bs : List Byte) (poison : Bool)
  | wait (va : Nat)
  | refresh
  | fail (code : Nat)
  deriving DecidableEq, Repr

/-- Read `n` bytes, in pieces of 8, as an engine (04 R83 to R92, R98): on a peer frame it is a fabric read, which may end in error
(R96, 12 R266). -/
def State.engBytes (s : State) (p : Pour) (a : BitVec 64) (n : Nat) : EngRead :=
  (List.range ((n + 7) / 8)).foldl (fun acc i =>
    match acc with
    | .bytes bs po =>
      let l := s.locate p none (a + BitVec.ofNat 64 (8 * i)) 8 false
      match l with
      | .mem pl =>
        if s.locRefresh l then .refresh else .bytes (bs ++ s.mem.readBytes pl.key 8) (po || s.mem.isPoison pl.key)
      | .peer d w o t =>
        match peerRead d w o 8 t s.free with
        | none => .fail 6
        | some r => .bytes (bs ++ r.bytes) (po || r.poison.any id)
      | .notPresent va => .wait va
      | .fatal => .fail 1
      | .scratchOut => .fail 5
      | _ => .fail 2
    | e => e) (.bytes [] false)

/-- A read of `n` bytes from an address, in pieces of 8, corrects and counts what it finds (22 R398). -/
def State.touchRead (s : State) (p : Pour) (a : BitVec 64) (n : Nat) (tags : Bool := false) : State :=
  if s.mem.sound then s
  else (List.range ((n + 7) / 8)).foldl (fun s i => s.touchLoc (s.locate p none (a + BitVec.ofNat 64 (8 * i)) 8 false) 8 tags) s

/-- The pattern program at an address, as numbers; the read stops at PEND. -/
def State.progWords (s : State) (p : Pour) (a : BitVec 64) : Nat → EngRead × List Nat
  | 0 => (.bytes [] false, [])
  | k + 1 =>
    match s.engBytes p a 8 with
    | .bytes bs po =>
      let n := leNat bs
      if bits n 0 8 = 0 then (.bytes [] po, [n])
      else
        let (e, ns) := State.progWords s p (a + 8#64) k
        (match e with | .bytes _ po2 => .bytes [] (po || po2) | e => e, n :: ns)
    | e => (e, [])

/-- The shape registers that a block's program names (12 R269). -/
def progShapes (ops : List POp) : List Nat :=
  ops.filterMap fun o => match o with | .pemit h => some h | .pscale _ h => some h | _ => none

/-- Whether an address lies on a peer frame. -/
def State.onPeer (s : State) (p : Pour) (a : BitVec 64) : Bool :=
  match s.locate p none a 8 false with
  | .peer _ _ _ _ => true
  | _ => false

/-- Whether a command that has not started its walk names a shape register, or may name it because its block or its program
cannot be read yet (12 R269). -/
def State.cmdNames (s : State) (c : Cmd) (n : Nat) : Bool :=
  if c.kind = .put then false
  else if s.onPeer c.owner c.addr then true
  else
    match s.engBytes c.owner c.addr 64 with
    | .wait _ | .refresh => true
    | .fail _ => false
    | .bytes bs _ =>
      let b := decodeBlock bs
      let own := if c.kind = .rpat then [b.insh] else [b.insh, b.outsh]
      if b.pvalid then
        if s.onPeer c.owner b.pat then true
        else match s.progWords c.owner b.pat 16 with
        | (.wait _, _) | (.refresh, _) => true
        | (_, ws) =>
          match decodeProg ws with
          | some ops => (own ++ progShapes ops).contains n
          | none => own.contains n
      else own.contains n

/-- Whether a held SHLD of a pour will write a shape register (20 R355). -/
def State.shapeHeld (s : State) (pid n : Nat) : Bool := s.held.any fun h => h.op.pour == pid && h.op.kind == .shld n

/-- Whether an access to a shape register by an instruction has to wait: a command of its pour that has not passed its checks
names it (12 R269), or a held SHLD is to write it. -/
def State.shapeBusy (s : State) (pid n : Nat) : Bool :=
  s.shapeHeld pid n || s.cmds.any fun c => c.pour == pid && (c.state == .queued || c.state == .starting) && s.cmdNames c n

/-! ## Phase-barrier words -/

/-- The fields of a phase-barrier word (04 R107). -/
structure PBar where
  phase   : Bool
  err     : Bool
  fcode   : Nat
  expect  : Nat
  arrived : Nat
  pend    : Nat
  deriving DecidableEq, Repr

def decodePBar (n : Nat) : PBar :=
  { phase := bits n 63 1 = 1, err := bits n 62 1 = 1, fcode := bits n 56 6, expect := bits n 40 16,
    arrived := bits n 24 16, pend := bits n 0 24 }

def PBar.toNat (b : PBar) : Nat :=
  (if b.phase then 2 ^ 63 else 0) + (if b.err then 2 ^ 62 else 0) + b.fcode % 64 * 2 ^ 56 + b.expect % 65536 * 2 ^ 40
    + b.arrived % 65536 * 2 ^ 24 + b.pend % 2 ^ 24

/-- Complete the phase where the update leaves arrived = expect and pend = 0 (04 R109). -/
def PBar.settle (b : PBar) : PBar :=
  if b.arrived = b.expect ∧ b.pend = 0 then { b with phase := !b.phase, arrived := 0, err := false, fcode := 0 } else b

/-- One arrival (04 R108). -/
def PBar.arrive (b : PBar) : PBar := PBar.settle { b with arrived := (b.arrived + 1) % 65536 }

/-- Bytes in flight added and taken away (04 R108), modulo 2^24. -/
def PBar.addPend (b : PBar) (n : Nat) : PBar := { b with pend := (b.pend + n) % 2 ^ 24 }
def PBar.subPend (b : PBar) (n : Nat) : PBar := { b with pend := (b.pend + 2 ^ 24 - n % 2 ^ 24) % 2 ^ 24 }

/-- An error completion (04 R108); `resume` is what a matrix instruction leaves in pend. -/
def PBar.error (b : PBar) (code : Nat) (resume : Option Nat) : PBar :=
  { b with phase := !b.phase, err := true, fcode := code % 64, arrived := 0, pend := resume.getD b.pend }

/-- Update the word at a scratchpad key; its waiters look again (04 R108). Where the phase toggles, what its arrivals
released is what a wait on it acquires (R109). -/
def State.modBar (s : State) (key : Nat) (g : PBar → PBar) : State :=
  let s := s.touch key 8
  let b := decodePBar (s.mem.readNat key 8)
  let b' := g b
  let s := { s with mem := s.mem.store key (leBytes 8 b'.toNat) }
  let s := if b.phase != b'.phase then (s.setSync (.phaseDone key) (s.syncOf (.phase key))).setSync (.phase key) [] else s
  s

/-- The scratchpad key of a barrier word, or the cause of the fault that its address meets (11 R240): outside the
aperture, misaligned, outside the allocation. -/
def barKey (p : Pour) (a : BitVec 64) : Except Nat Nat :=
  match aperture a with
  | .scratch o =>
    if a.toNat % 8 ≠ 0 then .error cMisalign
    else if o + 8 ≤ p.hdr.scratch then .ok (scratchKey p.core (p.scratch + o)) else .error cScratch
  | _ => .error cAccess

/-- The key of a command's barrier word, or the token code of R106. -/
def cmdBar (p : Pour) (a : BitVec 64) : Except Nat Nat :=
  if a.toNat % 8 ≠ 0 then .error 4
  else
    match aperture a with
    | .scratch o => if o + 8 ≤ p.hdr.scratch then .ok (scratchKey p.core (p.scratch + o)) else .error 5
    | _ => .error 2

/-- An arrival that releases a clock at pour scope (04 R109). -/
def State.arriveBar (s : State) (key : Nat) (c : Clock) : State :=
  let s := s.setSync (.phase key) (joinClock (s.syncOf (.phase key)) c)
  s.modBar key PBar.arrive

end Sys2Proof.Machine
end

