-- ==== Sys2Proof/Machine/Shape.lean ====
section
/-!
DEFINITION. Machine/Shape.lean: the shape-register instructions (12 R269, R277, R278).
-/

namespace Sys2Proof.Machine

/-- A shape register of a pour. -/
def Pour.shape (p : Pour) (n : Nat) : BitVec 768 := p.shapes.getD n 0#768

/-- What the shape registers held before the writes of a core cycle (12 R278). -/
def Pour.shapesAt (p : Pour) (clk : Nat) : List (BitVec 768) :=
  match p.shapesOld with
  | some o => if o.1 = clk then o.2 else p.shapes
  | none => p.shapes

/-- A write of a shape register in a core cycle: what the registers held before the cycle's writes is kept (12 R278). -/
def Pour.setShape (p : Pour) (clk n : Nat) (v : BitVec 768) : Pour :=
  { p with shapes := p.shapes.set n v, shapesOld := some (clk, p.shapesAt clk) }

/-- Write one word of a shape register (12 R278). -/
def setShapeWord (v : BitVec 768) (w : Nat) (x : Word) : BitVec 768 :=
  (v &&& ~~~((0xFFFFFFFF#768) <<< (32 * w))) ||| ((x.zeroExtend 768) <<< (32 * w))

/-- `SHSET` (12 R278). DESIGN CHOICE (log 108): poison is consumed before the word's index is looked at. -/
def execShset (n : BitVec 4) (a b : BitVec 8) (l : Word) (s : State) : Out :=
  let h : Form := { instr := .shset n a b l, a := some (.s, a), b := some (.s, b), lit := l }
  let set (s : State) (pid : Nat) (v w : Word) : State :=
    s.modPour pid fun p => p.setShape s.clk n.toNat (setShapeWord (p.shape n.toNat) w.toNat v)
  s.groupOp h
    (fun s c x =>
      if poi (x.a ++ x.b) then c.consume s
      else if 24 ≤ x.b0.val.toNat then c.trapG s h x cOperand c.mask (h.word.zeroExtend 64)
      else if s.shapeBusy c.pid n.toNat then s.stallWeave c.w .shape
      else (set s c.pid x.a0.val x.b0.val).after c.w h.len false false)
    fun s e x =>
      if poi (x.a ++ x.b) then consumeE s e
      else if 24 ≤ x.b0.val.toNat then s.trapEngine e cOperand
      else if s.shapeBusy x.v.pour n.toNat then s.stallEngine e .shape
      else (set s x.v.pour x.a0.val x.b0.val).afterEngine e h.len

/-- `SHGET` (12 R278), with poison before the index as for `SHSET` (log 108). -/
def execShget (d : BitVec 8) (n : BitVec 4) (b : BitVec 8) (l : Word) (s : State) : Out :=
  let h : Form := { instr := .shget d n b l, dst := some (d, 1), b := some (.s, b), lit := l }
  let word (p : Pour) (w : Word) : Word := ((p.shapesAt s.clk).getD n.toNat 0#768).extractLsb' (32 * w.toNat) 32
  s.groupOp h
    (fun s c x =>
      if poi x.b then c.consume s
      else if 24 ≤ x.b0.val.toNat then c.trapG s h x cOperand c.mask (h.word.zeroExtend 64)
      else if s.shapeHeld c.pid n.toNat then s.stallWeave c.w .shape
      else c.finishIn h s (c.supply h s fun _ => [word c.p x.b0.val]))
    fun s e x =>
      if poi x.b then consumeE s e
      else if 24 ≤ x.b0.val.toNat then s.trapEngine e cOperand
      else if s.shapeHeld x.v.pour n.toNat then s.stallEngine e .shape
      else finishE h s e [{ val := word x.p x.b0.val }]

/-- The pieces of an access of 96 bytes: 32-byte-aligned ones, none of which leaves a page. DESIGN CHOICE (log 102): of an access that
reaches from below the stack aperture into it (04 R84) each piece lies in its own aperture. -/
def shapePieces (op : MemOp) : MemOp :=
  { op with lanes := op.lanes.flatMap fun l => (List.range 3).map fun i =>
      { l with addr := l.addr + BitVec.ofNat 64 (32 * i), data := (l.data.drop (8 * i)).take 8 } }

/-- The bits of a shape register from its 96 bytes (12 R277). -/
def shapeOfBytes (bs : List Byte) : BitVec 768 := BitVec.ofNat 768 (leNat bs)

/-- The 96 bytes at the pieces' places. -/
def State.shapeBytes (s : State) (ls : List Loc) : List Byte × Bool :=
  ls.foldl (fun acc l =>
    match l with
    | .mem pl => (acc.1 ++ s.mem.readBytes pl.key 32, acc.2 || s.mem.anyPoison pl.key 32)
    | .peer d w o t =>
      let r := peerBytes d w o 32 t s.free
      (acc.1 ++ r.1, acc.2 || r.2)
    | _ => acc) ([], false)

/-- An engine access of 96 bytes in pieces: faults halt the program, a page not present stalls it (09 R187). -/
def State.engShape (s : State) (e : Nat) (x : EngIn) (a : BitVec 64) (write : Bool) (k : State → List Loc → State) : State :=
  let ps := (List.range 3).map fun i => a + BitVec.ofNat 64 (32 * i)
  let ls := ps.map fun q => s.locate x.p none q 32 write
  match (ps.zip ls).findSome? fun e => engFault s x.p e.1 32 write e.2 with
  | some cause => s.trapEngine e cause
  | none =>
    match ls.findSome? fun l => match l with | .notPresent va => some va | _ => none with
    | some va =>
      let (fid, s) := s.reportFault x.p.part va .engine write x.p.core (s.rtagOf x.p)
      s.stallEngine e .order (some fid)
    | none =>
      if ls.any fun l => s.locRefresh l then s.stallEngine e .order
      else k (if write then s else ls.foldl (fun s l => s.touchLoc l 32 false) s) ls

/-- `SHLD` (12 R277): poison in the data is consumed. -/
def execShld (n : BitVec 4) (a : BitVec 8) (s : State) : Out :=
  let h : Form := { instr := .shld n a, a := some (.ap, a) }
  let set (s : State) (pid : Nat) (bs : List Byte) : State :=
    { s.modPour pid fun p => p.setShape s.clk n.toNat (shapeOfBytes bs) with free := s.free + 1 }
  s.groupOp h
    (fun s c x =>
      if poi x.a then c.consume s
      else if s.shapeBusy c.pid n.toNat then s.stallWeave c.w .shape
      else
        let op := shapePieces (c.groupMem h (.shld n.toNat) false 240 x 0 [])
        match s.logWait op with
        | some k => s.stallWeave c.w k true
        | none =>
          match s.perform c.p op with
          | .fault f => c.accTrap s op f (c.groupTags h x) true
          | .consume => c.consume s
          | .hold va => c.hold s op h.len va (c.groupTags h x) true false
          | .done s2 _ =>
            if s.refreshWait c.p op then s.stallWeave c.w .order
            else
              let (bs, po) := (s2.viewOf c.p op).shapeBytes ((s2.laneLocs c.p op false).map (·.2))
              if po then c.consume s else (set s2 c.pid bs).after c.w h.len false false)
    fun s e x =>
      if poi x.a then consumeE s e
      else if s.shapeBusy x.v.pour n.toNat then s.stallEngine e .shape
      else
        s.engShape e x (pairAddr x.a) false fun s ls =>
          let (bs, po) := s.shapeBytes ls
          if po then consumeE s e else (set s x.v.pour bs).afterEngine e h.len

/-- The words of a shape register. -/
def shapeWords (v : BitVec 768) : List Reg := (List.range 24).map fun i => { val := v.extractLsb' (32 * i) 32 }

/-- Whether the three pieces of an access follow each other in one window of a peer. -/
def onePeer : List Loc → Bool
  | [.peer d w o _, .peer d1 w1 o1 _, .peer d2 w2 o2 _] =>
    (d1, w1, o1) == (d, w, o + 32) && (d2, w2, o2) == (d, w, o + 64)
  | _ => false

/-- `SHST` (12 R277): the tag 0xFFF0. To one window of a peer it is one put (log 44). -/
def execShst (n : BitVec 4) (a : BitVec 8) (s : State) : Out :=
  let h : Form := { instr := .shst n a, a := some (.ap, a) }
  s.groupOp h
    (fun s c x =>
      if poi x.a then c.consume s
      else if s.shapeBusy c.pid n.toNat then s.stallWeave c.w .shape
      else
        let whole := c.groupMem h (.shst 96) false 240 x 0 (shapeWords (c.p.shape n.toNat))
        let pieces := { shapePieces whole with kind := .shst 32 }
        let op := if onePeer ((s.laneLocs c.p pieces false).map (·.2)) then whole else pieces
        c.issue s op h.len (c.groupTags h x) true)
    fun s e x =>
      if poi x.a then consumeE s e
      else if s.shapeBusy x.v.pour n.toNat then s.stallEngine e .shape
      else
        s.engShape e x (pairAddr x.a) true fun s ls =>
          let ws := shapeWords (x.p.shape n.toNat)
          let op : MemOp := { kind := .shst 32, rlx := true, weave := 0, pour := x.v.pour, pc := x.v.pc, here := x.here,
                              dest := 240, lanes := [], word := h.word }
          let put (s : State) (bytes : Nat) (y : Loc × List Reg) : State :=
            match y.1 with
            | .mem pl => { s with mem := storeAt s.mem pl bytes y.2 }
            | .peer dv wn o t => s.remoteStore x.p op (engRank x.v.kind) dv wn o t bytes y.2
            | _ => s
          let s := if onePeer ls then put s 96 (ls.headD .fatal, ws)
            else (ls.zipIdx).foldl (fun s y => put s 32 (y.1, (ws.drop (8 * y.2)).take 8)) s
          s.afterEngine e h.len

end Sys2Proof.Machine
end

