-- ==== Sys2Proof/Machine/Walk.lean ====
section
/-!
DEFINITION. Machine/Walk.lean: the walks of copies (04 R104, R105, 12 R271), element places and bit-plane tiles (04 R87, R89),
the elements they read, and the transforms of pattern programs with their tags (12 R267, R272, 06 R140, R145).
-/

namespace Sys2Proof.Machine

/-! ## Index walks -/

/-- Index vectors of nested loops, from the slowest to the fastest: a loop over tiles of `t` indices of a dimension, or
over what is left of it (12 R271). -/
def walkLoops : List (Nat × Option Nat) → List Nat → List Nat → List (List Nat)
  | [], base, _ => [base]
  | (d, tile) :: rest, base, rem =>
    let b := base.getD d 0
    let r := rem.getD d 0
    match tile with
    | none => (List.range r).flatMap fun i => walkLoops rest (base.set d (b + i)) (rem.set d 1)
    | some t =>
      (List.range ((r + t - 1) / t)).flatMap fun i =>
        walkLoops rest (base.set d (b + i * t)) (rem.set d (min t (r - i * t)))

/-- The default order, from the fastest dimension (04 R104). -/
def Shape.order (h : Shape) : List Nat := if h.tlast then [1, 0, 2, 3, 4] else [0, 1, 2, 3, 4]

/-- How a program walks its source (12 R271). -/
structure WalkPlan where
  order : List Nat
  tiles : List (Nat × Nat) := []
  dims  : List (Nat × Bool × Nat) := []
  pads  : List (Nat × Nat × Nat) := []
  deriving DecidableEq, Repr

/-- What a program's operations make of a walk. DESIGN CHOICE (log 94): of several `PDIM` of one dimension the last counts. -/
def planOf (h : Shape) (ops : List POp) : WalkPlan :=
  ops.foldl (fun w o =>
    match o with
    | .pdim d rev step => { w with dims := (d, rev, step) :: w.dims }
    | .pperm ds => { w with order := ds }
    | .ptile d t => { w with tiles := (d, t) :: w.tiles }
    | .ppad d m v => { w with pads := (d, m, v) :: w.pads }
    | _ => w) { order := h.order }

/-- The index range of a dimension, extended by PPAD. -/
def WalkPlan.range (w : WalkPlan) (h : Shape) (d : Nat) : Nat :=
  let n := h.win.getD d 1
  match w.pads.find? fun e => e.1 == d with
  | some (_, m, _) => (n + m - 1) / m * m
  | none => n

/-- The index vectors of a planned walk. -/
def WalkPlan.indices (w : WalkPlan) (h : Shape) : List (List Nat) :=
  walkLoops ((w.tiles.map fun e => (e.1, some e.2)) ++ (w.order.reverse.map fun d => (d, none)))
    (List.replicate 5 0) ((List.range 5).map (w.range h))

/-- What a walk finds at an index: a padded value, a ragged element, or coordinates. -/
inductive At where
  | pad (v : Nat)
  | ragged
  | coord (c : List Int)
  deriving DecidableEq, Repr

def WalkPlan.at (w : WalkPlan) (h : Shape) (ix : List Nat) : At :=
  match (List.range 5).findSome? fun d =>
      if h.win.getD d 1 ≤ ix.getD d 0 then (w.pads.find? fun e => e.1 == d).map (·.2.2) else none with
  | some v => .pad v
  | none =>
    let c := (List.range 5).map fun d =>
      let i := ix.getD d 0
      let (rev, step) := match w.dims.find? fun e => e.1 == d with | some e => (e.2.1, e.2.2) | none => (false, 1)
      let j := if rev then h.win.getD d 1 - 1 - i else i
      h.org.getD d 0 + (step * j : Nat)
    if (List.range 5).any fun d => decide (c.getD d 0 < 0) || decide ((h.ext.getD d 1 : Int) ≤ c.getD d 0) then .ragged
    else .coord c

/-- The elements of a shape register's own walk. -/
def Shape.walk (h : Shape) : List At :=
  let w : WalkPlan := { order := h.order }
  (w.indices h).map (w.at h)

/-- How many elements a window holds. -/
def Shape.count (h : Shape) : Nat := h.win.foldl (· * ·) 1

/-! ## Element places -/

/-- Where an element lies: whole bytes, half a byte, or one bit in each of several bytes. -/
inductive ElAt where
  | bytes (a : BitVec 64) (n : Nat)
  | nibble (a : BitVec 64) (hi : Bool)
  | planes (as : List (BitVec 64)) (bit : Nat)
  deriving DecidableEq, Repr

/-- Line rotation of a scratchpad offset (04 R87). -/
def rotate (code o : Nat) : Nat :=
  if code = 0 then o
  else
    let u := 2 ^ (code + 1)
    let l := o / 128
    l * 128 + (o % 128 + u * l) % 128

/-- An address under a shape register's bank code. -/
def bankAddr (code : Nat) (a : BitVec 64) : BitVec 64 :=
  match aperture a with
  | .scratch o => if code = 0 then a else a - BitVec.ofNat 64 o + BitVec.ofNat 64 (rotate code o)
  | _ => a

/-- The bit planes of an element of a tile at `t` (04 R89). -/
def planeAt (t : BitVec 64) (f n k c : Nat) : ElAt :=
  .planes ((List.range f).map fun j => t + BitVec.ofNat 64 (k * (f * n / 8) + j * (n / 8) + c / 8)) (c % 8)

/-- The bit planes of an element under a shape register's bank code. -/
def ElAt.rotated (code : Nat) : ElAt → ElAt
  | .planes as bit => .planes (as.map (bankAddr code)) bit
  | e => e

/-- The place of an element of a copy's shape register (04 R104), rotated as its bank code says (R87). DESIGN CHOICE (log 103): a
plane's base that is not 64-byte aligned (R89) serves as it stands. -/
def Shape.place (h : Shape) (c : List Int) : ElAt :=
  let c0 := c.getD 0 0
  if h.plane then (planeAt h.base (fmtBits h.fmt) (tileCols h.fmt) (c.getD 1 0).toNat c0.toNat).rotated h.bank
  else
    let outer : Int := ((List.range 5).map fun d => if d = 0 then 0 else c.getD d 0 * h.std.getD d 0).foldl (· + ·) 0
    let addr (o : Int) : BitVec 64 := h.base + BitVec.ofInt 64 o
    if fmtBits h.fmt = 4 then .nibble (bankAddr h.bank (addr (outer + c0 / 2))) (c0 % 2 = 1)
    else if h.fmt = fLG6 then .bytes (bankAddr h.bank (addr (outer + c0))) 1
    else .bytes (bankAddr h.bank (addr (outer + c0 * h.std.getD 0 0))) (fmtBits h.fmt / 8)

/-- The addresses, and widths, that an element takes. -/
def ElAt.spots : ElAt → List (BitVec 64 × Nat)
  | .bytes a n => [(a, n)]
  | .nibble a _ => [(a, 1)]
  | .planes as _ => as.map fun a => (a, 1)

/-- What a walk waits for: a page, and whether to write there, or a refresh window (04 R94). -/
inductive WalkWait where
  | page (va : Nat) (wr : Bool)
  | refresh
  deriving DecidableEq, Repr

/-- What an engine meets at an element (04 R98): its places, a page to wait for, or a code. -/
inductive ElLoc where
  | ok (ls : List Loc)
  | wait (va : Nat)
  | fail (code : Nat)
  deriving DecidableEq, Repr

/-- The code of an engine element's fault at a place (04 R98): a destination on a peer is an access violation (12 R266). -/
def elCode (write : Bool) : Loc → Option Nat
  | .fatal => some 1
  | .violation | .noncanon | .stackOut => some 2
  | .scratchOut => some 5
  | .peer _ _ _ _ => if write then some 2 else none
  | _ => none

/-- Locate an element: alignment, then each place. DESIGN CHOICE (log 67): of an element that meets several faults the code is the
first of −1, −2, −4, −5. -/
def State.locEl (s : State) (p : Pour) (e : ElAt) (write : Bool) : ElLoc :=
  e.spots.foldl (fun acc x =>
    match acc with
    | .ok ls =>
      let l := s.locate p none x.1 x.2 write
      match elCode write l with
      | some 1 => .fail 1
      | some c => if x.1.toNat % x.2 ≠ 0 ∧ c ≠ 2 then .fail 4 else .fail c
      | none =>
        if x.1.toNat % x.2 ≠ 0 then .fail 4
        else
          match l with
          | .notPresent va => .wait va
          | l => .ok (ls ++ [l])
    | e => e) (.ok [])

/-! ## Streams -/

/-- An element of a stream: its code, the tag it carries, whether that tag is a special source's, whether the copy itself
supplied it (04 R105, 12 R271), poison, and whether it is a hole (R105). -/
structure SEl where
  code   : Nat
  tag    : Tag := Config.noTag
  sp     : Bool := false
  own    : Bool := false
  poison : Bool := false
  hole   : Bool := false
  deriving DecidableEq, Repr

/-- What reading an element gives. -/
inductive ElRead where
  | el (e : SEl)
  | wait (w : WalkWait)
  | fail (code : Nat)
  deriving DecidableEq, Repr

/-- The `n` bytes of an aligned place, with the tag and the poison of their granule: none where a peer's response is a fabric error
(12 R266, 24 R427). -/
def State.spot (s : State) (l : Loc) (n : Nat) : Option Payload :=
  match l with
  | .mem pl =>
    some { bytes := s.mem.readBytes pl.key n, poison := [s.mem.isPoison pl.key]
           tags := [if pl.tagged then s.mem.tag pl.key else Config.noTag] }
  | .peer d w o t => peerRead d w o n t s.free
  | _ => some {}

/-- What an element's places hold, in order. -/
def State.spots (s : State) : List Loc → List (BitVec 64 × Nat) → Option (List Payload)
  | l :: ls, (_, n) :: es =>
    match s.spot l n, State.spots s ls es with
    | some p, some ps => some (p :: ps)
    | _, _ => none
  | _, _ => some []

/-- The code bits of an element from what its places hold. -/
def ElAt.code (e : ElAt) (ps : List Payload) : Nat :=
  let b := (ps.getD 0 {}).bytes
  match e with
  | .bytes _ _ => leNat b
  | .nibble _ hi => let b := (b.getD 0 0#8).toNat; if hi then b / 16 else b % 16
  | .planes _ bit =>
    ((ps.zipIdx).map fun x => if (x.1.bytes.getD 0 0#8).getLsbD bit then 2 ^ x.2 else 0).foldl (· + ·) 0

/-- The tag that an element carries: that of its first place. -/
def tagOfSpots (ps : List Payload) : Tag := (ps.getD 0 {}).tags.getD 0 Config.noTag

/-- Whether a granule of an element's places is poisoned. -/
def poisonOfSpots (ps : List Payload) : Bool := ps.any fun p => p.poison.any id

/-- Read an element of a source walk (04 R104, R105): a fabric read may end in error (12 R266). -/
def State.readEl (s : State) (p : Pour) (h : Shape) : At → ElRead
  | .pad v => .el { code := v % 2 ^ fmtBits h.fmt, own := true }
  | .ragged =>
    if h.fill then .el { code := h.fval % 2 ^ fmtBits h.fmt, own := true } else .el { code := 0, hole := true }
  | .coord c =>
    let e := h.place c
    match s.locEl p e false with
    | .wait va => .wait (.page va false)
    | .fail k => .fail k
    | .ok ls =>
      match s.spots ls e.spots with
      | none => .fail 6
      | some ps =>
        if ls.any fun l => s.locRefresh l then .wait .refresh
        else
          let code := e.code ps % 2 ^ fmtBits h.fmt
          .el { code := code, tag := if h.tagd then tagOfSpots ps else Config.noTag, sp := (dec code h.fmt).special
                poison := poisonOfSpots ps }

/-- The granules that a source walk reads, up to the first element that cannot be read. -/
def State.granules (s : State) (p : Pour) (h : Shape) (src : List At) : List Place :=
  ((src.takeWhile fun a => match s.readEl p h a with | .el _ => true | _ => false).flatMap fun a =>
    match a with
    | .coord c =>
      match s.locEl p (h.place c) false with
      | .ok ls => ls.filterMap fun l => match l with | .mem pl => some { pl with key := granOf pl.key } | _ => none
      | _ => []
    | _ => []).eraseDups

/-- A source walk corrects and counts what it finds in the granules that it reads (22 R398, 06 R134). -/
def State.touchSource (s : State) (p : Pour) (h : Shape) (src : List At) : State :=
  if s.mem.sound then s else (s.granules p h src).foldl (fun s pl => s.touchPlace pl 8 h.tagd) s

/-- A source stream: the elements before the first failing one, and its code. -/
structure Stream where
  els : List SEl := []
  fmt : Nat
  err : Option Nat := none
  deriving DecidableEq, Repr

/-- Read a source walk in order, up to what it waits for or the first failure. -/
def State.readStream (s : State) (p : Pour) (h : Shape) : List At → Except WalkWait Stream
  | [] => .ok { fmt := h.fmt }
  | a :: as =>
    match s.readEl p h a with
    | .wait x => .error x
    | .fail k => .ok { fmt := h.fmt, err := some k }
    | .el e =>
      match State.readStream s p h as with
      | .error x => .error x
      | .ok st => .ok { st with els := e :: st.els }

/-! ## Conversion and transforms -/

/-- Convert a stream element under a pair and a rounding (12 R267), with its tag (06 R140, R145). DESIGN CHOICE (log 68): a special
pad or fill value that is converted twice is a special source at its second conversion. -/
def convEl (pair rmode : Nat) (site : Tag) (e : SEl) : SEl × Conv :=
  if e.hole || pair == 0 then (e, { bits := e.code })
  else
    let (f, t) := cvtPair pair
    let v := dec e.code f
    let c := rnd v t rmode 0
    let keep := v.special && !e.own
    ({ e with code := c.bits, tag := if keep then e.tag else site, sp := keep, own := false }, c)

/-- Blocks of 32. -/
def blocks32 (n : Nat) (es : List SEl) : List (List SEl) := (List.range n).map fun i => (es.drop (32 * i)).take 32

/-- The rotation of a block (12 R272, 06 R145): holes enter as +0 and stay. -/
def protBlock (fmt mask : Nat) (site : Tag) (b : List SEl) : List SEl :=
  let x := b.map fun e => if e.hole then FVal.fin false 0 0 false else dec e.code fmt
  let y := rht32 x mask
  let src := b.find? fun e => !e.hole && (dec e.code fmt).special
  let po := b.any (·.poison)
  (b.zipIdx).map fun e =>
    if e.1.hole then e.1
    else
      let c := y.getD e.2 0
      match (dec c fFP32).special, src with
      | true, some q => { code := c, tag := q.tag, sp := true, poison := po }
      | _, _ => { code := c, tag := site, poison := po }

/-- The scale of a block (12 R272). -/
def blockScale (emax : Nat) (vs : List FVal) : Nat :=
  if vs.any (·.special) then 255
  else
    let mags := vs.filterMap fun v => match v with | .fin _ m e _ => if m = 0 then none else some (magLog m e) | _ => none
    match mags with
    | [] => 127
    | m :: ms => (min (254 : Int) (max 1 (ms.foldl max m - emax + 127))).toNat

/-- `emax` of a target format (12 R272). -/
def emaxOf (c : Nat) : Nat := if c = fE4M3 then 8 else if c = fE5M2 then 15 else if c = fFP4 then 2 else 3

/-- A block under PSCALE (12 R272): its scale with its poison, and its elements in FP32. -/
def pscaleBlock (fmt target : Nat) (site : Tag) (b : List SEl) : SEl × List SEl :=
  let vs := b.map fun e => if e.hole then FVal.fin false 0 0 false else dec e.code fmt
  let e := blockScale (emaxOf target) vs
  ({ code := e, poison := b.any (·.poison) },
   (b.zip vs).map fun x =>
     if x.1.hole then x.1
     else if e = 255 then (if fmt = fFP32 then x.1 else { x.1 with code := rne32 x.2 })
     else { x.1 with code := rne32 (x.2.scale (127 - (e : Int))), tag := site, sp := false, own := false })

/-! ## Writes -/

/-- A row of a bit-plane tile: its address, its bytes, and the bank code under which its words lie (04 R87, R89). -/
structure TileRow where
  at_   : BitVec 64
  bytes : Nat
  bank  : Nat := 0
  deriving DecidableEq, Repr

/-- One element to write, with where it goes. -/
structure Emit where
  place : ElAt
  el    : SEl
  fmt   : Nat
  tagd  : Bool
  row   : Option TileRow := none
  deriving DecidableEq, Repr

/-- Write an element at its places. -/
def Memory.putEl (m : Memory) (e : Emit) (ls : List Loc) : Memory :=
  match e.place with
  | .bytes _ n =>
    match ls with
    | .mem pl :: _ => m.setBytes pl.key (leBytes n e.el.code)
    | _ => m
  | .nibble _ hi =>
    match ls with
    | .mem pl :: _ =>
      let b := (m.byte pl.key).toNat
      m.setByte pl.key (BitVec.ofNat 8 (if hi then e.el.code % 16 * 16 + b % 16 else b / 16 * 16 + e.el.code % 16))
    | _ => m
  | .planes _ bit =>
    (ls.zipIdx).foldl (fun m x =>
      match x.1 with
      | .mem pl =>
        let b := m.byte pl.key
        let w : Byte := 1#8 <<< bit
        m.setByte pl.key (if e.el.code.testBit x.2 then b ||| w else b &&& ~~~w)
      | _ => m) m

/-- What a copy has written: the granules it touched with the bytes and the poison there; by tag granule, the elements placed in
it; the bits that have landed in scratchpad (04 R108). -/
structure Landed where
  poison : SMap (List Nat × Bool) := []
  tags   : SMap (List SEl) := []
  rows   : List (TileRow × List SEl) := []
  bits   : Nat := 0
  deriving DecidableEq, Repr

def Landed.note (d : Landed) (e : Emit) (ls : List Loc) : Landed :=
  let n := match e.place with | .bytes _ n => n | _ => 1
  let wide := match e.place with | .planes _ _ => fmtBits e.fmt | _ => slotBits e.fmt
  let d := match ls with
    | .mem pl :: _ => (match sortOfKey pl.key with | .scratch _ => { d with bits := d.bits + wide } | _ => d)
    | _ => d
  ls.foldl (fun d l =>
    match l with
    | .mem pl =>
      let g := granOf pl.key
      let old := SMap.getD d.poison g ([], false)
      let new := (List.range n).map fun i => pl.key + i
      let d := { d with poison := SMap.put d.poison g (old.1 ++ new.filter (fun k => !old.1.contains k), old.2 || e.el.poison) }
      if e.tagd && pl.tagged && e.row.isNone then
        let t := tagKey pl.key
        { d with tags := SMap.put d.tags t (SMap.getD d.tags t [] ++ [e.el]) }
      else d
    | _ => d) d

/-- Note a row of a bit-plane tile. -/
def Landed.noteRow (d : Landed) (e : Emit) : Landed :=
  match e.row with
  | none => d
  | some r =>
    if d.rows.any fun x => x.1 == r then
      { d with rows := d.rows.map fun x => if x.1 == r then (x.1, x.2 ++ [e.el]) else x }
    else { d with rows := d.rows ++ [(r, [e.el])] }

/-- The tag of a destination word or granule under tmode 0 (06 R145). -/
def landTag (es : List SEl) : Tag :=
  match es.find? (·.sp) with
  | some e => e.tag
  | none => match es with | e :: _ => e.tag | [] => Config.noTag

/-- The tag of a tile's row (06 R143): the special source with the lowest site, else the copy's site. -/
def rowTag (tmode : Nat) (site : Tag) (es : List SEl) : Tag :=
  if tmode = 1 then site
  else if tmode = 2 then Config.noTag
  else
    match es.filter (·.sp) with
    | [] => site
    | e :: r => lowestSite (r.map (·.tag)) e.tag

/-- How a copy marks what it writes: its tmode and its site (06 R143, R145). -/
structure Marking where
  tmode : Nat
  site  : Tag
  deriving DecidableEq, Repr

/-- The poison of a granule in which a copy has written (12 R266): a granule that it has written whole has that of its elements
alone. DESIGN CHOICE (log 86): so has one that elements narrower than 8 bytes have covered together, which 22 R398 leaves poisoned
after each of a kernel's narrower stores. -/
def Landed.settlePoison (d : Landed) (m : Memory) (k : Nat) : Memory :=
  let g := granOf k
  let e := SMap.getD d.poison g ([], false)
  if e.1.length = 8 then (m.setPoison g e.2).setFlips g 0#64 else if e.2 then m.setPoison g true else m

/-- The tag of a granule in which a copy has placed elements (06 R145). -/
def Landed.settleTag (d : Landed) (g : Marking) (m : Memory) (k : Nat) : Memory :=
  match SMap.get? d.tags (tagKey k) with
  | none => m
  | some es => m.setTag k (if g.tmode = 1 then g.site else if g.tmode = 2 then Config.noTag else landTag es)

/-- The tags of a tile's row (06 R143). -/
def State.settleRow (s : State) (p : Pour) (d : Landed) (g : Marking) (r : TileRow) : Memory :=
  match d.rows.find? fun x => x.1 == r with
  | none => s.mem
  | some x =>
    let t := rowTag g.tmode g.site x.2
    (List.range (r.bytes / 4)).foldl (fun m i =>
      match s.locate p none (bankAddr r.bank (r.at_ + BitVec.ofNat 64 (4 * i))) 4 true with
      | .mem pl => m.setTag pl.key t
      | _ => m) s.mem

/-- Write one element where it lies, once what its granules hold has been corrected and counted (22 R398), with the poison and the tags that it leaves there (12 R266, 06 R143, R145). -/
def State.land (s : State) (p : Pour) (g : Marking) (d : Landed) (e : Emit) (ls : List Loc) : State × Landed :=
  let keys := ls.filterMap fun l => match l with | .mem pl => some pl.key | _ => none
  let d := (d.note e ls).noteRow e
  let s := keys.foldl (fun s k => s.touch k 1) s
  let m := keys.foldl (fun m k => d.settleTag g (d.settlePoison m k) k) (s.mem.putEl e ls)
  let s := { s with mem := m }
  (match e.row with | some r => { s with mem := s.settleRow p d g r } | none => s, d)

/-- Write emissions in order, up to the first failure; a page to wait for stops it before anything is written. -/
def State.writeEmits (s : State) (p : Pour) (g : Marking) : List Emit → Landed → Except WalkWait (State × Landed × Option Nat)
  | [], d => .ok (s, d, none)
  | e :: es, d =>
    match s.locEl p e.place true with
    | .wait va => .error (.page va true)
    | .fail k => .ok (s, d, some k)
    | .ok ls =>
      let (s, d) := s.land p g d e ls
      State.writeEmits s p g es d

/-- The emission of an element at a place of a shape register's walk: a ragged place or a hole is not written. -/
def Shape.emit (h : Shape) : At → SEl → Option Emit
  | .coord c, e =>
    if e.hole then none
    else
      let n := fmtBits h.fmt * tileCols h.fmt / 8
      let row := if h.plane && h.tagd then some { at_ := h.base + BitVec.ofNat 64 ((c.getD 1 0).toNat * n), bytes := n, bank := h.bank } else none
      some { place := h.place c, el := e, fmt := h.fmt, tagd := h.tagd, row := row }
  | _, _ => none

/-- The emissions of a stream through a shape register (12 R273). -/
def Shape.emits (h : Shape) (es : List SEl) : List Emit := (h.walk.zip es).filterMap fun x => h.emit x.1 x.2

/-- The emissions of PPLANE at a scratchpad offset (12 R273). -/
def planeEmits (kfast : Bool) (t fmt : Nat) (es : List SEl) : List Emit :=
  let n := tileCols fmt
  let base : BitVec 64 := 0x01FFFFFF00000000#64 + BitVec.ofNat 64 t
  (es.zipIdx).filterMap fun x =>
    if x.1.hole then none
    else
      let k := if kfast then x.2 % 128 else x.2 / n
      let c := if kfast then x.2 / 128 else x.2 % n
      some { place := planeAt base (fmtBits fmt) n k c, el := x.1, fmt := fmt, tagd := true,
             row := some { at_ := base + BitVec.ofNat 64 (k * (fmtBits fmt * n / 8)), bytes := fmtBits fmt * n / 8 } }

end Sys2Proof.Machine
end

