-- ==== Sys2Proof/Machine/Copy.lean ====
section
/-!
DEFINITION. Machine/Copy.lean: RCOPY, RPAT and PUT (12 R265 to R275): their issue, the start of a command, its walk and its
end, puts and their acknowledgements; the commands of a redundant pair (22 R435); WWAIT (12 R276).
-/

namespace Sys2Proof.Machine

/-! ## Tokens -/

/-- The token value of an error (04 R98). -/
def tokenError (code : Nat) : Word := -(BitVec.ofNat 32 code)

/-- Write a token (04 R98, R99): a later read of it acquires what the command had acquired. -/
def State.writeToken (s : State) (id : Option Nat) (v : Word) (acq : Clock) : State :=
  match s.pend.find? fun p => some p.id == id with
  | none => s
  | some p =>
    let s := { s with pend := s.pend.filter fun q => some q.id != id }
    match p.dest with
    | .fibres d lanes =>
      let s := if d < 240 then
          lanes.foldl (fun s e =>
            s.modFibre e.1 fun f =>
              if p.drop.contains (e.1, d) then f
              else
                let f := f.setReg d { head1 e.2 with val := v }
                { f with toks := SMap.put f.toks d acq }) s
        else s
      s
    | .engine e d _ =>
      s.modEngine e fun g =>
        let g' := g.landK (p.skips e) d [{ val := v }]
        if 64 ≤ d || p.drop.contains (e, d) then g' else { g' with toks := SMap.put g'.toks d acq }

/-! ## Issue -/

/-- Whether a core's Runner queue is full (04 R100). -/
def State.queueFull (s : State) (core : Nat) : Bool :=
  decide (Config.runnerQueue ≤ (s.cmds.filter fun c => c.core == core && c.state == .queued).length)

/-- Who issued a command, as a pair compares them (22 R435): the rank of a fibre, or an engine. -/
def Cmd.who (c : Cmd) : Nat := match c.eng with | some .ladle => 1024 | some .runner => 1025 | none => c.rank

/-- Enter a command in its core's Runner queue (12 R265). -/
def State.enqueue (s : State) (c : Cmd) : State :=
  let (id, s) := s.fresh
  match s.pairOf c.pour with
  | none => { s with cmds := s.cmds ++ [{ c with id := id }] }
  | some (k, p) =>
    let key := 2 * c.who + (if p.lead = c.pour then 1 else 0)
    let n := SMap.getD p.issued key 0
    { s.modPair k fun p => { p with issued := SMap.put p.issued key (n + 1) } with
      cmds := s.cmds ++ [{ c with id := id, nth := n }] }

/-- The issue of a copy instruction (12 R265): nothing of its block is read. The accesses that its weave's fibres have issued are
performed first (08 R173, R178 to R180). -/
def State.copyIssue (s : State) (i : Instr) (k : CmdKind) (d a : BitVec 8) : Out :=
  let h : Form := { instr := i, dst := some (d, 1), a := some (.ap, a) }
  s.groupOp h
    (fun s c x =>
      if poi x.a then c.consume s
      else
        match s.syncWait c.w with
        | some (.pair, _) => s.waitPair c.w
        | some (y, keep) => s.stallWeave c.w y keep
        | none =>
          if s.queueFull c.p.core then s.stallWeave c.w .queue
          else
            let lanes := c.supply h s fun _ => [0#32]
            let (pd, s) := s.addPend .token (.fibres d.toNat lanes) c.pid c.pc none false
            let s := s.enqueue
              { id := 0, core := c.p.core, pour := c.pid, kind := k, addr := pairAddr x.a, here := c.here, pc := c.pc,
                rank := x.f.rank, pend := some pd, owner := c.p, rtag := s.rtagOf c.p }
            (s.pushLatch c.w d 1 lanes true).after c.w h.len false false)
    fun s e x =>
      if poi x.a then consumeE s e
      else if s.queueFull x.v.core then s.stallEngine e .queue
      else
        let (pd, s) := s.addPend .token (.engine e d.toNat [{}]) x.v.pour x.v.pc none false
        let s := s.enqueue
          { id := 0, core := x.v.core, pour := x.v.pour, kind := k, addr := pairAddr x.a, here := x.here, pc := x.v.pc,
            rank := 0, pend := some pd, owner := x.p, rtag := s.rtagOf x.p, eng := some x.v.kind,
            clock := x.v.released e }
        s.afterEngine e h.len

/-- `RCOPY` (12 R265). -/
def execRcopy (d a : BitVec 8) (s : State) : Out := s.copyIssue (.rcopy d a) .rcopy d a

/-- `RPAT` (12 R268). -/
def execRpat (d a : BitVec 8) (s : State) : Out := s.copyIssue (.rpat d a) .rpat d a

/-- `PUT` (12 R274). -/
def execPut (d a : BitVec 8) (s : State) : Out := s.copyIssue (.put d a) .put d a

/-! ## The checks of a started command -/

/-- A command as its block gives it, once it has passed its checks (12 R266). -/
structure CopyPlan where
  blk  : CopyBlock
  src  : Shape
  out  : Shape
  ops  : List POp
  code : List Byte
  deriving DecidableEq, Repr

/-- What the checks give: what they wait for, a failing code, or what passed. -/
inductive Checked (α : Type) where
  | wait (w : WalkWait)
  | fail (code : Nat)
  | ok (x : α)
  deriving DecidableEq, Repr

/-- Step 1 of 12 R266: the block. -/
def State.readBlock (s : State) (c : Cmd) : Checked (List Byte) :=
  if c.addr.toNat % 64 ≠ 0 then .fail 4
  else
    match s.engBytes c.owner c.addr 64 with
    | .wait va => .wait (.page va false)
    | .refresh => .wait .refresh
    | .fail k => .fail k
    | .bytes bs _ => .ok bs

/-- The checks of a barrier word that a command names (04 R106): its alignment first. -/
def barCheck (p : Pour) (valid : Bool) (a : BitVec 64) : Option Nat :=
  if !valid then none else match cmdBar p a with | .ok _ => none | .error k => some k

/-- Read and check the pattern program (04 R101, 12 R270), in global memory. -/
def State.checkProg (s : State) (c : Cmd) (pat : BitVec 64) : Checked (List POp × List Byte) :=
  match aperture pat with
  | .global _ =>
    match s.progWords c.owner pat 16 with
    | (.wait va, _) => .wait (.page va false)
    | (.refresh, _) => .wait .refresh
    | (.fail k, _) => .fail k
    | (.bytes _ _, ns) =>
      match decodeProg ns with
      | none => .fail 3
      | some ops => if progBad ops (c.kind == .rpat) then .fail 3 else .ok (ops, ns.flatMap (leBytes 8))
  | _ => .fail 2

/-- Step 2 of 12 R266. DESIGN CHOICE (log 69): where several of its checks fail, the first in the order of the step's own list gives
the code: the block's fields, the shape registers, the program's address, the program, the barrier word. -/
def State.checkFields (s : State) (c : Cmd) (shapes : List (BitVec 768)) (bs : List Byte) : Checked CopyPlan :=
  let b := decodeBlock bs
  let sh (n : Nat) : Shape := decodeShape (shapes.getD n 0#768)
  let rp := c.kind == .rpat
  let plan (ops : List POp) (code : List Byte) : Checked CopyPlan :=
    match barCheck c.owner b.bvalid b.bar with
    | some k => .fail k
    | none => .ok { blk := b, src := sh b.insh, out := sh b.outsh, ops := ops, code := code }
  if b.resv || (rp && (!b.pvalid || decide (b.conv ≠ 0))) then .fail 3
  else if (sh b.insh).bad || (!rp && (sh b.outsh).bad) then .fail 3
  else if !b.pvalid then plan [] []
  else if b.pat.toNat % 8 ≠ 0 then .fail 4
  else
    match s.checkProg c b.pat with
    | .wait w => .wait w
    | .fail k => .fail k
    | .ok (ops, code) => if (progShapes ops).any fun n => (sh n).bad then .fail 3 else plan ops code

/-- Whether a conversion byte is one that a copy may name (12 R267). -/
def convOk (conv : Nat) : Bool := decide (conv % 8 = 0) && decide (conv / 8 ≠ 31)

/-- The format of a stream after a conversion, where its format is the pair's "from" (12 R267). -/
def convFmt (conv fmt : Nat) : Option Nat :=
  if !convOk conv then none
  else if conv = 0 then some fmt
  else
    let (f, t) := cvtPair (conv / 8)
    if f = fmt then some t else none

/-- How many elements the source walk has (12 R271). -/
def CopyPlan.count (k : CopyPlan) : Nat :=
  let w := planOf k.src k.ops
  (List.range 5).foldl (fun n d => n * w.range k.src d) 1

/-- Follow the format of the stream through the program (12 R267, R272, R273): none where an operation does not fit. -/
def stepFmt (sh : Nat → Shape) (n : Nat) : List POp → Nat → Option Nat
  | [], f => some f
  | o :: os, f =>
    let next : Option Nat :=
      match o with
      | .pconv c => convFmt c f
      | .prot _ => if n % 32 = 0 then some fFP32 else none
      | .pscale _ h => if n % 32 = 0 ∧ (sh h).fmt = 0x20 ∧ (sh h).count = n / 32 then some fFP32 else none
      | .pemit h => if (sh h).fmt = f ∧ (sh h).count = n then some f else none
      | .pplane _ _ => if tileCols f ≠ 0 ∧ n = 128 * tileCols f then some f else none
      | _ => some f
    match next with
    | none => none
    | some g => stepFmt sh n os g

/-- Step 3 of 12 R266: formats and counts. -/
def CopyPlan.fits (k : CopyPlan) (sh : Nat → Shape) (rpat : Bool) : Bool :=
  match stepFmt sh k.count k.ops k.src.fmt with
  | none => false
  | some f => rpat || (convFmt k.blk.conv f == some k.out.fmt && decide (k.out.count = k.count))

/-- Steps 1 to 3 of 12 R266. -/
def State.checkCopy (s : State) (c : Cmd) (shapes : List (BitVec 768)) : Checked (List Byte × CopyPlan) :=
  match s.readBlock c with
  | .wait w => .wait w
  | .fail k => .fail k
  | .ok bs =>
    match s.checkFields c shapes bs with
    | .wait w => .wait w
    | .fail k => .fail k
    | .ok pl =>
      if pl.fits (fun n => decodeShape (shapes.getD n 0#768)) (c.kind == .rpat) then .ok (bs, pl) else .fail 3

/-- The peer that a range of a put leads to: every page in one registered window with a sender entry (12 R275, 22 R387,
R390). -/
def State.putTarget (s : State) (part : Nat) (dst : BitVec 64) (len : Nat) : Checked (Nat × Nat × Nat) :=
  match aperture dst with
  | .global va =>
    let pages := (va + len - 1) / 65536 - va / 65536 + 1
    let at0 := (List.range pages).map fun i => if i = 0 then va else (va / 65536 + i) * 65536
    at0.foldl (fun acc a =>
      match acc with
      | .ok (d, w, o) =>
        if 2 ^ 57 ≤ a then .fail 2
        else
          match s.globalLoc part a true with
          | .notPresent v => .wait (.page v true)
          | .fatal => .fail 1
          | .peer d2 w2 o2 _ =>
            if !s.hasSender part d2 w2 then .fail 2
            else if a = va then .ok (d2, w2, o2)
            else if d2 = d ∧ w2 = w ∧ o2 = o + (a - va) then .ok (d, w, o)
            else .fail 2
          | _ => .fail 2
      | e => e) (.ok (0, 0, 0))
  | _ => .fail 2

/-- The checks of a put (12 R275) on its block. -/
def State.putFields (s : State) (c : Cmd) (bs : List Byte) : Checked (PutBlock × Nat × Nat × Nat) :=
  let b := decodePut bs
  if b.src.toNat % 8 ≠ 0 ∨ b.dst.toNat % 8 ≠ 0 then .fail 4
  else if b.resv then .fail 3
  else
    match s.putTarget c.owner.part b.dst b.len with
    | .wait w => .wait w
    | .fail k => .fail k
    | .ok (d, w, o) =>
      let stackSrc := match aperture b.src with | .stack _ => true | _ => false
      let peerSrc := (List.range ((b.len + 65535) / 65536 + 1)).any fun i =>
        match s.locate c.owner none (b.src + BitVec.ofNat 64 (min (65536 * i) (b.len - 8))) 8 false with
        | .peer _ _ _ _ => true
        | _ => false
      if stackSrc || peerSrc then .fail 2
      else
        match barCheck c.owner b.bvalid b.bar with
        | some k => .fail k
        | none => .ok (b, d, w, o)

/-- The checks of a put (12 R275). -/
def State.checkPut (s : State) (c : Cmd) : Checked (List Byte × PutBlock × Nat × Nat × Nat) :=
  match s.readBlock c with
  | .wait w => .wait w
  | .fail k => .fail k
  | .ok bs =>
    match s.putFields c bs with
    | .wait w => .wait w
    | .fail k => .fail k
    | .ok x => .ok (bs, x)

/-! ## The end of a command -/

/-- The barrier word that a started command names. -/
def Cmd.bar (c : Cmd) : Option (BitVec 64) :=
  if c.kind = .put then
    let b := decodePut c.block
    if b.bvalid then some b.bar else none
  else
    let b := decodeBlock (c.block.take 64)
    if b.bvalid then some b.bar else none

/-- The barrier updates at the end of a walk or put (04 R108, 12 R266 step 8): its landed bytes, then its arrival, or its
error completion, with which pend falls by the bytes that will never land. -/
def State.endBar (s : State) (c : Cmd) (code : Nat) : State :=
  match c.bar with
  | none => s
  | some a =>
    match cmdBar c.owner a with
    | .error _ => s
    | .ok key =>
      if code = 0 then
        let s := if c.counted = 0 then s else s.modBar key fun b => (b.subPend c.counted).settle
        s.arriveBar key c.clock
      else s.modBar key fun b => (b.subPend c.counted).error code none

/-- The barrier updates of bytes that land before a walk ends in error (04 R108): each falls from pend as it lands. -/
def State.landBytes (s : State) (c : Cmd) (n : Nat) : State :=
  match c.bar with
  | none => s
  | some a =>
    match cmdBar c.owner a with
    | .error _ => s
    | .ok key => if n = 0 then s else s.modBar key fun b => (b.subPend n).settle

/-- A fabric error that is delivered as −6 is counted (24 R425). -/
def State.countFabric (s : State) (code : Nat) : State := if code = 6 then s.rasAdd 7 1 else s

/-- End a command: in a pair, the other member's too (22 R435). -/
def State.endCmd (s : State) (c : Cmd) (code : Nat) : State :=
  let s := s.countFabric code
  let fin (s : State) (c : Cmd) : State :=
    let s := { s with cmds := s.cmds.filter fun x => x.id != c.id }
    (s.endBar c code).writeToken c.pend (if code = 0 then 1#32 else tokenError code) c.clock
  let s := fin s c
  match s.cmds.find? fun x => some x.id == c.mate with
  | some m => fin s m
  | none => s

/-! ## Redundant pairs -/

/-- The pair of a command, and whether the leading member issued it. -/
def State.cmdPair (s : State) (c : Cmd) : Option (Nat × Pair × Bool) :=
  (s.pairOf c.pour).map fun e => (e.1, e.2, e.2.lead == c.pour)

/-- The rank whose weaves a mismatch of a command rolls back: an engine has no checkpoint, and stands with rank 0. -/
def Cmd.rollRank (c : Cmd) : Nat := if c.eng.isSome then 0 else c.rank

/-- A command is part of a mismatch (22 R403): a fibre's is discarded unperformed. -/
def State.mismatchCmd (s : State) (k : Nat) (c : Cmd) : State :=
  (if c.eng.isSome then s else { s with cmds := s.cmds.filter fun x => x.id != c.id }).mismatch k c.rollRank

/-- Whether the other member's command of the same place has passed its checks. -/
def State.otherPassed (s : State) (c : Cmd) (p : Pair) (lead : Bool) : Bool :=
  let other := if lead then p.trail else p.lead
  match s.cmds.find? fun x => x.pour == other && x.who == c.who && decide (c.nth ≤ x.nth) with
  | some x => x.nth != c.nth || x.state != CmdState.queued
  | none => decide (c.nth < SMap.getD p.issued (2 * c.who + (if lead then 0 else 1)) 0)

/-- A command that fails at its checks writes its token alone (12 R266); in a pair, the other member's has to fail alike
(22 R435). -/
def State.failCmd (s : State) (c : Cmd) (code : Nat) : State :=
  let done (s : State) : State :=
    (({ s with cmds := s.cmds.filter fun x => x.id != c.id }).countFabric code).writeToken c.pend (tokenError code) []
  match s.cmdPair c with
  | none => done s
  | some (k, p, lead) =>
    match p.fails.find? fun f => f.lead != lead && f.who == c.who && f.nth == c.nth with
    | some f =>
      if f.code = code then done (s.modPair k fun p => { p with fails := p.fails.filter fun g => g != f })
      else s.mismatchCmd k c
    | none =>
      if s.otherPassed c p lead then s.mismatchCmd k c
      else done (s.modPair k fun p => { p with fails := { lead := lead, who := c.who, nth := c.nth, code := code } :: p.fails })

/-- Whether a command's shapes lead outside the scratchpad (22 R435). -/
def CopyPlan.leaves (k : CopyPlan) (sh : Nat → Shape) (rpat : Bool) : Bool :=
  (!rpat && !inScratch k.out.base) || (progShapes k.ops).any fun n => !inScratch (sh n).base

/-- Update a command. -/
def State.modCmd (s : State) (id : Nat) (g : Cmd → Cmd) : State :=
  { s with cmds := s.cmds.map fun c => if c.id == id then g c else c }

/-- The shape registers that a started command names, as it snapped them. -/
def Cmd.named (c : Cmd) : List (BitVec 768) :=
  if c.kind = .put then []
  else
    let b := decodeBlock (c.block.take 64)
    let ns := match decodeProg ((List.range ((c.block.length - 64) / 8)).map fun i => leNat ((c.block.drop (64 + 8 * i)).take 8)) with
      | some ops => progShapes ops
      | none => []
    (b.insh :: (if c.kind = .rpat then ns else b.outsh :: ns)).map fun n => c.shapes.getD n 0#768

/-- The other member's command that a held one meets (22 R435). -/
def State.mateOf (s : State) (p : Pair) (lead : Bool) (c : Cmd) : Option Cmd :=
  s.cmds.find? fun x =>
    x.pour == (if lead then p.trail else p.lead) && x.who == c.who && x.state == .twin && x.mate.isNone

/-- Whether a member's command has met a failure of the other's (22 R435). -/
def State.metFailure (s : State) (c : Cmd) : Bool :=
  match s.cmdPair c with
  | none => false
  | some (_, p, lead) => p.fails.any fun f => f.lead != lead && f.who == c.who && f.nth == c.nth

/-! ## The start of a command -/

/-- What an acquire at a command's scope observes (08 R171 to R173). -/
def State.fenceClock (s : State) (pour : Nat) (dev : Bool) : Clock :=
  joinClock (s.syncOf (.fence (some pour))) (if dev then s.syncOf (.fence none) else [])

/-- Bytes of `n` elements of a format in scratchpad (04 R108). -/
def elBytes (plane : Bool) (fmt n : Nat) : Nat := (n * (if plane then fmtBits fmt else slotBits fmt) + 7) / 8

/-- The elements that an emission through a shape register writes. -/
def emitted (h : Shape) (holes : List Bool) : Nat :=
  ((h.walk.zip holes).filter fun x => match x.1 with | .coord _ => !x.2 | _ => false).length

/-- The bytes that a walk lands in scratchpad (04 R108): ragged places and holes are not written. -/
def CopyPlan.scratchBytes (k : CopyPlan) (sh : Nat → Shape) (rpat : Bool) : Nat :=
  let w := planOf k.src k.ops
  let holes := (w.indices k.src).map fun i => match w.at k.src i with | .ragged => !k.src.fill | _ => false
  let through (h : Shape) : Nat := if inScratch h.base then elBytes h.plane h.fmt (emitted h holes) else 0
  let go := k.ops.foldl (fun (acc : Nat × Nat) o =>
    match o with
    | .pconv c => (acc.1, (convFmt c acc.2).getD acc.2)
    | .prot _ => (acc.1, fFP32)
    | .pscale _ h =>
      (acc.1 + (if inScratch (sh h).base then ((sh h).walk.filter fun a => match a with | .coord _ => true | _ => false).length
        else 0), fFP32)
    | .pemit h => (acc.1 + through (sh h), acc.2)
    | .pplane _ _ => (acc.1 + elBytes true acc.2 (holes.filter (!·)).length, acc.2)
    | _ => acc) (0, k.src.fmt)
  go.1 + (if rpat then 0 else through k.out)

/-- Steps 4 to 6 of 12 R266: acquire, snapshot (taken with the checks), and the bytes in flight. -/
def State.beginWalk (s : State) (c : Cmd) (pl : CopyPlan) : State :=
  let sh (n : Nat) : Shape := decodeShape (c.shapes.getD n 0#768)
  let clock := if pl.blk.acq then joinClock c.clock (s.fenceClock c.pour (pl.blk.scope == 1)) else c.clock
  let n := if pl.blk.bvalid then pl.scratchBytes sh (c.kind == .rpat) else 0
  let s := s.modCmd c.id fun x => { x with state := .running, clock := clock, counted := n }
  match cmdBar c.owner pl.blk.bar with
  | .ok key => if pl.blk.bvalid then s.modBar key fun b => (b.addPend n).settle else s
  | .error _ => s

/-- The granules that a put sends (12 R275 step 4): bytes, tags and poison, up to what it waits for or an error. -/
def State.putData (s : State) (c : Cmd) (b : PutBlock) : Nat → Nat → Checked (List Byte × List Tag × List Bool)
  | 0, _ => .ok ([], [], [])
  | n + 1, i =>
    let l := s.locate c.owner none (b.src + BitVec.ofNat 64 (8 * i)) 8 false
    match l with
    | .notPresent va => .wait (.page va false)
    | .fatal => .fail 1
    | .scratchOut => .fail 5
    | .mem pl =>
      if s.locRefresh l then .wait .refresh
      else
        let t := if b.tmode = 1 then c.here else if b.tmode = 2 then Config.noTag else granuleTag (loadWords s.mem pl pl.key 2)
        match State.putData s c b n (i + 1) with
        | .ok (bs, ts, ps) => .ok (s.mem.readBytes pl.key 8 ++ bs, t :: ts, s.mem.anyPoison pl.key 8 :: ps)
        | e => e
    | _ => .fail 2

/-- A command waits at a stage: for a page, once the driver has answered, or for a refresh window. -/
def State.cmdWait (s : State) (c : Cmd) (w : WalkWait) (stage : CmdState) : State :=
  match w with
  | .page va wr =>
    let (f, s) := s.reportFault c.owner.part va .copy wr c.core c.rtag
    s.modCmd c.id fun x => { x with state := stage, wait := some f }
  | .refresh => s.modCmd c.id fun x => { x with state := stage, wait := none }

/-- Send a put (12 R275 steps 3 and 4). -/
def State.sendPut (s : State) (c : Cmd) (b : PutBlock) (d w o : Nat) : State :=
  let clock := if b.acq then joinClock c.clock (s.fenceClock c.pour (b.scope == 1)) else c.clock
  let c := { c with clock := clock }
  match s.putData c b (b.len / 8) 0 with
  | .wait w => s.cmdWait c w .running
  | .fail k => s.endCmd c k
  | .ok (bs, ts, ps) =>
    let s := s.touchRead c.owner b.src b.len (b.tmode == 0)
    let s := s.modCmd c.id fun x => { x with state := .sent, remote := some (d, w), clock := clock, wait := none }
    s.modDev fun v =>
      { v with fabric := v.fabric ++ [.put c.id d w o (putOf w o true { bytes := bs, tags := ts, poison := ps } c.rtag)] }

/-- The operations that a started command's block carries. -/
def Cmd.ops (c : Cmd) : List POp :=
  (decodeProg ((List.range ((c.block.length - 64) / 8)).map fun i => leNat ((c.block.drop (64 + 8 * i)).take 8))).getD []

/-- The plan of a started command. -/
def Cmd.plan (c : Cmd) : CopyPlan :=
  let b := decodeBlock (c.block.take 64)
  let sh (n : Nat) : Shape := decodeShape (c.shapes.getD n 0#768)
  { blk := b, src := sh b.insh, out := sh b.outsh, ops := if b.pvalid then c.ops else [], code := [] }

/-- Go on with a command that has passed its checks, in a pair once it has met the other member's (22 R435). -/
def State.goOn (s : State) (c : Cmd) : State :=
  if c.kind = .put then
    match s.putFields c c.block with
    | .ok (b, d, w, o) => s.sendPut c b d w o
    | .wait w => s.cmdWait c w .running
    | .fail k => s.endCmd c k
  else s.beginWalk c c.plan

/-- Hold a command of a pair after its checks, and meet the other member's (22 R435). -/
def State.holdCmd (s : State) (k : Nat) (p : Pair) (lead : Bool) (c : Cmd) : State :=
  match s.mateOf p lead c with
  | none => s.modCmd c.id fun x => { c with id := x.id, state := .twin }
  | some m =>
    if c.block.take 64 != m.block.take 64 || c.named != m.named || c.kind != m.kind then s.mismatchCmd k c
    else
      let a := if lead then c else m
      let b := if lead then m else c
      let s := s.modCmd c.id fun _ => c
      let s := s.modCmd b.id fun x => { x with state := .twin, mate := some a.id }
      let a := { a with mate := some b.id, state := .running }
      let s := s.modCmd a.id fun _ => a
      s.goOn a

/-- A command has passed its checks: it begins, or a member of a pair whose destination leaves the scratchpad waits for the
other's. -/
def State.passed (s : State) (c : Cmd) (leaves : Bool) : State :=
  if s.metFailure c then
    match s.cmdPair c with
    | some (k, _, _) => s.mismatchCmd k c
    | none => s
  else
    match s.cmdPair c with
    | some (k, p, lead) => if leaves then s.holdCmd k p lead c else (s.modCmd c.id fun _ => c).goOn c
    | none => (s.modCmd c.id fun _ => c).goOn c

/-- Whether a held SHLD of a pour is still to be performed (20 R355). -/
def State.shldHeld (s : State) (pid : Nat) : Bool :=
  s.held.any fun h => h.op.pour == pid && (match h.op.kind with | .shld _ => true | _ => false)

/-- The read of a command's block corrects and counts what it finds (22 R398). -/
def State.blockRead (s : State) (p : Pour) (a : BitVec 64) : State := if a.toNat % 64 ≠ 0 then s else s.touchRead p a 64

/-- A started command makes its checks (12 R266, R275); where it waits for a page (04 R98), a refresh window, or a held SHLD that was
issued before it, it keeps its running slot. -/
def State.startCmd (s : State) (c : Cmd) : State :=
  let next (s : State) : State := { s with free := s.free + 1 }
  if s.shldHeld c.pour then s.cmdWait c .refresh .starting
  else if c.kind = .put then
    match s.checkPut c with
    | .wait w => s.cmdWait c w .starting
    | .fail k => next ((s.blockRead c.owner c.addr).failCmd c k)
    | .ok (bs, _, _, _, _) =>
      next ((s.blockRead c.owner c.addr).passed { c with block := bs, state := .running, wait := none } true)
  else
    let shapes := match s.pour? c.pour with | some p => p.shapes | none => c.owner.shapes
    match s.checkCopy c shapes with
    | .wait w => s.cmdWait c w .starting
    | .fail k => next ((s.blockRead c.owner c.addr).failCmd c k)
    | .ok (bs, pl) =>
      let s := (s.blockRead c.owner c.addr).touchRead c.owner pl.blk.pat pl.code.length
      let c := { c with block := bs ++ pl.code, shapes := shapes, state := .running, wait := none }
      next (s.passed c (pl.leaves (fun n => decodeShape (shapes.getD n 0#768)) (c.kind == .rpat)))

/-- Whether a fault that something waits for has no answer yet. -/
def State.unanswered (s : State) (part : Nat) : Option Nat → Bool
  | some f => (s.part part).faults.any fun g => g.id == f
  | none => false

/-- Running slots of a core in use (04 R100): a lane's remote store takes none. -/
def State.slotsUsed (s : State) (core : Nat) : Nat :=
  (s.cmds.filter fun c => c.core == core && (c.state == .starting || (c.state != .queued && !c.block.isEmpty))).length

/-- RUNNER_COMMAND_START (95): the oldest queued command leaves its entry where a running slot is free (04 R100). -/
def execRunnerCommandStart (core : Nat) (s : State) : Out :=
  match s.cmds.find? fun c => c.core == core && c.state == .queued with
  | none => .next s
  | some c => if Config.runnerSlots ≤ s.slotsUsed core then .next s else .next (s.startCmd c)

/-! ## The walk -/

/-- A walk under way: the state, what has landed, the conversions made. -/
structure Walked where
  s    : State
  d    : Landed := {}
  cs   : List Conv := []
  code : Nat := 0
  deriving DecidableEq, Repr

/-- A walk without a program (12 R266 step 6), or what it waits for: each element is read, converted and written in walk order. -/
def plainWalk (p : Pour) (k : CopyPlan) (g : Marking) : List (At × At) → Walked → Except WalkWait Walked
  | [], w => .ok w
  | (a, b) :: rest, w =>
    match w.s.readEl p k.src a with
    | .wait x => .error x
    | .fail c => .ok { w with code := c }
    | .el e =>
      let (e, c) := convEl (k.blk.conv / 8) k.blk.rmode g.site e
      let w := { w with cs := c :: w.cs }
      match k.out.emit b e with
      | none => plainWalk p k g rest w
      | some em =>
        match w.s.locEl p em.place true with
        | .wait va => .error (.page va true)
        | .fail c => .ok { w with code := c }
        | .ok ls =>
          let (s, d) := w.s.land p g w.d em ls
          plainWalk p k g rest { w with s := s, d := d }

/-- Write emissions of a program. -/
def Walked.write (w : Walked) (p : Pour) (g : Marking) (es : List Emit) : Except WalkWait Walked :=
  match w.s.writeEmits p g es w.d with
  | .error x => .error x
  | .ok (s, d, err) => .ok { w with s := s, d := d, code := err.getD 0 }

/-- A stream under a program: its elements, its format, and the error that ended its source. -/
structure Flow where
  els : List SEl
  fmt : Nat
  err : Option Nat
  deriving DecidableEq, Repr

/-- The operations of a program on a stream, in order (12 R272, R273): a source error ends the command after the first
emission of what stands before it (04 R98). DESIGN CHOICE (log 104): the FP32 rounding of PSCALE and PROT, and of the scaling step of a
CSTY, is no conversion whose zeros `ufz` counts (05 R117). -/
def runOps (p : Pour) (sh : Nat → Shape) (rmode : Nat) (g : Marking) : List POp → Flow → Walked → Except WalkWait (Flow × Walked)
  | [], f, w => .ok (f, w)
  | o :: os, f, w =>
    let emit (es : List Emit) : Except WalkWait (Flow × Walked) :=
      match w.write p g es with
      | .error x => .error x
      | .ok w =>
        if w.code ≠ 0 then .ok (f, w)
        else
          match f.err with
          | some c => .ok (f, { w with code := c })
          | none => runOps p sh rmode g os f w
    match o with
    | .pconv c =>
      let xs := f.els.map (convEl (c / 8) rmode g.site)
      let t := (convFmt c f.fmt).getD f.fmt
      runOps p sh rmode g os { f with els := xs.map (·.1), fmt := t } { w with cs := xs.map (·.2) ++ w.cs }
    | .prot mask =>
      let n := f.els.length / 32
      runOps p sh rmode g os { f with els := (blocks32 n f.els).flatMap (protBlock f.fmt mask g.site), fmt := fFP32 } w
    | .pscale t h =>
      let bs := (blocks32 (f.els.length / 32) f.els).map (pscaleBlock f.fmt t g.site)
      let hs := sh h
      let es := ({ hs with tagd := false } : Shape).emits (bs.map (·.1))
      let f := { f with els := bs.flatMap (·.2), fmt := fFP32 }
      match w.write p g es with
      | .error x => .error x
      | .ok w => if w.code ≠ 0 then .ok (f, w) else runOps p sh rmode g os f w
    | .pemit h => emit ((sh h).emits f.els)
    | .pplane kf t => emit (planeEmits kf t f.fmt f.els)
    | _ => runOps p sh rmode g os f w

/-- The whole walk of a command (12 R266 step 6). -/
def State.walkCmd (s : State) (c : Cmd) (k : CopyPlan) : Except WalkWait Walked :=
  let p := c.owner
  let g : Marking := { tmode := k.blk.tmode, site := c.here }
  let sh (n : Nat) : Shape := decodeShape (c.shapes.getD n 0#768)
  let w := planOf k.src k.ops
  let src := (w.indices k.src).map (w.at k.src)
  if k.ops.isEmpty then plainWalk p k g (src.zip k.out.walk) { s := s }
  else
    match s.readStream p k.src src with
    | .error x => .error x
    | .ok st =>
      match runOps p sh k.blk.rmode g k.ops { els := st.els, fmt := st.fmt, err := st.err } { s := s } with
      | .error x => .error x
      | .ok (f, w) =>
        if w.code ≠ 0 ∨ c.kind = .rpat then .ok { w with code := if w.code ≠ 0 then w.code else f.err.getD 0 }
        else
          let xs := f.els.map (convEl (k.blk.conv / 8) k.blk.rmode c.here)
          match ({ w with cs := xs.map (·.2) ++ w.cs } : Walked).write p g (k.out.emits (xs.map (·.1))) with
          | .error x => .error x
          | .ok w => .ok { w with code := if w.code ≠ 0 then w.code else f.err.getD 0 }

/-- A release at a command's scope (08 R171 to R173): one of device scope is one of the pour's order too. -/
def State.cmdRelease (s : State) (c : Cmd) (dev : Bool) : State :=
  let put (s : State) (k : SyncKey) : State := s.setSync k (joinClock (s.syncOf k) c.clock)
  let s := put s (.fence (some c.pour))
  if dev then put s (.fence none) else s

/-- Steps 6 to 9 of 12 R266 (log 8: a walk's writes land here together). A page that is not present, or a refresh window that is
open, holds the command (04 R94, R98). -/
def State.finishCopy (s : State) (c : Cmd) : State :=
  let k := c.plan
  let w := planOf k.src k.ops
  match (s.touchSource c.owner k.src ((w.indices k.src).map (w.at k.src))).walkCmd c k with
  | .error w => s.cmdWait c w .running
  | .ok w =>
    let s := w.s.countConv c.core w.cs
    let s := { s with free := s.free + 1 }
    let s := if k.blk.rel then s.cmdRelease c (k.blk.scope == 1) else s
    if w.code = 0 then s.endCmd c 0
    else
      let n := min c.counted ((w.d.bits + 7) / 8)
      (s.landBytes c n).endCmd { c with counted := c.counted - n } w.code

/-- COPY_COMPLETION (95): a running copy's walk, release, arrival and token. A started command that waited for a page, or for a
refresh window, goes on. -/
def execCopyCompletion (cmd : Nat) (s : State) : Out :=
  match s.cmds.find? fun c => c.id == cmd && (c.state == .running || c.state == .starting) with
  | none => .next s
  | some c =>
    if s.unanswered c.owner.part c.wait then .next s
    else if c.state == .starting then .next (s.startCmd c)
    else if c.kind = .put then .next (s.goOn c)
    else .next (s.finishCopy c)

/-! ## Puts and window counters -/

/-- The name of a sender counter among a partition's windows. -/
def senderKey (dev win : Nat) : Nat := 1024 + dev * 1024 + win

/-- PUT_ACKNOWLEDGEMENT (95, 08 R174, 12 R275): the sender's counter, the arrival and the token; or the fabric error. -/
def execPutAcknowledgement (cmd : Nat) (ok : Bool) (s : State) : Out :=
  match s.cmds.find? fun c => c.id == cmd && c.state == .sent with
  | none => .next s
  | some c =>
    let part := c.owner.part
    let s := match c.remote, ok with
      | some (d, w), true =>
        let s := s.modPart part fun p => { p with senders := SMap.modify p.senders (d * 1024 + w) (· + 1#32) }
        let k : SyncKey := .window part (senderKey d w)
        s.setSync k (joinClock (s.syncOf k) c.clock)
      | _, _ => s
    if c.block.isEmpty then .next ({ s with cmds := s.cmds.filter fun x => x.id != cmd })
    else .next (s.endCmd c (if ok then 0 else 6))

/-- The receive window that an address lies in (22 R390). -/
def State.windowAt (s : State) (part va : Nat) : Option (Nat × Window) :=
  (s.part part).wins.find? fun e => decide (e.2.base.toNat ≤ va) && decide (va < e.2.base.toNat + e.2.len)

/-- The counter that an address selects (12 R276): a receive window's, a sender's, or none, an access violation; or a page
to wait for. -/
def State.counterAt (s : State) (part : Nat) (a : BitVec 64) : Checked (Word × SyncKey) :=
  match aperture a with
  | .global va =>
    match s.windowAt part va with
    | some (w, r) => .ok (r.count, .window part w)
    | none =>
      match s.globalLoc part va false with
      | .notPresent v => .wait (.page v false)
      | .peer d w _ _ =>
        match SMap.get? (s.part part).senders (d * 1024 + w) with
        | some n => .ok (n, .window part (senderKey d w))
        | none => .fail cAccess
      | _ => .fail cAccess
  | _ => .fail cAccess

/-- Whether a window counter has reached a count (12 R276). -/
def reached (counter n : Word) : Bool := decide ((counter - n).toNat < 2 ^ 31)

/-- `WWAIT` (12 R276): it waits at a yield point, and completes as a device-scope acquire (08 R174). -/
def execWwait (a b : BitVec 8) (l : Word) (s : State) : Out :=
  let h : Form := { instr := .wwait a b l, a := some (.ap, a), b := some (.s, b), lit := l, bReg := true }
  s.groupOp h
    (fun s c x =>
      if poi (x.a ++ x.b) then c.consume s
      else if s.unmatched c.w then s.waitPair c.w
      else if !(s.heldFor c.w).isEmpty then s.stallWeave c.w .order true
      else
        match s.counterAt c.p.part (pairAddr x.a) with
        | .fail cause => c.trapG s h x cause c.mask (pairAddr x.a)
        | .wait (.page va _) =>
          let (f, s) := s.reportFault c.p.part va .fibre false c.p.core (s.rtagOf c.p)
          s.stallWeave c.w .wwait false (some f)
        | .wait .refresh => s.stallWeave c.w .wwait
        | .ok (n, k) =>
          if reached n x.b0.val then (((s.acquire c.ids k).after c.w h.len false false).checkpoint c.w)
          else s.stallWeave c.w .wwait)
    fun s e x =>
      if poi (x.a ++ x.b) then consumeE s e
      else
        match s.counterAt x.p.part (pairAddr x.a) with
        | .fail cause => s.trapEngine e cause
        | .wait (.page va _) =>
          let (f, s) := s.reportFault x.p.part va .engine false x.p.core (s.rtagOf x.p)
          s.stallEngine e .wwait (some f)
        | .wait .refresh => s.stallEngine e .wwait
        | .ok (n, k) =>
          if reached n x.b0.val then (s.acquireEngine e k).afterEngine e h.len else s.stallEngine e .wwait

end Sys2Proof.Machine
end

