-- ==== Sys2Proof/Machine/Control.lean ====
section
/-!
DEFINITION. Machine/Control.lean: branches (11 R224 to R228), YIELD, GUARD and MEMB (R231 to R233), TRAP, HRET and NOP (13
R301, R302, R304), and the control registers (09 R196, R197, 13 R303).
-/

namespace Sys2Proof.Machine

/-! ## Branches -/

/-- An engine branches to a word. -/
def State.engineTo (s : State) (e pc : Nat) : State := s.modEngine e fun v => { v with pc := pc, stall := none }

/-- `BR` (11 R225). -/
def execBr (o : BitVec 25) (s : State) : Out :=
  s.groupOp { instr := .br o } (fun s c _ => s.branchTo c.w (offPc c.pc o.toInt))
    fun s e x => s.engineTo e (offPc x.v.pc o.toInt)

/-- `CALL` (11 R225): `lk` names the word after it. -/
def execCall (o : BitVec 25) (s : State) : Out :=
  s.groupOp { instr := .call o }
    (fun s c _ =>
      (s.modFibres c.ids fun f => { f with lk := BitVec.ofNat 32 (c.pc + 1) }).branchTo c.w (offPc c.pc o.toInt))
    fun s e x => (s.modEngine e fun v => { v with lk := BitVec.ofNat 32 (x.v.pc + 1) }).engineTo e (offPc x.v.pc o.toInt)

/-- Fibres leave a weave for the recast pool, ready at a word (02 R40, R41). -/
def State.recast (s : State) (fs : List Nat) (pc : Nat) : State :=
  let (seq, s) := s.fresh
  s.modFibres fs fun f => { f with weave := none, status := .ready seq s.clk, pc := pc }

/-- Fibres are recast to the target of a branch: those in a handler leave it where the target lies outside its section (13
R302). -/
def State.recastTo (s : State) (h : Header) (fs : List Nat) (pc : Nat) : State :=
  let s := s.recast fs pc
  if h.inHandler pc then s
  else s.modFibres fs fun f => { f with tagmode := f.saved.getD f.tagmode, saved := none }

/-- A conditional branch that is not taken is a yield point all the same. -/
def State.fallOn (s : State) (w len : Nat) : State := s.after w len false true

/-- `BRP` over the fibres that take the branch and those that do not (02 R40, 11 R226): the larger side stays, the
fall-through side on a tie, and the other is recast. In a pair, a divergence waits for the compare buffer and takes the
weave's checkpoint (R248). -/
def Ctx.brp (c : Ctx) (s : State) (k : Nat) (sense : Bool) (target : Nat) : State :=
  let yes := c.acts.filter fun e => e.2.p k == sense
  let no := c.acts.filter fun e => e.2.p k != sense
  if no.isEmpty then s.branchTo c.w target
  else if yes.isEmpty then s.fallOn c.w 1
  else if s.unmatched c.w then s.waitPair c.w
  else
    let s :=
      if no.length < yes.length then ((s.recast (no.map (·.1)) (c.pc + 1)).reMember c.w).branchTo c.w target
      else ((s.recastTo c.p.hdr (yes.map (·.1)) target).reMember c.w).fallOn c.w 1
    (s.checkpoint c.w)

/-- `BRP` (11 R226). -/
def execBrp (k : BitVec 4) (sense : BitVec 1) (o : BitVec 20) (s : State) : Out :=
  s.groupOp { instr := .brp k sense o }
    (fun s c _ => c.brp s k.toNat (sense == 1#1) (offPc c.pc o.toInt))
    fun s e x =>
      let p := k.toNat == 0 || x.v.pred.getLsbD k.toNat
      s.engineTo e (if p == (sense == 1#1) then offPc x.v.pc o.toInt else x.v.pc + 1)

/-- `BRU` (11 R227): the branch formats carry no literal. -/
def execBru (a : BitVec 8) (o : BitVec 17) (s : State) : Out :=
  s.groupOp { instr := .bru a o, a := some (.s, a), badOp := a == litCode }
    (fun s c x =>
      if poi x.a then c.consume s
      else if x.a0.val != 0#32 then s.branchTo c.w (offPc c.pc o.toInt) else s.fallOn c.w 1)
    fun s e x =>
      if poi x.a then consumeE s e
      else s.engineTo e (if x.a0.val != 0#32 then offPc x.v.pc o.toInt else x.v.pc + 1)

/-- `BRX` (11 R228). -/
def execBrx (a : BitVec 8) (l : Word) (s : State) : Out :=
  s.groupOp { instr := .brx a l, a := some (.s, a), lit := l }
    (fun s c x => if poi x.a then c.consume s else s.branchTo c.w x.a0.val.toNat)
    fun s e x => if poi x.a then consumeE s e else s.engineTo e x.a0.val.toNat

/-- `RET` (11 R228): l0's `lk`. -/
def execRet (s : State) : Out :=
  s.groupOp { instr := .ret } (fun s c x => s.branchTo c.w x.f.lk.toNat) fun s e x => s.engineTo e x.v.lk.toNat

/-- A form that fibres alone may execute (09 R199). -/
def fibreOnly (h : Form) : Form := { h with ladle := false, runner := false }

/-- `YIELD` (11 R231). -/
def execYield (s : State) : Out :=
  s.groupOp (fibreOnly { instr := .yield }) (fun s c _ => s.after c.w 1 false true) noEngine

/-! ## Windows and membership -/

/-- `GUARD` (02 R38, 11 R232). -/
def execGuard (sense : BitVec 1) (k : BitVec 4) (n : BitVec 8) (s : State) : Out :=
  s.groupOp (fibreOnly { instr := .guard sense k n, badOp := n == 0#8 || decide (8 < n.toNat) })
    (fun s c _ =>
      let excl := laneMask (c.acts.filter fun e => e.2.p k.toNat != (sense == 1#1))
      (s.after c.w 1 false false).modWeave c.w fun v => { v with guard := some { excl := excl, left := n.toNat } })
    noEngine

/-- `MEMB` (02 R34, 11 R233). -/
def execMemb (a : BitVec 8) (l : Word) (s : State) : Out :=
  let h := fibreOnly { instr := .memb a l, a := some (.s, a), lit := l }
  s.groupOp h
    (fun s c x =>
      if poi x.a then c.consume s
      else (s.modWeave c.w fun v => { v with member := x.a0.val &&& s.occupancy c.w }).after c.w h.len false false)
    noEngine

/-! ## TRAP, HRET, NOP -/

/-- `TRAP` (13 R301): the trap is the effect; on an engine it halts the program. -/
def execTrap (code : BitVec 8) (s : State) : Out :=
  s.groupOp { instr := .trap code }
    (fun s c _ =>
      s.trapWeave c.w { cause := cTrap, mask := c.mask, pc := c.pc,
                        addrs := c.acts.map fun e => (e.2.lane, code.zeroExtend 64) })
    fun s e _ => s.trapEngine e cTrap

/-- Whether a weave is in its handler, at a word of the handler section (09 R199, 13 R302). DEDUCED (log 91): it is in its handler
while an active lane is in a trap that it handles; at a word of the section that a branch has reached, without one, `HRET` is illegal. -/
def State.mayHret (s : State) (w : Nat) : Bool :=
  match s.ctxOf w with
  | some c => c.p.hdr.inHandler c.pc && c.acts.any fun e => e.2.saved.isSome
  | none => false

/-- `HRET` (13 R302): outside the handler it is illegal. -/
def execHret (s : State) : Out :=
  let ok := match s.turn with | .weave w => s.mayHret w | _ => false
  s.groupOp (fibreOnly { instr := .hret, bad := !ok }) (fun s c _ => s.hret c.w) noEngine

/-- `NOP` (13 R304). -/
def execNop (s : State) : Out :=
  s.groupOp { instr := .nop } (fun s c _ => s.after c.w 1 false false) fun s e _ => s.afterEngine e 1

/-! ## Control registers -/

/-- `wsref` at a core cycle (04 R95). -/
def wsrefAt (clk : Nat) : Word :=
  let ph := refreshPhase clk
  let g := ph / 14080
  let o := ph % 14080
  if o < 1760 then BitVec.ofNat 32 (1760 - o + g * 2 ^ 16 + 2 ^ 18)
  else BitVec.ofNat 32 (14080 - o + (g + 1) % 4 * 2 ^ 16)

/-- `mirst` (13 R303). -/
def CoreSt.mirst (c : CoreSt) : Word := BitVec.ofNat 32 ((if c.mirror then 1 else 0) + c.fixed.toNat * 2 ^ 16)

/-- A core, pour, weave or die register: codes that do not name a per-fibre register (09 R196). -/
def State.sharedReg (s : State) (p : Pour) (v : Option Weave) (r : Nat) : Word :=
  match r with
  | 0x04 => match v with | some v => v.member | none => 0#32
  | 0x06 => s.cyc p.core
  | 0x07 => (s.core p.core).ufz
  | 0x0E => p.late
  | 0x0F => (s.core p.core).mirst
  | 0x10 => wsrefAt s.clk
  | _ => 0#32

/-- A control register as a fibre reads it (09 R196). -/
def State.readCr (s : State) (p : Pour) (v : Option Weave) (f : Fibre) (r : Nat) : Word :=
  match r with
  | 0x00 => f.fpmode
  | 0x01 => f.tagmode.zeroExtend 32
  | 0x02 => f.qtemp
  | 0x03 => f.qmode.zeroExtend 32
  | 0x05 => f.lk
  | 0x11 => BitVec.ofNat 32 f.foot.length
  | r => if 0x08 ≤ r ∧ r ≤ 0x0D then f.tinfoAt (r - 8) else s.sharedReg p v r

/-- Whether an engine may name a control register (09 R196). -/
def engCr (r : Nat) : Bool := r == 0x06 || r == 0x07 || r == 0x0E || r == 0x0F || r == 0x10

/-- The form of GET and SET: a reserved code is illegal, and on an engine a register that it does not have is an illegal
operand. -/
def State.crForm (s : State) (i : Instr) (r : Nat) : Form :=
  let eng := match s.turn with | .engine _ => true | _ => false
  { instr := i, bad := decide (0x11 < r), badOp := eng && !engCr r }

/-- `GET` (13 R303): supplied, tagged 0xFFF0, never poisoned. -/
def execGet (d r : BitVec 8) (s : State) : Out :=
  let h := { s.crForm (.get d r) r.toNat with dst := some (d, 1) }
  s.groupOp h
    (fun s c _ => c.finishIn h s (c.supply h s fun f => [s.readCr c.p (s.weave? c.w) f r.toNat]))
    fun s e x => finishE h s e [{ val := s.sharedReg x.p none r.toNat }]

/-- Whether a SET value has a reserved bit (06 R132, 07 R150, 09 R197). -/
def setReserved (r : Nat) (v : Word) : Bool :=
  (r == 0x00 && v.toNat / 2 ^ 13 != 0) || (r == 0x01 && v.toNat / 4 != 0) || (r == 0x03 && v.toNat / 4 != 0)

/-- What a SET writes in a fibre. -/
def Fibre.setCr (f : Fibre) (r : Nat) (v : Word) : Fibre :=
  match r with
  | 0x00 => { f with fpmode := v }
  | 0x01 => { f with tagmode := v.extractLsb' 0 2 }
  | 0x02 => { f with qtemp := v }
  | 0x03 => { f with qmode := v.extractLsb' 0 2 }
  | 0x05 => { f with lk := v }
  | _ => f

/-- `SET` (13 R303). -/
def execSet (a r : BitVec 8) (l : Word) (s : State) : Out :=
  let h := { s.crForm (.set a r l) r.toNat with a := some (.s, a), lit := l }
  s.groupOp h
    (fun s c x =>
      if poi x.a then c.consume s
      else if setReserved r.toNat x.a0.val then c.trapG s h x cOperand c.mask (h.word.zeroExtend 64)
      else
        let s := if r.toNat = 0x0E then s.modPour c.pid fun p => { p with late := x.a0.val }
          else s.modFibres c.ids fun f => f.setCr r.toNat x.a0.val
        s.after c.w h.len false false)
    fun s e x =>
      if poi x.a then consumeE s e
      else
        let s := if r.toNat = 0x0E then s.modPour x.v.pour fun p => { p with late := x.a0.val } else s
        s.afterEngine e h.len

end Sys2Proof.Machine
end

