-- ==== Sys2Proof/Machine/Alloc.lean ====
section
/-!
DEFINITION. Machine/Alloc.lean: what a core has free (02 R30, R32; 03 R68; 22 R394): lane banks, scratchpad, stack slots,
pour slots and issue slots, each taken at the lowest place that fits (log 19).
-/

namespace Sys2Proof.Machine

/-- Round up to a multiple. -/
def roundUp (n a : Nat) : Nat := (n + a - 1) / a * a

/-- The lowest multiple of `a` at which `size` units fit below `limit` beside the ranges (base, length) in use. -/
def firstFit (used : List (Nat × Nat)) (size a limit : Nat) : Option Nat :=
  let cands := 0 :: used.map fun u => roundUp (u.1 + u.2) a
  let fits (o : Nat) : Bool := decide (o + size ≤ limit) && used.all fun u => decide (u.2 = 0) || decide (o + size ≤ u.1) || decide (u.1 + u.2 ≤ o)
  (cands.filter fits).foldl (fun m o => match m with | none => some o | some x => some (min x o)) none

/-- The ranges in use in a lane bank of a core: footprints stand `16 + D` words below their windows (02 R30). -/
def State.bankRanges (s : State) (core quad lane : Nat) : List (Nat × Nat) :=
  s.fibres.filterMap fun e =>
    match s.pour? e.2.pour with
    | some p =>
      if p.core = core ∧ e.2.quad = quad ∧ e.2.lane = lane then some (e.2.wbase - (16 + p.hdr.rejoin + 3) / 4 * 4, p.hdr.footprint)
      else none
    | none => none

/-- Live fibres of a quadrant. -/
def State.quadFibres (s : State) (core quad : Nat) : Nat :=
  (s.fibres.filter fun e =>
    match s.pour? e.2.pour with | some p => p.core == core && e.2.quad == quad | none => false).length

/-- The window base of a free footprint in a lane bank: v0 stands at a multiple of 4 after the header and link words. A quadrant
holds at most 512 fibres, and so a core at most 2,048 (02 R30, 00 R2). -/
def State.bankHole (s : State) (core quad lane : Nat) (h : Header) : Option Nat :=
  if Config.quadFibres ≤ s.quadFibres core quad then none
  else (firstFit (s.bankRanges core quad lane) h.footprint 4 Config.bankWords).map fun o => o + (16 + h.rejoin + 3) / 4 * 4

/-- The stack bytes in use on a core. -/
def State.stackRanges (s : State) (core : Nat) : List (Nat × Nat) :=
  s.fibres.filterMap fun e =>
    match s.pour? e.2.pour with
    | some p => if p.core = core then some (e.2.stack, p.hdr.stack) else none
    | none => none

/-- A free stack of `.stack` bytes in a core's slot, 16-byte aligned (22 R394). -/
def State.stackHole (s : State) (part core bytes : Nat) : Option Nat :=
  if bytes = 0 then some 0 else firstFit (s.stackRanges core) bytes 16 (s.part part).desc.stklen

/-- Bytes of a fibre's record in a save area or a checkpoint slot (22 R394, R396). -/
def Header.fibreBytes (h : Header) : Nat := roundUp (64 + (49 * h.footprint + 7) / 8) 64

/-- Bytes of a fibre's and a weave's checkpoint record (22 R394). -/
def Header.ckptBytes (h : Header) : Nat := h.fibreBytes + 256

/-- The checkpoint records in use on a core. -/
def State.ckptRanges (s : State) (core : Nat) : List (Nat × Nat) :=
  s.fibres.filterMap fun e =>
    match s.pour? e.2.pour with
    | some p => if p.core = core then e.2.ckpt.map fun o => (o, p.hdr.ckptBytes) else none
    | none => none

/-- A free place for the checkpoint records of a fibre of a pair's member in a core's slot (22 R394). -/
def State.ckptHole (s : State) (part core : Nat) (h : Header) : Option Nat :=
  firstFit (s.ckptRanges core) h.ckptBytes 64 (s.part part).desc.ckptlen

/-- The scratchpad ranges of a core's pours. -/
def State.scratchRanges (s : State) (core : Nat) : List (Nat × Nat) :=
  s.pours.filterMap fun e => if e.2.core = core then some (e.2.scratch, e.2.hdr.scratch) else none

/-- A free scratchpad range of a core, at a 64-byte-aligned address (03 R68). -/
def State.scratchHole (s : State) (core bytes : Nat) : Option Nat :=
  if bytes = 0 then some 0 else firstFit (s.scratchRanges core) bytes 64 Config.scratchBytes

/-- The lowest natural below a limit that a list does not hold. -/
def lowestFree (used : List Nat) (limit : Nat) : Option Nat := (List.range limit).find? fun i => !used.contains i

/-- A free pour slot of a core (03 R68). -/
def State.pourSlot (s : State) (core : Nat) : Option Nat :=
  lowestFree (s.pours.filterMap fun e => if e.2.core = core then some e.2.slot else none) Config.pourSlots

/-- A free issue slot of a quadrant (02 R35). -/
def State.issueSlot (s : State) (core quad : Nat) : Option Nat :=
  lowestFree (s.weaves.filterMap fun e => if e.2.core = core ∧ e.2.quad = quad then e.2.slot else none) Config.slotsPerQuad

/-- A free identifier in a core's weave table (02 R35, R41: 12 bits). -/
def State.weaveIdx (s : State) (core : Nat) : Nat :=
  (lowestFree (s.weaves.filterMap fun e => if e.2.core = core then some e.2.idx else none) 4096).getD 0

/-- Zero the bytes of a fibre's stack (04 R91), with the tag 0xFFF0. -/
def State.clearStack (s : State) (p : Pour) (base : Nat) : State :=
  if p.hdr.stack = 0 || !ownDram p.part (s.stackAt p base 0) p.hdr.stack then s
  else
    let k := s.stackKey p base 0
    let m := s.mem.store k (List.replicate p.hdr.stack 0#8)
    { s with mem := (List.range ((p.hdr.stack + 7) / 8)).foldl (fun m i => m.setTag (k + 8 * i) Config.noTag) m }

end Sys2Proof.Machine
end

