-- ==== Sys2Proof/Machine/Rejoin.lean ====
section
/-!
DEFINITION. Machine/Rejoin.lean: dormancy and release of weaves (02 R33 to R35), the Recast Unit and the issue slots (R41 to
R44), rejoin levels and serial mode (R45 to R53): JARM, JOIN, JGET, FEND, BAR, RDV, and the steps of the Recast Unit.
-/

namespace Sys2Proof.Machine

/-! ## Weaves that wait and weaves that go on -/

/-- Whether no fibre of a weave can run (02 R35, R53). -/
def State.dormant (s : State) (w : Nat) : Bool :=
  match s.weave? w with
  | none => true
  | some v =>
    match v.serial with
    | [] => !(s.members w).any fun e => e.2.status == .run
    | sr :: _ => sr.runner.isNone

/-- Whether a weave has a level that is armed or counting (11 R229). -/
def Weave.armed (v : Weave) : Bool := v.j.any fun r => r.state == 1#2 || r.state == 2#2

/-- Keep a weave's record with its fibres: `member` follows a change of the occupancy (02 R34), a weave that cannot run gives
up its slot (R35), and one without fibres and levels is freed (11 R229). -/
def State.settleWeave (s : State) (w : Nat) : State :=
  match s.weave? w with
  | none => s
  | some v =>
    let empty := (s.members w).isEmpty
    let s := if s.occupancy w = v.occ then s else s.reMember w
    if empty && !v.armed then
      { s.modCore v.core fun c => { c with turn := c.turn.map fun t => if t = some w then none else t } with
        weaves := SMap.erase s.weaves w }
    else if empty || s.dormant w then
      ((s.spillWeave w).modWeave w fun v => { v with slot := none, stall := none, latches := [] }).modCore v.core fun c =>
        { c with turn := c.turn.map fun t => if t = some w then none else t }
    else s

/-- Take a weave's checkpoint after a change of its membership (11 R248): where its fibres still hold unmatched stores, before
its next word, once they hold none. -/
def State.recheck (s : State) (w : Nat) : State :=
  if s.unmatched w then s.modWeave w fun v => { v with owes := true } else s.checkpoint w

/-- A weave can run again (03 R72). In serial mode a runner goes on undisturbed: those released are candidates for the turn at
the next yield point, and take it at once only where no fibre has it (02 R53, R54). -/
def State.wake (s : State) (w : Nat) : State :=
  let woken := s.modWeave w fun v => { v with stall := none, latches := [], yielded := true, readyAt := s.clk }
  match s.weave? w with
  | some v =>
    match v.serial with
    | sr :: _ => if sr.runner.isSome then s else woken.pickRunner w
    | [] => woken
  | none => s

/-- Fibres enter the recast pool, each at its own word (02 R41). -/
def State.recastOwn (s : State) (fs : List Nat) : State :=
  if fs.isEmpty then s
  else
    let (seq, s) := s.fresh
    s.modFibres fs fun f => { f with weave := none, status := .ready seq s.clk }

/-- Fibres are released while others of their weave still wait: they are recast, and the weave keeps the others (02 R33). It
remembers them for the rest of the core cycle, in which the others may be released as well. -/
def State.letGo (s : State) (w : Nat) (fs : List Nat) : State :=
  ((s.recastOwn fs).modWeave w fun v =>
    { v with gone := (if v.goneAt = s.clk then v.gone else []) ++ fs, goneAt := s.clk })

/-- The fibres that a weave has let go in this core cycle and that still stand in the pool. -/
def State.backOf (s : State) (v : Weave) : List Nat :=
  if v.goneAt = s.clk then
    v.gone.filter fun f => match s.fibre? f with | some x => x.status.isReady && x.weave.isNone | none => false
  else []

/-- All the fibres that a weave holds have been released in one core cycle: those at the word of its lowest home lane stay and
the weave goes on with them, and the others are recast (02 R33). -/
def State.resumeWhole (s : State) (w : Nat) (fs : List Nat) : State :=
  let back := match s.weave? w with | some v => s.backOf v | none => []
  let s := s.modFibres (fs ++ back) fun f => { f with weave := some w, status := .run }
  let s := s.modWeave w fun v => { v with gone := [] }
  let mine := (s.byLane w).filter fun e => (fs ++ back).contains e.1
  let pc := match mine.head? with | some e => e.2.pc | none => 0
  let others := (mine.filter fun e => e.2.pc != pc).map (·.1)
  (((s.recastOwn others).settleWeave w).wake w).checkpoint w

/-- Fibres of a weave are released together (02 R33, 11 R239): they are recast where others of the weave still wait, else the
weave resumes. In serial mode they become candidate runners. -/
def State.releaseIn (s : State) (w : Nat) (fs : List Nat) : State :=
  let s := s.modFibres fs fun f => { f with status := .run }
  match s.weave? w with
  | none => s.recastOwn fs
  | some v =>
    if !v.serial.isEmpty then (s.wake w).recheck w
    else if (s.byLane w).any fun e => !fs.contains e.1 && e.2.status != .run then
      ((s.letGo w fs).settleWeave w).recheck w
    else s.resumeWhole w fs

/-- A weave loses fibres that resume in another. Where it holds none after that and has let fibres go in this core cycle, all
that it held have been released in one cycle, and it goes on with those (02 R33). -/
def State.loseFibres (s : State) (w : Nat) : State :=
  let gone := match s.weave? w with | some v => !(s.backOf v).isEmpty | none => false
  if gone && (s.members w).isEmpty then s.resumeWhole w [] else (s.settleWeave w).recheck w

/-- Release fibres that one step lets go on, weave by weave. -/
def State.releaseFibres (s : State) (fs : List Nat) : State :=
  let ws := (fs.filterMap fun f => match s.fibre? f with | some v => v.weave | none => none).eraseDups
  (ws.foldl (fun s w =>
    s.releaseIn w (fs.filter fun f => match s.fibre? f with | some v => v.weave == some w | none => false)) s)

/-! ## Barriers and meetings -/

/-- The fibres of a crew (02 R36). -/
def State.crewOf (s : State) (pid crew : Nat) : SMap Fibre :=
  s.fibres.filter fun e => e.2.pour == pid && e.2.crew == crew

/-- The barriers of crews that are complete (02 R37): every live fibre of the crew has arrived. -/
def State.doneCrews (s : State) (pid : Nat) : List Nat :=
  (List.range 16).filter fun c =>
    let fs := s.crewOf pid c
    !fs.isEmpty && fs.all fun e => e.2.status == .bar

/-- A change that makes or unmakes weaves waits where fibres that stay in one hold unmatched stores (11 R248): each such weave looks
again before its next word, once they hold none. -/
def State.owe (s : State) (ws : List Nat) : State := ws.foldl (fun s w => s.modWeave w fun v => { v with owes := true }) s

/-- The weaves of some fibres in which fibres hold unmatched stores. -/
def State.busyOf (s : State) (fs : SMap Fibre) : List Nat := (fs.filterMap (·.2.weave)).eraseDups.filter s.unmatched

/-- Complete the barriers of a pour that are complete (02 R37, 11 R239): the released fibres acquire the arrivals. -/
def State.releaseBars (s : State) (pid : Nat) : State :=
  let done := s.doneCrews pid
  let cs := done.filter fun c => (s.busyOf (s.crewOf pid c)).isEmpty
  let s := done.foldl (fun s c => s.owe (s.busyOf (s.crewOf pid c))) s
  if cs.isEmpty then s
  else
    let fs := cs.flatMap fun c => (s.crewOf pid c).map (·.1)
    let s := cs.foldl (fun s c =>
      (s.acquire ((s.crewOf pid c).map (·.1)) (.bar pid c)).setSync (.bar pid c) []) s
    s.releaseFibres fs

/-- Barriers complete at once, but in a pour that a debugger stops or steps they are held (23 R411). -/
def State.tryBar (s : State) (pid : Nat) : State :=
  match s.pour? pid with
  | some p => if p.dbg = .free then s.releaseBars pid else s
  | none => s

/-- Complete a pour's meeting where every live fibre and every running engine program has executed RDV (03 R81). -/
def State.tryRdv (s : State) (pid : Nat) : State :=
  let fs := s.fibres.filter fun e => e.2.pour == pid
  let es := s.engines.filter fun e => e.2.pour == pid && e.2.running
  if (fs.isEmpty && es.isEmpty) || fs.any (fun e => e.2.status != .rdv) || es.any (fun e => !e.2.atRdv) then s
  else
    let ids := fs.map (·.1)
    let s := s.acquire ids (.rdv pid)
    let s := es.foldl (fun s e => (s.acquireEngine e.1 (.rdv pid)).modEngine e.1 fun v => { v with atRdv := false, stall := none }) s
    (s.setSync (.rdv pid) []).releaseFibres ids

/-- A synchronizing group word: it waits as 12 R255 and 22 R402 say, and a pair's weave retakes its checkpoint after it. -/
def Ctx.syncOp (c : Ctx) (s : State) (body : State → State) : State :=
  match s.syncWait c.w with
  | some (.pair, _) => s.waitPair c.w
  | some (k, keep) => s.stallWeave c.w k keep
  | none => (body s).checkpoint c.w

/-- `BAR` (11 R239): each active fibre arrives at its own crew's barrier, a release, and waits. -/
def execBar (s : State) : Out :=
  s.groupOp (fibreOnly { instr := .bar })
    (fun s c _ =>
      c.syncOp s fun s =>
        let s := c.acts.foldl (fun s e => s.release [e.1] (.bar c.pid e.2.crew)) s
        let s := (s.after c.w 1 false true).modFibres c.ids fun f => { f with status := .bar }
        (((s.pickRunner c.w).settleWeave c.w).tryBar c.pid))
    noEngine

/-- `RDV` (11 R243, 03 R81). -/
def execRdv (s : State) : Out :=
  s.groupOp { instr := .rdv }
    (fun s c _ =>
      c.syncOp s fun s =>
        let s := s.release c.ids (.rdv c.pid)
        let s := (s.after c.w 1 false true).modFibres c.ids fun f => { f with status := .rdv }
        (((s.pickRunner c.w).settleWeave c.w).tryRdv c.pid))
    fun s e x =>
      let s := s.releaseEngine e (.rdv x.v.pour)
      ((s.afterEngine e 1).modEngine e fun v => { v with atRdv := true }).tryRdv x.v.pour

/-! ## Rejoin levels -/

/-- A level's register, where its weave still has a record. -/
def State.jreg (s : State) (w n : Nat) : Option JReg :=
  match s.weave? w with
  | some v => v.j[n]?
  | none => none

/-- Change a level's register. -/
def State.modJ (s : State) (w n : Nat) (g : JReg → JReg) : State :=
  s.modWeave w fun v => { v with j := v.j.set n (g (v.j.getD n {})) }

/-- A fibre's depth (02 R30). -/
def Fibre.depth (f : Fibre) : Nat := f.outer.length

/-- Restore the saved outer link (02 R47, R48). -/
def Fibre.popLink (f : Fibre) : Fibre :=
  match f.outer with
  | [] => { f with link := none }
  | l :: ls => { f with link := l, outer := ls }

/-- The links of a fibre's levels, innermost first (02 R52). -/
def Fibre.chain (f : Fibre) : List Link := (f.link :: f.outer).filterMap id

/-- Whether a level is current for a link (02 R49): armed or counting, of the same generation, and not stale. -/
def State.linkCurrent (s : State) (l : Link) : Bool :=
  match s.jreg l.weave l.jreg with
  | some r => (r.state == 1#2 || r.state == 2#2) && r.gen == l.gen && !l.stale
  | none => false

/-- A level ends (02 R48, R50): its origin weave resumes with exactly the fibres that had parked, each with its outer link
restored. Fibres that the origin weave still runs are recast, each at its own word; where it holds fibres that wait at `BAR` or
`RDV`, the resumed fibres are recast instead. In serial mode the weave keeps its members and those from other weaves are
recast (log 16, log 17). In a pair the resumption waits until the weaves that it concerns hold no unmatched store (11 R248). -/
def State.resumeLevel (s : State) (w n : Nat) (broken : Bool) : State :=
  match s.weave? w, s.jreg w n with
  | some v, some r =>
    let back := s.fibres.filter fun e => e.2.status == .parked w n
    let fs := back.map (·.1)
    let olds := (back.filterMap fun e => e.2.weave).eraseDups
    let s := s.acquireClock fs r.clock
    let s := s.modFibres fs fun f => { f.popLink with pc := r.resume, status := .run }
    let s := s.modJ w n fun r => { r with state := if broken then 3#2 else 0#2, clock := [] }
    let others := (s.members w).filter fun e => !fs.contains e.1
    let runs := (others.filter fun e => e.2.status == .run).map (·.1)
    let s :=
      if !v.serial.isEmpty then
        ((s.recastOwn ((back.filter fun e => e.2.weave != some w).map (·.1))).wake w).recheck w
      else if fs.isEmpty then s
      else if others.any fun e => e.2.status != .run then (s.letGo w fs).recheck w
      else
        let s := if runs.isEmpty then s
          else (s.recastOwn runs).modWeave w fun v => { v with guard := none, susp := [], hexcl := 0#32 }
        s.resumeWhole w fs
    let s := olds.foldl (fun s x => if x = w then s else s.loseFibres x) s
    s.settleWeave w
  | _, _ => s

/-- The weaves that a level's end concerns, its own and those that lose fibres to it, in which fibres hold unmatched stores. -/
def State.levelBusy (s : State) (w n : Nat) : List Nat :=
  (if s.unmatched w then [w] else []) ++ (s.busyOf (s.fibres.filter fun e => e.2.status == .parked w n)).filter (· != w)

/-- Complete a level where every expected lane has arrived (02 R48): at once, or where a weave that it concerns holds unmatched stores
of a pair, once it holds none (11 R248). -/
def State.tryLevel (s : State) (w n : Nat) : State :=
  match s.jreg w n with
  | some r =>
    if (r.state == 1#2 || r.state == 2#2) && r.arrived == r.expect then
      if (s.levelBusy w n).isEmpty then s.resumeLevel w n false else s.owe (s.levelBusy w n)
    else s
  | none => s

/-- Before its next word, a weave that owes a checkpoint (11 R248) takes it once its fibres hold no unmatched store; the levels and
the barriers of its pour that waited for that complete. -/
def State.payOwed (s : State) (w : Nat) : State :=
  if s.unmatched w then s.waitPair w
  else
    let s := (s.modWeave w fun v => { v with owes := false, stall := none }).checkpoint w
    match s.weave? w with
    | none => s
    | some v =>
      let ws := (s.weaves.filter fun e => e.2.pour == v.pour).map (·.1)
      (ws.foldl (fun s x => (List.range 8).foldl (fun s n => s.tryLevel x n) s) s).tryBar v.pour

/-- Whether every member of a serial level has arrived or ended (02 R53). -/
def State.serialDone (s : State) (w : Nat) (sr : Serial) : Bool := !(s.members w).any fun e => sr.has e.2.lane

/-- Leave the levels of serial mode whose members have all arrived or ended, innermost first (02 R53): a runner that waits in a
level of its own leaves the turn to the next fibre of the level outside. -/
def State.trySerialFrom (s : State) (w : Nat) : Nat → State
  | 0 => s
  | n + 1 =>
    match s.weave? w with
    | none => s
    | some v =>
      match v.serial.find? (s.serialDone w) with
      | none => s.pickRunner w
      | some sr =>
        let fs := ((s.members w).filter fun e => sr.members.getLsbD e.2.lane).map (·.1)
        let s := s.acquireClock fs sr.clock
        let s := match sr.resume with
          | some pc => s.goTo fs pc
          | none => s
        let s := s.modWeave w fun v => { v with serial := v.serial.erase sr }
        (State.trySerialFrom (s.wake w) w n).recheck w

/-- Leave serial mode where every member of its level has arrived or ended (02 R53). -/
def State.trySerial (s : State) (w : Nat) : State :=
  s.trySerialFrom w (match s.weave? w with | some v => v.serial.length | none => 0)

/-- The innermost level of serial mode in which a lane runs (02 R53). -/
def Weave.levelOf (v : Weave) (lane : Nat) : Option Serial := v.serial.find? (·.has lane)

/-- Whether a level of serial mode is what a runner's JOIN meets: it has joined every level armed since (02 R53). -/
def Serial.meets (sr : Serial) (id : Nat) (f : Fibre) : Bool := decide (f.depth ≤ SMap.getD sr.depths id 0)

/-- `JARM` (02 R46, R53, 11 R234). -/
def execJarm (n : BitVec 3) (s : State) : Out :=
  s.groupOp (fibreOnly { instr := .jarm n })
    (fun s c x =>
      let k := n.toNat
      let r := c.v.j.getD k {}
      let h := fibreOnly { instr := .jarm n }
      if r.state == 1#2 || r.state == 2#2 then c.trapG s h x cOperand c.mask (h.word.zeroExtend 64)
      else
        let ms := if c.v.serial.isEmpty then (s.byLane c.w).filter fun e => !e.2.status.isParked else s.movers c.w
        if ms.any fun e => decide (c.p.hdr.rejoin < e.2.depth + 1) then
          let s := s.after c.w 1 false false
          let sr : Serial := { jreg := k, members := laneMask ms, depths := ms.map fun e => (e.1, e.2.depth)
                               runner := c.v.serial.head?.bind (·.runner) }
          let s := s.modWeave c.w fun v => { v with serial := sr :: v.serial }
          if c.v.serial.isEmpty then s.pickRunner c.w else s
        else
          let gen := r.gen + 1#8
          let s := s.modJ c.w k fun r =>
            { r with expect := laneMask ms, arrived := 0#32, state := 1#2, gen := gen, limit := 0#16, elapsed := 0#32, clock := [] }
          let s := s.modFibres (ms.map (·.1)) fun f =>
            { f with outer := f.link :: f.outer, link := some { weave := c.w, jreg := k, gen := gen, stale := false } }
          s.after c.w 1 false false)
    noEngine

/-- One active fibre's JOIN at its rejoin link (02 R47): it parks, or it is late. -/
def State.joinFibre (s : State) (pid f n t resume : Nat) : State :=
  match s.fibre? f with
  | none => s
  | some v =>
    match v.link with
    | none => s
    | some l =>
      if !s.linkCurrent l then
        (s.modFibre f Fibre.popLink).modPour pid fun p => { p with late := satAdd p.late 1 }
      else
        let c := v.released (s.fibreKey f)
        let s := s.modFibre f fun v => { v.newRegion with status := .parked l.weave n }
        s.modJ l.weave n fun r =>
          let r := if r.state = 1#2 then
              { r with state := 2#2, limit := BitVec.ofNat 16 t, elapsed := 0#32, resume := resume }
            else r
          { r with arrived := r.arrived ||| laneBit v.lane, clock := joinClock r.clock c }

/-- The runner of a serial level arrives at its JOIN (02 R53). -/
def Ctx.joinSerial (c : Ctx) (s : State) (sr : Serial) (lane len : Nat) : State :=
  let s := s.after c.w len false true
  let clock := s.releasedBy c.ids
  let s := s.modFibres c.ids Fibre.newRegion
  let sr' : Serial := { sr with
    arrived := sr.arrived ||| c.mask, clock := joinClock sr.clock clock, resume := some (sr.resume.getD (c.pc + len)) }
  let s := s.modWeave c.w fun v => { v with serial := v.serial.set (v.serial.findIdx (·.has lane)) sr' }
  (s.trySerial c.w).settleWeave c.w

/-- `JOIN` (02 R47 to R50, 11 R235). -/
def execJoin (n : BitVec 3) (a : BitVec 8) (l : Word) (s : State) : Out :=
  let h := fibreOnly { instr := .join n a l, a := some (.s, a), lit := l }
  s.groupOp h
    (fun s c x =>
      let word := h.word.zeroExtend 64
      if poi x.a then c.consume s
      else if 65535 < x.a0.val.toNat then c.trapG s h x cOperand c.mask word
      else
        let serial : Option (Serial × Nat) := c.acts.head?.bind fun e =>
          ((c.v.levelOf e.2.lane).filter fun sr => sr.meets e.1 e.2).map fun sr => (sr, e.2.lane)
        match serial with
        | some (sr, lane) =>
          if sr.jreg ≠ n.toNat then c.trapG s h x cOperand c.mask word
          else c.syncOp s fun s => c.joinSerial s sr lane h.len
        | none =>
          let bad := c.acts.filter fun e => match e.2.link with | some k => k.jreg != n.toNat | none => true
          if !bad.isEmpty then c.trapG s h x cOperand (laneMask bad) word
          else
            c.syncOp s fun s =>
              let levels := (c.acts.filterMap fun e => e.2.link).map fun k => (k.weave, k.jreg)
              let s := s.after c.w h.len false true
              let s := c.acts.foldl (fun s e => s.joinFibre c.pid e.1 n.toNat x.a0.val.toNat (c.pc + h.len)) s
              let s := (s.settleWeave c.w).pickRunner c.w
              let s := levels.eraseDups.foldl (fun s k => s.tryLevel k.1 k.2) s
              (s.pickRunner c.w).settleWeave c.w)
    noEngine

/-- The 32-bit words of a rejoin register (02 R45). -/
def JReg.word (r : JReg) (k : Nat) : Word :=
  match k with
  | 0 => r.expect
  | 1 => r.arrived
  | 2 => BitVec.ofNat 32 (r.state.toNat + r.gen.toNat * 4 + r.limit.toNat * 1024)
  | _ => r.elapsed

/-- `JGET` (11 R237). -/
def execJget (d : BitVec 8) (n : BitVec 3) (w : BitVec 8) (s : State) : Out :=
  let h := fibreOnly { instr := .jget d n w, dst := some (d, 1), badOp := decide (3 < w.toNat) }
  s.groupOp h (fun s c _ => c.finishIn h s (c.supply h s fun _ => [(c.v.j.getD n.toNat {}).word w.toNat])) noEngine

/-! ## The end of fibres -/

/-- The arrivals that a fibre's end makes at the levels of its chain (02 R49). -/
def State.endLevels (s : State) (pid f : Nat) : State :=
  match s.fibre? f with
  | none => s
  | some v =>
    v.chain.foldl (fun s l =>
      if s.linkCurrent l then s.modJ l.weave l.jreg fun r => { r with arrived := r.arrived ||| laneBit v.lane }
      else s.modPour pid fun p => { p with late := satAdd p.late 1 }) s

/-- Fibres end (11 R229): their arrivals, what their task's end will release (03 R64), the barriers, meetings and levels that their leaving completes, and the end of
their pour. -/
def State.endFibres (s : State) (pid w : Nat) (fs : List Nat) : State :=
  let levels := (fs.flatMap fun f => match s.fibre? f with | some v => v.chain | none => []).map fun l => (l.weave, l.jreg)
  let core := match s.pour? pid with | some p => p.core | none => 0
  let s := fs.foldl (fun s f => s.endLevels pid f) s
  let s := match s.pour? pid with | some p => s.release fs (.task p.task) | none => s
  let s := s.dropPending fs
  let s := { s with fibres := s.fibres.filter fun e => !fs.contains e.1 }
  let s := s.mirrorCheck core
  let ms := s.members w
  let hex := match s.weave? w with | some v => v.hexcl | none => 0#32
  let s := if hex != 0#32 && !ms.any (fun e => e.2.saved.isSome) then
      match (s.byLane w).head? with
      | some e => s.leaveHandler w e.2.pc (match s.weave? w with | some v => v.susp.head?.map (·.2) | none => none)
      | none => s
    else s
  let s := (s.yieldWeave w).trySerial w
  let s := levels.eraseDups.foldl (fun s k => s.tryLevel k.1 k.2) s
  let s := s.settleWeave w
  (((s.tryBar pid).tryRdv pid).endIfDone pid)

/-- The fibres of a pair's member come to their end (22 R402, R403; log 26): they end once the other member's have come to
theirs, so that a mismatch can roll both back. -/
def Ctx.pairEnd (c : Ctx) (s : State) (k : Nat) (pr : Pair) : State :=
  let lead := pr.lead == c.pid
  let ranks := c.acts.map (·.2.rank)
  let here := c.acts.head?.map (·.2.rank) |>.getD 0
  if s.unmatched c.w then s.waitPair c.w
  else if !lead && ranks.any (fun r => pr.stores.any fun t => t.rank == r) then s.mismatch k here
  else
    let new := ranks.filter fun r => !pr.ends.contains (lead, r)
    let s := if new.isEmpty then s
      else (s.modPair k fun p => { p with ends := p.ends ++ new.map fun r => (lead, r) })
    if ranks.all fun r => pr.ends.contains (!lead, r) then
      let gone (r : Nat) : Bool := !s.fibres.any fun e => e.2.pour == (if lead then pr.trail else pr.lead) && e.2.rank == r
      let s := s.modPair k fun p => { p with ends := p.ends.filter fun e => !(ranks.contains e.2 && gone e.2) }
      (s.modWeave c.w fun v => { v with stall := none }).endFibres c.pid c.w c.ids
    else
      let busy := s.pairWaits { pr with ends := [] } (!lead)
      if ranks.any fun r => busy.contains r then s.mismatch k here else s.stallWeave c.w .pair

/-- `FEND` (11 R229): the stores that its fibres have issued are performed first (03 R63). DEDUCED (log 64): the wait is a stall at
a yield point, as the stall of any word is that waits for a pending result (02 R54); R54 does not list FEND. -/
def execFend (s : State) : Out :=
  s.groupOp (fibreOnly { instr := .fend })
    (fun s c _ =>
      if !(s.heldOf c.w).isEmpty then s.stallWeave c.w .order
      else
        match s.pairOf c.pid with
        | some (k, pr) => c.pairEnd s k pr
        | none =>
          let s := s.modWeave c.w fun v => { v with stall := none }
          s.endFibres c.pid c.w c.ids)
    noEngine

/-! ## Timeouts, recast weaves and issue slots -/

/-- Whether a level's time is up (02 R50). -/
def JReg.expired (r : JReg) : Bool :=
  r.state == 2#2 && r.limit != 0#16 && r.arrived != r.expect && decide (r.limit.toNat * 1024 ≤ r.elapsed.toNat)

/-- Mark the links that name a level stale (02 R50). -/
def Fibre.stale (f : Fibre) (w n : Nat) (gen : BitVec 8) : Fibre :=
  let mark (l : Option Link) : Option Link :=
    l.map fun k => if k.weave = w ∧ k.jreg = n ∧ k.gen = gen then { k with stale := true } else k
  { f with link := mark f.link, outer := f.outer.map mark }

/-- REJOIN_TIMEOUT (95, 02 R50): of a pour that a debugger lets run (23 R409). -/
def execRejoinTimeout (weave j : Nat) (s : State) : Out :=
  match s.weave? weave, s.jreg weave j with
  | some v, some r =>
    let runs := match s.pour? v.pour with | some p => p.dbg.runs | none => false
    if !r.expired || !runs then .next s
    else if !(s.levelBusy weave j).isEmpty then .next (s.owe (s.levelBusy weave j))
    else
      let s := s.resumeLevel weave j true
      .next { s with fibres := s.fibres.map fun e => (e.1, e.2.stale weave j r.gen) }
  | _, _ => .next s

/-- The ready records of a quadrant, oldest first (02 R43). DESIGN CHOICE (log 63): records that one step recast are of one
age, and go by home lane. -/
def State.readyOf (s : State) (core quad : Nat) : SMap Fibre :=
  let fs := s.fibres.filter fun e =>
    e.2.status.isReady && e.2.quad == quad
      && (match s.pour? e.2.pour with | some p => p.core == core && p.dbg.runs | none => false)
  let key (f : Fibre) : Nat := match f.status with | .ready q _ => q * 32 + f.lane | _ => 0
  fs.mergeSort fun a b => decide (key a.2 ≤ key b.2)

/-- The candidate of a quadrant (02 R43). -/
def State.candidate (s : State) (core quad : Nat) : SMap Fibre :=
  match s.readyOf core quad with
  | [] => []
  | e :: rest =>
    rest.foldl (fun (c : SMap Fibre) x =>
      if c.length < 32 && x.2.pc == e.2.pc && x.2.pour == e.2.pour && !c.any (fun y => y.2.lane == x.2.lane) then c ++ [x] else c)
      [e]

/-- Whether the Recast Unit issues its candidate (02 R43). -/
def State.candidateDue (s : State) (c : SMap Fibre) : Bool :=
  match c.head? with
  | none => false
  | some e =>
    decide (c.length = 32)
      || (match e.2.status with | .ready _ age => decide (age + 256 ≤ s.clk) | _ => false)
      || !(s.weaves.any fun w => w.2.pour == e.2.pour && w.2.slot.isSome)

/-- Whether a dormant weave can run again (02 R35, R43): it has a fibre that runs, and its stall, if any, has cleared. -/
def State.wantsSlot (s : State) (w : Nat) (v : Weave) : Bool :=
  v.slot.isNone && !s.dormant w && !(s.members w).isEmpty
    && (match v.stall with | none => true | some t => !t.holds)
    && (match s.pour? v.pour with | some p => p.dbg.runs | none => false)

/-- The priority of a weave: its task's (03 R72). -/
def State.prioOf (s : State) (v : Weave) : Nat :=
  match s.pour? v.pour with
  | some p => (match s.task? p.task with | some t => t.prio | none => 3)
  | none => 3

/-- The weaves of a quadrant that wait for a slot, in the order of 02 R43. -/
def State.waiting (s : State) (core quad : Nat) : SMap Weave :=
  (s.weaves.filter fun e => e.2.core == core && e.2.quad == quad && s.wantsSlot e.1 e.2).mergeSort fun a b =>
    let ka := (s.prioOf a.2, a.2.readyAt, a.2.idx)
    let kb := (s.prioOf b.2, b.2.readyAt, b.2.idx)
    decide (ka.1 < kb.1 ∨ (ka.1 = kb.1 ∧ (ka.2.1 < kb.2.1 ∨ (ka.2.1 = kb.2.1 ∧ ka.2.2 ≤ kb.2.2))))

/-- Whether a stall gives up its slot where another weave waits (02 R35). -/
def StallKind.yieldsSlot : StallKind → Bool
  | .pbwait | .epush | .epop | .wwait | .fork => true
  | _ => false

/-- A slot of a quadrant for a weave that waits: a free one, or that of the weave whose stall began earliest (02 R35). -/
def State.takeSlot (s : State) (core quad : Nat) : Option (Nat × State) :=
  match s.issueSlot core quad with
  | some k => some (k, s)
  | none =>
    let cs := (s.weaves.filter fun e =>
      e.2.core == core && e.2.quad == quad && e.2.slot.isSome
        && (match e.2.stall with | some t => t.kind.yieldsSlot && t.holds | none => false)).mergeSort fun a b =>
          let t (v : Weave) : Nat := match v.stall with | some t => t.since | none => 0
          decide (t a.2 ≤ t b.2)
    match cs.head? with
    | some e =>
      match e.2.slot with
      | some k => some (k, (s.spillWeave e.1).modWeave e.1 fun v => { v with slot := none })
      | none => none
    | none => none

/-- WEAVE_SLOT_GRANT (95, 02 R43): a slot goes to the first weave that waits for one. -/
def execWeaveSlotGrant (core quad : Nat) (s : State) : Out :=
  match (s.waiting core quad).head? with
  | none => .next s
  | some e =>
    match s.takeSlot core quad with
    | none => .next s
    | some (k, s) => .next (s.modWeave e.1 fun v => { v with slot := some k, yielded := true, readyAt := s.clk })

/-- A new weave of fibres (02 R33, R44). -/
def State.formWeave (s : State) (pid core quad : Nat) (slot : Option Nat) (fs : SMap Fibre) : Nat × State :=
  let (w, s) := s.fresh
  let v : Weave := { pour := pid, core := core, quad := quad, slot := slot, idx := s.weaveIdx core, member := laneMask fs,
                     occ := laneMask fs, readyAt := s.clk }
  let s := { s with weaves := SMap.put s.weaves w v }
  let s := s.modFibres (fs.map (·.1)) fun f => { f with weave := some w, status := .run }
  (w, s.checkpoint w)

/-- RECAST_ISSUE (95, 02 R43, R44): the quadrant's candidate takes a slot as a new weave, where no weave that can run again
waits for one. -/
def execRecastIssue (core quad : Nat) (s : State) : Out :=
  let c := s.candidate core quad
  if !s.candidateDue c || !(s.waiting core quad).isEmpty then .next s
  else
    match c.head?, s.takeSlot core quad with
    | some e, some (k, s) => .next ((s.formWeave e.2.pour core quad (some k) c).2)
    | _, _ => .next s

end Sys2Proof.Machine
end

