-- ==== Sys2Proof/Machine/Sync.lean ====
section
/-!
DEFINITION. Machine/Sync.lean: crews, phase barriers, FORK, CKPT (11 R238 to R248), FENCE (12 R264) and HALT (13 R304).
-/

namespace Sys2Proof.Machine

/-! ## Crews -/

/-- Move fibres into a crew (02 R36): a barrier that their leaving completes completes in the same step (R37). -/
def State.moveCrew (s : State) (pid : Nat) (fs : List Nat) (crew : Nat) : State :=
  (s.modFibres fs fun f => { f with crew := crew }).tryBar pid

/-- `CJOIN` (11 R238). -/
def execCjoin (a : BitVec 8) (l : Word) (s : State) : Out :=
  let h := fibreOnly { instr := .cjoin a l, a := some (.s, a), lit := l }
  s.groupOp h
    (fun s c x =>
      if poi x.a then c.consume s
      else if 15 < x.a0.val.toNat then c.trapG s h x cOperand c.mask (h.word.zeroExtend 64)
      else (s.after c.w h.len false false).moveCrew c.pid c.ids x.a0.val.toNat)
    noEngine

/-- `CLEAVE` (11 R238). -/
def execCleave (s : State) : Out :=
  s.groupOp (fibreOnly { instr := .cleave }) (fun s c _ => (s.after c.w 1 false false).moveCrew c.pid c.ids 0) noEngine

/-! ## Phase barriers -/

/-- `PBARR` (11 R240): one arrival, a release at pour scope (04 R108, R109). -/
def execPbarr (a : BitVec 8) (s : State) : Out :=
  let h : Form := { instr := .pbarr a, a := some (.ap, a) }
  s.groupOp h
    (fun s c x =>
      if poi x.a then c.consume s
      else
        match barKey c.p (pairAddr x.a) with
        | .error cause => c.trapG s h x cause c.mask (pairAddr x.a)
        | .ok key =>
          c.syncOp s fun s =>
            let clock := s.releasedBy c.ids
            ((s.modFibres c.ids Fibre.newRegion).arriveBar key clock).after c.w h.len false false)
    fun s e x =>
      if poi x.a then consumeE s e
      else
        match barKey x.p (pairAddr x.a) with
        | .error cause => s.trapEngine e cause
        | .ok key =>
          ((s.modEngine e fun v => { v with region := v.region + 1 }).arriveBar key (x.v.released e)).afterEngine e h.len

/-- Bit 63 of a phase-barrier word (04 R107). -/
def State.phaseAt (s : State) (key : Nat) : Bool := (decodePBar (s.mem.readNat key 8)).phase

/-- `PBWAIT` (11 R241): a yield point; observing the phase is an acquire at pour scope (04 R109). -/
def execPbwait (a : BitVec 8) (p : BitVec 1) (s : State) : Out :=
  let h : Form := { instr := .pbwait a p, a := some (.ap, a) }
  s.groupOp h
    (fun s c x =>
      if poi x.a then c.consume s
      else
        match barKey c.p (pairAddr x.a) with
        | .error cause => c.trapG s h x cause c.mask (pairAddr x.a)
        | .ok key =>
          match s.syncWait c.w with
          | some (.pair, _) => s.waitPair c.w
          | some (k, keep) => s.stallWeave c.w k keep
          | none =>
            if s.phaseAt key == (p == 1#1) then
              ((s.acquire c.ids (.phaseDone key)).after c.w h.len false true).checkpoint c.w
            else s.stallWeave c.w .pbwait)
    fun s e x =>
      if poi x.a then consumeE s e
      else
        match barKey x.p (pairAddr x.a) with
        | .error cause => s.trapEngine e cause
        | .ok key =>
          if s.phaseAt key == (p == 1#1) then (s.acquireEngine e (.phaseDone key)).afterEngine e h.len
          else s.stallEngine e .pbwait

/-! ## Engine programs -/

/-- The entries of a kernel's engine sections (20 R347). -/
def Header.section (h : Header) : EngKind → Option Nat
  | .ladle => h.lent
  | .runner => h.rent

/-- The engines that a FORK considers (03 R79): those whose section the kernel has. -/
def Header.forks (h : Header) : List (EngKind × Nat) :=
  [EngKind.ladle, EngKind.runner].filterMap fun k => (h.section k).map fun pc => (k, pc)

/-- Whether a program of a pour runs on an engine. -/
def State.onEngine (s : State) (pid : Nat) (k : EngKind) : Bool := s.engines.any fun e => e.2.pour == pid && e.2.kind == k

/-- The engines that a FORK still has to start (03 R79): not those that it has settled, nor those on which a program of its pour
runs. -/
def State.toStart (s : State) (pid : Nat) (p : Pour) (done : List EngKind) : List (EngKind × Nat) :=
  p.hdr.forks.filter fun e => !done.contains e.1 && !s.onEngine pid e.1

/-- Whether an engine of a core is free (03 R79, R80). -/
def State.engineFree (s : State) (core : Nat) (k : EngKind) : Bool :=
  !s.engines.any fun e => e.2.core == core && e.2.kind == k

/-- Start an engine program (03 R79): k0 and k1 hold the frame pointer, and k2 the word of FORK, its tag dropped; the
`tagmode` of the FORK's lowest active lane is latched (06 R142). -/
def State.startEngine (s : State) (pid : Nat) (p : Pour) (k : EngKind) (pc : Nat) (arg : Word) (mode : BitVec 2)
    (clock : Clock) : State :=
  let frame := match s.task? p.task with | some t => t.frame | none => 0#64
  let (id, s) := s.fresh
  let e : Engine := { core := p.core, kind := k, pour := pid, pc := pc, tagmode := mode, uid := id, clock := clock }
  let e := e.setK 0 [{ val := frame.extractLsb' 0 32 }, { val := frame.extractLsb' 32 32 }, { val := arg }]
  { s with engines := SMap.put s.engines id e }

/-- `FORK` (03 R79, 11 R242): each engine that it considers is started once it is free; it waits until none is left. -/
def execFork (a : BitVec 8) (l : Word) (s : State) : Out :=
  let h := fibreOnly { instr := .fork a l, a := some (.s, a), lit := l }
  s.groupOp h
    (fun s c x =>
      if c.p.hdr.lent.isNone && c.p.hdr.rent.isNone then c.trapG s h x cIllegal c.mask (h.word.zeroExtend 64)
      else if poi x.a then c.consume s
      else
        match s.syncWait c.w with
        | some (.pair, _) => s.waitPair c.w
        | some (k, keep) => s.stallWeave c.w k keep
        | none =>
          let es := s.toStart c.pid c.p c.v.forked
          let go := es.filter fun e => s.engineFree c.p.core e.1
          let clock := s.releasedBy c.ids
          let t := go.foldl (fun s e => s.startEngine c.pid c.p e.1 e.2 x.a0.val x.f.tagmode clock) s
          if go.length < es.length then
            let left := es.filter fun e => !go.contains e
            let done := (c.p.hdr.forks.map (·.1)).filter fun k => !left.any fun e => e.1 == k
            ((if go.isEmpty then t else t.modFibres c.ids Fibre.newRegion).modWeave c.w fun v => { v with forked := done }).stallWeave
              c.w .fork
          else (((t.modFibres c.ids Fibre.newRegion).after c.w h.len false true).checkpoint c.w))
    noEngine

/-- `HALT` (13 R304): the Ladle first waits for the matrix path; the engine is freed and leaves any meeting. In a pair, where the
other member's engine waits at an operation, the two mismatch (22 R403). -/
def execHalt (s : State) : Out :=
  s.groupOp { instr := .halt, fibre := false } (fun s _ _ => s)
    fun s e x =>
      if x.v.kind == .ladle && (s.core x.v.core).mat.isSome then s.stallEngine e .matrix
      else
        match s.engAlone x.v with
        | some k => s.engMismatch k
        | none =>
          let s := s.releaseEngine e (.task x.p.task)
          let s := { s with engines := SMap.erase s.engines e }
          ((s.tryRdv x.v.pour).endIfDone x.v.pour)

/-! ## Fences and checkpoints -/

/-- A fence of fibres (08 R172): it follows the fences of its scope before it, and those after follow it. A fence of device
scope is one of the pour's order too (R171). DESIGN CHOICE (log 65): the active lanes of one word acquire together and then
release together, so that the word does not order them among each other. -/
def State.fenceFibres (s : State) (pid : Nat) (fs : List Nat) (dev : Bool) : State :=
  let s := s.acquireClock fs (s.fenceClock pid dev)
  let c := s.releasedBy fs
  let put (s : State) (k : SyncKey) : State := s.setSync k (joinClock (s.syncOf k) c)
  let s := put s (.fence (some pid))
  let s := if dev then put s (.fence none) else s
  s.modFibres fs Fibre.newRegion

/-- An engine's fence. -/
def State.fenceEngine (s : State) (pid e : Nat) (dev : Bool) : State :=
  let c := s.fenceClock pid dev
  let s := s.modEngine e fun v => { v with clock := joinClock v.clock c, region := v.region + 1 }
  let s := s.releaseEngine e (.fence (some pid))
  if dev then s.releaseEngine e (.fence none) else s

/-- A fence (12 R264). -/
def State.fenceOp (s : State) (i : Instr) (dev : Bool) : Out :=
  s.groupOp { instr := i } (fun s c _ => c.syncOp s fun s => (s.fenceFibres c.pid c.ids dev).after c.w 1 false false)
    fun s e x => (s.fenceEngine x.v.pour e dev).afterEngine e 1

/-- `FENCE.POUR` (12 R264). -/
def execFencePour (s : State) : Out := s.fenceOp .fencePour false

/-- `FENCE.DEV` (12 R264). -/
def execFenceDev (s : State) : Out := s.fenceOp .fenceDev true

/-- `CKPT` (11 R248): without effect outside a pair; in one it waits for the compare buffer and takes the checkpoint. -/
def execCkpt (s : State) : Out :=
  s.groupOp (fibreOnly { instr := .ckpt })
    (fun s c _ =>
      if (s.pairOf c.pid).isNone then s.after c.w 1 false false
      else if s.unmatched c.w then s.waitPair c.w
      else (s.after c.w 1 false true).checkpoint c.w)
    noEngine

end Sys2Proof.Machine
end

