-- ==== Sys2Proof/Machine/TaskOps.lean ====
section
/-!
DEFINITION. Machine/TaskOps.lean: FSPAWN (11 R230), RNEXT (R244), graph edges (R245, 03 R73 to R75), TSPAWN (11 R246) and TSIG
(R247), with their meetings in redundant pairs (22 R402), and the replay of held instructions (22 R392).
-/

namespace Sys2Proof.Machine

/-! ## Spawning fibres -/

/-- The fibre number of a spawn: the next of the task; in a pair, the number that the other member's fibre of the rank drew
(22 R402: a pair's members are one fibre twice). -/
def State.spawnNum (s : State) (pid : Nat) (p : Pour) (rank : Nat) : Option (Word × State) :=
  let draw (s : State) : Option (Word × State) :=
    match s.task? p.task with
    | none => none
    | some t =>
      if 0xFFFFFFFE < t.nfib.toNat + t.next then none
      else some (BitVec.ofNat 32 (t.nfib.toNat + t.next), s.modTask p.task fun t => { t with next := t.next + 1 })
  match s.pairOf pid with
  | none => draw s
  | some (k, pr) =>
    let lead := pr.lead == pid
    match pr.spawns.find? fun e => e.1 != lead && e.2.1 == rank with
    | some e => some (e.2.2, s.modPair k fun q => { q with spawns := q.spawns.erase e })
    | none =>
      (draw s).map fun x => (x.1, x.2.modPair k fun q => { q with spawns := q.spawns ++ [(lead, rank, x.1)] })

/-- One fibre's request (02 R32): the new fibre's number, or 0xFFFFFFFF. -/
def State.spawnOne (s : State) (pid : Nat) (p : Pour) (f : Fibre) (pc : Nat) (clock : Clock) : Word × State :=
  let live := s.fibres.filter fun e => e.2.pour == pid
  match s.bankHole p.core f.quad f.lane p.hdr, s.stackHole p.part p.core p.hdr.stack with
  | some wb, some stk =>
    if Config.pourFibres ≤ live.length then (0xFFFFFFFF#32, s)
    else
      match lowestFree (live.map fun e => e.2.rank) 1024, s.spawnNum pid p f.rank with
      | some rank, some (num, s) =>
        let (seq, s) := s.fresh
        let (id, s) := s.fresh
        let g : Fibre := { pour := pid, num := num, rank := rank, quad := f.quad, lane := f.lane, weave := none,
                           status := .ready seq s.clk, pc := pc, win := List.replicate p.hdr.regs {}, wbase := wb,
                           clock := clock, stack := stk, ckpt := if p.pair.isSome then s.ckptHole p.part p.core p.hdr else none }
        let s := { s with fibres := SMap.put s.fibres id g }
        (num, s.clearStack p stk)
      | _, _ => (0xFFFFFFFF#32, s)
  | _, _ => (0xFFFFFFFF#32, s)

/-- The requests of lanes in ascending home lane (11 R230). -/
def State.spawnAll (s : State) (pid : Nat) (p : Pour) (pc : Nat) : SMap Fibre → SMap Word × State
  | [] => ([], s)
  | e :: rest =>
    let (n, s) := s.spawnOne pid p e.2 pc (e.2.released (s.fibreKey e.1))
    let (ns, s) := State.spawnAll s pid p pc rest
    ((e.1, n) :: ns, s)

/-- `FSPAWN` (11 R230): a variable-latency result, supplied by lane; a release at pour scope. -/
def execFspawn (d a : BitVec 8) (l : Word) (s : State) : Out :=
  let h := fibreOnly { instr := .fspawn d a l, dst := some (d, 1), a := some (.s, a), lit := l }
  s.groupOp h
    (fun s c x =>
      if poi x.a then c.consume s
      else
        c.syncOp s fun s =>
          let (ns, s) := s.spawnAll c.pid c.p x.a0.val.toNat c.acts
          let s := (s.modFibres c.ids Fibre.newRegion).mirrorCheck c.p.core
          let res : SMap (List Reg) := (s.actives c.w).map fun e =>
            (e.1, [{ val := SMap.getD ns e.1 0#32, tag := suppliedTag e.2 ((oldTags e.2 h).getD 0 Config.noTag) }])
          let s := (s.addPend .load (.fibres d.toNat res) c.pid c.pc).2
          (s.pushLatch c.w d 1 res true).after c.w h.len false false)
    noEngine

/-! ## Operations that a pair performs once -/

/-- What comes of an operation on tasks, edges or ranges: a fault with the address it shows, poison consumed, a page to wait
for, a wait for the edge, or its effect with the words it returns. -/
inductive TaskRes where
  | fault (cause : Nat) (addr : BitVec 64) (f : AccFault)
  | consume
  | hold (va : Nat) (wr : Bool)
  | wait
  | done (s : State) (res : List Reg)
  deriving DecidableEq, Repr

/-- The trap of such a fault, in every active lane. -/
def Ctx.taskTrap (c : Ctx) (cause : Nat) (a : BitVec 64) (f : AccFault) (tags : SMap Word) : TrapInfo :=
  let o := match f.other.head? with | some e => e.2 | none => 0#32
  { cause := cause, mask := c.mask, pc := c.pc, addrs := c.acts.map fun e => (e.2.lane, a), tags := tags,
    other := c.acts.map fun e => (e.2.lane, o) }

/-- The other member's operation that an operation of a pair meets, once both have issued it (22 R402). -/
inductive Meet where
  | wait (s : State)
  | go (o : PairHeld)
  deriving DecidableEq, Repr

def Ctx.meet (c : Ctx) (s : State) (k : Nat) (pr : Pair) (op : MemOp) (rank : Nat) : Meet :=
  let lead := pr.lead == c.pid
  if s.unmatched c.w then .wait (s.waitPair c.w)
  else
    match pr.held.find? fun h => h.lead != lead && h.rank == rank with
    | none =>
      .wait (c.pairHold s k pr op rank)
    | some o => if sameHeld o.op op then .go o else .wait (s.mismatch k rank)

/-- Whose operation the pair performs: the leading member's (22 R402). -/
def leadOp (pr : Pair) (pid : Nat) (op : MemOp) (o : PairHeld) : MemOp := if pr.lead = pid then op else o.op

/-- An operation that a pair performs once releases and acquires for the fibres of both members, which count as one (08 R162). -/
def MemOp.forBoth (a b : MemOp) : MemOp := { a with acts := a.acts ++ b.acts }

def trailOp (pr : Pair) (pid : Nat) (op : MemOp) (o : PairHeld) : MemOp := if pr.lead = pid then o.op else op

/-- Run an operation that a pair performs once: alone it is performed at issue, and a page that is not present holds it
(12 R255); `stall` is what its wait is called. -/
def Ctx.taskOp (c : Ctx) (s : State) (op : MemOp) (len rank : Nat) (tags : SMap Word) (stall : StallKind) (sync yields : Bool)
    (perform : State → Pour → MemOp → TaskRes) : State :=
  let wait := if sync then s.syncWait c.w
    else if op.kind = .rnext then none
    else (s.logWait op).map fun k => (k, true)
  match wait with
  | some (.pair, _) => s.waitPair c.w
  | some (k, keep) => s.stallWeave c.w k keep
  | none =>
    let send (s : State) (o : MemOp) (res : List Reg) : State :=
      match res with
      | [] => s
      | ws => s.sendResult o (o.acts.map fun f => (f, ws))
    match s.pairOf c.pid with
    | none =>
      match perform s c.p op with
      | .fault cause a f => s.trapWeave c.w (c.taskTrap cause a f tags)
      | .consume => c.consume s
      | .wait => s.stallWeave c.w stall
      | .hold va _ =>
        match s.logWait op with
        | some k => s.stallWeave c.w k true
        | none => c.hold s op len va tags true yields
      | .done s res => (send s op res).passAccess c.w op len false yields
    | some (k, pr) =>
      match c.meet s k pr op rank with
      | .wait s => s
      | .go o =>
        match s.pour? pr.lead with
        | none => s
        | some lp =>
          match perform s lp ((leadOp pr c.pid op o).forBoth (trailOp pr c.pid op o)) with
          | .fault cause a f => s.trapBoth k o c.w (c.taskTrap cause a f tags)
          | .consume => s.purgePour c.pid 0
          | .wait => s.stallWeave c.w stall
          | .hold va _ =>
            match s.logWait op with
            | some y => s.stallWeave c.w y true
            | none => c.holdBoth s k o lp (leadOp pr c.pid op o) (trailOp pr c.pid op o) len va tags false yields
          | .done s res =>
            let s := s.modPair k fun p => { p with held := p.held.filter fun h => h != o }
            (send (send s op res) o.op res).passPair c.w op o.op len false yields

/-- What an engine's operation that a pair performs once finds (22 R402): no pair, the wait for the other member's engine, or
that engine, which waits at the same word with the same words. -/
inductive EngMeet where
  | alone
  | wait (s : State)
  | go (s : State) (other : Nat)
  deriving DecidableEq, Repr

/-- The meeting of an engine's operation with the other member's (22 R402). -/
def State.engMeet (s : State) (e : Nat) (x : EngIn) (data : List Word) : EngMeet :=
  match s.pairOf x.v.pour with
  | none => .alone
  | some (k, pr) =>
    let lead := pr.lead == x.v.pour
    let other := if lead then pr.trail else pr.lead
    match s.engines.find? fun y => y.2.pour == other && y.2.kind == x.v.kind,
      pr.engs.find? fun h => h.lead != lead && h.kind == x.v.kind with
    | some y, some h =>
      if h.pc = x.v.pc ∧ h.data = data ∧ h.trap = none then .go (s.modPair k fun p => { p with engs := p.engs.filter fun g => g != h }) y.1
      else .wait (s.engMismatch k)
    | _, _ =>
      let h : PairEng := { lead := lead, kind := x.v.kind, pc := x.v.pc, data := data }
      let s := if pr.engs.contains h then s
        else (s.modPair k fun p => { p with engs := h :: p.engs.filter fun g => !(g.lead == lead && g.kind == h.kind) })
      .wait (s.stallEngine e .pair)

/-! ## Range units -/

/-- The range unit of a pour's task, where the task has one (03 R77). -/
def State.rangeOf (s : State) (p : Pour) : Option (Nat × Range) :=
  match s.task? p.task with
  | none => none
  | some t =>
    match t.range with
    | none => none
    | some n =>
      let r := (s.part p.part).rangeTab.getD n n
      match SMap.get? (s.part p.part).ranges r with
      | some u => if u.task = some p.task then some (r, u) else none
      | none => none

/-- Take the next chunk (03 R78). -/
def Range.next (u : Range) : Word × Word × Range :=
  let left := u.left.toNat
  let share := (left + 2 * u.pours - 1) / (2 * u.pours)
  let len := min left (max (max u.minc.toNat 1) share)
  (u.start + (u.total - u.left), BitVec.ofNat 32 len, { u with left := u.left - BitVec.ofNat 32 len })

def State.takeChunk (s : State) (p : Pour) (_ : MemOp) : TaskRes :=
  match s.rangeOf p with
  | none => .fault cOperand 0#64 ⟨cOperand, [], [], []⟩
  | some (r, u) =>
    let (start, len, u) := u.next
    .done (s.modPart p.part fun q => { q with ranges := SMap.put q.ranges r u }) [{ val := start }, { val := len }]

/-- `RNEXT` (11 R244, 03 R78). -/
def execRnext (d : BitVec 8) (s : State) : Out :=
  let h := fibreOnly { instr := .rnext d, dst := some (d, 2) }
  s.groupOp h
    (fun s c x =>
      if (s.rangeOf c.p).isNone then c.trapG s h x cOperand c.mask (h.word.zeroExtend 64)
      else c.taskOp s (c.groupMem h .rnext true d.toNat x 0 []) h.len x.f.rank (c.groupTags h x) .result false false State.takeChunk)
    noEngine

/-! ## Graph edges -/

/-- An edge descriptor (03 R73). -/
structure Edge where
  base   : BitVec 64
  lcap   : Nat
  free   : Nat
  filled : Nat
  head   : Nat
  tail   : Nat
  resv   : Bool
  deriving DecidableEq, Repr

/-- DESIGN CHOICE (log 70): a base with a nonzero bit of 63:57, which 03 R73 calls zero and R74 item 3 does not name, counts as a
nonzero reserved field. -/
def decodeEdge (bs : List Byte) : Edge :=
  let n := leNat bs
  { base := BitVec.ofNat 64 n, lcap := bits n 64 5, free := bits n 96 32, filled := bits n 128 32, head := bits n 160 32,
    tail := bits n 192 32
    resv := decide (bits n 69 27 ≠ 0) || decide (bits n 224 288 ≠ 0) || decide (bits n 64 5 < 4) || decide (24 < bits n 64 5)
      || decide (bits n 0 4 ≠ 0) || decide (2 ^ 57 ≤ bits n 0 64) }

/-- Reaching a descriptor (03 R74 items 1 to 3): its place and its fields, a cause, or a page to wait for. -/
inductive EdgeAt where
  | ok (key : Nat) (e : Edge)
  | fault (cause : Nat)
  | hold (va : Nat)
  deriving DecidableEq, Repr

def State.edgeAt (s : State) (part : Nat) (a : BitVec 64) : EdgeAt :=
  if a.toNat % 64 ≠ 0 then .fault cMisalign
  else
    match aperture a with
    | .global va =>
      match s.globalLoc part va true with
      | .notPresent v => .hold v
      | .mem pl =>
        if sortOfKey pl.key ≠ .dram then .fault cAccess
        else
          let e := decodeEdge (s.mem.readBytes pl.key 64)
          if e.resv then .fault cReserved else .ok pl.key e
      | _ => .fault cAccess
    | _ => .fault cAccess

/-- An edge's entry slot (03 R74 item 4). -/
def State.edgeSlot (s : State) (part : Nat) (e : Edge) (i : Nat) (push : Bool) : Loc :=
  match aperture (e.base + BitVec.ofNat 64 (16 * (i % 2 ^ e.lcap))) with
  | .global va => s.globalLoc part va push
  | _ => .fatal

/-- The address of an entry slot. -/
def Edge.slot (e : Edge) (i : Nat) : BitVec 64 := e.base + BitVec.ofNat 64 (16 * (i % 2 ^ e.lcap))

/-- Write a descriptor's counts. -/
def State.putEdge (s : State) (key : Nat) (e : Edge) : State :=
  let n := e.free % 2 ^ 32 + e.filled % 2 ^ 32 * 2 ^ 32 + e.head % 2 ^ 32 * 2 ^ 64 + e.tail % 2 ^ 32 * 2 ^ 96
  { s with mem := s.mem.store (key + 12) (leBytes 16 n) }

/-- A push (03 R74, R75): a release at device scope over the stores of the weave's active fibres. DESIGN CHOICE (log 101): of the faults
of R74 items 1 to 3 are looked for before the wait for room, at each try, and item 4 once it no longer waits. -/
def State.edgePush (s : State) (p : Pour) (op : MemOp) : TaskRes :=
  match op.lanes.head? with
  | none => .wait
  | some l =>
    match s.edgeAt p.part l.addr with
    | .hold va => .hold va true
    | .fault c => .fault c l.addr ⟨c, [], [], []⟩
    | .ok key e =>
      if e.free = 0 then .wait
      else
        match s.edgeSlot p.part e e.tail true with
        | .notPresent va => .hold va true
        | .mem pl =>
          let s := (s.cacheAll p [l.addr, e.slot e.tail]).touch key 64
          let s := { s with mem := storeAt s.mem pl 16 l.data }
          let s := s.sign p.part op.pour l.addr 16 (wordsBytes l.data)
          let s := s.putEdge key { e with free := e.free - 1, tail := (e.tail + 1) % 2 ^ 32, filled := e.filled + 1 }
          .done (s.releaseOp op (.edge key e.tail)) []
        | _ => .fault cAccess (e.slot e.tail) ⟨cAccess, [], [], []⟩

/-- A pop's effect on the edge (03 R74): the entry with its tags, and the push it takes. It waits for an entry, and for an open
refresh window (04 R94). Its faults stand to its wait as those of a push do (log 101). -/
def State.edgeTake (s : State) (p : Pour) (a : BitVec 64) : TaskRes :=
  match s.edgeAt p.part a with
  | .hold va => .hold va true
  | .fault c => .fault c a ⟨c, [], [], []⟩
  | .ok key e =>
    if e.filled = 0 then .wait
    else
      match s.edgeSlot p.part e e.head false with
      | .notPresent va => .hold va false
      | .mem pl =>
        if s.locRefresh (.mem pl) then .wait
        else
          let s := ((s.cacheAll p [a, e.slot e.head]).touch key 64).touchLoc (.mem pl) 16
          let ws := loadWords s.mem pl pl.key 4
          .done (s.putEdge key { e with filled := e.filled - 1, head := (e.head + 1) % 2 ^ 32, free := e.free + 1 }) ws
      | _ => .fault cAccess (e.slot e.head) ⟨cAccess, [], [], []⟩

/-- What a pop acquires (03 R75): what the push of its entry released. -/
def State.edgeKey (s : State) (part : Nat) (a : BitVec 64) : SyncKey :=
  match s.edgeAt part a with
  | .ok key e => .edge key e.head
  | _ => .edge 0 0

/-- A pop of a weave: an acquire at device scope. -/
def State.edgePop (s : State) (p : Pour) (op : MemOp) : TaskRes :=
  match op.lanes.head? with
  | none => .wait
  | some l =>
    match s.edgeTake p l.addr with
    | .done s2 ws => .done ((s2.acquireOp op (s.edgeKey p.part l.addr)).setSync (s.edgeKey p.part l.addr) []) ws
    | r => r

/-- `EPUSH` (11 R245): a poisoned word of the entry is consumed. -/
def execEpush (a b : BitVec 8) (s : State) : Out :=
  let h := fibreOnly { instr := .epush a b, a := some (.ap, a), b := some (.xs, b), bReg := true }
  s.groupOp h
    (fun s c x =>
      if poi (x.a ++ x.b) then c.consume s
      else c.taskOp s (c.groupMem h .epush true 240 x 0 x.b) h.len x.f.rank (c.groupTags h x) .epush true true State.edgePush)
    noEngine

/-- `EPOP` (11 R245). -/
def execEpop (d a : BitVec 8) (s : State) : Out :=
  let h := fibreOnly { instr := .epop d a, dst := some (d, 4), a := some (.ap, a) }
  s.groupOp h
    (fun s c x =>
      if poi x.a then c.consume s
      else c.taskOp s (c.groupMem h .epop true d.toNat x 0 []) h.len x.f.rank (c.groupTags h x) .epop true true State.edgePop)
    noEngine

/-! ## Records -/

/-- Enter the record of a 64-byte image (03 R60): the spawner's request tag, and a priority that it cannot raise. -/
def State.spawnRecord (s : State) (p : Pour) (bs : List Byte) : Option (Word × State) :=
  match parseRecord p.part (leNat bs), s.task? p.task with
  | some t, some me =>
    let pr := max t.prio me.prio
    let (h, s) := s.enter { t with rtag := me.rtag, prio := pr, queue := pr }
    some (h.getD 0xFFFFFFFF#32, s)
  | _, _ => none

/-- The bytes at a place, as a kernel reads them. -/
def State.placeBytes (s : State) (l : Loc) (n : Nat) : List Byte × Bool :=
  match l with
  | .mem pl => (s.mem.readBytes pl.key n, s.mem.anyPoison pl.key n)
  | .peer d w o t => peerBytes d w o n t s.free
  | _ => ([], false)

/-- `TSPAWN`'s read of its image as a checked load (11 R246), which waits for an open refresh window (04 R94), and the entry of
the record. -/
def State.taskSpawn (s : State) (p : Pour) (op : MemOp) : TaskRes :=
  match op.lanes.head? with
  | none => .wait
  | some l =>
    let glob := match aperture l.addr with | .scratch _ | .stack _ => false | _ => true
    if !glob then
      let c := if l.addr.toNat % 64 ≠ 0 then cMisalign else cAccess
      .fault c l.addr ⟨c, [], [], []⟩
    else
      match s.perform p op with
      | .fault f => .fault f.cause l.addr f
      | .consume => .consume
      | .hold va => .hold va false
      | .done s2 _ =>
        let loc := match s2.laneLocs p op false with | e :: _ => e.2 | [] => .fatal
        let (bs, po) := s2.placeBytes loc 64
        if s.locRefresh loc then .wait
        else if po then .consume
        else
          match ({ s2 with free := s2.free + 1 } : State).spawnRecord p bs with
          | none => .fault cReserved l.addr ⟨cReserved, [], [], []⟩
          | some (h, s) =>
            let s := s.recordAcc p op (checkedLanes op (s2.laneLocs p op false) false)
            .done (match s.pairOf op.pour with | some (_, pr) => s.twinLines pr.trail op | none => s) [{ val := h }]

/-- `TSPAWN` (11 R246). -/
def execTspawn (d a : BitVec 8) (s : State) : Out :=
  let h : Form := { instr := .tspawn d a, dst := some (d, 1), a := some (.ap, a) }
  s.groupOp h
    (fun s c x =>
      if poi x.a then c.consume s
      else
        c.taskOp s (c.groupMem h .tspawn false d.toNat x 0 []) h.len x.f.rank (c.groupTags h x) .order false false State.taskSpawn)
    fun s e x =>
      if poi x.a then consumeE s e
      else
        let a := pairAddr x.a
        let l := s.locate x.p none a 64 false
        let glob : Bool := match aperture a with | .scratch _ | .stack _ => false | _ => true
        match engFault s x.p a 64 false l with
        | some c => s.trapEngine e (if c == cMisalign || glob then c else cAccess)
        | none =>
          if !glob then s.trapEngine e cAccess
          else
            match l with
            | .notPresent va =>
              let (fid, s) := s.reportFault x.p.part va .engine false x.p.core (s.rtagOf x.p)
              s.stallEngine e .order (some fid)
            | _ =>
              if s.locRefresh l then s.stallEngine e .order
              else
                let s := s.touchLoc l 64 false
                let (bs, po) := s.placeBytes l 64
                if po then consumeE s e
                else
                  let go (s : State) (o : Option Nat) : State :=
                    match ({ s.cacheAll x.p [a] with free := s.free + 1 } : State).spawnRecord x.p bs with
                    | none => s.trapEngine e cReserved
                    | some (hd, s) =>
                      let give (s : State) (n : Nat) : State :=
                        match s.engine? n with
                        | some v => ((s.addPend .load (.engine n d.toNat [{ val := hd }]) v.pour v.pc).2).afterEngine n h.len
                        | none => s
                      match o with
                      | some n => (give (give s e) n)
                      | none => give s e
                  match s.engMeet e x (x.a.map (·.val)) with
                  | .alone => go s none
                  | .wait s => s
                  | .go s o => go s (some o)

/-- A weave's signal (03 R61, R64): a release at device scope. -/
def State.taskSignal (s : State) (p : Pour) (op : MemOp) : TaskRes :=
  match op.lanes.head? with
  | none => .wait
  | some l =>
    let clock := s.releasedBy op.acts
    let s := s.modFibres op.acts Fibre.newRegion
    let hd := (l.data.getD 0 {}).val
    let s := s.sign p.part op.pour (hd.zeroExtend 64) 8 (bytesOfWord (l.data.getD 1 {}).val ++ bytesOfWord hd)
    .done (s.signal p.part (l.data.getD 0 {}).val (l.data.getD 1 {}).val clock) []

/-- `TSIG` (11 R247, 03 R61). -/
def execTsig (a b : BitVec 8) (l : Word) (s : State) : Out :=
  let h : Form := { instr := .tsig a b l, a := some (.s, a), b := some (.s, b), lit := l }
  s.groupOp h
    (fun s c x =>
      if poi (x.a ++ x.b) then c.consume s
      else
        let op := c.groupMem h .tsig true 240 { x with a := [] } 0 [x.a0, x.b0]
        c.taskOp s op h.len x.f.rank (c.groupTags h x) .result true false State.taskSignal)
    fun s e x =>
      if poi (x.a ++ x.b) then consumeE s e
      else
        let pass (s : State) (n : Nat) : State := (s.modEngine n fun v => { v with region := v.region + 1 }).afterEngine n h.len
        match s.engMeet e x [x.a0.val, x.b0.val] with
        | .alone => pass (s.signal x.p.part x.a0.val x.b0.val (x.v.released e)) e
        | .wait s => s
        | .go s o =>
          let both := match s.engine? o with | some v => joinClock (x.v.released e) (v.released o) | none => x.v.released e
          (pass (pass (s.signal x.p.part x.a0.val x.b0.val both) e) o)

/-! ## Held instructions -/

/-- A held SHLD is performed again: poison in its data is consumed (12 R277). -/
def State.replayShld (s : State) (p : Pour) (h : Held) (n : Nat) : State :=
  match s.perform p h.op with
  | .fault f => s.trapHeld h (s.accInfo h.op f h.tags h.group)
  | .consume => (s.dropHeld h).purgePour h.op.pour 0
  | .hold va => s.reHold p h va
  | .done s2 _ =>
    let (bs, po) := (s2.viewOf p h.op).shapeBytes ((s2.laneLocs p h.op false).map (·.2))
    if s.refreshWait p h.op then s.keepHeld h
    else if po then (s.dropHeld h).purgePour h.op.pour 0
    else
      let s := { s2.modPour h.op.pour fun q => q.setShape s2.clk n (shapeOfBytes bs) with free := s2.free + 1 }
      s.dropHeld h

/-- A held operation on an edge or a record is performed again, once for both members of a pair; one that finds its edge full or
empty waits in the log. -/
def State.replayTask (s : State) (p : Pour) (h : Held) (perform : State → Pour → MemOp → TaskRes) : State :=
  match perform s p (match h.mate with | some m => h.op.forBoth m.1 | none => h.op) with
  | .fault cause a f =>
    let lanes := h.fibres.filterMap fun g => (s.fibre? g).map fun v => v.lane
    let o := match f.other.head? with | some e => e.2 | none => 0#32
    s.trapHeld h { cause := cause, mask := maskOf lanes, pc := h.op.pc, addrs := lanes.map fun l => (l, a)
                   tags := h.tags, other := lanes.map fun l => (l, o) }
  | .consume => (s.dropHeld h).purgePour h.op.pour 0
  | .hold va _ => s.reHold p h va
  | .wait => s.keepHeld h
  | .done s2 res =>
    let s3 := s2.finishHeld h (h.op.acts.map fun f => (f, res))
    match h.mate with
    | none => s3
    | some (b, pb) =>
      ((s3.fillPend pb (s3.resultLanes b (b.acts.map fun f => (f, res)))).checkpoint h.op.weave).checkpoint b.weave

/-- Perform a held instruction again (22 R392). -/
def State.replayAny (s : State) (h : Held) : State :=
  match s.pour? h.op.pour with
  | none => s.dropHeld h
  | some p =>
    match h.op.kind with
    | .shld n => s.replayShld p h n
    | .epush => s.replayTask p h State.edgePush
    | .epop => s.replayTask p h State.edgePop
    | .tspawn => s.replayTask p h State.taskSpawn
    | _ => s.replay h

/-- The place of a core's party in the order of a core cycle: its matrix path, its Ladle, its Runner's commands, its Runner, its
quadrants (03 R61, R74; 04 R108; 08 R165). -/
def corePlace (core k : Nat) : Nat := core * 8 + k

/-- The place of a quadrant's issue slot in that order; a fibre that no weave's slot holds comes after the quadrant's slots. -/
def slotPlace (core quad : Nat) (slot : Option Nat) : Nat := 16 * corePlace core (4 + quad) + slot.getD 15

/-- The place of a held operation in the order of a core cycle (03 R74, 08 R165): core, quadrant and issue slot of the weave that
holds the first of its fibres. -/
def State.heldPos (s : State) (h : Held) : Nat :=
  match h.fibres.findSome? s.fibre? with
  | some f =>
    match s.pour? f.pour with
    | some p => slotPlace p.core f.quad ((f.weave.bind s.weave?).bind Weave.slot)
    | none => slotPlace 0 0 none
  | none => slotPlace 0 0 none

/-- Whether a weave that has not yielded since may go on, in a context that runs or is being taken (22 R395) and a pour that
runs or comes to a stop (23 R409). -/
def State.letsGo (s : State) (p : Pour) (yielded : Bool) : Bool :=
  (match (s.part p.part).ctx with | .running => true | .saving => !yielded | _ => false)
    && (match p.dbg with | .free | .stepping _ _ => true | .stopping _ => !yielded | .stopped _ => false)

/-- Whether a held operation may be tried again: its context runs, and a debugger lets its pour run (23 R409); or a weave that waits for
it has still to reach its next yield point, at which it stops or is taken (22 R395). -/
def State.heldRuns (s : State) (h : Held) : Bool :=
  match s.pour? h.op.pour with
  | some p =>
    (p.dbg.runs && (s.part p.part).ctx == CtxState.running)
      || s.weaves.any fun e => s.letsGo p e.2.yielded && !e.2.yielded && (s.heldFor e.1).any fun g => g.id == h.id
  | none => true

/-- The held operations that can be tried (22 R392, 03 R74, 04 R94) and whose place lies in a part of the order of the core cycle
are performed again, in that order, those of one place in program order. -/
def State.retryHeld (s : State) (now : Nat → Bool) : State :=
  ((s.held.filter fun h => h.fault == 0 && s.heldRuns h && now (s.heldPos h)).mergeSort fun a b =>
    decide (s.heldPos a ≤ s.heldPos b)).foldl
    (fun s h => if s.held.any fun g => g.id == h.id then s.replayAny h else s) s

end Sys2Proof.Machine
end

