-- ==== Sys2Proof/Machine/Matrix.lean ====
section
/-!
DEFINITION. Machine/Matrix.lean: the matrix path (13 R279 to R295): MLDW, MMUL, MDRAIN, MZERO, their completions, the
accumulator images of MSPILL and MFILL, owner traps, and the norm watch (05 R127 to R129).
-/

namespace Sys2Proof.Machine

/-! ## Tiles -/

/-- An accumulator element (13 R279). -/
def AccTile.at (t : AccTile) (row col : Nat) : Reg := SMap.getD t.cells (128 * row + col) t.dflt

/-- Write an accumulator element. -/
def AccTile.put (t : AccTile) (row col : Nat) (r : Reg) : AccTile :=
  { t with cells := SMap.putD t.dflt t.cells (128 * row + col) r }

/-- A tile of a core. -/
def CoreSt.tile (c : CoreSt) (n : Nat) : AccTile := SMap.getD c.tiles n {}

def State.modTile (s : State) (core n : Nat) (g : AccTile → AccTile) : State :=
  s.modCore core fun c => { c with tiles := SMap.putD {} c.tiles n (g (c.tile n)) }

/-- The context of a partition, as tiles are owned (13 R279). -/
def State.owner (s : State) (part : Nat) : Nat × Nat := (part, (s.part part).ctxNum)

/-- The tile that a context finds where it owns none: +0 with the tag 0xFFF0 (13 R295). -/
def freshTile (o : Nat × Nat) : AccTile := { owner := some o }

/-- A tile's elements, row by row. -/
def AccTile.elems (t : AccTile) : List Reg := (List.range 16384).map fun i => SMap.getD t.cells i t.dflt

/-- The image of a tile (13 R294). -/
def AccTile.image (t : AccTile) : List Byte :=
  let es := t.elems
  let o := t.owner.getD (0, 0)
  (es.flatMap fun r => bytesOfWord r.val) ++ (es.flatMap fun r => leBytes 2 r.tag.toNat)
    ++ leBytes 64 (if t.sticky then 1 else 0) ++ [BitVec.ofNat 8 o.1, BitVec.ofNat 8 o.2] ++ List.replicate 6 0#8
    ++ ((List.range 2048).map fun k =>
      BitVec.ofNat 8 (((List.range 8).map fun j => if (es.getD (8 * k + j) {}).poison then 2 ^ j else 0).foldl (· + ·) 0))
    ++ List.replicate 56 0#8

/-- The tile of an image: the owner bytes are ignored (13 R294). -/
def State.imageTile (s : State) (key : Nat) (o : Nat × Nat) : AccTile :=
  let el (i : Nat) : Reg :=
    { val := BitVec.ofNat 32 (s.mem.readNat (key + 4 * i) 4)
      tag := BitVec.ofNat 16 (s.mem.readNat (key + 65536 + 2 * i) 2)
      poison := (s.mem.read1 (key + 98376 + i / 8)).getLsbD (i % 8) }
  { dflt := {}, cells := (List.range 16384).filterMap fun i => if el i = {} then none else some (i, el i)
    sticky := (s.mem.read1 (key + 98304)).getLsbD 0, owner := some o }

/-- The address of an accumulator slot of a save area (22 R397). DESIGN CHOICE (log 73): R396 gives their number and not their
place: the slots of a context's 12 cores stand after the header, eight a core. -/
def spillAt (save slot tile : Nat) : Nat := save + 4096 + 100480 * (8 * slot + tile)

/-- Where a context of a partition keeps its save area, and its table key: the current one, or a suspended one. -/
def State.saveOf (s : State) (part ctxNum : Nat) : Option (Nat × BitVec 6) :=
  let q := s.part part
  if ctxNum = q.ctxNum then some (q.desc.save.toNat, q.desc.tkey)
  else (q.saved.find? fun e => e.2.ctxNum == ctxNum).map fun e => (e.1, e.2.tkey)

/-- Spill a tile to an accumulator slot of its owner's save area, and count the slots in its header (13 R295, 22 R396, R397). -/
def State.spillTile (s : State) (core n : Nat) (t : AccTile) : State :=
  match t.owner with
  | none => s
  | some (p, c) =>
    match s.saveOf p c with
    | none => s
    | some (save, key) =>
      let e : Spill := { ctxNum := c, save := save, slot := (s.part p).coreSlot core, tile := n }
      let s := s.modPart p fun q => { q with spilled := e :: q.spilled.filter (· != e) }
      let count := ((s.part p).spilled.filter fun x => x.ctxNum == c).length
      (s.writeUnder p key (save + 8) (leBytes 8 count)).writeUnder p key (spillAt save e.slot n) t.image

/-- Fill a tile from the accumulator slot of its new owner, if there is one, or with zeros (13 R295). -/
def State.fillTile (s : State) (core n : Nat) (o : Nat × Nat) : State :=
  let q := s.part o.1
  match q.spilled.find? fun e => e.ctxNum == o.2 && e.slot == q.coreSlot core && e.tile == n with
  | none => s.modTile core n fun _ => freshTile o
  | some e =>
    let pa := spillAt e.save e.slot n
    let s := s.touch (dramKey pa) 100480
    let t := if ownDram o.1 pa 100480 then s.imageTile (dramKey pa) o else freshTile o
    (s.modTile core n fun _ => t).modPart o.1 fun q => { q with spilled := q.spilled.filter (· != e) }

/-- An owner trap (13 R295), unseen by the kernel: firmware spills another context's tile to its owner's save area and fills
it from the current context's, or with zeros. -/
def State.ownTile (s : State) (part core n : Nat) : State :=
  let t := (s.core core).tile n
  let o := s.owner part
  if t.owner = some o then s else (s.spillTile core n t).fillTile core n o

/-- Whether the place of an error exists (log 3). -/
def EccAt.there : EccAt → Bool
  | .mem key _ | .l2 key => decide (key < 2 ^ 64)
  | .l1 core key => decide (core < Config.cores) && decide (key < 2 ^ 64)
  | .acc core tile el => decide (core < Config.cores) && decide (tile < 8) && decide (el < 16384)

/-- An error of the memories' code comes about (22 R398, 24 R425). DESIGN CHOICE (log 87): one in a granule that L2 or a core's L1 holds, or
in an accumulator, is found at once; one that cannot be corrected leaves the granule, or both its elements, poisoned. -/
def State.eccError (s : State) (e : EccAt) (hard : Bool) : State :=
  let spoil (s : State) (key : Nat) : State := if hard then { s with mem := s.mem.setPoison key true } else s
  let count (s : State) (core : Nat) : State :=
    s.modCore core fun c => if hard then { c with uncorr := satAdd c.uncorr 1 } else { c with corrected := satAdd c.corrected 1 }
  match e with
  | .mem key f => { s with mem := s.mem.setFlips key (SMap.getD s.mem.flips (granOf key) 0#64 ^^^ f) }
  | .l2 key => spoil (s.rasAdd (if hard then 5 else 4) 1) key
  | .l1 core key => spoil (count s core) key
  | .acc core tile el =>
    let s := count s core
    if !hard then s
    else
      s.modTile core tile fun t =>
        [el / 2 * 2, el / 2 * 2 + 1].foldl (fun t i => t.put (i / 128) (i % 128) { t.at (i / 128) (i % 128) with poison := true }) t

/-- Owner traps for the tiles that an instruction names. -/
def State.ownTiles (s : State) (part core first count : Nat) : State :=
  (List.range count).foldl (fun s i => s.ownTile part core (first + i)) s

/-! ## Issue -/

/-- A form that the Ladle alone may execute (09 R199): elsewhere it is engine-only. -/
def ladleOnly (h : Form) : Form := { h with runner := false, only := true }

/-- Whether a format may carry block scales (05 R116). -/
def scaled (c : Nat) : Bool := c == fE4M3 || c == fE5M2 || c == fFP4 || c == fLG6

/-- The fields of a scale descriptor (13 R282). -/
structure ScaleDesc where
  fmt  : Nat
  sv   : Bool
  soff : Nat
  resv : Bool
  deriving DecidableEq, Repr

def decodeDesc (w : Word) : ScaleDesc :=
  let n := w.toNat
  { fmt := bits n 0 8, sv := bits n 8 1 = 1, soff := bits n 9 18 * 64
    resv := decide (bits n 27 5 ≠ 0) || (decide (bits n 8 1 = 0) && decide (bits n 9 18 ≠ 0)) }

/-- The issue faults of MLDW, in order (13 R283). -/
def mldwFault (p : Pour) (a : BitVec 64) (d : ScaleDesc) : Option Nat :=
  match aperture a with
  | .scratch o =>
    let n := tileCols d.fmt
    if a.toNat % 64 ≠ 0 then some cMisalign
    else if d.resv || decide (n = 0) || (d.sv && !scaled d.fmt) then some cReserved
    else if p.hdr.scratch < o + 16 * fmtBits d.fmt * n || (d.sv && decide (p.hdr.scratch < d.soff + 4 * n)) then some cScratch
    else none
  | _ => some cAccess

/-- Send a matrix instruction to the path (13 R280). -/
def State.sendMat (s : State) (core e len : Nat) (m : MatOp) : State :=
  (s.modCore core fun c => { c with mat := some m }).afterEngine e len

/-- `MLDW` (13 R283). -/
def execMldw (a b : BitVec 8) (l : Word) (s : State) : Out :=
  let h := ladleOnly { instr := .mldw a b l, a := some (.ap, a), b := some (.s, b), lit := l }
  s.groupOp h (fun s _ _ => s) fun s e x =>
    if (s.core x.v.core).mat.isSome then s.stallEngine e .matrix
    else if poi (x.a ++ x.b) then consumeE s e
    else
      match mldwFault x.p (pairAddr x.a) (decodeDesc x.b0.val) with
      | some c => s.trapEngine e c
      | none =>
        s.sendMat x.v.core e h.len
          { kind := .mldw, pour := x.v.pour, eng := e, tile := 0, regs := x.a.map (·.val), desc := x.b0.val, here := x.here,
            mode := x.v.tagmode, pc := x.v.pc }

/-- The command quad of MMUL (13 R284). -/
structure MmulCmd where
  addr : BitVec 64
  rows : Nat
  src  : Bool
  sh   : Nat
  sfmt : Nat
  bar  : Nat
  resv : Bool
  deriving DecidableEq, Repr

def decodeMmul (rs : List Word) : MmulCmd :=
  let c := (rs.getD 2 0#32).toNat
  let b := (rs.getD 3 0#32).toNat
  { addr := rs.getD 1 0#32 ++ rs.getD 0 0#32, rows := bits c 0 7 + 1, src := bits c 7 1 = 1, sh := bits c 8 4,
    sfmt := bits c 12 8, bar := bits b 0 24, resv := decide (bits c 20 12 ≠ 0) || decide (bits b 24 8 ≠ 0) }

/-- Whether the stream format goes with the latched one (13 R284). -/
def fmtsMatch (sfmt wfmt : Nat) : Bool := sfmt == wfmt || (sfmt == fINT8 && wfmt == fINT4)

/-- The issue faults of MMUL, in order (13 R284). -/
def mmulFault (p : Pour) (w : Option WTile) (tile : Nat) (m : MmulCmd) (d : ScaleDesc) : Option Nat :=
  let h := decodeShape (p.shape m.sh)
  let windows := h.win.getD 0 0 == 128 && h.win.getD 1 0 == m.rows && (h.win.drop 2).all (· == 1)
  match w with
  | none => some cOperand
  | some w =>
    if m.resv || d.resv || decide (d.fmt ≠ 0) || !fmtsMatch m.sfmt w.fmt || (d.sv && !scaled m.sfmt)
        || decide (8 < tile + w.n / 128) || (m.src && (h.fmt != m.sfmt || !windows)) then some cOperand
    else if m.bar % 8 ≠ 0 then some cMisalign
    else if p.hdr.scratch < m.bar + 8 || (d.sv && decide (p.hdr.scratch < d.soff + 4 * m.rows)) then some cScratch
    else if m.src && h.bad then some cReserved
    else none

/-- The key of a barrier word given by its scratchpad offset. -/
def offKey (p : Pour) (o : Nat) : Nat := scratchKey p.core (p.scratch + o)

/-- `MMUL` and `MMUL.RESUME` (13 R284, R287): a resumed MMUL tags what it writes as if the `MMUL` whose error completion left the
barrier word had not faulted (06 R142; log 74). -/
def State.mmulIssue (s : State) (i : Instr) (d : BitVec 3) (a b : BitVec 8) (l : Word) (resume : Bool) : Out :=
  let h := ladleOnly { instr := i, a := some (.xs, a), b := some (.s, b), lit := l }
  s.groupOp h (fun s _ _ => s) fun s e x =>
    if (s.core x.v.core).mat.isSome then s.stallEngine e .matrix
    else if poi (x.a ++ x.b) then consumeE s e
    else
      let m := decodeMmul (x.a.map (·.val))
      match mmulFault x.p x.v.wtile d.toNat m (decodeDesc x.b0.val) with
      | some c => s.trapEngine e c
      | none =>
        let key := offKey x.p m.bar
        let s := if resume then s.touch key 8 else s
        let bar := decodePBar (s.mem.readNat key 8)
        if resume && (!bar.err || decide (3 < bar.pend)) then s.trapEngine e cOperand
        else
          let s := if resume then s.modBar key fun b => ({ b with pend := 0 } : PBar).settle else s
          let n := match x.v.wtile with | some w => w.n / 128 | none => 0
          (s.ownTiles x.p.part x.v.core d.toNat n).sendMat x.v.core e h.len
            { kind := .mmul, pour := x.v.pour, eng := e, tile := d.toNat, regs := x.a.map (·.val), desc := x.b0.val,
              here := if resume then SMap.getD x.v.failed m.bar x.here else x.here, mode := x.v.tagmode, pc := x.v.pc
              chunk := if resume then bar.pend else 0 }

/-- `MMUL` (13 R284). -/
def execMmul (d : BitVec 3) (a b : BitVec 8) (l : Word) (s : State) : Out := s.mmulIssue (.mmul d a b l) d a b l false

/-- `MMUL.RESUME` (13 R287). -/
def execMmulResume (d : BitVec 3) (a b : BitVec 8) (l : Word) (s : State) : Out :=
  s.mmulIssue (.mmulResume d a b l) d a b l true

/-- `MZERO` (13 R293). -/
def execMzero (d l : BitVec 3) (s : State) : Out :=
  let h := ladleOnly { instr := .mzero d l }
  s.groupOp h (fun s _ _ => s) fun s e x =>
    if (s.core x.v.core).mat.isSome then s.stallEngine e .matrix
    else if l.toNat < d.toNat then s.trapEngine e cOperand
    else
      let n := l.toNat - d.toNat + 1
      let zero (r : Reg) : Reg := { tag := if x.v.tagmode = 0#2 then r.tag else x.here }
      let clear (t : AccTile) : AccTile :=
        let z := zero t.dflt
        { t with dflt := z, cells := t.cells.foldr (fun c m => SMap.putD z m c.1 (zero c.2)) [], sticky := false }
      let s := s.ownTiles x.p.part x.v.core d.toNat n
      ((List.range n).foldl (fun s i => s.modTile x.v.core (d.toNat + i) clear) s).afterEngine e 1

/-! ## MLDW's completion -/

/-- The weight tile at a scratchpad offset of a pour (13 R283): nonzero bytes, row tags, poisoned words, scales. DESIGN CHOICE (log
75): the tag of a row is that of its first word, where its words carry different tags. -/
def State.readTile (s : State) (p : Pour) (o : Nat) (d : ScaleDesc) : WTile :=
  let f := fmtBits d.fmt
  let n := tileCols d.fmt
  let row := f * n / 8
  let k := scratchKey p.core (p.scratch + o)
  let byte (i : Nat) : Option (Nat × Byte) :=
    let b := s.mem.read1 (k + i)
    if b = 0#8 then none else some (i, b)
  let pw (i : Nat) : Option (Nat × Bool) := if s.mem.isPoison (k + 4 * i) then some (i, true) else none
  let sk := scratchKey p.core (p.scratch + d.soff)
  { fmt := d.fmt, n := n, bytes := (List.range (128 * row)).filterMap byte,
    tags := (List.range 128).map fun r => s.mem.tag (k + r * row), poison := (List.range (32 * row)).filterMap pw, sv := d.sv
    scales := if d.sv then (List.range (4 * n)).filterMap fun i =>
        let b := s.mem.read1 (sk + i)
        if b = 127#8 then none else some (i, b)
      else [] }

/-- The matrix instruction in flight on a core, of a kind, that waits for no page. -/
def State.matReady (s : State) (core : Nat) (k : MatKind) : Option (MatOp × Pour) :=
  match (s.core core).mat with
  | none => none
  | some m =>
    match s.pour? m.pour with
    | none => none
    | some p => if m.kind = k ∧ !s.unanswered p.part m.wait then some (m, p) else none

/-- The path is free again. -/
def State.matDone (s : State) (core : Nat) : State := (s.modCore core fun c => { c with mat := none })

/-- MLDW_COMPLETION (95, 13 R283): the tile is in the array. -/
def execMldwCompletion (core : Nat) (s : State) : Out :=
  match s.matReady core .mldw with
  | none => .next s
  | some (m, p) =>
    match aperture (m.regs.getD 1 0#32 ++ m.regs.getD 0 0#32) with
    | .scratch o =>
      let d := decodeDesc m.desc
      let s := s.touch (scratchKey p.core (p.scratch + o)) (16 * fmtBits d.fmt * tileCols d.fmt)
      let s := if d.sv then s.touch (scratchKey p.core (p.scratch + d.soff)) (4 * tileCols d.fmt) else s
      let w := s.readTile p o d
      .next ((s.modEngine m.eng fun v => { v with wtile := some w }).matDone core)
    | _ => .next s

/-! ## MMUL's performance -/

/-- A factor of a product: its code, its scale, its tag, its poison. -/
structure Factor where
  code   : Nat
  scale  : Nat := 127
  tag    : Tag := Config.noTag
  poison : Bool := false
  deriving DecidableEq, Repr

/-- A weight element of the array (04 R89, R90; 13 R283). -/
def WTile.at (w : WTile) (k n : Nat) : Factor :=
  let f := fmtBits w.fmt
  let off (j : Nat) : Nat := k * (f * w.n / 8) + j * (w.n / 8) + n / 8
  let bit (j : Nat) : Nat := if (SMap.getD w.bytes (off j) 0#8).getLsbD (n % 8) then 2 ^ j else 0
  { code := ((List.range f).map bit).foldl (· + ·) 0
    scale := (SMap.getD w.scales (k / 32 * w.n + n) 127#8).toNat
    tag := w.tags.getD k Config.noTag
    poison := (List.range f).any fun j => SMap.getD w.poison (off j / 4) false }

/-- The fault code of a fetched element's place (13 R286), none where it can be read. -/
def fetchCode : Loc → Option Nat
  | .fatal => some 2
  | .noncanon | .stackOut | .violation => some 3
  | .scratchOut => some 5
  | _ => none

/-- Why a fetch of activations stops: at a page that is not present, in a refresh window (04 R94), or with an error. -/
inductive FetchStop where
  | page (va : Nat)
  | refresh
  | error (code : Nat)
  deriving DecidableEq, Repr

/-- The place of activation (m, k) of an MMUL at an address (13 R284). -/
def rowPlace (a : BitVec 64) (fmt m k : Nat) : ElAt :=
  if fmtBits fmt = 4 then .nibble (a + BitVec.ofNat 64 (m * 64 + k / 2)) (k % 2 = 1)
  else
    let b := slotBits fmt / 8
    .bytes (a + BitVec.ofNat 64 (m * 128 * b + k * b)) b

/-- Locate what an element of the activations takes (13 R286). -/
def State.fetchLocs (s : State) (p : Pour) : List (BitVec 64 × Nat) → Except FetchStop (List Loc)
  | [] => .ok []
  | (a, w) :: rest =>
    let l := s.locate p none a w false
    match fetchCode l with
    | some c => .error (.error (if a.toNat % w ≠ 0 ∧ c = 5 then 4 else c))
    | none =>
      if a.toNat % w ≠ 0 then .error (.error 4)
      else
        match l with
        | .notPresent va => .error (.page va)
        | _ =>
          if s.locRefresh l then .error .refresh
          else (State.fetchLocs s p rest).map fun ls => l :: ls

/-- Fetch an element of the activations, with its tag and poison (06 R142): a peer's response that is a fabric error ends it (13
R286). -/
def State.fetchEl (s : State) (p : Pour) (fmt : Nat) (e : ElAt) (tagd : Bool) : Except FetchStop Factor :=
  match s.fetchLocs p e.spots with
  | .error x => .error x
  | .ok ls =>
    match s.spots ls e.spots with
    | none => .error (.error 6)
    | some ps =>
      .ok { code := e.code ps % 2 ^ fmtBits fmt, tag := if tagd then tagOfSpots ps else Config.noTag
            poison := poisonOfSpots ps }

/-- Activation (m, k) of an MMUL (13 R284, R285). Line rotation is for copies alone (04 R87). DESIGN CHOICE (log 109): poison on the
bytes of a scale array poisons no factor. DESIGN CHOICE (log 110): a misaligned `addr` gives code 4 whatever else it meets, and of several
elements in error the first by rows and then by K gives the code (R286). -/
def State.fetchAct (s : State) (p : Pour) (c : MmulCmd) (d : ScaleDesc) (m k : Nat) : Except FetchStop Factor :=
  let scale := if d.sv then (s.mem.read1 (offKey p (d.soff + 4 * m + k / 32))).toNat else 127
  let r :=
    if c.src then
      let h := decodeShape (p.shape c.sh)
      let crd := [h.org.getD 0 0 + k, h.org.getD 1 0 + m] ++ h.org.drop 2
      if (List.range 5).any fun i => decide (crd.getD i 0 < 0) || decide ((h.ext.getD i 1 : Int) ≤ crd.getD i 0) then
        .ok { code := if h.fill then h.fval % 2 ^ fmtBits h.fmt else (if c.sfmt = fLG6 then 0x10 else 0) }
      else s.fetchEl p c.sfmt ({ h with bank := 0 }.place crd) h.tagd
    else if c.addr.toNat % 64 ≠ 0 then .error (.error 4)
    else s.fetchEl p c.sfmt (rowPlace c.addr c.sfmt m k) true
  r.map fun f => { f with scale := scale }

/-- Fetch a list of activations in order. -/
def State.fetchList (s : State) (p : Pour) (c : MmulCmd) (d : ScaleDesc) : List (Nat × Nat) → Except FetchStop (List Factor)
  | [] => .ok []
  | (m, k) :: rest =>
    match s.fetchAct p c d m k with
    | .error e => .error e
    | .ok f => (State.fetchList s p c d rest).map fun fs => f :: fs

/-- The granules that the fetch of activations reads, the bytes of their scales among them (22 R398). -/
def State.actGranules (s : State) (p : Pour) (c : MmulCmd) (d : ScaleDesc) (want : List (Nat × Nat)) : List Place :=
  (want.flatMap fun x =>
    let scale := if d.sv then [granOf (offKey p (d.soff + 4 * x.1 + x.2 / 32))] else []
    let h := decodeShape (p.shape c.sh)
    let e := if c.src then ({ h with bank := 0 } : Shape).place ([h.org.getD 0 0 + x.2, h.org.getD 1 0 + x.1] ++ h.org.drop 2)
      else rowPlace c.addr c.sfmt x.1 x.2
    (scale.map fun k => (⟨k, false, false⟩ : Place))
      ++ (match s.fetchAct p c d x.1 x.2, s.fetchLocs p e.spots with
          | .ok _, .ok ls => ls.filterMap fun l => match l with | .mem pl => some { pl with key := granOf pl.key } | _ => none
          | _, _ => [])).eraseDups

/-- The fetch of activations corrects and counts what it finds (22 R398, 06 R134). -/
def State.touchActs (s : State) (p : Pour) (c : MmulCmd) (d : ScaleDesc) (want : List (Nat × Nat)) : State :=
  if s.mem.sound then s else (s.actGranules p c d want).foldl (fun s pl => s.touchPlace pl 8 true) s

/-- The value of a factor with its block scale: a scale of 255 makes the product NaN (05 R116, R123). -/
def Factor.value (f : Factor) (fmt : Nat) : FVal :=
  if f.scale = 255 then .nan false else (dec f.code fmt).scale ((f.scale : Int) - 127)

/-- The sum of a chunk on a floating path (05 R123). -/
def chunkFloat (ps : List FVal) : FVal := dec (rne32 (sumV ps)) fFP32

/-- An LG6 chunk's sum under its block scales (05 R124): none where a scale of 255 makes it contribute nothing. -/
def chunkLG6 (as ws : List Factor) : Option Int :=
  match as.head?, ws.head? with
  | some a, some w =>
    if a.scale = 255 ∨ w.scale = 255 then none
    else
      let t := ((as.zip ws).map fun x => lg6mul x.1.code x.2.code).foldl (· + ·) 0
      let d : Int := (a.scale : Int) + w.scale - 254
      if 0 ≤ d then some (t * 2 ^ d.toNat)
      else
        let (u, _) := roundUnits (decide (t < 0)) t.natAbs 0 (-d) false mRNE
        some (if t < 0 then -(u : Int) else u)
  | _, _ => some 0

/-- An integer chunk's sum of exact products (05 R124). -/
def chunkInt (fa fw : Nat) (as ws : List Factor) : Int :=
  ((as.zip ws).map fun x => toSigned x.1.code (fmtBits fa) * toSigned x.2.code (fmtBits fw)).foldl (· + ·) 0

/-- The tag of an accumulator element after a chunk (06 R142). -/
def chunkTag (mode : BitVec 2) (here : Tag) (old new : Reg) (float : Bool) (prods : List (Bool × Tag)) : Tag :=
  if mode = 0#2 then old.tag
  else if mode = 1#2 then here
  else if !float || !special32 new.val then here
  else
    match prods.find? (·.1) with
    | some t => t.2
    | none => if special32 old.val then old.tag else here

/-- One update of an accumulator element by a chunk (05 R123, R124; 06 R142; 13 R285): the element, and whether it
saturated. -/
def updateAcc (m : MatOp) (fa fw : Nat) (old : Reg) (as ws : List Factor) : Reg × Bool :=
  let po := old.poison || as.any (·.poison) || ws.any (·.poison)
  let float := fa != fLG6 && fa != fINT8 && fa != fINT4
  if float then
    let vals := (as.zip ws).map fun x => (x.1.value fa, x.2.value fw)
    let sum := chunkFloat (vals.map fun v => (mulV v.1 v.2).1)
    let val : Word := BitVec.ofNat 32 (rne32 (addV (dec old.val.toNat fFP32) sum mRNE).1)
    let new : Reg := { val := val, poison := po }
    let prods := ((as.zip ws).zip vals).map fun x =>
      (x.2.1.special || x.2.2.special, if x.2.1.special then x.1.1.tag else x.1.2.tag)
    ({ new with tag := chunkTag m.mode m.here old new true prods }, false)
  else
    let sum : Option Int := if fa = fLG6 then chunkLG6 as ws else some (chunkInt fa fw as ws)
    match sum with
    | none => ({ old with poison := po, tag := chunkTag m.mode m.here old old false [] }, true)
    | some t =>
      let x := old.val.toInt + t
      let y := satS x 32
      let new : Reg := { val := BitVec.ofInt 32 y, poison := po }
      ({ new with tag := chunkTag m.mode m.here old new false [] }, decide (x ≠ y))

/-- Apply a chunk to every row (13 R285). -/
def State.applyChunk (s : State) (core : Nat) (m : MatOp) (w : WTile) (c : MmulCmd) (k : Nat) (as : List Factor) : State :=
  let weights := (List.range w.n).map fun n => (List.range 32).map fun i => w.at (32 * k + i) n
  (List.range c.rows).foldl (fun s row =>
    let acts := (as.drop (32 * row)).take 32
    (weights.zipIdx).foldl (fun s x =>
      s.modTile core (m.tile + x.2 / 128) fun t =>
        let (r, sat) := updateAcc m c.sfmt w.fmt (t.at row (x.2 % 128)) acts x.1
        { t.put row (x.2 % 128) r with sticky := t.sticky || sat }) s) s

/-- How an MMUL goes on from a chunk: done, or stopped at a chunk. -/
inductive MmulRes where
  | done (s : State)
  | stop (s : State) (why : FetchStop) (chunk : Nat)
  deriving DecidableEq, Repr

/-- Perform chunks from one on (13 R285). -/
def State.chunks (s : State) (core : Nat) (p : Pour) (m : MatOp) (w : WTile) : Nat → Nat → MmulRes
  | 0, _ => .done s
  | n + 1, k =>
    let c := decodeMmul m.regs
    let want := (List.range c.rows).flatMap fun r => (List.range 32).map fun i => (r, 32 * k + i)
    match s.fetchList p c (decodeDesc m.desc) want with
    | .error e => .stop s e k
    | .ok fs => State.chunks ((s.touchActs p c (decodeDesc m.desc) want).applyChunk core m w c k fs) core p m w n (k + 1)

/-- Perform an MMUL as far as it goes, on tiles that its context owns: another context may have taken them since it issued, while its
own was suspended (13 R295). -/
def State.runMmul (s : State) (core : Nat) (m : MatOp) (p : Pour) : Option MmulRes :=
  match s.engine? m.eng with
  | none => none
  | some v => v.wtile.map fun w => (s.ownTiles p.part core m.tile (w.n / 128)).chunks core p m w (4 - m.chunk) m.chunk

/-- What the Ladle has released (04 R109): a matrix instruction's arrival is the Ladle's. -/
def State.ladleClock (s : State) (m : MatOp) : Clock :=
  match s.engine? m.eng with
  | some v => v.released m.eng
  | none => []

/-- Whether a page has a fault that the driver has not answered (13 R287). -/
def State.reported (s : State) (part va : Nat) : Option Nat :=
  ((s.part part).faults.find? fun f => f.va.toNat / 65536 == va / 65536).map (·.id)

/-- Keep the chunks done, and wait: for a page that was reported already (13 R287), or for a refresh window to close (04 R94). -/
def State.matWait (s : State) (core : Nat) (m : MatOp) (chunk : Nat) (f : Option Nat) : State :=
  s.modCore core fun c => { c with mat := some { m with chunk := chunk, wait := f } }

/-- MMUL_COMPLETION (95, 13 R285): the last chunk is applied, and one arrival made. -/
def execMmulCompletion (core : Nat) (s : State) : Out :=
  match s.matReady core .mmul with
  | none => .next s
  | some (m, p) =>
    match s.runMmul core m p with
    | some (.done s2) =>
      let key := offKey p (decodeMmul m.regs).bar
      .next (({ s2 with free := s2.free + 1 }.arriveBar key (s2.ladleClock m)).matDone core)
    | some (.stop s2 (.page va) k) =>
      match s.reported p.part va with
      | some f => .next (s2.matWait core m k (some f))
      | none => .next s
    | some (.stop s2 .refresh k) => .next (s2.matWait core m k none)
    | _ => .next s

/-- MMUL_ERROR_COMPLETION (95, 13 R286): a fetch meets an error, a page not reported yet among them. -/
def execMmulErrorCompletion (core : Nat) (s : State) : Out :=
  match s.matReady core .mmul with
  | none => .next s
  | some (m, p) =>
    let bar := (decodeMmul m.regs).bar
    let fail (s : State) (code k : Nat) : State :=
      (({ s with free := s.free + 1 }.modBar (offKey p bar) fun b => b.error code (some k)).modEngine m.eng fun v =>
        { v with failed := SMap.put v.failed bar m.here }).matDone core
    match s.runMmul core m p with
    | some (.stop s2 (.error code) k) => .next (fail s2 code k)
    | some (.stop s2 (.page va) k) =>
      match s.reported p.part va with
      | some _ => .next s
      | none => .next (fail (s2.reportFault p.part va .mmul false core (s.rtagOf p)).2 1 k)
    | _ => .next s

/-! ## MDRAIN -/

/-- The parameter block of a drain (13 R288). -/
structure DrainBlk where
  dst     : Nat
  dkind   : Nat
  ofmt    : Nat
  rmode   : Nat
  trule   : Nat
  akind   : Nat
  rows    : Nat
  ntile   : Nat
  bsvalid : Bool
  bvalid  : Bool
  scexp   : Int
  rstride : Nat
  noise   : Nat
  bsptr   : BitVec 64
  bar     : Nat
  ref     : Nat
  jf      : Nat
  kexp    : Nat
  jumpbit : Bool
  satbit  : Bool
  jcount  : Word
  resv    : Bool
  deriving DecidableEq, Repr

def decodeDrain (bs : List Byte) : DrainBlk :=
  let n := leNat bs
  { dst := bits n 0 64, dkind := bits n 64 2, ofmt := bits n 66 8, rmode := bits n 74 3, trule := bits n 77 2,
    akind := bits n 79 2, rows := bits n 81 7 + 1, ntile := bits n 88 2, bsvalid := bits n 94 1 = 1, bvalid := bits n 95 1 = 1,
    scexp := toSigned (bits n 96 8) 8, rstride := bits n 128 32, noise := bits n 160 24, bsptr := BitVec.ofNat 64 (bits n 192 64),
    bar := bits n 256 24, ref := bits n 288 32, jf := bits n 320 32, kexp := bits n 352 5, jumpbit := bits n 357 1 = 1,
    satbit := bits n 358 1 = 1, jcount := BitVec.ofNat 32 (bits n 384 32)
    resv := decide (bits n 90 4 ≠ 0) || decide (bits n 104 24 ≠ 0) || decide (bits n 184 8 ≠ 0) || decide (bits n 280 8 ≠ 0)
      || decide (bits n 366 18 ≠ 0) || decide (bits n 448 64 ≠ 0) || decide (bits n 64 2 = 3) || decide (4 < bits n 74 3)
      || decide (bits n 79 2 = 3) || decide (bits n 88 2 = 3) }

/-- The columns that a drain covers (13 R290). -/
def DrainBlk.cols (b : DrainBlk) : Nat := 128 * 2 ^ b.ntile

/-- The output formats of a drain (13 R288). -/
def drainFmt (c : Nat) : Bool := c ≤ 6 || c == fINT32 || c == fINT16 || c == fINT8 || c == fINT4

/-- Words that a strip of 32 elements takes (13 R291). -/
def stripWords (fmt : Nat) : Nat := slotBits fmt

/-- Item 4 of the issue faults of MDRAIN (13 R289). -/
def DrainBlk.bad (b : DrainBlk) (p : Pour) (tile : Nat) : Bool :=
  let jf := dec b.jf fFP32
  let a := aperture (BitVec.ofNat 64 b.dst)
  let dstBad := match b.dkind, a with
    | 0, .scratch _ => decide (b.dst % 64 ≠ 0)
    | 1, .global _ => decide (b.dst % 64 ≠ 0)
    | 2, _ => decide (bits b.dst 18 46 ≠ 0)
    | _, _ => true
  b.resv || !drainFmt b.ofmt || (b.bsvalid && !scaled b.ofmt) || jf.isNaN
    || (match jf with | .fin n m _ _ => n && decide (m ≠ 0) | .inf n => n | .nan _ => true)
    || decide (8 < tile + 2 ^ b.ntile) || dstBad
    || (if b.dkind = 2 then decide (b.rstride ≠ 0)
        else decide (b.rstride % 64 ≠ 0) || decide (b.rstride < b.cols * slotBits b.ofmt / 8))
    || (b.rmode == 4 && decide (b.noise % 2 ≠ 0)) || (b.bvalid && decide (b.bar % 8 ≠ 0))
    || (b.dkind == 2 && decide (p.hdr.regs < bits b.dst 0 8 + stripWords b.ofmt))

/-- The place of a drain's block (13 R289 items 1 to 3): its key, a cause, or a page to wait for. DESIGN CHOICE (log 90): a block on a
peer frame, which R289 does not list, is an access violation. -/
def State.drainBlock (s : State) (p : Pour) (a : BitVec 64) : EdgeAt :=
  match aperture a with
  | .scratch o =>
    if a.toNat % 64 ≠ 0 then .fault cMisalign
    else if p.hdr.scratch < o + 64 then .fault cScratch
    else .ok (scratchKey p.core (p.scratch + o)) (decodeEdge [])
  | .global va =>
    match s.globalLoc p.part va true with
    | .notPresent v => .hold v
    | .mem pl => if a.toNat % 64 ≠ 0 then .fault cMisalign else .ok pl.key (decodeEdge [])
    | _ => .fault cAccess
  | _ => .fault cAccess

/-- The fibres that a register drain writes (13 R291): strip and row by fibre. DESIGN CHOICE (log 89): those that live when it
issues, whose words are pending from then on. -/
def State.drainFibres (s : State) (pid : Nat) (b : DrainBlk) : SMap (Nat × Nat) :=
  let r0 := bits b.dst 8 10
  s.fibres.filterMap fun e =>
    if e.2.pour = pid ∧ r0 ≤ e.2.rank ∧ e.2.rank < r0 + b.cols / 32 * b.rows then
      some (e.1, ((e.2.rank - r0) / b.rows, (e.2.rank - r0) % b.rows))
    else none

/-- A drain of kind 1 in a pair (22 R435): it is held until the other member's has issued; the leading one is performed. Unequal
blocks are a mismatch, which discards both unperformed (R403). -/
def State.pairDrain (s : State) (core : Nat) (m : MatOp) : State :=
  match s.pairOf m.pour with
  | none => s
  | some (k, pr) =>
    let lead := pr.lead == m.pour
    let other := if lead then pr.trail else pr.lead
    match s.pour? other with
    | none => s
    | some q =>
      let hold (c : Nat) (v : Bool) (s : State) : State :=
        s.modCore c fun c => { c with mat := c.mat.map fun m => { m with twin := v } }
      match (s.core q.core).mat with
      | some o =>
        if o.kind = .mdrain ∧ o.pour = other ∧ o.twin then
          if o.block ≠ m.block ∨ o.tile ≠ m.tile then (hold core true s).engMismatch k
          else hold core (!lead) (hold q.core lead s)
        else hold core true s
      | none => hold core true s

/-- `MDRAIN` (13 R288, R289). -/
def execMdrain (d : BitVec 3) (a : BitVec 8) (s : State) : Out :=
  let h := ladleOnly { instr := .mdrain d a, a := some (.ap, a) }
  s.groupOp h (fun s _ _ => s) fun s e x =>
    let at0 := pairAddr x.a
    if (s.core x.v.core).mat.isSome then s.stallEngine e .matrix
    else if poi x.a then consumeE s e
    else
      match s.drainBlock x.p at0 with
      | .fault c => s.trapEngine e c
      | .hold va =>
        let (f, s) := s.reportFault x.p.part va .mdrain false x.v.core (s.rtagOf x.p)
        s.stallEngine e .matrix (some f)
      | .ok key _ =>
        let s := s.touch key 64
        let bs := s.mem.readBytes key 64
        let b := decodeDrain bs
        if b.bad x.p d.toNat then s.trapEngine e cReserved
        else
          let s := s.ownTiles x.p.part x.v.core d.toNat (2 ^ b.ntile)
          let s := if b.dkind = 2 then
              let fs := s.drainFibres x.v.pour b
              (s.addPend .drain (.fibres (bits b.dst 0 8) (fs.map fun f => (f.1, List.replicate (stripWords b.ofmt) ({} : Reg))))
                x.v.pour x.v.pc none false).2
            else s
          let m : MatOp := { kind := .mdrain, pour := x.v.pour, eng := e, tile := d.toNat, regs := x.a.map (·.val), desc := 0#32,
                             here := x.here, mode := x.v.tagmode, pc := x.v.pc, block := bs, blkAt := at0 }
          let s := s.sendMat x.v.core e h.len m
          if b.dkind = 1 then s.pairDrain x.v.core m else s

/-- The value of an accumulator element as a drain reads it (13 R288). -/
def accValue (akind : Nat) (w : Word) : FVal :=
  if akind = 0 then dec w.toNat fFP32
  else
    let v := w.toInt
    .fin (decide (v < 0)) v.natAbs (if akind = 2 then -16 else 0) false

/-- An output element of a drain: its code, what its conversion counted, whether its source was special, the source's tag and
poison. -/
structure DrainEl where
  code   : Nat
  conv   : Conv
  sp     : Bool
  tag    : Tag
  poison : Bool
  deriving DecidableEq, Repr

/-- An element of the drained rows. -/
def State.drainAcc (s : State) (core : Nat) (m : MatOp) (i j : Nat) : Reg := ((s.core core).tile (m.tile + j / 128)).at i (j % 128)

/-- `Y` of an element (13 R290, 05 R127). -/
def drainY (b : DrainBlk) (r : Reg) : Nat := rne32 ((accValue b.akind r.val).scale b.scexp)

/-- The output scale of a block of 32 columns (13 R290). -/
def State.drainScale (s : State) (core : Nat) (m : MatOp) (b : DrainBlk) (i q : Nat) : Nat :=
  blockScale (emaxOf b.ofmt) ((List.range 32).map fun t => dec (drainY b (s.drainAcc core m i (32 * q + t))) fFP32)

/-- One output element (13 R290), or the error of its noise tile (R292). -/
def State.drainEl (s : State) (core : Nat) (p : Pour) (m : MatOp) (b : DrainBlk) (i j eb : Nat) : Except Nat DrainEl :=
  let r := s.drainAcc core m i j
  let v := (accValue b.akind r.val).scale b.scexp
  let x := if b.bsvalid && eb != 255 then (dec (drainY b r) fFP32).scale (127 - (eb : Int)) else v
  let at0 := b.noise + 2 * (i * b.cols + j)
  if b.rmode = 4 ∧ p.hdr.scratch < at0 + 2 then .error 5
  else
    let n := if b.rmode = 4 then s.mem.readNat (offKey p at0) 2 else 0
    let c := rnd x b.ofmt b.rmode n
    .ok { code := c.bits, conv := c, sp := b.akind == 0 && special32 r.val, tag := r.tag, poison := r.poison }

/-- The elements of a row up to the first error. -/
def State.drainRow (s : State) (core : Nat) (p : Pour) (m : MatOp) (b : DrainBlk) (i : Nat) : Nat → Nat → List DrainEl × Option Nat
  | 0, _ => ([], none)
  | n + 1, j =>
    let eb := if b.bsvalid then s.drainScale core m b i (j / 32) else 127
    match s.drainEl core p m b i j eb with
    | .error c => ([], some c)
    | .ok e =>
      let (es, err) := State.drainRow s core p m b i n (j + 1)
      (e :: es, err)

/-- The tag of a destination word of a drain (06 R144). -/
def drainTag (trule : Nat) (here old : Tag) (es : List DrainEl) : Tag :=
  if trule = 0 then old
  else if trule = 1 then here
  else
    match (es.filter (·.sp)).map (·.tag) with
    | [] => here
    | t :: ts => if trule = 2 then t else lowestSite ts t

/-- Pack elements into a word, the bits of those not given kept from the prior word (05 R112, 13 R292). -/
def packWord (fmt : Nat) (old : Word) (es : List DrainEl) : Word :=
  let w := slotBits fmt
  let v := (es.zipIdx.map fun e => e.1.code * 2 ^ (w * e.2)).foldl (· + ·) 0
  let used := w * es.length
  BitVec.ofNat 32 (old.toNat / 2 ^ used * 2 ^ used + v)

/-- Elements of a word. -/
def perWord (fmt : Nat) : Nat := 32 / slotBits fmt

/-- The words that elements of a row make, with tags and poison: the prior words supply what they do not cover. -/
def rowWords (b : DrainBlk) (here : Tag) (old : Nat → Reg) : Nat → Nat → List DrainEl → List Reg
  | 0, _, _ => []
  | n + 1, k, es =>
    match es with
    | [] => []
    | _ =>
      let g := es.take (perWord b.ofmt)
      let o := old k
      { val := packWord b.ofmt o.val g, tag := drainTag b.trule here o.tag g, poison := g.any (·.poison) }
        :: rowWords b here old n (k + 1) (es.drop (perWord b.ofmt))

/-- The code of a drain's destination place (13 R292), none where it can be written. -/
def drainCode : Loc → Option Nat
  | .mem _ => none
  | .fatal => some 2
  | .scratchOut => some 5
  | _ => some 3

/-- How far a drain got: rows fully written, an error, or a page to wait for. -/
structure Drained where
  s    : State
  rows : Nat := 0
  cs   : List Conv := []
  code : Nat := 0
  page : Option Nat := none
  deriving DecidableEq, Repr

/-- Write a row to memory, granule by granule, merging its tags as a store does (13 R291, 06 R144). Where it stops, the code and
the granule. -/
def State.writeRow (s : State) (p : Pour) (b : DrainBlk) (here : Tag) (i : Nat) (es : List DrainEl) :
    Nat → Nat → State × Option (Nat × Nat) × Option Nat
  | 0, _ => (s, none, none)
  | n + 1, g =>
    let k := 2 * perWord b.ofmt
    let part := (es.drop (k * g)).take k
    if part.isEmpty then (s, none, none)
    else
      let l := s.locate p none (BitVec.ofNat 64 (b.dst + i * b.rstride + 8 * g)) 8 true
      match l with
      | .notPresent va => (s, none, some va)
      | .mem pl =>
        let old (t : Nat) : Reg :=
          { val := BitVec.ofNat 32 (s.mem.readNat (pl.key + 4 * t) 4), tag := s.mem.wordTag pl (pl.key + 4 * t) }
        let ws := rowWords b here old 2 0 part
        let s := s.touchPart pl.key (4 * ws.length)
        let s := if b.trule = 0 && pl.tagged then s.touchTags pl.key 8 else s
        let m := storeAt s.mem pl (4 * ws.length) ws
        let m := if ws.any (·.poison) then m.setPoison pl.key true else m
        State.writeRow { s with mem := m } p b here i es n (g + 1)
      | l => (s, some ((drainCode l).getD 3, g), none)

/-- Write the output scales (13 R290), untagged. -/
def State.writeScales (s : State) (core : Nat) (p : Pour) (m : MatOp) (b : DrainBlk) : List (Nat × Nat) → Drained
  | [] => { s := s }
  | (i, q) :: rest =>
    let l := s.locate p none (b.bsptr + BitVec.ofNat 64 (i * (b.cols / 32) + q)) 1 true
    match l with
    | .notPresent va => { s := s, page := some va }
    | .mem pl =>
      let e := s.drainScale core m b i q
      let po := (List.range 32).any fun t => (s.drainAcc core m i (32 * q + t)).poison
      let s := s.touch pl.key 1
      let mm := s.mem.store pl.key [BitVec.ofNat 8 e]
      State.writeScales { s with mem := if po then mm.setPoison pl.key true else mm } core p m b rest
    | l => { s := s, code := (drainCode l).getD 3 }

/-- The pending result of a register drain. -/
def State.drainPend (s : State) (m : MatOp) : Option Pending :=
  s.pend.find? fun q => q.kind == .drain && q.pour == m.pour && q.pc == m.pc

/-- Write a row to the fibres of its strips (13 R291). -/
def State.writeStrips (s : State) (m : MatOp) (b : DrainBlk) (i : Nat) (es : List DrainEl) : State :=
  match s.drainPend m with
  | none => s
  | some q =>
    match q.dest with
    | .engine _ _ _ => s
    | .fibres v lanes =>
      lanes.foldl (fun s e =>
        match s.fibre? e.1 with
        | none => s
        | some f =>
          let k := f.rank - bits b.dst 8 10
          if k % b.rows ≠ i then s
          else
            let strip := (es.drop (32 * (k / b.rows))).take 32
            let ws := rowWords b m.here (fun t => f.reg (v + t)) (stripWords b.ofmt) 0 strip
            s.modFibre e.1 fun f => f.landRegs (q.skips e.1) v (ws.map fun w => { w with parity := false })) s

/-- Write the rows in order (13 R290, R292). The elements of a row are converted one by one: those after one that cannot be written
are neither converted nor counted. -/
def State.writeRows (s : State) (core : Nat) (p : Pour) (m : MatOp) (b : DrainBlk) : Nat → Nat → Drained → Drained
  | 0, _, d => d
  | n + 1, i, d =>
    let (es, err) := d.s.drainRow core p m b i b.cols 0
    let done (n : Nat) : List Conv := (es.take n).map DrainEl.conv ++ d.cs
    if b.dkind = 2 then
      let d := { d with s := d.s.writeStrips m b i es, cs := done es.length }
      match err with
      | some c => { d with code := c }
      | none => State.writeRows s core p m b n (i + 1) { d with rows := i + 1 }
    else
      match d.s.writeRow p b m.here i es (b.cols * slotBits b.ofmt / 64) 0 with
      | (s', _, some va) => { d with s := s', page := some va }
      | (s', some (code, g), none) => { d with s := s', cs := done (2 * perWord b.ofmt * g + 1), code := code }
      | (s', none, none) =>
        let d := { d with s := s', cs := done es.length }
        (match err with
          | some c => { d with code := c }
          | none => State.writeRows s core p m b n (i + 1) { d with rows := i + 1 })

/-- Perform a drain as far as it goes (13 R290), on tiles that its context owns. The page of its block is serviced like those that
it writes, so that its status can be written (R289, R292). -/
def State.runDrain (s : State) (core : Nat) (p : Pour) (m : MatOp) : Drained :=
  let b := decodeDrain m.block
  let s := s.ownTiles p.part core m.tile (2 ^ b.ntile)
  match s.drainBlock p m.blkAt with
  | .hold va => { s := s, page := some va }
  | _ =>
  let s := if b.rmode = 4 ∧ b.noise + 2 * b.rows * b.cols ≤ p.hdr.scratch then s.touch (offKey p b.noise) (2 * b.rows * b.cols) else s
  let d := if b.bsvalid then
      s.writeScales core p m b ((List.range b.rows).flatMap fun i => (List.range (b.cols / 32)).map fun q => (i, q))
    else { s := s }
  if d.code ≠ 0 ∨ d.page.isSome then d else d.s.writeRows core p m b b.rows 0 d

/-- `S` over the drained values (05 R127). -/
def State.normS (s : State) (core : Nat) (m : MatOp) (b : DrainBlk) : Nat :=
  ((List.range b.rows).flatMap fun i => (List.range b.cols).map fun j => (i, j)).foldl (fun acc x =>
    let y := dec (drainY b (s.drainAcc core m x.1 x.2)) fFP32
    rne32 (addV (dec acc fFP32) (dec (rne32 (mulV y y).1) fFP32) mRNE).1) 0

/-- Whether S jumps (05 R127). -/
def jumps (sv jf ref : FVal) : Bool :=
  match sv with
  | .fin _ _ _ _ => !(mulV jf ref).1.isNaN && cmpV sv (mulV jf ref).1 == .gt
  | _ => true

/-- `ref` after a drain (05 R127). -/
def nextRef (sv : FVal) (ref kexp : Nat) : Nat :=
  match sv with
  | .fin _ _ _ _ =>
    let r := dec ref fFP32
    let dlt := dec (rne32 (addV sv r.negate mRNE).1) fFP32
    rne32 (addV r (dlt.scale (-(kexp : Int))) mRNE).1
  | _ => ref

/-- An event of the escalation queue (05 R129). -/
def State.escalate (s : State) (sv ref : Nat) (here : Tag) (core part : Nat) (rtag : BitVec 16) (tile : Nat) : State :=
  let s := if s.dev.esc.isEmpty then s.msix 0 0 else s
  s.modDev fun d =>
    if 64 ≤ d.esc.length then { d with escLost := satAdd d.escLost 1, escDrop := true }
    else
      let nonfin := match dec sv fFP32 with | .fin _ _ _ _ => 0 | _ => 1
      let e := sv + ref * 2 ^ 32 + here.toNat * 2 ^ 64 + core * 2 ^ 80 + part * 2 ^ 89 + nonfin * 2 ^ 94
        + (if d.escDrop then 2 ^ 95 else 0) + rtag.toNat * 2 ^ 96 + tile * 2 ^ 112
      { d with esc := d.esc ++ [BitVec.ofNat 128 e], escDrop := false }

/-- Replace a field of a block of bytes. -/
def setField (n lo w v : Nat) : Nat := n - bits n lo w * 2 ^ lo + v % 2 ^ w * 2 ^ lo

/-- The key of a drain's block in a pour, as it now stands. -/
def State.blockKey (s : State) (p : Pour) (a : BitVec 64) : Option Nat :=
  match s.drainBlock p a with
  | .ok k _ => some k
  | _ => none

/-- The norm watch and the status write-back: one indivisible update of the block (05 R127, R128; 13 R290). DESIGN CHOICE (log 76):
J and k, like ref, are those that the block holds at that update, and a block whose place can no longer be written receives
none. -/
def State.drainStatus (s : State) (core : Nat) (p : Pour) (m : MatOp) : State :=
  match s.blockKey p m.blkAt with
  | none => s
  | some key =>
    let s := s.touch key 64
    let n := s.mem.readNat key 64
    let b := decodeDrain m.block
    let ref := bits n 288 32
    let sv := s.normS core m b
    let v := dec sv fFP32
    let jump := jumps v (dec (bits n 320 32) fFP32) (dec ref fFP32)
    let sat := (List.range (2 ^ b.ntile)).any fun i => ((s.core core).tile (m.tile + i)).sticky
    let n := setField n 288 32 (nextRef v ref (bits n 352 5))
    let n := if jump then setField (setField n 357 1 1) 384 32 (satAdd (BitVec.ofNat 32 (bits n 384 32)) 1).toNat else n
    let n := if sat then setField n 358 1 1 else n
    let n := setField (setField (setField n 359 1 0) 360 6 0) 416 32 sv
    let s := { s with mem := s.mem.store (key + 32) ((leBytes 64 n).drop 32) }
    if jump then
      (s.modDev fun d => { d with jumps := satAdd d.jumps 1 }).escalate sv ref m.here core p.part (s.rtagOf p) m.tile
    else s

/-- The status of a drain that ends in error (13 R292): the norm watch's fields stand. -/
def State.drainErr (s : State) (p : Pour) (m : MatOp) (code : Nat) : State :=
  match s.blockKey p m.blkAt with
  | none => s
  | some key =>
    let n := setField (setField (s.mem.readNat key 64) 359 1 1) 360 6 code
    { s with mem := s.mem.store (key + 32) ((leBytes 64 n).drop 32) }

/-- The trailing member's drain that a pair's drain of kind 1 stands for (22 R435): the one that it has met, whose block is the same. -/
def State.drainTwin (s : State) (m : MatOp) : Option (Nat × MatOp × Pour) :=
  match s.pairOf m.pour with
  | none => none
  | some (_, pr) =>
    match s.pour? pr.trail with
    | none => none
    | some q =>
      match (s.core q.core).mat with
      | some o =>
        if o.kind = .mdrain ∧ o.pour = pr.trail ∧ o.twin ∧ pr.lead = m.pour ∧ o.block = m.block ∧ o.tile = m.tile then some (q.core, o, q)
        else none
      | none => none

/-- A drain's words are no longer pending. -/
def State.endDrainPend (s : State) (m : MatOp) : State :=
  match s.drainPend m with
  | none => s
  | some q => { s with pend := s.pend.filter fun x => x.id != q.id }

/-- The barrier update at the end of a drain. DESIGN CHOICE (log 88): a word outside the pour's allocation, which 13 R289 checks for
alignment alone, receives none. -/
def State.drainBar (s : State) (p : Pour) (m : MatOp) (code rows : Nat) : State :=
  let b := decodeDrain m.block
  if !b.bvalid || decide (p.hdr.scratch < b.bar + 8) then s
  else if code = 0 then s.arriveBar (offKey p b.bar) (s.ladleClock m)
  else s.modBar (offKey p b.bar) fun w => w.error code (some rows)

/-- End a drain, and its twin's: a block of the twin's in scratchpad receives the same status. -/
def State.endDrain (s : State) (core : Nat) (p : Pour) (m : MatOp) (code rows : Nat) : State :=
  let s := if code = 0 then s.drainStatus core p m else s.drainErr p m code
  let twin := s.drainTwin m
  let s := ((s.drainBar p m code rows).endDrainPend m).matDone core
  match twin with
  | none => s
  | some (c2, o, q) =>
    let s := if inScratch o.blkAt then
        match s.blockKey p m.blkAt, s.blockKey q o.blkAt with
        | some k1, some k2 => { s with mem := s.mem.store k2 (s.mem.readBytes k1 64) }
        | _, _ => s
      else s
    (s.drainBar q o code rows).matDone c2

/-- Whether a drain waits for the other member's (22 R435). -/
def MatOp.held (m : MatOp) : Bool := m.twin

/-- MDRAIN_COMPLETION (95, 13 R290). A page that is not present holds the drain (R292). -/
def execMdrainCompletion (core : Nat) (s : State) : Out :=
  match s.matReady core .mdrain with
  | none => .next s
  | some (m, p) =>
    if m.held then .next s
    else
      let d := s.runDrain core p m
      match d.page with
      | some va =>
        let (f, s) := s.reportFault p.part va .mdrain true core (s.rtagOf p)
        .next (s.matWait core m 0 (some f))
      | none => if d.code ≠ 0 then .next s else .next ((d.s.countConv core d.cs).endDrain core p m 0 0)

/-- MDRAIN_ERROR_COMPLETION (95, 13 R292): the drain ends at its first error. -/
def execMdrainErrorCompletion (core : Nat) (s : State) : Out :=
  match s.matReady core .mdrain with
  | none => .next s
  | some (m, p) =>
    if m.held then .next s
    else
      let d := s.runDrain core p m
      if d.page.isSome || decide (d.code = 0) then .next s
      else .next ((d.s.countConv core d.cs).endDrain core p m d.code d.rows)

/-! ## Spilled tiles -/

/-- The address that firmware gives on a core's Ladle, kA and kA+1. -/
def State.imageAddr (s : State) (core : Nat) (a : BitVec 8) : Nat :=
  match s.engines.find? fun e => e.2.core == core && e.2.kind == EngKind.ladle with
  | some e => (pairAddr (engRead e.2 2 a 0#32)).toNat
  | none => 0

/-- A word that only firmware may execute (09 R199, 13 R294): anywhere else it is illegal. -/
def State.firmwareOp (s : State) (i : Instr) (a : BitVec 8) (body : Nat → Nat → Nat → Out) : Out :=
  match s.turn with
  | .firmware core part =>
    let pa := s.imageAddr core a
    if pa % 64 ≠ 0 then .fault (.badImage pa)
    else if dramBytes < pa + 100480 then .fault (.noMemory pa)
    else body core part pa
  | _ => s.groupOp { instr := i, a := some (.ap, a), bad := true } (fun s _ _ => s) noEngine

/-- `MSPILL` (13 R294). -/
def execMspill (d : BitVec 3) (a : BitVec 8) (s : State) : Out :=
  s.firmwareOp (.mspill d a) a fun core _ pa =>
    .next { s with mem := s.mem.store (dramKey pa) ((s.core core).tile d.toNat).image }

/-- `MFILL` (13 R294): the current context becomes the tile's owner. -/
def execMfill (d : BitVec 3) (a : BitVec 8) (s : State) : Out :=
  s.firmwareOp (.mfill d a) a fun core part pa =>
    let s := s.touch (dramKey pa) 100480
    .next (s.modTile core d.toNat fun _ => s.imageTile (dramKey pa) (s.owner part))

end Sys2Proof.Machine
end

