-- ==== Sys2Proof/Machine/Image.lean ====
section
/-!
DEFINITION. Machine/Image.lean: the save area as bytes (22 R396): its header, the records of pours with their sections in order,
and those of Crucible instances. Where R396 names contents and no places, the places are the model's (log 73).
-/

namespace Sys2Proof.Machine

/-! ## Sections of a pour record -/

/-- The words of a crew of a pour: its members at its barrier, and its live members (22 R396). -/
def crewWords (fs : SMap Fibre) (crew : Nat) : List Nat :=
  let mine := fs.filter fun e => e.2.crew == crew
  [(mine.filter fun e => e.2.status == .bar).length, mine.length]

/-- The pour header: handle, index, first fibre number, core slot and `late`; from byte 64 the crews' counts; at byte 192 the
parties that have reached `RDV`. -/
def State.pourHeader (s : State) (pid : Nat) (p : Pour) (fs : SMap Fibre) : List Byte :=
  let handle := match s.task? p.task with | some t => t.handle.toNat | none => 0
  let rdv := (fs.filter fun e => e.2.status == .rdv).length + (s.engines.filter fun e => e.2.pour == pid && e.2.atRdv).length
  padTo 64 ([handle, p.idx, p.first.toNat, (s.part p.part).coreSlot p.core, p.late.toNat].flatMap (leBytes 4))
    ++ (List.range 16).flatMap (fun k => (crewWords fs k).flatMap (leBytes 4)) ++ leBytes 320 rdv

/-- The scratchpad of a pour: data, a tag for each word, a poison bit for each granule. -/
def State.scratchImage (s : State) (p : Pour) : List Byte :=
  let k := scratchKey p.core p.scratch
  s.mem.readBytes k p.hdr.scratch
    ++ ((List.range (p.hdr.scratch / 4)).flatMap fun i => leBytes 2 (s.mem.wordTag ⟨k, true, false⟩ (k + 4 * i)).toNat)
    ++ packBits ((List.range (p.hdr.scratch / 8)).map fun i => s.mem.isPoison (k + 8 * i))

/-- A lane of an operand-log entry: the six words captured at its issue, their tags, their poison. -/
def laneImage (ws : List Reg) : List Byte :=
  let w (i : Nat) : Reg := ws.getD i {}
  ((List.range 6).flatMap fun i => leBytes 4 (w i).val.toNat) ++ ((List.range 6).flatMap fun i => leBytes 2 (w i).tag.toNat)
    ++ packBits ((List.range 6).map fun i => (w i).poison)

/-- An entry of the operand log: weave, PC, active lanes and instruction word, then the lanes. -/
def State.heldImage (s : State) (h : Held) : List Byte :=
  let idx := match s.weave? h.op.weave with | some v => v.idx | none => 0
  let mask := maskOf (h.op.acts.filterMap fun f => (s.fibre? f).map (·.lane))
  let lane (i : Nat) : List Byte :=
    match h.op.lanes.find? fun l => l.lane == i with
    | some l => laneImage l.words
    | none => List.replicate 37 0#8
  padTo 1280 (padTo 64 ([idx, h.op.pc, mask.toNat, h.op.word.toNat].flatMap (leBytes 4)) ++ (List.range 32).flatMap lane)

/-- What a matrix instruction in flight keeps for its resumption: whether there is one, its next chunk, tile, word and operands. -/
def matWords : Option MatOp → List Nat
  | none => [0]
  | some m => [1, m.chunk, m.tile, m.pc, m.desc.toNat, m.here.toNat, m.mode.toNat] ++ m.regs.map (·.toNat)

/-- The latched tile: its bit-plane tile, its scales and its row tags. -/
def WTile.image (t : WTile) : List Byte :=
  ((List.range 49152).map fun i => SMap.getD t.bytes i 0#8) ++ ((List.range 2048).map fun i => SMap.getD t.scales i 127#8)
    ++ (List.range 128).flatMap fun i => leBytes 2 (t.tags.getD i Config.noTag).toNat

/-- k registers, p, lk and PC of an engine program; zeros where the pour has none. -/
def engineWords (e : Option Engine) (n : Nat) : List Nat :=
  match e with
  | some v => ((List.range n).map fun i => (v.k.getD i {}).val.toNat) ++ [v.pred.toNat, v.lk.toNat, v.pc]
  | none => List.replicate (n + 3) 0

/-- An engine program of a pour. -/
def State.programOf (s : State) (pid : Nat) (k : EngKind) : Option Engine :=
  (s.engines.find? fun e => e.2.pour == pid && e.2.kind == k).map (·.2)

/-- The Ladle's section: its program and the matrix instruction in flight, with the format and width of the latched tile, then
the tile. -/
def State.ladleImage (s : State) (pid : Nat) (p : Pour) : List Byte :=
  let v := s.programOf pid .ladle
  let t := v.bind (·.wtile)
  let m := (s.core p.core).mat.filter fun m => m.pour == pid
  let fmt := match t with | some t => [1, t.fmt, t.n] | none => [0, 0, 0]
  padTo 1024 ((engineWords v 64 ++ fmt ++ matWords m).flatMap (leBytes 4))
    ++ (match t with | some t => t.image | none => List.replicate 51456 0#8)

/-- The Runner's section: its program, and the addresses of the pour's queued commands with their token registers. -/
def State.runnerImage (s : State) (pid : Nat) (p : Pour) : List Byte :=
  let token (c : Cmd) : Nat :=
    match s.pend.find? fun q => some q.id == c.pend with
    | some q => (match q.dest with | .fibres d _ | .engine _ d _ => d)
    | none => 240
  let cs := (s.cmds.filter fun c => c.core == p.core && c.pour == pid).take 32
  padTo 2560 (((engineWords (s.programOf pid .runner) 16).flatMap (leBytes 4))
    ++ cs.flatMap fun c => leBytes 8 c.addr.toNat ++ leBytes 4 (token c))

/-- Whether a fibre has a recast record in the pool or waits with one (02 R41). -/
def Fibre.recorded (f : Fibre) : Bool := match f.status with | .run | .rdv => false | _ => true

/-- The sections of a pour record in order, each 64-byte aligned (22 R396). -/
def State.pourSections (s : State) (pid : Nat) (p : Pour) : List (List Byte) :=
  let fs := s.fibres.filter fun e => e.2.pour == pid
  [s.pourHeader pid p fs,
   (List.range 16).flatMap (fun n => leBytes 96 (p.shapes.getD n 0#768).toNat),
   s.scratchImage p,
   (s.weaves.filter fun e => e.2.pour == pid).flatMap (fun e => s.weaveRecord e.1 e.2),
   (s.held.filter fun h => h.op.pour == pid).flatMap s.heldImage,
   fs.flatMap (fun e => s.fibreRecord e.2 p.hdr),
   (fs.filter fun e => e.2.recorded).flatMap (fun e => s.recastRecord e.2 p.slot),
   s.ladleImage pid p,
   s.runnerImage pid p].map (padTo 64)

/-- A pour record (22 R396). -/
def State.pourRecord (s : State) (pid : Nat) (p : Pour) : List Byte := (s.pourSections pid p).flatten

/-- The record of a Crucible instance (22 R396): its scalars and their poison bits, its rows and theirs, its PC. -/
def Crucible.record (c : Crucible) : List Byte :=
  let y (i : Nat) : YElem := SMap.getD c.y i {}
  padTo 4544 (((List.range 32).flatMap fun i => leBytes 8 (c.c.getD i {}).val.toNat)
    ++ packBits ((List.range 32).map fun i => (c.c.getD i {}).poison)
    ++ ((List.range 1024).flatMap fun i => leBytes 4 (y i).val.toNat)
    ++ packBits ((List.range 1024).map fun i => (y i).poison) ++ leBytes 4 c.pc)

/-! ## The area -/

/-- Write bytes under a context's table key, 4 KiB at a time, so that each piece lies under one key. -/
def State.writeArea (s : State) (part pa : Nat) (bs : List Byte) : State :=
  (List.range ((bs.length + 4095) / 4096)).foldl (fun s i =>
    s.writeCtx part (pa + 4096 * i) ((bs.drop (4096 * i)).take 4096)) s

/-- The offset of the first record: after the header and the accumulator slots (log 73). -/
def recordsAt : Nat := spillAt 0 Config.perPart 0

/-- Write the save area of a partition's context: the header with the counts of pours and of accumulator slots, and of each record
its offset, as far as the header holds offsets, and its bytes. -/
def State.writeImage (s : State) (part : Nat) : State :=
  let q := s.part part
  let save := q.desc.save.toNat
  let ps := s.pours.filter fun e => e.2.part == part
  let cs := s.crucibles.filter fun e => e.2.part == part
  let s := ps.foldl (fun s e => s.touch (scratchKey e.2.core e.2.scratch) e.2.hdr.scratch) s
  let recs := ps.map (fun e => s.pourRecord e.1 e.2) ++ cs.map fun e => e.2.record
  let slots := (q.spilled.filter fun e => e.ctxNum == q.ctxNum).length
  let s := (s.writeCtx part save (leBytes 4 ps.length)).writeCtx part (save + 8) (leBytes 8 slots)
  (recs.zipIdx.foldl (fun (a : State × Nat) r =>
    let (s, off) := a
    let s := if r.2 < 504 then s.writeCtx part (save + 64 + 8 * r.2) (leBytes 8 off) else s
    (s.writeArea part (save + off) r.1, off + r.1.length)) (s, recordsAt)).1

/-! ## Reading the area back

At its restore a context takes from the area what R396 places in it: `late`, shapes, scratchpads, the registers of fibres,
engine programs and instances, rejoin registers, and the addresses of queued commands. What the area shows without a place of its own, or
that follows from the rest, stands in the image that the machine keeps (logs 55 and 95). -/

/-- Bytes of a context's area (22 R393): those in the partition's own DRAM, in frames under its table key. -/
def State.readArea (s : State) (part pa n : Nat) : Option (List Byte) :=
  let k := (s.part part).desc.tkey
  let last := (pa + (n - 1)) / 65536
  let frames := (List.range (last + 1 - pa / 65536)).map fun i => pa / 65536 + i
  if ownDram part pa n && frames.all fun f => s.keyOf false f == k then some (s.mem.readBytes (dramKey pa) n) else none

/-- Which bytes of an area lie in poisoned granules (22 R398). -/
def State.areaBad (s : State) (pa n : Nat) : List Bool := (List.range n).map fun i => s.mem.isPoison (dramKey pa + i)

/-- A read of an area corrects and counts what it finds (22 R398). -/
def State.touchArea (s : State) (part pa n : Nat) : State := if (s.readArea part pa n).isSome then s.touch (dramKey pa) n else s

/-- Whether one of `n` bytes of a record lies in a poisoned granule. -/
def badAt (po : List Bool) (o n : Nat) : Bool := ((po.drop o).take n).any id

/-- A number of `n` bytes in a record. -/
def fieldOf (bs : List Byte) (o n : Nat) : Nat := leNat ((bs.drop o).take n)

/-- A 32-bit word of a record, by number. -/
def wordOf (bs : List Byte) (i : Nat) : Word := BitVec.ofNat 32 (fieldOf bs (4 * i) 4)

/-- A bit of a packed list at a byte offset. -/
def bitOf (bs : List Byte) (o i : Nat) : Bool := (bs.getD (o + i / 8) 0#8).getLsbD (i % 8)

/-- A fibre as its record gives it (22 R396): a word whose value, tag or poison bit lies in a poisoned granule is poisoned (R398). -/
def Fibre.fromRecord (f : Fibre) (h : Header) (bs : List Byte) (po : List Bool) : Fibre :=
  let w := wordOf bs
  let head := (16 + h.rejoin + 3) / 4 * 4
  let n := head + f.win.length
  let reg (i : Nat) : Reg :=
    { val := w (16 + i), tag := BitVec.ofNat 16 (fieldOf bs (64 + 4 * n + 2 * i) 2)
      poison := bitOf bs (64 + 6 * n) i || badAt po (64 + 4 * i) 4 || badAt po (64 + 4 * n + 2 * i) 2 || badAt po (64 + 6 * n + i / 8) 1 }
  let q (i : Nat) : QReg :=
    let x := (reg i).val
    { code := x.extractLsb' 0 16, srcs := x.extractLsb' 16 8, dep := x.getLsbD 24
      poison := x.getLsbD 25 || (reg i).poison || (reg (8 + i / 2)).poison
      tag := (reg (8 + i / 2)).val.extractLsb' (16 * (i % 2)) 16 }
  { f with
    pc := (w 0).toNat, pred := (w 1).extractLsb' 0 16 ||| 1#16, fpmode := w 2, tagmode := (w 3).extractLsb' 0 2
    qtemp := w 4, qmode := (w 5).extractLsb' 0 2, lk := w 6, tinfo := (List.range 6).map fun i => w (8 + i), num := w 15
    crew := bits (w 14).toNat 10 4
    q := (List.range 8).map q
    win := f.win.zipIdx.map fun e => { reg (head + e.2) with parity := e.1.parity } }

/-- A rejoin register as its record gives it (02 R45). -/
def JReg.fromImage (j : JReg) (x : Nat) : JReg :=
  { j with expect := BitVec.ofNat 32 x, arrived := BitVec.ofNat 32 (x / 2 ^ 32), state := BitVec.ofNat 2 (x / 2 ^ 64)
           gen := BitVec.ofNat 8 (x / 2 ^ 66), limit := BitVec.ofNat 16 (x / 2 ^ 74), elapsed := BitVec.ofNat 32 (x / 2 ^ 96) }

/-- A weave as its record gives it: `member` and j0 to j7. -/
def Weave.fromRecord (v : Weave) (bs : List Byte) : Weave :=
  { v with member := wordOf bs 1, j := v.j.zipIdx.map fun e => e.1.fromImage (fieldOf bs (128 + 16 * e.2) 16) }

/-- An engine program as its section gives it: its k registers, p, lk and PC. -/
def Engine.fromSection (v : Engine) (n : Nat) (bs : List Byte) (po : List Bool) : Engine :=
  { v with
    k := v.k.zipIdx.map fun e =>
      if e.2 < n then { e.1 with val := wordOf bs e.2, poison := e.1.poison || badAt po (4 * e.2) 4 } else e.1
    pred := (wordOf bs n).setWidth _, lk := wordOf bs (n + 1), pc := (wordOf bs (n + 2)).toNat }

/-- An instance as its record gives it. -/
def Crucible.fromRecord (c : Crucible) (bs : List Byte) (po : List Bool) : Crucible :=
  let bad (at_ n flags i : Nat) : Bool := bitOf bs flags i || badAt po (at_ + n * i) n || badAt po (flags + i / 8) 1
  { c with
    c := (List.range 32).map fun i => { val := BitVec.ofNat 64 (fieldOf bs (8 * i) 8), poison := bad 0 8 256 i }
    y := (List.range 1024).foldl (fun m i => SMap.putD {} m i { val := wordOf bs (65 + i), poison := bad 260 4 4356 i }) []
    pc := fieldOf bs 4484 4 }

/-- The scratchpad of a pour as its section gives it: what a poisoned granule of the area gives is poisoned (22 R398). -/
def State.readScratch (s : State) (p : Pour) (bs : List Byte) (po : List Bool) : State :=
  let k := scratchKey p.core p.scratch
  let n := p.hdr.scratch
  let m := s.mem.store k (bs.take n)
  let m := (List.range (n / 4)).foldl (fun m i => m.setTag (k + 4 * i) (BitVec.ofNat 16 (fieldOf bs (n + 2 * i) 2))) m
  { s with mem := (List.range (n / 8)).foldl (fun m i =>
      m.setPoison (k + 8 * i) (bitOf bs (n + n / 2) i || badAt po (8 * i) 8 || badAt po (n + 4 * i) 4 || badAt po (n + n / 2 + i / 8) 1)) m }

/-- What a pour takes from a section of its record, by the section's number. -/
def State.readSection (s : State) (pid : Nat) (p : Pour) (i : Nat) (bs : List Byte) (po : List Bool) : State :=
  let engine (s : State) (k : EngKind) (n : Nat) : State :=
    { s with engines := s.engines.map fun e => if e.2.pour = pid ∧ e.2.kind = k then (e.1, e.2.fromSection n bs po) else e }
  match i with
  | 0 => s.modPour pid fun p => { p with late := wordOf bs 4 }
  | 1 => s.modPour pid fun p => { p with shapes := (List.range 16).map fun n => BitVec.ofNat 768 (fieldOf bs (96 * n) 96) }
  | 2 => s.readScratch p bs po
  | 3 =>
    let ws := (s.weaves.filter fun e => e.2.pour == pid).map (·.1)
    ws.zipIdx.foldl (fun s e => s.modWeave e.1 fun v => v.fromRecord (bs.drop (256 * e.2))) s
  | 5 =>
    let fs := (s.fibres.filter fun e => e.2.pour == pid).map (·.1)
    fs.zipIdx.foldl (fun s e => s.modFibre e.1 fun f =>
      f.fromRecord p.hdr (bs.drop (p.hdr.fibreBytes * e.2)) (po.drop (p.hdr.fibreBytes * e.2))) s
  | 7 => engine s .ladle 64
  | 8 =>
    let ids := ((s.cmds.filter fun c => c.core == p.core && c.pour == pid).map (·.id)).take 32
    ids.zipIdx.foldl (fun s e => s.modCmd e.1 fun c => { c with addr := BitVec.ofNat 64 (fieldOf bs (76 + 12 * e.2) 8) })
      (engine s .runner 16)
  | _ => s

/-- A pour takes what its record holds; a section that cannot be read leaves it as the image has it. -/
def State.readPour (s : State) (pid pa : Nat) : State :=
  match s.pour? pid with
  | none => s
  | some p =>
    ((s.pourSections pid p).zipIdx.foldl (fun (a : State × Nat) e =>
      let n := e.1.length
      let s := a.1.touchArea p.part a.2 n
      (match s.readArea p.part a.2 n with
        | some bs => if n = 0 then s else s.readSection pid p e.2 bs (s.areaBad a.2 n)
        | none => s, a.2 + n)) (s, pa)).1

/-- A restored context reads its save area (22 R396): each record at the offset that the header gives it; one past the last offset
that the header holds stays as the image has it. -/
def State.readImage (s : State) (part : Nat) : State :=
  let save := (s.part part).desc.save.toNat
  let ps := (s.pours.filter fun e => e.2.part == part).map (·.1)
  let cs := (s.crucibles.filter fun e => e.2.part == part).map (·.1)
  let s := s.touchArea part (save + 64) (8 * min 504 (ps.length + cs.length))
  let place (r : Nat) : Option Nat :=
    if r < 504 then (s.readArea part (save + 64 + 8 * r) 8).map fun bs => save + leNat bs else none
  let s := ps.zipIdx.foldl (fun s e => match place e.2 with | some pa => s.readPour e.1 pa | none => s) s
  cs.zipIdx.foldl (fun s e =>
    match place (ps.length + e.2) with
    | none => s
    | some pa =>
      let s := s.touchArea part pa 4544
      match s.readArea part pa 4544 with
      | some bs => { s with crucibles := SMap.modify s.crucibles e.1 fun c => c.fromRecord bs (s.areaBad pa 4544) }
      | none => s) s

end Sys2Proof.Machine
end

