-- ==== Sys2Proof/Machine/Crucible.lean ====
section
/-!
DEFINITION. Machine/Crucible.lean: the Crucible near-memory set (14 R305 to R316): its registers, its fates, and one
meaning for each of its words.
-/

namespace Sys2Proof.Machine

/-! ## Registers -/

/-- Scalar register `n`; c0 reads as 0 (14 R305). -/
def Crucible.cr (c : Crucible) (n : BitVec 5) : CReg := if n = 0#5 then {} else c.c.getD n.toNat {}

/-- Write scalar register `n`; writes to c0 are discarded (14 R305). -/
def Crucible.setC (c : Crucible) (n : BitVec 5) (v : CReg) : Crucible :=
  if n = 0#5 then c else { c with c := c.c.set n.toNat v }

/-- Element `i` of row register `n`. -/
def Crucible.ye (c : Crucible) (n : BitVec 5) (i : Nat) : YElem := SMap.getD c.y (64 * n.toNat + i) {}

/-- Write the elements of row register `n`. -/
def Crucible.setY (c : Crucible) (n : BitVec 5) (v : Nat → YElem) : Crucible :=
  { c with y := (List.range 64).foldl (fun m i => SMap.putD {} m (64 * n.toNat + i) (v i)) c.y }

/-- The site of the instance's word, with the pour bits of its instance number (06 R146). -/
def Crucible.here (c : Crucible) : Tag := hereOf c.hdr c.inst c.pc

/-- The request tag of the instance's task. -/
def State.cruTag (s : State) (c : Crucible) : BitVec 16 := match s.task? c.task with | some t => t.rtag | none => 0#16

/-! ## Fates -/

/-- Every fault halts the instance at its word, records the cause and the word offset, and ends the task by a purge (14
R309). Consumed poison has no code among the causes: the recorded one is a free value (log 77). -/
def State.cruHalt (s : State) (k cause : Nat) : State :=
  match s.crucible? k with
  | none => s
  | some c =>
    let (code, s) := s.causeCode cause
    let s := s.modCore c.chan fun x => { x with cstatus := tinfo1Of code c.pc }
    s.purge c.part (s.cruTag c) (if cause = cPoison then 0 else 2)

/-- The instance waits at its word. -/
def State.cruStall (s : State) (k : Nat) (kind : StallKind) (fault : Option Nat) : State :=
  s.modCrucible k fun c =>
    { c with stall := some { kind := kind, since := (match c.stall with | some t => t.since | none => s.clk), fault := fault } }

/-- The instance stalls until the driver has serviced a page (14 R309). -/
def State.cruWait (s : State) (k va : Nat) (write : Bool) : State :=
  match s.crucible? k with
  | none => s
  | some c =>
    let (f, s) := s.reportFault c.part va .crucible write c.chan (s.cruTag c)
    s.cruStall k .order (some f)

/-- The instance has executed its word. -/
def State.cruNext (s : State) (k : Nat) (g : Crucible → Crucible) : State :=
  s.modCrucible k fun c => { g c with pc := c.pc + 1, stall := none, prog := 0 }

/-- A word of the set: its static fates come first (14 R309 items 1 and 2), then the poison it consumes (item 3). Any
other party meets an illegal word. -/
def State.cruOp (s : State) (bad badOp : Bool) (reads : Crucible → List CReg)
    (body : State → Nat → Crucible → State) : Out :=
  match s.turn with
  | .crucible k =>
    match s.crucible? k with
    | none => .next s
    | some c =>
      if bad then .next (s.cruHalt k cIllegal)
      else if badOp then .next (s.cruHalt k cOperand)
      else if (reads c).any (·.poison) then .next (s.cruHalt k cPoison)
      else .next (body s k c)
  | _ => .next s

/-- Whether a field may name a row register: its bit 4 must be 0 (14 R306). -/
def yBad (n : BitVec 5) : Bool := n.getLsbD 4

/-! ## Memory -/

/-- Where an address leads for an instance (14 R309 item 5); a row is written on optimizer-managed pages alone. -/
def State.cruLoc (s : State) (part : Nat) (a : BitVec 64) (write : Bool) : Loc :=
  match aperture a with
  | .global va =>
    match s.globalLoc part va write with
    | .mem pl => if sortOfKey pl.key == .host || (write && !pl.opt) then .violation else .mem pl
    | .notPresent va => .notPresent va
    | _ => .violation
  | _ => .violation

/-- What comes of an instance's addresses: their places, a fatal access violation, or a page to wait for. -/
inductive CruLoc where
  | ok (ps : List Place)
  | fault
  | wait (va : Nat)
  deriving DecidableEq, Repr

/-- Locate every address: a fault comes before a page to wait for. -/
def State.cruLocs (s : State) (part : Nat) (as : List (BitVec 64)) (write : Bool) : CruLoc :=
  let ls := as.map fun a => s.cruLoc part a write
  if ls.contains .violation then .fault
  else
    match ls.findSome? fun l => match l with | .notPresent va => some va | _ => none with
    | some va => .wait va
    | none => .ok (ls.filterMap fun l => match l with | .mem pl => some pl | _ => none)

/-- Access memory at addresses: alignment, then access (14 R309 items 4 and 5), then `body` at their places; a
load waits for an open refresh window (04 R94). -/
def State.cruAccess (s : State) (k : Nat) (c : Crucible) (as : List (BitVec 64 × Nat)) (write : Bool)
    (body : State → List Place → State) : State :=
  if as.any fun a => decide (a.1.toNat % a.2 ≠ 0) then s.cruHalt k cMisalign
  else
    match s.cruLocs c.part (as.map (·.1)) write with
    | .fault => s.cruHalt k cAccess
    | .wait va => s.cruWait k va write
    | .ok ps =>
      if !write && ps.any fun pl => s.locRefresh (.mem pl) then s.cruStall k .order none
      else
        let s := as.foldl (fun s a => match aperture a.1 with | .global va => s.cached c.part va | _ => s) s
        body s ps

/-- The formats of rows (14 R311). -/
def rowFmt (f : Nat) : Bool := decide (f ≤ 6)

/-- Bytes of a row of 64 elements (14 R311). -/
def rowBytes (f : Nat) : Nat := 64 * slotBits f / 8

/-- Write bytes by an instance: whole granules as they stand, with their poison, and the site tag on a tagged page (06
R146, 14 R311, 22 R398). -/
def State.cruStore (s : State) (pl : Place) (here : Tag) (bs : List Byte) (poison : Nat → Bool) : State :=
  let s := s.touchPart pl.key bs.length
  let m := s.mem.store pl.key bs
  let m := (List.range bs.length).foldl (fun m i => if poison i then m.setPoison (pl.key + i) true else m) m
  let m := if pl.tagged then (List.range bs.length).foldl (fun m i =>
      if i = 0 ∨ (pl.key + i) % 8 = 0 then m.setTag (pl.key + i) here else m) m else m
  { s with mem := m }

/-! ## Scalars -/

/-- A scalar result: poisoned where any operand is (14 R310). -/
def State.cruScalar (s : State) (d : BitVec 5) (reads : Crucible → List CReg) (f : Crucible → BitVec 64) : Out :=
  s.cruOp false false (fun _ => []) fun s k c =>
    s.cruNext k fun c' => c'.setC d { val := f c, poison := (reads c).any (·.poison) }

/-- `CLDC` (14 R310). -/
def execCldc (d a : BitVec 5) (i : BitVec 17) (s : State) : Out :=
  s.cruOp false false (fun c => [c.cr a]) fun s k c =>
    let ad := (c.cr a).val + i.signExtend 64 <<< 3
    s.cruAccess k c [(ad, 8)] false fun s ps =>
      match ps with
      | pl :: _ =>
        let s := s.touch pl.key 8
        let v : CReg := { val := BitVec.ofNat 64 (s.mem.readNat pl.key 8), poison := s.mem.isPoison pl.key }
        s.cruNext k fun c => c.setC d v
      | [] => s

/-- `CMOVC` (14 R310). -/
def execCmovc (d a : BitVec 5) (u : BitVec 16) (s : State) : Out :=
  s.cruScalar d (fun c => [c.cr a]) fun c => (c.cr a).val <<< 16 + u.zeroExtend 64

/-- `CADDC` (14 R310). -/
def execCaddc (d a b : BitVec 5) (x : BitVec 12) (s : State) : Out :=
  s.cruScalar d (fun c => [c.cr a, c.cr b]) fun c => (c.cr a).val + (c.cr b).val + x.signExtend 64

/-- `CSUBC` (14 R310). -/
def execCsubc (d a b : BitVec 5) (s : State) : Out :=
  s.cruScalar d (fun c => [c.cr a, c.cr b]) fun c => (c.cr a).val - (c.cr b).val

/-- `CMULC` (14 R310). -/
def execCmulc (d a b : BitVec 5) (s : State) : Out :=
  s.cruScalar d (fun c => [c.cr a, c.cr b]) fun c => (c.cr a).val * (c.cr b).val

/-- Move the instance to a word relative to its own. -/
def State.cruJump (s : State) (k : Nat) (o : BitVec 22) : State :=
  s.modCrucible k fun c => { c with pc := offPc c.pc o.toInt, stall := none, prog := 0 }

/-- `CBNZ` (14 R310): a poisoned condition is consumed. -/
def execCbnz (a : BitVec 5) (o : BitVec 22) (s : State) : Out :=
  s.cruOp false false (fun c => [c.cr a]) fun s k c =>
    if (c.cr a).val = 0#64 then s.cruNext k id else s.cruJump k o

/-- `CJMP` (14 R310). -/
def execCjmp (o : BitVec 22) (s : State) : Out := s.cruOp false false (fun _ => []) fun s k _ => s.cruJump k o

/-! ## Rows -/

/-- An element of a row's bytes (05 R112). -/
def rowEl (n f i : Nat) : Nat := bits n (slotBits f * i) (fmtBits f)

/-- `CLDY` (14 R311). -/
def execCldy (d a b : BitVec 5) (sv : BitVec 1) (f : BitVec 8) (s : State) : Out :=
  let fm := f.toNat
  let sc := sv == 1#1
  s.cruOp (!rowFmt fm || (sc && !scaled fm) || (!sc && b != 0#5)) (yBad d)
    (fun c => if sc then [c.cr a, c.cr b] else [c.cr a]) fun s k c =>
    let row := (c.cr a).val
    let as := (row, rowBytes fm) :: (if sc then [((c.cr b).val, 2)] else [])
    s.cruAccess k c as false fun s ps =>
      match ps with
      | pl :: rest =>
        let s := s.touch pl.key (rowBytes fm)
        let s := rest.foldl (fun s p => s.touch p.key 2) s
        let n := s.mem.readNat pl.key (rowBytes fm)
        let e (q : Nat) : Nat := match rest with | p :: _ => (s.mem.read1 (p.key + q)).toNat | [] => 127
        let el (i : Nat) : YElem :=
          let q := e (i / 32)
          { val := BitVec.ofNat 32 (if q = 255 then canonNaN fFP32 else rne32 ((dec (rowEl n fm i) fm).scale ((q : Int) - 127)))
            poison := s.mem.isPoison (pl.key + slotBits fm * i / 8) }
        s.cruNext k fun c => c.setY d el
      | [] => s

/-- The elements of a row as they are stored (14 R311): each block's scale, and the conversions. -/
def Crucible.stored (c : Crucible) (d : BitVec 5) (fm mode : Nat) (sc : Bool) : List Nat × List Conv :=
  let v (i : Nat) : FVal := dec (c.ye d i).val.toNat fFP32
  let e (q : Nat) : Nat := if sc then blockScale (emaxOf fm) ((List.range 32).map fun i => v (32 * q + i)) else 255
  let es := [e 0, e 1]
  (es, (List.range 64).map fun i =>
    let q := es.getD (i / 32) 255
    let x := if q = 255 then v i else dec (rne32 ((v i).scale (127 - (q : Int)))) fFP32
    rnd x fm mode 0)

/-- The bytes of a row of elements (05 R112). -/
def packRow (fm : Nat) (cs : List Conv) : List Byte :=
  leBytes (rowBytes fm) ((cs.zipIdx.map fun e => e.1.bits * 2 ^ (slotBits fm * e.2)).foldl (· + ·) 0)

/-- Whether a byte of a row belongs to a poisoned element. -/
def Crucible.rowPoison (c : Crucible) (d : BitVec 5) (fm j : Nat) : Bool :=
  (List.range 64).any fun i =>
    decide (slotBits fm * i < 8 * (j + 1)) && decide (8 * j < slotBits fm * (i + 1)) && (c.ye d i).poison

/-- `CSTY` (14 R311). -/
def execCsty (d a b : BitVec 5) (m : BitVec 3) (sv : BitVec 1) (f : BitVec 8) (s : State) : Out :=
  let fm := f.toNat
  let sc := sv == 1#1
  s.cruOp (!rowFmt fm || (sc && !scaled fm) || (!sc && b != 0#5) || decide (3 < m.toNat)) (yBad d)
    (fun c => if sc then [c.cr a, c.cr b] else [c.cr a]) fun s k c =>
    let as := ((c.cr a).val, rowBytes fm) :: (if sc then [((c.cr b).val, 2)] else [])
    s.cruAccess k c as true fun s ps =>
      match ps with
      | pl :: rest =>
        let (es, cs) := c.stored d fm m.toNat sc
        let po (q : Nat) : Bool := (List.range 32).any fun i => (c.ye d (32 * q + i)).poison
        let s := rest.foldl (fun s p => s.cruStore p c.here (es.map fun e => BitVec.ofNat 8 e) po) s
        let s := s.cruStore pl c.here (packRow fm cs) (c.rowPoison d fm)
        (s.countConv c.chan cs).cruNext k id
      | [] => s

/-- An element-wise operation on rows (14 R312): an element is poisoned where one it reads is. -/
def State.cruRow (s : State) (bad : Bool) (d : BitVec 5) (srcs : List (BitVec 5)) (f : List Nat → Nat) : Out :=
  s.cruOp bad (yBad d || srcs.any yBad) (fun _ => []) fun s k c =>
    s.cruNext k fun c' => c'.setY d fun i =>
      let es := srcs.map fun n => c.ye n i
      { val := BitVec.ofNat 32 (f (es.map fun e => e.val.toNat)), poison := es.any (·.poison) }

/-- A function of two elements. -/
def two (f : Nat → Nat → FRes) (l : List Nat) : Nat := (f (l.getD 0 0) (l.getD 1 0)).1

/-- `CFMA` (14 R312): yD is the addend. -/
def execCfma (d a b : BitVec 5) (s : State) : Out :=
  s.cruRow false d [a, b, d] fun l => (ffmaR fFP32 0#32 (l.getD 0 0) (l.getD 1 0) (l.getD 2 0)).1

/-- `CMUL` (14 R312). -/
def execCmul (d a b : BitVec 5) (s : State) : Out := s.cruRow false d [a, b] (two (fmulR fFP32 0#32))

/-- `CADD` (14 R312). -/
def execCadd (d a b : BitVec 5) (s : State) : Out := s.cruRow false d [a, b] (two (faddR fFP32 0#32))

/-- `CSUB` (14 R312). -/
def execCsub (d a b : BitVec 5) (s : State) : Out := s.cruRow false d [a, b] (two (fsubR fFP32 0#32))

/-- `CMAX` (14 R312). -/
def execCmax (d a b : BitVec 5) (s : State) : Out := s.cruRow false d [a, b] (two (fminmaxR true 0#32))

/-- `CMIN` (14 R312). -/
def execCmin (d a b : BitVec 5) (s : State) : Out := s.cruRow false d [a, b] (two (fminmaxR false 0#32))

/-- `CRSQ` (14 R312). -/
def execCrsq (d a : BitVec 5) (s : State) : Out := s.cruRow false d [a] fun l => (frsqR 0#32 (l.getD 0 0)).1

/-- `CSQRT` (14 R312). -/
def execCsqrt (d a : BitVec 5) (s : State) : Out := s.cruRow false d [a] fun l => (fsqrtR 0#32 (l.getD 0 0)).1

/-- `CSPLAT` (14 R312): A names a scalar. -/
def execCsplat (d a : BitVec 5) (s : State) : Out :=
  s.cruOp false (yBad d) (fun _ => []) fun s k c =>
    let r := c.cr a
    s.cruNext k fun c => c.setY d fun _ => { val := r.val.extractLsb' 0 32, poison := r.poison }

/-- `CCVT` (14 R312): rounded to a narrow format and back; the low 16 bits of yB are the dither. -/
def execCcvt (d a b : BitVec 5) (m : BitVec 3) (f : BitVec 8) (s : State) : Out :=
  let fm := f.toNat
  let mode := m.toNat
  let dith := mode == mDITHER
  let conv (c : Crucible) (i : Nat) : Conv :=
    rnd (dec (c.ye a i).val.toNat fFP32) fm mode (if dith then (c.ye b i).val.toNat % 65536 else 0)
  s.cruOp (!rowFmt fm || fm == fFP32 || decide (4 < mode) || (!dith && b != 0#5)) (yBad d || yBad a || yBad b)
    (fun _ => []) fun s k c =>
    let s := s.countConv c.chan ((List.range 64).map (conv c))
    s.cruNext k fun c' => c'.setY d fun i =>
      { val := BitVec.ofNat 32 (rne32 (dec (conv c i).bits fm))
        poison := (c.ye a i).poison || (dith && (c.ye b i).poison) }

/-! ## The paired store -/

/-- The transposed address of element `i` (14 R313): the stride is in c(B+1). -/
def Crucible.transAt (c : Crucible) (b : BitVec 5) (i : Nat) : BitVec 64 :=
  (c.cr b).val + BitVec.ofNat 64 i * (c.cr (b + 1#5)).val

/-- Write the transposed elements from the `i`th on; one that faults halts the instance with the earlier ones written, and
a page that is not present keeps it at that element. -/
def State.cruScatter (s : State) (k : Nat) (c : Crucible) (b d : BitVec 5) (fm : Nat) (cs : List Conv) :
    Nat → Nat → State
  | 0, _ => s.cruNext k id
  | n + 1, i =>
    let a := c.transAt b i
    match s.cruLoc c.part a true with
    | .notPresent va => (s.modCrucible k fun c => { c with prog := i + 1 }).cruWait k va true
    | .mem pl =>
      let s := match aperture a with | .global va => s.cached c.part va | _ => s
      let w := slotBits fm / 8
      let s := s.cruStore pl c.here (leBytes w (cs.getD i { bits := 0 }).bits) fun _ => (c.ye d i).poison
      State.cruScatter s k c b d fm cs n (i + 1)
    | _ => s.cruHalt k cAccess

/-- `CPAIR` (14 R313): the plain copy whole, then the transposed elements in order. -/
def execCpair (d a b : BitVec 5) (m : BitVec 3) (f : BitVec 8) (s : State) : Out :=
  let fm := f.toNat
  s.cruOp (decide (4 < fm) || decide (3 < m.toNat)) (yBad d || b == 31#5)
    (fun c => [c.cr a, c.cr b, c.cr (b + 1#5)]) fun s k c =>
    let w := slotBits fm / 8
    let (_, cs) := c.stored d fm m.toNat false
    if (c.cr a).val.toNat % rowBytes fm ≠ 0 ∨ (List.range 64).any (fun i => decide ((c.transAt b i).toNat % w ≠ 0)) then
      s.cruHalt k cMisalign
    else if c.prog ≠ 0 then s.cruScatter k c b d fm cs (65 - c.prog) (c.prog - 1)
    else
      s.cruAccess k c [((c.cr a).val, rowBytes fm)] true fun s ps =>
        match ps with
        | pl :: _ =>
          let s := s.cruStore pl c.here (packRow fm cs) (c.rowPoison d fm)
          (s.countConv c.chan cs).cruScatter k c b d fm cs 64 0
        | [] => s

/-! ## Edges, signals, fences, the end -/

/-- A view of the instance by which the shared operations find its partition. -/
def Crucible.asPour (c : Crucible) : Pour :=
  { part := c.part, core := c.chan, slot := 0, task := c.task, idx := c.inst, first := 0#32, hdr := c.hdr, code := c.code,
    scratch := 0 }

/-- The cause of a pop's fault: a descriptor fault of 03 R74 but its misalignment is an access violation (14 R309 items 4, 5). -/
def popCause (cause : Nat) : Nat := if cause = cMisalign then cMisalign else cAccess

/-- Whether the entry that a pop would take lies on a host frame, which a Crucible may not reach (14 R309 item 5). -/
def State.popsHost (s : State) (part : Nat) (a : BitVec 64) : Bool :=
  match s.edgeAt part a with
  | .ok _ e => (match s.edgeSlot part e e.head false with | .mem pl => sortOfKey pl.key == .host | _ => false)
  | _ => false

/-- `CEPOP` (14 R314): an acquire at device scope; it waits for an entry. -/
def execCepop (d a : BitVec 5) (s : State) : Out :=
  s.cruOp false (d.getLsbD 0) (fun c => [c.cr a]) fun s k c =>
    let ad := (c.cr a).val
    match s.edgeTake c.asPour ad with
    | .fault cause _ _ => s.cruHalt k (popCause cause)
    | .consume => s.cruHalt k cPoison
    | .hold va wr => s.cruWait k va wr
    | .wait => s.cruStall k .epop none
    | .done s2 ws =>
      if s.popsHost c.part ad then s.cruHalt k cAccess
      else
        let key := s.edgeKey c.part ad
        let clock := s2.syncOf key
        let word (i : Nat) : CReg :=
          { val := (ws.getD (2 * i + 1) {}).val ++ (ws.getD (2 * i) {}).val, poison := (ws.getD (2 * i) {}).poison }
        (s2.setSync key []).cruNext k fun c =>
          { (c.setC d (word 0)).setC (d + 1#5) (word 1) with clock := joinClock c.clock clock, region := c.region + 1 }

/-- What an instance releases: all it knows, and its own region. -/
def Crucible.released (c : Crucible) : Clock := joinClock c.clock [(c.uid, c.region)]

/-- `CTSIG` (14 R315): a release at device scope. -/
def execCtsig (a b : BitVec 5) (s : State) : Out :=
  s.cruOp false false (fun c => [c.cr a, c.cr b]) fun s k c =>
    let s := s.signal c.part ((c.cr a).val.extractLsb' 0 32) ((c.cr b).val.extractLsb' 0 32) c.released
    s.cruNext k fun c => { c with region := c.region + 1 }

/-- `CHALT` (14 R315): the instance ends, and its task with the last one (03 R63). -/
def execChalt (s : State) : Out :=
  s.cruOp false false (fun _ => []) fun s k c =>
    let key : SyncKey := .task c.task
    let s := s.setSync key (joinClock (s.syncOf key) c.released)
    let s := { s with crucibles := SMap.erase s.crucibles k }
    let s := s.modTask c.task fun t => { t with live := t.live - 1 }
    match s.task? c.task with
    | none => s
    | some t => if t.live = 0 ∧ t.placed = t.total then s.endTask c.task 0 else s

/-- `CFENCE` (14 R316): a fence of device scope (12 R264). -/
def execCfence (s : State) : Out :=
  s.cruOp false false (fun _ => []) fun s k c =>
    let clock := joinClock c.clock (s.syncOf (.fence none))
    let c' : Crucible := { c with clock := clock }
    let s := s.setSync (.fence none) (joinClock (s.syncOf (.fence none)) c'.released)
    s.cruNext k fun c => { c with clock := clock, region := c.region + 1 }

end Sys2Proof.Machine
end

