-- ==== Sys2Proof/Machine/Placement.lean ====
section
/-!
DEFINITION. Machine/Placement.lean: the partition's dispatch (03 R65 to R71): the kernel header (20 R347, R348), the choice
of a level, the fit of a pour, and the placement of pours and instances.
-/

namespace Sys2Proof.Machine

/-! ## Reads under the context's translation -/

/-- A byte read under a context's translation (03 R69), none at any fault. -/
def State.ctxByte (s : State) (part : Nat) (a : BitVec 64) : Option Byte :=
  match aperture a with
  | .global va =>
    match s.globalLoc part va false with
    | .mem pl => some (s.mem.read1 pl.key)
    | .peer d w o t => (peerRead d w o 1 t s.free).map fun r => r.bytes.getD 0 0#8
    | _ => none
  | _ => none

/-- Bytes read under a context's translation. -/
def State.ctxBytes (s : State) (part : Nat) (a : BitVec 64) : Nat → Option (List Byte)
  | 0 => some []
  | n + 1 =>
    match s.ctxByte part a, State.ctxBytes s part (a + 1#64) n with
    | some b, some bs => some (b :: bs)
    | _, _ => none

/-- Whether a read under a context's translation meets an open refresh window (04 R94), or a walker unit that stalls (23 R406). -/
def State.ctxShut (s : State) (part : Nat) (a : BitVec 64) (n : Nat) : Bool :=
  (List.range n).any fun i =>
    match aperture (a + BitVec.ofNat 64 i) with
    | .global va =>
      match s.globalLoc part va false with
      | .mem pl => (match wsGroup pl.key with | some (_, g) => windowOpen s.clk g | none => false)
      | .notPresent _ => s.walkerHalted part
      | _ => false
    | _ => false

/-- Such a read corrects and counts what it finds (22 R398). -/
def State.ctxTouch (s : State) (part : Nat) (a : BitVec 64) (n : Nat) : State :=
  if s.mem.sound then s
  else
    (List.range n).foldl (fun s i =>
      match aperture (a + BitVec.ofNat 64 i) with
      | .global va => (s.touchLoc (s.globalLoc part va false) 1 false).touchWalk part va
      | _ => s) s

/-- The header (20 R347), none where the task fails at placement (R348). -/
def parseHeader (n : Nat) (tier : Bool) : Option Header :=
  let entry (lo : Nat) : Option Nat := if bits n (lo + 27) 1 = 1 then some (bits n lo 27) else none
  let h : Header := {
    tier := bits n 40 1 = 1, regs := bits n 48 8, span := bits n 56 4, rejoin := bits n 64 7, scratch := bits n 72 21,
    stack := bits n 96 17, nwords := bits n 128 27, hent := entry 160, lent := entry 192, rent := entry 224,
    base := bits n 256 12 }
  let resv := [(41, 7), (60, 4), (71, 1), (93, 3), (113, 15), (155, 5), (188, 4), (220, 4), (252, 4), (268, 52), (448, 64)]
  let es := [h.hent, h.lent, h.rent].filterMap id
  let rising := (0 :: es).zip es |>.all fun e => decide (e.1 < e.2)
  let limits := if tier then h.regs = 0 ∧ h.rejoin = 0 ∧ h.scratch = 0 ∧ h.stack = 0 ∧ es = []
    else 8 ≤ h.regs ∧ h.regs ≤ 240 ∧ h.regs % 4 = 0 ∧ 1 ≤ h.rejoin ∧ h.rejoin ≤ 64 ∧ h.scratch ≤ 1048576
      ∧ h.scratch % 64 = 0 ∧ h.stack ≤ 65536 ∧ h.stack % 16 = 0
  if bits n 0 32 = 0x4B535247 ∧ bits n 32 8 = 1 ∧ resv.all (fun r => decide (bits n r.1 r.2 = 0)) ∧ h.tier = tier
      ∧ 1 ≤ h.nwords ∧ limits ∧ es.all (fun e => decide (e < h.nwords)) ∧ rising then some h else none

/-- The header of a record's kernel. -/
def State.readHeader (s : State) (t : Task) : Option Header :=
  match s.ctxBytes t.part t.code 64 with
  | some bs => parseHeader (leNat bs) t.tier
  | none => none

/-- The range that a record's frame gives (03 R77), none where the task fails at placement. -/
def State.readRange (s : State) (tid : Nat) (t : Task) : Option Range :=
  match s.ctxBytes t.part t.frame 16 with
  | none => none
  | some bs =>
    let n := leNat bs
    if bits n 96 32 ≠ 0 then none
    else
      let w (i : Nat) : Word := BitVec.ofNat 32 (bits n (32 * i) 32)
      some { task := some tid, start := w 0, total := w 1, minc := w 2, left := w 1, pours := t.total }

/-- The unit that a record's range field names (20 R359). -/
def State.rangeUnit (s : State) (t : Task) : Option Nat := t.range.map fun r => (s.part t.part).rangeTab.getD r r

/-- Whether the record's range unit is bound to another task that has not completed (03 R69). -/
def State.rangeBusy (s : State) (tid : Nat) (t : Task) : Bool :=
  match s.rangeUnit t with
  | none => false
  | some r =>
    match (SMap.getD (s.part t.part).ranges r {}).task with
    | some o => o != tid
    | none => false

/-! ## The level -/

/-- The level of the next placement (03 R66). -/
def State.levelOf (s : State) (part : Nat) : Option Nat :=
  let has (l : Nat) : Bool := !(s.readyAt part l).isEmpty
  if has 0 then some 0
  else
    match [1, 2, 3].find? fun l => decide ((s.part part).ages.getD (l - 1) 0 = 64) with
    | some l => some l
    | none => [1, 2, 3].find? has

/-- What a placement from a level does to the age counts (03 R67), once it has been made. -/
def State.placedAt (s : State) (part lvl : Nat) : State :=
  let s := s.modPart part fun p =>
    { p with
      placeAt := s.clk + 2
      choice := none
      ages := p.ages.zipIdx.map fun a =>
        let l := a.2 + 1
        if lvl = l then 0 else if 1 ≤ lvl ∧ lvl < l then min 64 (a.1 + 1) else a.1 }
  s.settleAges part

/-! ## The fit -/

/-- Live fibres of a core. -/
def State.coreFibres (s : State) (core : Nat) : Nat :=
  (s.fibres.filter fun e => match s.pour? e.2.pour with | some p => p.core == core | none => false).length

/-- Create the launch fibres of a pour (02 R31), each with its window, its stack and, in a redundant pair, its checkpoint records
(22 R394); none where one finds no room. -/
def State.makeFibres (s : State) (pid : Nat) (p : Pour) (clock : Clock) : Nat → Nat → Option State
  | 0, _ => some s
  | n + 1, r =>
    let quad := r / 32 % 4
    let lane := r % 32
    let ckpt := if p.pair.isSome then s.ckptHole p.part p.core p.hdr else none
    match s.bankHole p.core quad lane p.hdr, s.stackHole p.part p.core p.hdr.stack, p.pair.isSome && ckpt.isNone with
    | some w, some k, false =>
      let (id, s) := s.fresh
      let f : Fibre := { pour := pid, num := p.first + BitVec.ofNat 32 r, rank := r, quad := quad, lane := lane, weave := none,
                         win := List.replicate p.hdr.regs {}, wbase := w, stack := k, ckpt := ckpt, clock := clock }
      let s := { s with fibres := SMap.put s.fibres id f }
      State.makeFibres (s.clearStack p k) pid p clock n (r + 1)
    | _, _, _ => none

/-- The fibres of pour `k` of a record (03 R65). -/
def Task.pourSize (t : Task) (k : Nat) : Nat := min t.nfib.toNat ((k + 1) * t.psize) - k * t.psize

/-- Place a pour on a core, with its fibres and without its weaves, none where the core does not fit it (03 R68). -/
def State.tryCore (s : State) (tid : Nat) (t : Task) (h : Header) (k : Nat) (pair : Option Nat) (core : Nat) :
    Option (Nat × State) :=
  let s := s.mirrorCheck core
  let n := t.pourSize k
  match s.pourSlot core, s.scratchHole core h.scratch with
  | some slot, some off =>
    let (pid, s) := s.fresh
    let p : Pour := { part := t.part, core := core, slot := slot, task := tid, idx := k,
                      first := BitVec.ofNat 32 (k * t.psize), hdr := h, code := t.code, scratch := off, pair := pair }
    let s := { s with pours := SMap.put s.pours pid p }
    (s.makeFibres pid p t.clock n 0).map fun s => (pid, s)
  | _, _ => none

/-- The cores of a partition, by logical number (20 R359). -/
def State.coresOf (s : State) (part : Nat) : List Nat :=
  (s.part part).coreTab.map fun i => Config.perPart * part + i

/-- Place a pour on the fitting core with the fewest live fibres, the lowest logical number of those (03 R68, 20 R359). -/
def State.placeOn (s : State) (tid : Nat) (t : Task) (h : Header) (k : Nat) (pair : Option Nat) (but : Option Nat) :
    Option (Nat × Nat × State) :=
  let cs := (s.coresOf t.part).filterMap fun c =>
    if some c = but then none
    else (s.tryCore tid t h k pair c).map fun r => (s.coreFibres c, c, r.1, r.2)
  cs.foldl (fun (b : Option (Nat × Nat × Nat × State)) e =>
    match b with
    | none => some e
    | some x => if e.1 < x.1 then some e else some x) none |>.map
      fun e => (e.2.1, e.2.2.1, e.2.2.2)

/-- Form the initial weaves of a pour (02 R31, R33); a weave that finds no issue slot waits for one. -/
def State.launch (s : State) (pid : Nat) : State :=
  match s.pour? pid with
  | none => s
  | some p =>
    let fs := s.fibres.filter fun e => e.2.pour == pid
    let n := (fs.length + 31) / 32
    let s := (List.range n).foldl (fun s i =>
      (s.formWeave pid p.core (i % 4) (s.issueSlot p.core (i % 4)) (fs.filter fun e => e.2.rank / 32 == i)).2) s
    s.mirrorCheck p.core

/-! ## Samples -/

/-- Count an eligible pour, and sample every 2^s-th where no sample is held (24 R419). -/
def State.assayPour (s : State) (tid : Nat) (t : Task) (pid core : Nat) : State :=
  let q := s.part t.part
  if t.tier || !t.assay || t.rpair || !q.asycfg.getLsbD 31 then s
  else
    let n := q.asycnt + 1
    let s := s.modPart t.part fun p => { p with asycnt := n }
    if n % 2 ^ bits q.asycfg.toNat 0 5 ≠ 0 || q.sample.isSome then s
    else
      match s.pour? pid with
      | none => s
      | some p =>
        let m : Sample := { pour := pid, task := tid, core := core, rtag := t.rtag, handle := t.handle, idx := p.idx
                            record := t, hdr := p.hdr }
        (s.modPart t.part fun q => { q with sample := some m }).modPour pid fun p => { p with assay := true }

/-! ## PLACEMENT -/

/-- The task fails at placement (03 R69): outcome 2, no signal, and a purge of its tag. DESIGN CHOICE (log 100): that is no
placement, so the next may come at once (R66), and no age changes by it (R67). -/
def State.failPlacement (s : State) (tid : Nat) (t : Task) : State :=
  (s.endTask tid 2).purge t.part t.rtag 3

/-- Whether the dispatch of a partition may place (21 R367, 22 R393, R395, 23 R406): the context runs, no weight-store copy
is busy, two core cycles have passed since the last placement (R66), and no halted firmware core serves its dispatcher. -/
def State.mayPlace (s : State) (part : Nat) : Bool :=
  let p := s.part part
  p.ctx == .running && decide (p.wsst ≠ 1) && decide (p.placeAt ≤ s.clk)
    && !s.dev.fwHalted.contains (3 * dieOf part + 1)

/-- Note a placement in its record. -/
def State.notePlaced (s : State) (tid : Nat) (t : Task) (h : Header) (unit : Option (Nat × Range)) : State :=
  let s := s.modTask tid fun t => { t with placed := t.placed + 1, live := t.live + 1, hdr := some h, bound := unit.isSome }
  match unit with
  | some (r, u) => if t.placed = 0 then s.modPart t.part fun p => { p with ranges := SMap.put p.ranges r u } else s
  | none => s

/-- Place an instance (03 R71, 14 R305). -/
def State.placeInstance (s : State) (tid : Nat) (t : Task) (h : Header) : State :=
  let i := t.placed
  let (id, s) := s.fresh
  let chan := Config.perPart * t.part + (s.part t.part).chanTab.getD (i % Config.perPart) 0
  let c : Crucible := { chan := chan, part := t.part, task := tid, inst := i, hdr := h, code := t.code, uid := id, clock := t.clock }
  let c := ((c.setC 1#5 { val := t.frame }).setC 2#5 { val := BitVec.ofNat 64 i }).setC 3#5 { val := t.nfib.zeroExtend 64 }
  { s with crucibles := SMap.put s.crucibles id c }

/-- Place a pour, or both members of a redundant pair (03 R68); none where no core fits it. -/
def State.placePour (s : State) (tid : Nat) (t : Task) (h : Header) : Option State :=
  if t.rpair then
    let (k, s) := s.fresh
    match s.placeOn tid t h t.placed (some k) none with
    | none => none
    | some (c, lead, s) =>
      match s.placeOn tid t h t.placed (some k) (some c) with
      | none => none
      | some (_, trail, s) =>
        let pr : Pair := { lead := lead, trail := trail }
        let s := { s with pairs := SMap.put s.pairs k pr }
        some ((s.launch lead).launch trail)
  else
    match s.placeOn tid t h t.placed none none with
    | none => none
    | some (c, pid, s) => some ((s.launch pid).assayPour tid t pid c)

/-- No core fits the chosen pour (03 R68): it is kept, and no other is placed ahead of it. -/
def State.block (s : State) (part tid : Nat) : State :=
  s.modPart part fun p => { p with choice := some { task := tid, blocked := true } }

/-- Place the head record's next pour or instance; one that does not fit is kept as the choice (03 R66 to R71). -/
def State.placeHead (s : State) (lvl tid : Nat) (t : Task) : State :=
  let first := decide (t.placed = 0)
  if first && s.rangeBusy tid t then s.block t.part tid
  else
    let hdr := match t.hdr with | some h => some h | none => s.readHeader t
    match hdr with
    | none => s.failPlacement tid t
    | some h =>
      let unit : Option (Option (Nat × Range)) :=
        match s.rangeUnit t with
        | some r =>
          if first then (s.readRange tid t).map fun u => some (r, u)
          else some (some (r, SMap.getD (s.part t.part).ranges r {}))
        | none => some none
      match unit with
      | none => s.failPlacement tid t
      | some u =>
        if t.tier then ((s.placeInstance tid t h).notePlaced tid t h u).placedAt t.part lvl
        else
          match s.placePour tid t h with
          | none => s.block t.part tid
          | some s => ((s.notePlaced tid t h u).placedAt t.part lvl)

/-- What the placement of a record reads: the header of a kernel that has not been read, and the frame of its first pour's range. -/
def State.headReads (s : State) (tid : Nat) (t : Task) : List (BitVec 64 × Nat) :=
  if t.placed = 0 && s.rangeBusy tid t then []
  else
    (if t.hdr.isNone then [(t.code, 64)] else []) ++ (if t.placed = 0 && t.range.isSome then [(t.frame, 16)] else [])

/-- The record of the next placement: the one that a dispatch has chosen and found no core for, once a pour has ended since (03
R68, log 78); otherwise the head of the level (R66). -/
def State.chosen (s : State) (part : Nat) : Option (Nat × Task) :=
  match (s.part part).choice with
  | some c => if c.blocked then none else (s.task? c.task).map fun t => (c.task, t)
  | none =>
    match s.levelOf part with
    | none => none
    | some lvl => (s.readyAt part lvl).head?

/-- PLACEMENT (95, 03 R65 to R71): reads that meet an open refresh window hold it up (04 R94). -/
def execPlacement (part : Nat) (s : State) : Out :=
  if !s.mayPlace part then .next s
  else
    match s.chosen part with
    | none => .next s
    | some e =>
      let reads := s.headReads e.1 e.2
      if reads.any fun r => s.ctxShut part r.1 r.2 then .next s
      else
        let s := reads.foldl (fun s r => s.ctxTouch part r.1 r.2) s
        .next (s.placeHead e.2.queue e.1 e.2)

end Sys2Proof.Machine
end

