-- ==== Sys2Proof/Machine/Fabric.lean ====
section
/-!
DEFINITION. Machine/Fabric.lean: what arrives on the fabric: puts at receive windows (08 R174, 22 R390), reads by peers (04 R96),
purge messages (22 R401); the refresh windows of the weight store (04 R94) and the end of a mirror's copy (20 R350).
-/

namespace Sys2Proof.Machine

/-- The place of a byte of a receive window (22 R390): its base lies on local DRAM leaves. -/
def State.winPlace (s : State) (part va : Nat) (wr : Bool) : Loc :=
  match s.globalLoc part va wr with
  | .mem pl => (match sortOfKey pl.key with | .dram => .mem pl | _ => .fatal)
  | .notPresent v => .notPresent v
  | _ => .fatal

/-- The places of the granules of a transfer: a page to wait for, a fault, or the places (22 R390, R391). -/
def State.winPlaces (s : State) (part va : Nat) (wr : Bool) : Nat → Except (Option Nat) (List Place)
  | 0 => .ok []
  | n + 1 =>
    match s.winPlace part va wr with
    | .mem pl =>
      match State.winPlaces s part (va - va % 8 + 8) wr n with
      | .ok ps => .ok (pl :: ps)
      | .error e => .error e
    | .notPresent v => .error (some v)
    | _ => .error none

/-- The granules that some bytes from an address touch. -/
def spanGranules (va len : Nat) : Nat := (va % 8 + len + 7) / 8

/-- Write the granules of a put: bytes, poison, and on tagged pages tags (12 R275, 06 R145). A transfer that carries no tags
writes 0xFFF0. -/
def landGranules (m : Memory) (p : Payload) : Nat → Nat → List Place → Memory
  | _, _, [] => m
  | i, done, pl :: ps =>
    let n := min (8 - pl.key % 8) (p.bytes.length - done)
    let m := m.store pl.key ((p.bytes.drop done).take n)
    let m := if p.poison.getD i false then m.setPoison pl.key true else m
    let m := if pl.tagged then m.setTag pl.key (p.tags.getD i Config.noTag) else m
    landGranules m p (i + 1) (done + n) ps

/-- The granules that a put covers in part are corrected and counted (22 R398, 24 R425): `left` bytes of it remain. -/
def State.touchPut (s : State) : Nat → List Place → State
  | _, [] => s
  | left, pl :: ps =>
    let n := min (8 - pl.key % 8) left
    State.touchPut (s.touchPart pl.key n) (left - n) ps

/-- A message that leaves on the fabric. -/
def State.send (s : State) (m : FabricMsg) : State := s.modDev fun d => { d with fabric := d.fabric ++ [m] }

/-- A put lands in its window (08 R174, 22 R390): the bytes, the receiver's counter, then the acknowledgement. A fault of the
receiver's translation, or a window that is not open to the put, fails it at the sender; a page that is not present is
reported, and the put waits for the driver's answer (22 R391). Flits that decode to no payload are a fabric error (24 R428). -/
def State.landPut (s : State) (part : Nat) (p : FabricPut) : State :=
  match SMap.get? (s.part part).wins p.win, payloadOf p with
  | none, _ | _, none => s.send (.putFailed part p.win)
  | some w, some b =>
    if !w.w || decide (w.len < p.off + p.len) then s.send (.putFailed part p.win)
    else
      let va := w.base.toNat + p.off
      match s.winPlaces part va true (spanGranules va p.len) with
      | .error none => s.send (.putFailed part p.win)
      | .error (some v) =>
        let (f, s) := s.reportFault part v .put true (Config.perPart * part) p.rtag
        s.modPart part fun q => { q with landing := q.landing ++ [(f, p)] }
      | .ok ps =>
        let s := s.touchPut p.len ps
        let s := { s with mem := landGranules s.mem b 0 0 ps }
        let s := s.modPart part fun q => { q with wins := SMap.modify q.wins p.win fun w => { w with count := w.count + 1#32 } }
        (s.send (.ack part p.win))

/-- PUT_ARRIVAL (95, 04 R97, 08 R174). -/
def execPutArrival (part : Nat) (p : FabricPut) (s : State) : Out := .next (s.landPut part p)

/-- The puts that waited for a page land, or fail with a fatal answer (22 R392). -/
def State.landWaiting (s : State) (part fault : Nat) (fatal : Bool) : State :=
  let ps := (s.part part).landing.filter fun e => e.1 == fault
  let s := s.modPart part fun q => { q with landing := q.landing.filter fun e => e.1 != fault }
  ps.foldl (fun s e => if fatal then s.send (.putFailed part e.2.win) else s.landPut part e.2) s

/-- FABRIC_READ_REQUEST (95, 04 R96, 24 R427): a peer's load of a window: the coded response with its tags, or an error. -/
def execFabricReadRequest (part win off len : Nat) (s : State) : Out :=
  match SMap.get? (s.part part).wins win with
  | none => .next (s.send (.readFailed part win))
  | some w =>
    if w.len < off + len then .next (s.send (.readFailed part win))
    else
      let va := w.base.toNat + off
      match s.winPlaces part va false (spanGranules va len) with
      | .error e => .next (if e.isSome && s.walkerHalted part then s else s.send (.readFailed part win))
      | .ok ps =>
        let s := ps.foldl (fun s pl => s.touchLoc (.mem pl) 1) s
        let bs := (ps.flatMap fun pl => (List.range (8 - pl.key % 8)).map fun i => s.mem.read1 (pl.key + i)).take len
        let b : Payload := { bytes := bs, tags := ps.map fun pl => s.mem.wordTag pl pl.key
                             poison := ps.map fun pl => s.mem.isPoison pl.key }
        .next (s.send (.readData bs.length (fluxCode true b)))

/-- PURGE_MESSAGE_RECEIVED (95, 22 R401): the tag is purged in the partition that owns the port, and goes no further. -/
def execPurgeMessageReceived (port : Nat) (rtag : BitVec 16) (s : State) : Out :=
  match (List.range Config.partitions).find? fun p => decide (port < 32) && (s.dev.ports.getD p 0#32).getLsbD port with
  | none => .next s
  | some part => .next ((s.notePurge part rtag none).purgeHere part rtag)

/-- The refresh phase (04 R94). -/
def State.phase (s : State) : Nat := s.clk % 56320

/-- REFRESH_WINDOW_OPEN (95, 04 R94): the windows are a function of the cycle count, so that nothing else changes. -/
def execRefreshWindowOpen (_group : Nat) (s : State) : Out := .next s

/-- REFRESH_WINDOW_CLOSE (95, 04 R94): the reads that the window of a group stalled may complete. -/
def execRefreshWindowClose (group : Nat) (s : State) : Out :=
  if s.phase = (group % 4 * 14080 + 1760) % 56320 then .next s else .next s

/-- MIRROR_COPY_DONE (95, 20 R350): the copy of a core's words into the upper halves of its banks ends, and it mirrors. -/
def execMirrorCopyDone (core : Nat) (s : State) : Out :=
  if (s.core core).copying then .next (s.modCore core fun c => { c with copying := false, mirror := true }) else .next s

end Sys2Proof.Machine
end

