-- ==== Sys2Proof/Machine/HostRegs.lean ====
section
/-!
DEFINITION. Machine/HostRegs.lean: what the host does through registers (21 R361 to R369, 22 R388 to R392, R405, 23 R407, 24
R419, R423): commits, queues, signals, weight-store copies, bindings, windows, invalidations, fault answers, the registers that a
plain write stores, and what every register reads.
-/

namespace Sys2Proof.Machine

/-! ## Idle partitions -/

/-- Whether a pour of a partition is placed. -/
def State.hasPours (s : State) (part : Nat) : Bool := s.pours.any fun e => e.2.part == part

/-- Whether a partition is idle (21 R362): its queues disabled, and no pour of it placed. -/
def State.idle (s : State) (part : Nat) : Bool := (s.part part).queues.all (fun q => !q.en) && !s.hasPours part

/-! ## Queues -/

/-- Write bytes that land in a range of a buffer. -/
def putBytes (m : SMap Byte) (off lim : Nat) (data : List Byte) : SMap Byte :=
  data.zipIdx.foldl (fun m e => if off + e.2 < lim then SMap.put m (off + e.2) e.1 else m) m

/-- Whether the function that writes reaches the partition's block (21 R361): the PF always, a VF while it is bound. -/
def State.reaches (s : State) (part : Nat) (pf : Bool) : Bool := pf || (s.vfOf part).isSome

/-- APPEND_PORT_COMMIT (95, 03 R59, 21 R365): bytes of a record reach the port; those that cover byte 63 commit it. The buffer
keeps the byte that was written last since the last commit; a byte that no write has reached since then is zero. -/
def execAppendPortCommit (part : Nat) (pf : Bool) (queue off : Nat) (data : List (BitVec 8)) (s : State) : Out :=
  if 4 ≤ queue || !s.reaches part pf then .next s
  else
    let q := (s.part part).queues.getD queue {}
    let buf := putBytes (if pf then q.bufPf else q.bufVf) off 64 data
    let setQ (s : State) (g : Queue → Queue) : State :=
      s.modPart part fun p => { p with queues := p.queues.set queue (g (p.queues.getD queue {})) }
    if !(decide (off ≤ 63) && decide (63 < off + data.length)) then
      .next (setQ s fun q => if pf then { q with bufPf := buf } else { q with bufVf := buf })
    else
      let n := leNat ((List.range 64).map fun i => SMap.getD buf i 0#8)
      let s := setQ s fun q => if pf then { q with bufPf := [] } else { q with bufVf := [] }
      let (hd, s) := match parseRecord part n with
        | some t => s.enter { t with queue := queue }
        | none => (none, s)
      let last := hd.getD 0xFFFFFFFF#32
      let s := setQ s fun q => if pf then { q with lastPf := last } else { q with lastVf := last }
      if hd.isSome then .next s
      else
        let s := setQ s fun q => { q with rej := satAdd q.rej 1 }
        .next (match s.vfOf part with | some v => s.msix v 0 | none => s)

/-- Empty the ring of a queue: what is left of its records holds no slot (21 R364). -/
def State.emptyRing (s : State) (part queue : Nat) : State :=
  { s with tasks := s.tasks.map fun e => if e.2.part = part ∧ e.2.queue = queue then (e.1, { e.2 with adrift := true }) else e }

/-- QCFG_WRITE (95, 21 R364). -/
def execQcfgWrite (part queue : Nat) (v : Word) (s : State) : Out :=
  if 4 ≤ queue then .next s
  else
    let q := (s.part part).queues.getD queue {}
    let setQ (g : Queue) : State := s.modPart part fun p => { p with queues := p.queues.set queue g }
    let lcap := bits v.toNat 0 5
    let on := v.getLsbD 31
    if q.en then
      if on || s.queueLoad part queue ≠ 0 then .next s else .next (setQ { q with en := false })
    else
      let ok := decide (8 ≤ lcap) && decide (lcap ≤ 20) && decide (q.base.toNat % 64 = 0) && decide (q.base.toNat < 2 ^ 57)
      if on && ok then .next ((setQ { q with lcap := lcap, en := true, gens := [], next := 0 }).emptyRing part queue)
      else .next (setQ { q with lcap := lcap })

/-- HOST_SIGNAL (95, 21 R366). -/
def execHostSignal (part : Nat) (v : BitVec 64) (s : State) : Out :=
  .next (s.signal part (v.extractLsb' 0 32) (v.extractLsb' 32 32) [])

/-! ## Weight-store copies -/

/-- WEIGHT_STORE_COPY (95, 21 R367). -/
def execWeightStoreCopy (part : Nat) (v : Word) (s : State) : Out :=
  let p := s.part part
  if !v.getLsbD 0 || p.wsst = 1 then .next s
  else
    let set (st : Nat) : Out := .next (s.modPart part fun p =>
      { p with wsst := st, wsjob := if st = 1 then (p.wssrc.toNat, p.wsdst.toNat, p.wslen.toNat) else p.wsjob })
    let dst := p.wsdst.toNat
    let len := p.wslen.toNat
    if s.hasPours part then set 3
    else if dst % 64 ≠ 0 ∨ len % 64 ≠ 0 ∨ len = 0 ∨ 100663296 < dst + len then set 4
    else set 1

/-- Where a byte of the source lies: host memory or the partition's DRAM. -/
def State.wsSource (s : State) (part : Nat) (a : BitVec 64) : Option Nat :=
  match aperture a with
  | .global va =>
    match s.globalLoc part va false with
    | .mem pl => match sortOfKey pl.key with | .dram | .host => some pl.key | _ => none
    | _ => none
  | _ => none

/-- Copy `n` granules; the state, and whether the source failed. -/
def State.wsCopy (s : State) (part : Nat) (src : BitVec 64) (dst : Nat) : Nat → State × Bool
  | 0 => (s, true)
  | n + 1 =>
    let ks := (List.range 8).map fun i => s.wsSource part (src + BitVec.ofNat 64 i)
    if ks.any (·.isNone) then (s, false)
    else
      let keys := ks.filterMap id
      let s := if s.mem.sound then s else ((keys.map granOf).eraseDups).foldl (fun s k => s.touch k 8) s
      let bs := keys.map fun k => s.mem.read1 k
      let m := s.mem.storePoison dst bs (keys.any fun k => s.mem.isPoison k)
      State.wsCopy { s with mem := m } part (src + 8#64) (dst + 8) n

/-- WEIGHT_STORE_COPY_DONE (95, 21 R367): the bytes are in place, or the copy failed with those before in place. -/
def execWeightStoreCopyDone (part : Nat) (s : State) : Out :=
  let p := s.part part
  if p.wsst ≠ 1 ∨ s.walkerHalted part then .next s
  else
    let (src, dst, len) := p.wsjob
    let (s, ok) := s.wsCopy part (BitVec.ofNat 64 src) (wsKey (part * 2 ^ 27 + dst)) (len / 8)
    .next (s.modPart part fun p => { p with wsst := if ok then 2 else 5 })

/-! ## Bindings and ports -/

/-- DESIGN CHOICE (log 97): a function that is newly bound to a partition finds its ports' buffers empty and QLAST zero, as it has
written and committed nothing (21 R365). -/
def State.newBuffers (s : State) (part : Nat) : State :=
  s.modPart part fun p => { p with queues := p.queues.map fun q => { q with bufVf := [], lastVf := 0#32 } }

/-- BIND_WRITE (95, 21 R362, R368): a change is refused, with the error bit set, unless every partition that it concerns is
idle and no other function is bound to it. -/
def execBindWrite (vf : Nat) (v : Word) (s : State) : Out :=
  if vf = 0 ∨ 24 < vf then .next s
  else
    let old := (s.dev.bind.getD (vf - 1) 0#32).toNat
    let err := if v.getLsbD 31 then 0 else bits old 31 1
    let new := bits v.toNat 0 6
    let bound (n : Nat) : Bool := decide (32 ≤ n % 64)
    let free (n : Nat) : Bool := !bound n || (decide (n % 32 < Config.partitions) && s.idle (n % 32))
    let other := bound new && (List.range 24).any fun u =>
      u != vf - 1 && (s.dev.bind.getD u 0#32).toNat % 64 == new
    let put (n e : Nat) : Out :=
      .next (s.modDev fun d => { d with bind := d.bind.set (vf - 1) (BitVec.ofNat 32 (n + e * 2 ^ 31)) })
    if new = old % 64 then put (old % 64) err
    else if free (old % 64) && free new && !other then
      .next ((if bound new then s.newBuffers (new % 32) else s).modDev fun d =>
        { d with bind := d.bind.set (vf - 1) (BitVec.ofNat 32 (new + err * 2 ^ 31)) })
    else put (old % 64) 1

/-- PORTS_WRITE (95, 21 R362, R368): refused unless the partition is idle and no port belongs to another. -/
def execPortsWrite (part : Nat) (v : Word) (s : State) : Out :=
  let other := (List.range 24).any fun p => p != part && (s.dev.ports.getD p 0#32 &&& v) != 0#32
  if Config.partitions ≤ part || !s.idle part || other then .next s
  else .next (s.modDev fun d => { d with ports := d.ports.set part v })

/-! ## Pops -/

/-- ESCPOP_READ (95, 21 R369). DESIGN CHOICE (log 98): a read wider than the register, which no rule names, returns zero and removes
nothing, as a narrower one does. -/
def execEscpopRead (width : Nat) (s : State) : Out :=
  let ans (bs : List Byte) (s : State) : Out := .next (s.modDev fun d => { d with readout := { data := bs } })
  if width ≠ 16 then ans (List.replicate width 0#8) s
  else
    match s.dev.esc with
    | [] => ans (List.replicate 16 0xFF#8) s
    | e :: es => ans (leBytes 16 e.toNat) (s.modDev fun d => { d with esc := es })

/-- SUSPOP_READ (95, 24 R423): it otherwise behaves as ESCPOP does (log 98). -/
def execSuspopRead (width : Nat) (s : State) : Out :=
  let ans (bs : List Byte) (s : State) : Out := .next (s.modDev fun d => { d with readout := { data := bs } })
  if width ≠ 32 then ans (List.replicate width 0#8) s
  else
    match s.dev.sus with
    | [] => ans (List.replicate 32 0xFF#8) s
    | e :: es => ans (leBytes 32 e.toNat) (s.modDev fun d => { d with sus := es })

/-- FUNCTION_LEVEL_RESET (95, 21 R362): every task of the partition is purged and its queues are disabled. -/
def execFunctionLevelReset (vf : Nat) (s : State) : Out :=
  let b := (s.dev.bind.getD (vf - 1) 0#32).toNat
  if vf = 0 ∨ 24 < vf ∨ b / 32 % 2 = 0 then .next s
  else
    let part := b % 32
    let tags := (s.tasks.filterMap fun e => if e.2.part = part then some e.2.rtag else none).eraseDups
    let s := tags.foldl (fun s t =>
      (s.notePurge part t none).purgeTag part t) s
    .next ((s.modPart part fun p => { p with queues := p.queues.map fun q => { q with en := false } }))

/-! ## Translation -/

/-- KEYSET_WRITE (95, 22 R388). -/
def execKeysetWrite (v : BitVec 64) (s : State) : Out :=
  .next (s.modDev fun d =>
    { d with keys := SMap.putD 0#6 d.keys (bits v.toNat 0 25) (BitVec.ofNat 6 (bits v.toNat 25 6)) })

/-- INVALIDATION (95, 22 R389): a write to INVCTL starts one; 6 and 7, and a write while one runs, are ignored. -/
def execInvalidation (part : Nat) (v : Word) (s : State) : Out :=
  let k := bits v.toNat 0 3
  if 6 ≤ k || (s.part part).inv.isSome then .next s
  else .next (s.modPart part fun p => { p with inv := some (k, p.invva.toNat) })

/-- The low bits that an invalidation's range spans. -/
def invBits (k : Nat) : Nat := [16, 21, 27, 32, 44].getD k 64

/-- INVALIDATION_DONE (95, 22 R389): no cached entry of the range is left. -/
def execInvalidationDone (part : Nat) (s : State) : Out :=
  match (s.part part).inv with
  | none => .next s
  | some (k, va) =>
    .next (s.modPart part fun p =>
      { p with
        inv := none
        tlb := p.tlb.filter fun e => !(k == 5 || decide (e.1 * 65536 / 2 ^ invBits k = va / 2 ^ invBits k)) })

/-! ## Windows -/

/-- WINREG_WRITE (95, 22 R390): only while the partition is idle. -/
def execWinregWrite (part : Nat) (v : BitVec 256) (s : State) : Out :=
  let n := v.toNat
  let w := bits n 0 10
  let base := bits n 64 64
  let len := bits n 128 64
  if !s.idle part then .next s
  else if bits n 11 1 = 0 then .next (s.modPart part fun p => { p with wins := SMap.erase p.wins w })
  else if base % 65536 ≠ 0 ∨ 2 ^ 57 ≤ base ∨ len % 65536 ≠ 0 ∨ 2 ^ 36 < len then .next s
  else
    let r : Window := { w := bits n 10 1 = 1, base := BitVec.ofNat 64 base, len := len }
    .next ((s.modPart part fun p => { p with wins := SMap.put p.wins w r }).setSync (.window part w) [])

/-- SNDREG_WRITE (95, 22 R390): only while the partition is idle; up to 1,024 entries are held. -/
def execSndregWrite (part : Nat) (v : BitVec 64) (s : State) : Out :=
  let n := v.toNat
  let k := bits n 0 10 * 1024 + bits n 10 10
  if !s.idle part then .next s
  else if bits n 20 1 = 0 then .next (s.modPart part fun p => { p with senders := SMap.erase p.senders k })
  else
    .next (s.modPart part fun p =>
      if (SMap.get? p.senders k).isSome || decide (1024 ≤ p.senders.length) then p
      else { p with senders := SMap.put p.senders k 0#32 })

/-! ## Fault answers -/

/-- Apply an answer to a fault (22 R392): the held instructions may be performed again, each at its place in the order of a core
cycle (08 R165), and every waiter tries again, or the tags of the tasks that wait are purged. -/
def State.answer (s : State) (part : Nat) (f : PageFault) (fatal : Bool) : State :=
  let s := s.modPart part fun p => { p with faults := p.faults.filter fun g => g.id != f.id }
  if fatal then (f.rtag :: f.also).foldl (fun s t => s.purge part t 4) (s.landWaiting part f.id true)
  else
    let s := s.landWaiting part f.id false
    { s with held := s.held.map fun h => if h.fault = f.id then { h with fault := 0 } else h }

/-- The walker unit of a partition's die goes on: the walks that waited for it are made anew (23 R406). -/
def State.walkOn (s : State) (part : Nat) : State :=
  if s.walkerHalted part then s
  else ((s.part part).faults.filter (·.walk)).foldl (fun s f => s.answer part f false) s

/-- FAULT_ANSWER (95, 22 R392): an unknown id is ignored; the answer for a suspended context is kept. -/
def execFaultAnswer (part : Nat) (v : BitVec 64) (s : State) : Out :=
  let seq := v.extractLsb' 0 32
  let fatal := v.getLsbD 32
  match (s.part part).faults.find? fun f => f.entered && f.seq == seq with
  | some f => .next (s.answer part f fatal)
  | none =>
    .next (s.modPart part fun p =>
      { p with saved := p.saved.map fun e =>
          match e.2.faults.find? fun f => f.entered && f.seq == seq with
          | some f => (e.1, { e.2 with answers := e.2.answers ++ [(f.id, fatal)] })
          | none => e })

/-! ## Registers without behaviour of their own -/

/-- A register that a plain write stores: its offset, its bytes, what it holds, and what a write of a value does. -/
structure RegW where
  off   : Nat
  width : Nat
  get   : State → Nat
  set   : Nat → State → State

/-- The bits of a value that a mask keeps (00 R8: reserved fields read as zero). -/
def maskBits (v m : Nat) : Nat := v &&& m

/-- A ring's registers (22 R391, 23 R407, R416): base, configuration and head. -/
def ringRegs (off : Nat) (mask : Nat) (get : State → Ring) (put : Ring → State → State) : List RegW :=
  [{ off := off, width := 8, get := fun s => (get s).base.toNat, set := fun v s => put { get s with base := BitVec.ofNat 64 v } s },
   { off := off + 8, width := 4, get := fun s => (get s).cfg.toNat
     set := fun v s => put { get s with cfg := BitVec.ofNat 32 (maskBits v mask) } s },
   { off := off + 12, width := 4, get := fun s => (get s).head.toNat, set := fun v s => put { get s with head := BitVec.ofNat 32 v } s }]

/-- The registers of the physical function that a plain write stores (22 R405). -/
def pfRegs : List RegW :=
  [{ off := 0x700, width := 8, get := fun s => s.dev.injsel.toNat
     set := fun v s => s.modDev fun d =>
       { d with injsel := BitVec.ofNat 64 (v % 2 ^ 56), injarm := d.injarm && decide (bits v 48 8 ≠ 0) } },
   { off := 0x708, width := 8, get := fun s => s.dev.injaddr.toNat
     set := fun v s => s.modDev fun d => { d with injaddr := BitVec.ofNat 64 v } }]

/-- A field of a partition that a plain write stores. -/
def partReg (p off width : Nat) (get : Part → Nat) (set : Nat → Part → Part) : RegW :=
  { off := off, width := width, get := fun s => get (s.part p), set := fun v s => s.modPart p (set v) }

/-- The per-partition controls (22 R389, R391, R393, 24 R419): a write of CTXD is taken only while the context is idle or
saved, and it clears KDBGCTL (23 R408). -/
def ctlRegs (p : Nat) : List RegW :=
  [partReg p 0x00 8 (fun q => q.ctxd.toNat) (fun v q =>
     if q.ctx == CtxState.idle || q.ctx == CtxState.saved then { q with ctxd := BitVec.ofNat 64 v, kdbgctl := 0#32 } else q),
   partReg p 0x30 8 (fun q => q.invva.toNat) (fun v q => { q with invva := BitVec.ofNat 64 v }),
   partReg p 0x90 4 (fun q => q.asycfg.toNat) (fun v q =>
     let sv := bits v 0 5
     let en := if 6 ≤ sv ∧ sv ≤ 24 then bits v 31 1 else 0
     { q with asycfg := BitVec.ofNat 32 (maskBits v 0x3F + en * 2 ^ 31) }),
   partReg p 0x98 8 (fun q => q.asylog.toNat) (fun v q => { q with asylog := BitVec.ofNat 64 v }),
   partReg p 0xA0 4 (fun q => q.asylen.toNat) (fun v q => { q with asylen := BitVec.ofNat 32 v })] ++
  ringRegs 0x10 0x8000001F (fun s => (s.part p).fq) fun r s => s.modPart p fun q => { q with fq := r }

/-- The registers of a partition block (21 R363, R364, 23 R407, R408, R417). -/
def blockRegs (p : Nat) : List RegW :=
  ((List.range 4).map fun i =>
    partReg p (0x100 * i) 8 (fun q => (q.queues.getD i {}).base.toNat) (fun v q =>
      let u := q.queues.getD i {}
      if u.en then q else { q with queues := q.queues.set i { u with base := BitVec.ofNat 64 v } })) ++
  [partReg p 0x500 8 (fun q => q.wssrc.toNat) (fun v q => { q with wssrc := BitVec.ofNat 64 v }),
   partReg p 0x508 4 (fun q => q.wsdst.toNat) (fun v q => { q with wsdst := BitVec.ofNat 32 v }),
   partReg p 0x50C 4 (fun q => q.wslen.toNat) (fun v q => { q with wslen := BitVec.ofNat 32 v }),
   partReg p 0x600 4 (fun q => q.kdbgctl.toNat) (fun v q => { q with kdbgctl := BitVec.ofNat 32 (maskBits v 0x3F) })] ++
  ((List.range 4).map fun i =>
    partReg p (0x608 + 4 * i) 4 (fun q => (q.bps.getD i 0#32).toNat) (fun v q =>
      { q with bps := q.bps.set i (BitVec.ofNat 32 (v % 2 ^ 27)) })) ++
  ringRegs 0x680 0x8000001F (fun s => (s.part p).trace) (fun r s => s.modPart p fun q => { q with trace := r }) ++
  ringRegs 0x6A0 0x80001F1F (fun s => (s.part p).prof) fun r s => s.modPart p fun q => { q with prof := r }

/-- The bytes of a register after a write of some of them. -/
def mergeReg (r : RegW) (old off : Nat) (data : List Byte) : Nat :=
  leNat ((List.range r.width).map fun i =>
    if off ≤ r.off + i ∧ r.off + i < off + data.length then data.getD (r.off + i - off) 0#8
    else BitVec.ofNat 8 (old / 256 ^ i))

/-- Whether a write reaches a register. -/
def RegW.hit (r : RegW) (off len : Nat) : Bool := decide (off < r.off + r.width) && decide (r.off < off + len)

/-- Write the registers of a list that some bytes reach. -/
def writeRegs (rs : List RegW) (off : Nat) (data : List Byte) (s : State) : State :=
  rs.foldl (fun s r => if r.hit off data.length then r.set (mergeReg r (r.get s) off data) s else s) s

/-! ## What registers read -/

/-- CPSTAT of a control unit (21 R373). -/
def CtlUnit.cpstat (u : CtlUnit) : Nat :=
  u.state.toNat + u.who.toNat * 4 + (u.counts.getD 0 0#16).toNat * 2 ^ 16 + (u.counts.getD 1 0#16).toNat * 2 ^ 32
    + (u.counts.getD 2 0#16).toNat * 2 ^ 48

/-- Whether a STOP is being performed (23 R408, R413). -/
def State.dbgBusy (s : State) (part : Nat) : Bool :=
  s.pours.any fun e => e.2.part == part && (match e.2.dbg with | .stopping r => r.cmd | _ => false)

/-- The state of a context as CTXST shows it (22 R393). -/
def CtxState.num : CtxState → Nat
  | .idle => 0 | .running => 1 | .saving => 2 | .saved => 3 | .restoring => 4

/-- What a ring's last two registers read. -/
def ringTail (r : Ring) (off at_ : Nat) : Option Nat :=
  if off = at_ then some r.tail.toNat else if off = at_ + 4 then some r.drop.toNat else none

/-- The value of the register at an offset of a target (21 R363, R368, R369, 22 R389 to R393, R400, R405, 23 R407, R408, R414,
24 R419, R423, R425); write-only registers, and offsets not listed, read zero. -/
def State.readReg (s : State) (t : RegTarget) (off : Nat) : Nat :=
  let d := s.dev
  let listed (rs : List RegW) : Option Nat := (rs.find? fun r => r.off == off).map fun r => r.get s
  match t with
  | .pf =>
    if off < 0x60 ∧ off % 4 = 0 then (d.bind.getD (off / 4) 0#32).toNat
    else if 0x80 ≤ off ∧ off < 0xE0 ∧ off % 4 = 0 then (d.ports.getD ((off - 0x80) / 4) 0#32).toNat
    else if off = 0x200 then d.esc.length
    else if off = 0x220 then d.escLost.toNat
    else if off = 0x224 then d.jumps.toNat
    else if off = 0x240 then d.sus.length
    else if off = 0x244 then d.susLost.toNat
    else if 0x300 ≤ off ∧ off < 0x390 ∧ off % 8 = 0 then (d.units.getD ((off - 0x300) / 8) {}).cpstat
    else if off = 0x400 then (if d.ctlKind then 2 else 0)
    else if off = 0x404 then d.startst.toNat
    else if off = 0x714 then d.injfired.toNat
    else if 0x800 ≤ off ∧ off < 0x820 ∧ off % 4 = 0 then (d.ras.getD ((off - 0x800) / 4) 0#32).toNat
    else if 0x3000 ≤ off ∧ off < 0x3000 + 16 * Config.cores ∧ off % 4 = 0 then
      let c := s.core ((off - 0x3000) / 16)
      ([c.lossy, c.corrected, c.uncorr, c.parity].getD (off % 16 / 4) 0#32).toNat
    else (listed pfRegs).getD 0
  | .ctl p =>
    let q := s.part p
    if off = 0x0C then q.ctx.num
    else if off = 0x20 then q.fq.tail.toNat
    else if off = 0x3C then (if q.inv.isSome then 1 else 0)
    else if off = 0x48 then q.plast.toNat
    else if off = 0x4C then q.pcount.toNat
    else if off = 0xA4 then q.asysamp.toNat
    else if off = 0xA8 then q.asyaban.toNat
    else if off = 0xAC then q.asysus.toNat
    else if off = 0xB0 then q.mism.toNat
    else if off = 0xB4 then q.roll.toNat
    else if off = 0xB8 then q.unrec.toNat
    else (listed (ctlRegs p)).getD 0
  | .block p pf =>
    let q := s.part p
    let u := q.queues.getD (off / 0x100) {}
    if off < 0x400 ∧ off % 0x100 = 8 then u.lcap + (if u.en then 2 ^ 31 else 0)
    else if off < 0x400 ∧ off % 0x100 = 0x10 then (if pf then u.lastPf else u.lastVf).toNat
    else if off < 0x400 ∧ off % 0x100 = 0x18 then u.rej.toNat
    else if off = 0x408 then q.stray.toNat
    else if off = 0x40C then q.cwfail.toNat
    else if off = 0x510 then q.wsst * 2
    else if off = 0x604 then
      (if q.active then 1 else 0) + (if s.dbgBusy p then 2 else 0)
        + (s.pours.filter fun e => e.2.part == p && !s.isTrail e.1 && (match e.2.dbg with | .stopped _ => true | _ => false)).length * 2 ^ 16
    else if off = 0x640 then q.dbgres.toNat
    else (listed (blockRegs p)).getD ((ringTail q.trace off 0x690).getD ((ringTail q.prof off 0x6B0).getD 0))

end Sys2Proof.Machine
end

