-- ==== Sys2Proof/Machine/Sign.lean ====
section
/-!
DEFINITION. Machine/Sign.lean: the SHA-256 of 21 R377 and R378, and the HSS signatures of RFC 8554 with the parameters of 21 R378
and 23 R406. PRESUMED (log 80): the spec names both standards and restates neither.
-/

namespace Sys2Proof.Machine

/-! ## SHA-256 -/

/-- The largest number below `r + 2 ^ m` at or above `r` whose `k`th power does not exceed `n`. -/
def rootFrom (k n : Nat) : Nat → Nat → Nat
  | 0, r => r
  | m + 1, r => rootFrom k n m (if (r + 2 ^ m) ^ k ≤ n then r + 2 ^ m else r)

/-- The first 32 fractional bits of the `k`th root of a number. -/
def rootBits (k p : Nat) : Word := BitVec.ofNat 32 (rootFrom k (p * 2 ^ (32 * k)) 40 0)

/-- The primes below 312: the first 64. -/
def primes : List Nat :=
  (List.range 312).filter fun n => decide (2 ≤ n) && (List.range n).all fun d => decide (d < 2) || decide (n % d ≠ 0)

/-- The constants of the rounds: from the cube roots of the primes. -/
def roundKeys : List Word := primes.map (rootBits 3)

/-- The eight working words of a hash. -/
structure Chain where
  a : Word
  b : Word
  c : Word
  d : Word
  e : Word
  f : Word
  g : Word
  h : Word
  deriving DecidableEq, Repr

/-- The words that a hash begins with: from the square roots of the first eight primes. -/
def Chain.start : Chain :=
  let r (i : Nat) : Word := rootBits 2 (primes.getD i 0)
  ⟨r 0, r 1, r 2, r 3, r 4, r 5, r 6, r 7⟩

/-- The words of a chain in order. -/
def Chain.words (x : Chain) : List Word := [x.a, x.b, x.c, x.d, x.e, x.f, x.g, x.h]

/-- Sum of two chains, word by word. -/
def Chain.plus (x y : Chain) : Chain :=
  ⟨x.a + y.a, x.b + y.b, x.c + y.c, x.d + y.d, x.e + y.e, x.f + y.f, x.g + y.g, x.h + y.h⟩

/-- A word turned right by three amounts, folded together. -/
def spin3 (w : Word) (i j k : Nat) : Word := w.rotateRight i ^^^ w.rotateRight j ^^^ w.rotateRight k

/-- A word turned right by two amounts and shifted by one, folded together. -/
def spin2 (w : Word) (i j k : Nat) : Word := w.rotateRight i ^^^ w.rotateRight j ^^^ w >>> k

/-- A round under a constant: the chain, and the next sixteen words of the message, the oldest of which it takes. -/
def Chain.round (st : Chain × List Word) (k : Word) : Chain × List Word :=
  let (x, ws) := st
  let at_ (i : Nat) : Word := ws.getD i 0#32
  let pick := x.g ^^^ (x.e &&& (x.f ^^^ x.g))
  let most := (x.a &&& x.b) ||| (x.c &&& (x.a ||| x.b))
  let add := k + at_ 0 + x.h + pick + spin3 x.e 6 11 25
  (⟨add + most + spin3 x.a 2 13 22, x.a, x.b, x.c, x.d + add, x.e, x.f, x.g⟩,
    ws.drop 1 ++ [spin2 (at_ 14) 17 19 10 + at_ 9 + spin2 (at_ 1) 7 18 3 + at_ 0])

/-- A big-endian number. -/
def beNat (bs : List Byte) : Nat := leNat bs.reverse

/-- A number as big-endian bytes. -/
def beBytes (n x : Nat) : List Byte := (leBytes n x).reverse

/-- Take the `i`th block of 64 bytes of a message into a chain. -/
def Chain.block (m : List Byte) (x : Chain) (i : Nat) : Chain :=
  let ws := (List.range 16).map fun j => BitVec.ofNat 32 (beNat ((m.drop (64 * i + 4 * j)).take 4))
  x.plus (roundKeys.foldl Chain.round (x, ws)).1

/-- The SHA-256 of bytes. -/
def sha256 (bs : List Byte) : List Byte :=
  let fill := 63 - (bs.length + 8) % 64
  let m := bs ++ 0x80#8 :: List.replicate fill 0#8 ++ beBytes 8 (8 * bs.length)
  (((List.range (m.length / 64)).foldl (Chain.block m) Chain.start).words).flatMap fun w => beBytes 4 w.toNat

/-! ## One-time signatures: LM-OTS_SHA256_N32_W8 -/

/-- `n` bytes from an offset. -/
def slice (bs : List Byte) (off n : Nat) : List Byte := (bs.drop off).take n

/-- The last `n` links of the hash chain of digit `i`, whose 255 links are numbered from 0. -/
def otsChain (who : List Byte) (i : Nat) : Nat → List Byte → List Byte
  | 0, y => y
  | n + 1, y => otsChain who i n (sha256 (who ++ beBytes 2 i ++ beBytes 1 (254 - n) ++ y))

/-- The key that a one-time signature of a message leads to, for leaf `q` of the tree `id`. -/
def otsKey (id : List Byte) (q : Nat) (msg sig : List Byte) : List Byte :=
  let who := id ++ beBytes 4 q
  let dig := sha256 (who ++ [0x81#8, 0x81#8] ++ slice sig 4 32 ++ msg)
  let sum := (dig.map fun b => 255 - b.toNat).foldl (· + ·) 0
  let ends := ((dig ++ beBytes 2 sum).zipIdx).flatMap fun e =>
    otsChain who e.2 (255 - e.1.toNat) (slice sig (36 + 32 * e.2) 32)
  sha256 (who ++ [0x80#8, 0x80#8] ++ ends)

/-- Bytes of a one-time signature: its type, its salt, and a word for each of 34 digits. -/
def otsBytes : Nat := 4 + 32 + 34 * 32

/-! ## Trees: LMS_SHA256_M32 -/

/-- The root over a node of a tree, from the siblings on its path. -/
def treeRoot (id : List Byte) : List (List Byte) → Nat → List Byte → List Byte
  | [], _, t => t
  | p :: ps, n, t =>
    treeRoot id ps (n / 2) (sha256 (id ++ beBytes 4 (n / 2) ++ [0x83#8, 0x83#8] ++ if n % 2 = 1 then p ++ t else t ++ p))

/-- A level of a signature: the type code of its trees and their height. -/
structure TreeKind where
  code   : Nat
  height : Nat
  deriving DecidableEq, Repr

/-- LMS_SHA256_M32_H10 and LMS_SHA256_M32_H15 (21 R378). -/
def treeH10 : TreeKind := ⟨6, 10⟩
def treeH15 : TreeKind := ⟨7, 15⟩

/-- Bytes of a tree's signature: the leaf, its one-time signature, the type and the path. -/
def TreeKind.sigBytes (k : TreeKind) : Nat := 4 + otsBytes + 4 + 32 * k.height

/-- Bytes of a tree's public key: both types, the identifier and the root. -/
def treeKeyBytes : Nat := 4 + 4 + 16 + 32

/-- Whether a tree's signature of a message holds under its public key. -/
def TreeKind.verifies (k : TreeKind) (key msg sig : List Byte) : Bool :=
  let q := beNat (slice sig 0 4)
  let id := slice key 8 16
  let path := (List.range k.height).map fun i => slice sig (8 + otsBytes + 32 * i) 32
  let leaf := sha256 (id ++ beBytes 4 (2 ^ k.height + q) ++ [0x82#8, 0x82#8] ++ otsKey id q msg (slice sig 4 otsBytes))
  decide (key.length = treeKeyBytes) && decide (sig.length = k.sigBytes) && decide (q < 2 ^ k.height)
    && beNat (slice key 0 4) == k.code && beNat (slice sig (4 + otsBytes) 4) == k.code
    && beNat (slice key 4 4) == 4 && beNat (slice sig 4 4) == 4
    && treeRoot id path (2 ^ k.height + q) leaf == slice key 24 32

/-! ## Levels: HSS -/

/-- Whether a signature of a message holds: each level but the last signs the next one's public key. -/
def levelsVerify : List TreeKind → List Byte → List Byte → List Byte → Bool
  | [], _, _, _ => false
  | [k], key, msg, sig => k.verifies key msg sig
  | k :: ks, key, msg, sig =>
    let next := slice sig k.sigBytes treeKeyBytes
    k.verifies key next (slice sig 0 k.sigBytes) && levelsVerify ks next msg (sig.drop (k.sigBytes + treeKeyBytes))

/-- Whether an HSS signature of a message holds under an HSS public key. -/
def hssVerifies (ks : List TreeKind) (key msg sig : List Byte) : Bool :=
  beNat (slice key 0 4) == ks.length && beNat (slice sig 0 4) + 1 == ks.length && levelsVerify ks (key.drop 4) msg (sig.drop 4)

/-- Bytes of an HSS public key. -/
def hssKeyBytes : Nat := 4 + treeKeyBytes

/-- Whether a signature holds under a fused key (21 R378, 23 R406): the fuses hold the SHA-256 of its public key, which the
signature's bytes carry ahead of the signature (DESIGN CHOICE, log 80). -/
def fusedVerifies (fuse : Nat) (ks : List TreeKind) (msg bytes : List Byte) : Bool :=
  let key := bytes.take hssKeyBytes
  sha256 key == Config.keyHash fuse && hssVerifies ks key msg (bytes.drop hssKeyBytes)

/-- The levels of a firmware image's signature (21 R378) and of an UNLOCK's (23 R406). -/
def firmwareLevels : List TreeKind := [treeH10, treeH15]
def unlockLevels : List TreeKind := [treeH10]

end Sys2Proof.Machine
end

