-- ==== Sys2Proof/Machine/Start.lean ====
section
/-!
DEFINITION. Machine/Start.lean: the voted control plane (21 R370 to R374), starts and firmware (R375 to R383), the thermal
fatal (24 R434), the firmware debug domain (23 R406), and the arming of error injection (22 R405).
-/

namespace Sys2Proof.Machine

/-! ## Firmware -/

/-- Whether a slot verifies (21 R378). -/
def Dev.slotOk (d : Dev) (i : Nat) : Bool :=
  let f := d.slots.getD i {}
  f.valid && decide (d.rollback.toNat ≤ f.rollback.toNat)

/-- The slot that a start makes active (21 R376, R380): the one that an activation before it had named, or else the other. -/
def Dev.startSlot (d : Dev) : Option Nat :=
  let a := d.pickSlot.getD d.active
  if d.slotOk a then some a else if d.slotOk (1 - a) then some (1 - a) else none

/-- The bytes of a slot's image, its signature last. -/
def FwSlot.bytes (f : FwSlot) : List Byte := leBytes 4 f.version.toNat ++ leBytes 4 f.rollback.toNat ++ f.body ++ f.sig

/-- The measurements that are fixed from the end of a start (21 R377). -/
def Dev.fixedMeasures (d : Dev) : List (List Byte) :=
  [sha256 Config.bootRom, sha256 (d.slots.getD d.active {}).bytes, Config.fuses ++ leBytes 4 d.rollback.toNat]

/-! ## Starts -/

/-- Every context of the device ends, without a completion word (21 R374). -/
def State.endContexts (s : State) : State :=
  { s with
    fibres := [], weaves := [], pours := [], engines := [], crucibles := [], tasks := [], pend := [], held := [], cmds := []
    pairs := [], sync := [], hist := [], turn := .none
    cores := s.cores.map fun e => (e.1, { e.2 with mat := none, profs := [], turn := List.replicate 4 none })
    parts := s.parts.map fun e => (e.1, { e.2 with ctx := .idle, faults := [], saved := [], sample := none, active := false }) }

/-- What survives a start of a core's state (24 R426): its counters, across warm starts. -/
def CoreSt.started (c : CoreSt) (cold : Bool) : CoreSt :=
  if cold then {} else { lossy := c.lossy, corrected := c.corrected, uncorr := c.uncorr, parity := c.parity }

/-- What survives a start of a partition's state (24 R426). -/
def Part.started (p : Part) (cold : Bool) : Part :=
  if cold then {}
  else { asysamp := p.asysamp, asyaban := p.asyaban, asysus := p.asysus, asycnt := p.asycnt, mism := p.mism, roll := p.roll,
         unrec := p.unrec }

/-- What a start leaves of the device (21 R373, R380, R382, 22 R388, R405, 24 R426): `step` is the step that failed, or 9. Only a
start that came past step 6 has initialised the control units. The nonce of 23 R406 stays. -/
def Dev.started (d : Dev) (cold : Bool) (step : Nat) : Dev :=
  { d with
    bind := List.replicate 24 0#32, ports := List.replicate 24 0#32, esc := [], escDrop := false
    escLost := if cold then 0#32 else d.escLost
    jumps := if cold then 0#32 else d.jumps
    sus := [], susLost := 0#32, susDrop := false, keys := [], ctlKind := false
    units := d.units.map fun u =>
      let u : CtlUnit := if 6 < step then { counts := u.counts } else u
      if cold then { u with counts := [0#16, 0#16, 0#16] } else u
    failures := if cold then 0 else d.failures
    injsel := 0#64, injaddr := 0#64, injarm := false, injfired := 0#32
    ras := if cold then List.replicate 8 0#32 else d.ras }

/-- The memory that a start leaves (21 R380): the weight store is zero, scratchpads are of no context any more, and the bytes of
the DRAM are unreadable as data once step 8 has given it new keys; host memory is not the device's. -/
def Memory.started (m : Memory) (step : Nat) : Memory :=
  let keep (k : Nat) : Bool := decide (sortOfKey k = .host) || (decide (step ≤ 8) && decide (sortOfKey k = .dram))
  { bytes := m.bytes.filter fun e => keep e.1
    tags := m.tags.filter fun e => keep e.1
    poison := m.poison.filter fun e => keep e.1
    flips := m.flips.filter fun e => keep e.1
    badTag := m.badTag.filter fun e => keep e.1 }

/-- DRAM training in a start that came past step 3 (21 R380, R382): a cold one stores results, which the spec gives no form, as a
free value (log 81). -/
def State.train (s : State) (cold : Bool) (step : Nat) : State :=
  if cold ∧ 3 < step then (s.modDev fun d => { d with training := Config.freeWord s.free }).takeFree.2 else s

/-- The machine as a start leaves it (21 R380): its steps up to `step` have had their effects. The refresh of the weight store
begins anew (04 R94). -/
def State.started (s : State) (cold : Bool) (step : Nat) : State :=
  let s := s.endContexts
  let s : State := { s with
    mem := s.mem.started step
    cores := (s.cores.map fun e => (e.1, e.2.started cold)).filter fun e => decide (e.2 ≠ {})
    parts := (s.parts.map fun e => (e.1, e.2.started cold)).filter fun e => decide (e.2 ≠ {})
    dev := s.dev.started cold step
    clk := 0 }
  s.train cold step

/-- Begin a start (21 R379, R381): a forced one is cold, with cause 3. It takes the slot that has been activated (R376), and ends
the debug of firmware cores (23 R406). -/
def State.beginStart (s : State) (cold : Bool) (cause : Nat) : State :=
  let s := s.endContexts
  s.modDev fun d =>
    { d with
      starting := some (if d.forced then (true, 3) else (cold, cause))
      forced := false
      pickSlot := d.nextSlot
      unlocked := false
      fwHalted := []
      startst := d.startst &&& ~~~1#32 }

/-- A trigger (21 R379): held during a start, or while the dies are in reset (24 R434). A device whose slots both failed takes
none but a request of the PF or of the port, once a slot verifies (21 R381). -/
def State.trigger (s : State) (cold : Bool) (cause : Nat) (request : Bool) : State :=
  let d := s.dev
  if d.dead && !(request && d.startSlot.isSome) then s
  else
    let s := s.modDev fun d => { d with dead := false }
    if d.starting.isSome || d.therm then s.modDev fun d => { d with queued := d.queued ++ [(cold, cause)] }
    else s.beginStart cold cause

/-- STARTST (21 R383). -/
def startStatus (ok cold : Bool) (step cause fails slot : Nat) (therm : Bool) : Word :=
  BitVec.ofNat 32 (1 + (if ok then 2 else 0) + (if cold then 4 else 0) + step * 8 + cause * 2 ^ 7 + fails * 2 ^ 9
    + slot * 2 ^ 11 + (if therm then 2 ^ 12 else 0))

/-- The start that held triggers cause together (21 R379). -/
def heldStart (q : List (Bool × Nat)) : Option (Bool × Nat) :=
  match q.find? fun t => t.1 with
  | some t => some t
  | none => q.head?

/-- START_COMPLETE (95, 21 R380 to R383): `failed` is the step that failed, or 0. Steps 1 to 3 run in a cold start alone. -/
def execStartComplete (failed : Nat) (s : State) : Out :=
  match s.dev.starting with
  | none => .next s
  | some (cold, cause) =>
    if 8 < failed || (!cold && decide (1 ≤ failed) && decide (failed ≤ 3)) then .next s
    else
      let slot := s.dev.startSlot
      let step := if slot.isNone && (failed = 0 || 5 < failed) then 5 else failed
      let ok := step == 0
      let past := if ok then 9 else step
      let therm := s.dev.therm
      let fails := if cold || ok then 0 else bits s.dev.startst.toNat 9 2 + 1
      let s := s.started cold past
      let s := s.modDev fun d =>
        let act := if 5 < past then slot.getD d.active else d.active
        let rb := if ok then max d.rollback.toNat (d.slots.getD act {}).rollback.toNat else d.rollback.toNat
        let d := { d with
          starting := none, therm := false, active := act, rollback := BitVec.ofNat 32 rb
          nextSlot := if 5 < past ∧ d.nextSlot = d.pickSlot then none else d.nextSlot
          pickSlot := none
          forced := !ok && (cold || decide (3 ≤ fails))
          dead := !ok && step == 5 && slot.isNone
          startst := startStatus ok cold step cause (min fails 3) act therm }
        { d with measures := d.fixedMeasures }
      let s := s.msix 0 2
      match heldStart s.dev.queued with
      | some (c, k) => .next ((s.modDev fun d => { d with queued := [] }).trigger c k true)
      | none => .next s

/-- POWER_ON (95, 21 R379): the cold start begins from nothing but the fuses and the firmware store. -/
def execPowerOn (s : State) : Out :=
  let d := s.dev
  .next { State.reset with
    mem := { bytes := s.mem.bytes.filter fun e => decide (2 ^ 64 ≤ e.1) }
    dev := { State.reset.dev with slots := d.slots, active := d.active, nextSlot := d.nextSlot, pickSlot := d.nextSlot
                                  rollback := d.rollback
                                  readings := d.readings, msix := d.msix, fabric := d.fabric }
    agenda := s.agenda
    free := s.free }

/-- CONVENTIONAL_RESET (95, 21 R379). -/
def execConventionalReset (s : State) : Out := .next (s.trigger false 1 false)

/-- STARTCTL_WRITE (95, 21 R383). -/
def execStartctlWrite (v : Word) (s : State) : Out :=
  let s := s.modDev fun d => { d with ctlKind := v.getLsbD 1 }
  if v.getLsbD 0 then .next (s.trigger (v.getLsbD 1) 0 true) else .next s

/-- MANAGEMENT_PORT_START_REQUEST (95, 21 R381): it starts the device once both slots have failed and one verifies again. -/
def execManagementPortStartRequest (cold : Bool) (s : State) : Out :=
  if s.dev.dead then .next (s.trigger cold 0 true) else .next s

/-! ## The voted control plane -/

/-- A control unit halts (21 R371, R374): every context ends, and a warm start is triggered. -/
def State.haltUnit (s : State) : State := (s.endContexts).trigger false 2 false

/-- The bound of a resync (21 R372). -/
def resyncBound (u : Nat) : Nat := [2048, 4096, 1024].getD (u % 3) 0

/-- Count a dissent (21 R373), saturating. -/
def CtlUnit.count (u : CtlUnit) (c : Nat) : CtlUnit :=
  { u with counts := u.counts.set c (BitVec.ofNat 16 (min ((u.counts.getD c 0#16).toNat + 1) 65535)) }

/-- Copies of a unit dissent in one core cycle (21 R371); bit `c` of `copies` is copy `c`. -/
def State.dissent (s : State) (unit : Nat) (copies : BitVec 3) : State :=
  let u := s.dev.units.getD unit {}
  let set (u : CtlUnit) : State := s.modDev fun d => { d with units := d.units.set unit u }
  let cs := (List.range 3).filter fun c => copies.getLsbD c
  let who := u.who.toNat
  if cs.isEmpty then s
  else if u.state = 0#2 then
    match cs with
    | [c] =>
      (set ({ u with state := 1#2, who := BitVec.ofNat 2 c, resync := resyncBound unit, probing := false }.count c)).msix 0 1
    | _ => s.haltUnit
  else if cs.any fun c => c != who then s.haltUnit
  else if u.state = 1#2 ∧ u.probing then (set ({ u with state := 2#2, probing := false, resync := 0 }.count who)).msix 0 1
  else s

/-- VOTE_DISSENT (95, 21 R370, R371): not during a start, and not of a unit whose firmware core is halted (23 R406). -/
def execVoteDissent (unit : Nat) (copies : BitVec 3) (s : State) : Out :=
  if 17 < unit || s.dev.starting.isSome || s.dev.fwHalted.contains unit then .next s else .next (s.dissent unit copies)

/-- RESYNC_COMPLETE (95, 21 R371, R372): the probation of 64 core cycles begins. Neither it nor its end comes about while the unit's
firmware core is halted (23 R406). -/
def execResyncComplete (unit : Nat) (s : State) : Out :=
  let u := s.dev.units.getD unit {}
  if u.state = 1#2 ∧ ¬ u.probing ∧ ¬ s.dev.fwHalted.contains unit then
    .next (s.modDev fun d => { d with units := d.units.set unit { u with probing := true, resync := 64 } })
  else .next s

/-- PROBATION_END (95, 21 R371). -/
def execProbationEnd (unit : Nat) (s : State) : Out :=
  let u := s.dev.units.getD unit {}
  if u.state = 1#2 ∧ u.probing ∧ u.resync = 0 ∧ ¬ s.dev.fwHalted.contains unit then
    .next (s.modDev fun d => { d with units := d.units.set unit { u with state := 0#2, probing := false } })
  else .next s

/-- INJECTION_ARM (95, 22 R405): kinds 2, 3 and 5 fire at once, kinds 1 and 4 at an execution of their word. A unit whose firmware
core is halted does not vote, and its dissent waits for its next vote (23 R406). -/
def execInjectionArm (v : Word) (s : State) : Out :=
  let n := s.dev.injsel.toNat
  let a := s.dev.injaddr.toNat
  let fired (s : State) : State := s.injFire.modDev fun d => { d with injarm := false }
  if !v.getLsbD 0 || bits n 48 8 = 0 then .next s
  else
    match bits n 0 4 with
    | 1 | 4 => .next (s.modDev fun d => { d with injarm := true })
    | 2 => .next (fired { s with mem := s.mem.setPoison a true })
    | 3 =>
      let f := SMap.getD s.mem.flips (granOf a) 0#64 ^^^ (1#64 <<< bits n 42 6)
      .next (fired { s with mem := s.mem.setFlips a f })
    | 5 =>
      if 17 < bits a 0 5 ∨ bits a 5 2 = 3 then .next s
      else if s.dev.fwHalted.contains (bits a 0 5) then .next (s.modDev fun d => { d with injarm := true })
      else .next ((fired s).dissent (bits a 0 5) (1#3 <<< bits a 5 2))
    | _ => .next s

/-! ## Sensors -/

/-- The hottest die of a poll. -/
def hottest (r : Readings) : Nat := r.dies.foldl max 0

/-- THERMAL_FATAL (95, 24 R434): at a fatal reading every context ends, and the dies are held in reset. -/
def execThermalFatal (s : State) : Out :=
  if hottest s.dev.readings < 115 then .next s
  else .next (s.endContexts.modDev fun d => { d with therm := true, starting := none })

/-- THERMAL_RECOVERY_START (95, 24 R434): below 95 °C the device starts cold by itself. -/
def execThermalRecoveryStart (hottest : Nat) (s : State) : Out :=
  if !s.dev.therm || s.dev.starting.isSome || 95 ≤ hottest then .next s
  else .next ((s.modDev fun d => { d with queued := [], forced := false }).beginStart true 0)

/-- The warning, critical and fatal readings of the sensors that have them (24 R434), by sensor: power, inlet, outlet, hottest die. -/
def sensorLimits : Nat → List Nat
  | 0 => [2300, 2400]
  | 1 => [40, 50]
  | 2 => [60, 70]
  | 3 => [95, 105, 115]
  | _ => []

/-- The state of a sensor: 0 normal, 1 warning, 2 critical, 3 fatal (24 R434). -/
def sensorState (sensor reading : Nat) : Nat := ((sensorLimits sensor).filter fun l => decide (l ≤ reading)).length

/-- The readings of a poll, by sensor. -/
def readingOf (r : Readings) (sensor : Nat) : Nat := [r.power, r.inlet, r.outlet, hottest r].getD sensor (r.dies.getD (sensor - 4) 0)

/-- SENSOR_POLL (95, 24 R434): the throttle rises by a step at a critical reading, and ends below it. -/
def execSensorPoll (r : Readings) (s : State) : Out :=
  let crit := (List.range 4).any fun k => decide (2 ≤ sensorState k (readingOf r k))
  .next (s.modDev fun d => { d with readings := r, throttle := if crit then min 15 (d.throttle + 1) else 0 })

/-- The counters that the port reports (24 R425, R426), by number: the device's, then four a core, then six a partition, its
pairs' and its Assay Unit's. -/
def State.rasSensor (s : State) (n : Nat) : Word :=
  if n < 8 then s.dev.ras.getD n 0#32
  else if n < 8 + 4 * Config.cores then
    let c := s.core ((n - 8) / 4)
    [c.lossy, c.corrected, c.uncorr, c.parity].getD ((n - 8) % 4) 0#32
  else
    let k := n - 8 - 4 * Config.cores
    let p := s.part (k / 6)
    [p.mism, p.roll, p.unrec, p.asysamp, p.asyaban, p.asysus].getD (k % 6) 0#32

/-- PLDM_SENSOR_READ (95, 21 R375, R376, 24 R426, R434): 0 power, 1 inlet, 2 outlet, 3 hottest die, 4 to 9 each die, 10
throttle, 11 STARTST, 12 to 29 CPSTAT, then the RAS and Assay counters: the reading in eight bytes, then its state (log 11). What
the compute dies answer is NOT_READY during a start. -/
def execPldmSensorRead (sensor : Nat) (s : State) : Out :=
  let d := s.dev
  let r := d.readings
  let data : Nat :=
    if sensor < 10 then readingOf r sensor
    else if sensor = 10 then d.throttle
    else if sensor = 11 then d.startst.toNat
    else if sensor < 30 then (d.units.getD (sensor - 12) {}).cpstat
    else (s.rasSensor (sensor - 30)).toNat
  let down := d.starting.isSome && decide (12 ≤ sensor)
  .next (s.modDev fun d => { d with readout := if down then { code := 4 } else { data := leBytes 8 data ++ leBytes 1 (sensorState sensor data) } })

/-! ## The management port -/

/-- FIRMWARE_UPDATE (95, 21 R376, R378): the inactive slot is written, and verified before success is reported. The rest of an image,
which its signature covers, is its version, its rollback value and its body (DESIGN CHOICE, log 80). -/
def execFirmwareUpdate (img : FwImage) (s : State) : Out :=
  .next (s.modDev fun d =>
    let ok := fusedVerifies 0 firmwareLevels (leBytes 4 img.version.toNat ++ leBytes 4 img.rollback.toNat ++ img.body) img.sig
      && decide (d.rollback.toNat ≤ img.rollback.toNat)
    let f : FwSlot := { version := img.version, rollback := img.rollback, valid := ok, body := img.body, sig := img.sig }
    { d with slots := d.slots.set (1 - d.active) f, readout := { code := if ok then 0 else 1 } })

/-- ACTIVATE_FIRMWARE (95, 21 R376): the updated slot is to be active from the next start. -/
def execActivateFirmware (s : State) : Out :=
  .next (s.modDev fun d => if d.slotOk (1 - d.active) then { d with nextSlot := some (1 - d.active) } else d)

/-- GET_MEASUREMENTS (95, 21 R377). -/
def execGetMeasurements (s : State) : Out :=
  .next (s.modDev fun d =>
    let binds := (d.bind ++ d.ports).flatMap fun w => leBytes 4 w.toNat
    let dbg := (if d.unlocked then 1#8 else 0#8) ::
      (List.range Config.partitions).map fun p => if (s.part p).active then 1#8 else 0#8
    let m := d.measures.flatten ++ binds ++ dbg
    { d with readout := { data := m ++ Config.attest m } })

/-- GET_CHALLENGE (95, 23 R406): a later nonce replaces it. -/
def execGetChallenge (nonce : BitVec 256) (s : State) : Out :=
  .next (s.modDev fun d => { d with nonce := some nonce, readout := { data := leBytes 32 nonce.toNat } })

/-- UNLOCK (95, 23 R406): a nonce serves one UNLOCK; after eight failures none is taken until the next cold start. -/
def execUnlock (sig : List (BitVec 8)) (s : State) : Out :=
  .next (s.modDev fun d =>
    if 8 ≤ d.failures then { d with readout := { code := 1 } }
    else
      let ok := match d.nonce with
        | some n => fusedVerifies 1 unlockLevels (leBytes 32 n.toNat ++ Config.serial ++ [1#8]) sig
        | none => false
      if ok then { d with nonce := none, unlocked := true, readout := {} }
      else { d with nonce := none, failures := d.failures + 1, readout := { code := 1 } })

/-- Bytes that the spec does not give (log 23). -/
def State.freeBytes (s : State) (n : Nat) : List Byte × State :=
  ((List.range n).map fun i => (Config.freeWord (s.free + i)).extractLsb' 0 8, { s with free := s.free + n })

/-- An armed dissent of a unit that stalled comes about at its first vote (22 R405, 23 R406). -/
def State.fireVote (s : State) (unit : Nat) : State :=
  let n := s.dev.injsel.toNat
  let a := s.dev.injaddr.toNat
  if s.dev.injarm && decide (bits n 0 4 = 5) && decide (bits n 48 8 ≠ 0) && decide (bits a 0 5 = unit)
      && !s.dev.fwHalted.contains unit then
    (s.injFire.modDev fun d => { d with injarm := false }).dissent unit (1#3 <<< bits a 5 2)
  else s

/-- FIRMWARE_DEBUG_COMMAND (95, 23 R406): admitted once the domain is unlocked. Firmware core `u` serves control unit `u`
(log 29). -/
def execFirmwareDebugCommand (c : FwDebug) (s : State) : Out :=
  let ans (s : State) (bs : List Byte) (code : Nat) : Out := .next (s.modDev fun d => { d with readout := { data := bs, code := code } })
  if !s.dev.unlocked then ans s [] 1
  else
    match c with
    | .halt k => ans (s.modDev fun d => { d with fwHalted := k :: d.fwHalted.filter (· != k) }) [] 0
    | .go k =>
      let s := s.modDev fun d => { d with fwHalted := d.fwHalted.filter (· != k) }
      let parts := List.range Config.partitions
      ans ((parts.foldl State.dispatchOn (parts.foldl State.walkOn s)).fireVote k) [] 0
    | .step k => ans s [] (if s.dev.fwHalted.contains k then 0 else 1)
    | .read _ _ => let (bs, s) := s.freeBytes 4; ans s bs 0
    | .trace off len => let (bs, s) := s.freeBytes (min len (262144 - off)); ans s bs 0

end Sys2Proof.Machine
end

