-- ==== Sys2Proof/Machine/Context.lean ====
section
/-!
DEFINITION. Machine/Context.lean: contexts (22 R393 to R396): a fresh start, pre-emption, the image of a suspended context, and
its restore.
-/

namespace Sys2Proof.Machine

/-- Whether the device is up: its last start succeeded, and no start or thermal hold is on (21 R379 to R383, 24 R434). -/
def State.up (s : State) : Bool := s.dev.starting.isNone && !s.dev.therm && !s.dev.dead && s.dev.startst.getLsbD 1

/-- The fields of a context descriptor (22 R393). -/
def decodeCtx (n : Nat) : CtxDesc :=
  { root := BitVec.ofNat 64 (bits n 0 64), tkey := BitVec.ofNat 6 (bits n 64 6), save := BitVec.ofNat 64 (bits n 128 64)
    back := BitVec.ofNat 64 (bits n 192 64), stack := BitVec.ofNat 64 (bits n 256 64)
    ckpt := BitVec.ofNat 64 (bits n 320 64), stklen := bits n 384 32, ckptlen := bits n 416 32 }

/-- What the debug controls latch when run is written (23 R408). -/
def Part.latch (p : Part) : Part :=
  { p with active := p.kdbgctl.getLsbD 0, tren := p.kdbgctl.getLsbD 1, bpen := p.kdbgctl.extractLsb' 2 4 }

/-- CONTEXT_RUN (95, 22 R393): a fresh context from idle, a restore from saved; other states ignore it. DESIGN CHOICE (log 20): so
does one whose descriptor lies outside the partition's own DRAM. -/
def execContextRun (part : Nat) (s : State) : Out :=
  let p := s.part part
  let go := p.ctx == CtxState.idle || p.ctx == CtxState.saved
  if !s.up || !go || !ownDram part p.ctxd.toNat 64 then .next s
  else
    let s := s.touch (dramKey p.ctxd.toNat) 64
    let d := decodeCtx (s.mem.readNat (dramKey p.ctxd.toNat) 64)
    let (id, s) := s.fresh
    let s := s.modPart part fun p => { p.latch with desc := d, tlb := [] }
    .next (s.modPart part fun q => { q with ctx := if p.ctx = .idle then .running else .restoring, ctxNum := id })

/-- CONTEXT_PREEMPT (95, 22 R395): placement stops, its choice is made anew (03 R68), and each party runs on to its point. -/
def execContextPreempt (part : Nat) (s : State) : Out :=
  if (s.part part).ctx = .running then .next (s.modPart part fun p => { p with ctx := .saving, choice := none }) else .next s

/-! ## Suspension -/

/-- Whether a pour is a partition's. -/
def State.ofPart (s : State) (part pid : Nat) : Bool := match s.pour? pid with | some p => p.part == part | none => false

/-- Whether a command stands in the Runner's queue at pre-emption (04 R99, 22 R395: one that has a running slot completes first), or
is held for the other member of its pair. -/
def Cmd.waits (c : Cmd) : Bool := c.state == CmdState.queued || (c.state == CmdState.twin && c.mate.isNone)

/-- Whether a matrix instruction is saved as it stands: an `MMUL` at its chunk boundary, or a drain that waits unperformed for the
other member of its pair. -/
def CoreSt.matWaits (c : CoreSt) : Bool :=
  match c.mat with
  | none => true
  | some m => m.kind == MatKind.mmul || (c.heldDrain m.pour).isSome

/-- Whether every party stands at its point (22 R395), its results arrived. -/
def State.allTaken (s : State) (part : Nat) : Bool :=
  (s.weaves.all fun e => !s.ofPart part e.2.pour || e.2.yielded)
    && (s.cores.all fun e => partOf e.1 != part || e.2.matWaits)
    && (s.cmds.all fun c => c.owner.part != part || c.waits)
    && (s.pend.all fun q => !s.ofPart part q.pour || !(q.ready && (q.kind == PendKind.load || q.kind == PendKind.atomic)))
    && (s.crucibles.all fun e => e.2.part != part || e.2.prog == 0)

/-- The scratchpad ranges of a partition's pours, by key. -/
def State.scratchKeys (s : State) (part : Nat) : List (Nat × Nat) :=
  s.pours.filterMap fun e =>
    if e.2.part = part then some (scratchKey e.2.core e.2.scratch, e.2.hdr.scratch) else none

/-- Whether a key lies in one of some ranges. -/
def inRanges (rs : List (Nat × Nat)) (k : Nat) : Bool := rs.any fun r => decide (r.1 ≤ k) && decide (k < r.1 + r.2)

/-- Whether a synchronization object lies in one of some ranges of scratchpad. -/
def SyncKey.inRanges (k : SyncKey) (rs : List (Nat × Nat)) : Bool :=
  match k with
  | .atomic l _ | .phase l | .phaseDone l => Sys2Proof.Machine.inRanges rs l
  | _ => false

/-- The tasks of a partition that have begun. -/
def State.begun (s : State) (part : Nat) : List Nat :=
  s.tasks.filterMap fun e => if e.2.part = part ∧ e.2.hdr.isSome ∧ ¬ e.2.suspended then some e.1 else none

/-- The image of a partition's context. -/
def State.imageOf (s : State) (part : Nat) : Saved :=
  let p := s.part part
  let rs := s.scratchKeys part
  { ctxNum := p.ctxNum
    tkey := p.desc.tkey
    coreTab := p.coreTab
    chanTab := p.chanTab
    tasks := s.begun part
    pours := s.pours.filter fun e => e.2.part == part
    weaves := s.weaves.filter fun e => s.ofPart part e.2.pour
    fibres := s.fibres.filter fun e => s.ofPart part e.2.pour
    engines := s.engines.filter fun e => s.ofPart part e.2.pour
    crucibles := s.crucibles.filter fun e => e.2.part == part
    mats := s.cores.filterMap fun e => if partOf e.1 = part then e.2.mat.map fun m => (e.1, m) else none
    held := s.held.filter fun h => s.ofPart part h.op.pour
    pend := s.pend.filter fun q => s.ofPart part q.pour
    cmds := (s.cmds.filter fun c => c.owner.part == part).map fun c => { c with state := .queued, block := [], shapes := [] }
    pairs := s.pairs.filter fun e => s.ofPart part e.2.lead
    faults := p.faults
    sync := s.sync.filter fun e => e.1.inRanges rs
    scratch := s.mem.bytes.filter fun e => inRanges rs e.1
    stags := s.mem.tags.filter fun e => inRanges rs e.1
    spoison := s.mem.poison.filter fun e => inRanges rs e.1
    sflips := s.mem.flips.filter fun e => inRanges rs e.1 }

/-- The cores of a partition, by number. -/
def partCores (part : Nat) : List Nat := (List.range Config.perPart).map fun i => Config.perPart * part + i

/-- Take a partition's parties off its cores. -/
def State.takeOff (s : State) (part : Nat) (g : Saved) : State :=
  let s := { s with
    pours := s.pours.filter fun e => e.2.part != part
    weaves := s.weaves.filter fun e => !SMap.any g.weaves e.1
    fibres := s.fibres.filter fun e => !SMap.any g.fibres e.1
    engines := s.engines.filter fun e => !SMap.any g.engines e.1
    crucibles := s.crucibles.filter fun e => e.2.part != part
    held := s.held.filter fun h => !SMap.any g.pours h.op.pour
    pend := s.pend.filter fun q => !SMap.any g.pours q.pour
    cmds := s.cmds.filter fun c => c.owner.part != part
    pairs := s.pairs.filter fun e => !SMap.any g.pairs e.1
    sync := s.sync.filter fun e => !g.sync.contains e }
  (partCores part).foldl (fun s c =>
    (s.modCore c fun x => { x with mat := none, turn := List.replicate 4 none }).mirrorCheck c) s
where
  /-- Whether a map lists a key. -/
  SMap.any {α : Type} (m : SMap α) (k : Nat) : Bool := (SMap.get? m k).isSome

/-- Everything that the parties of a context know or have done (08 R161). -/
def State.knownBy (s : State) (g : Saved) : Clock :=
  let c := s.releasedBy (g.fibres.map (·.1))
  let c := g.engines.foldl (fun c e => joinClock c (e.2.released e.1)) c
  g.crucibles.foldl (fun c e => joinClock c e.2.released) c

/-- Pre-emption is a device-scope barrier across every party of the context (08 R177): each begins a region that follows all that
the others did. -/
def Saved.barrier (g : Saved) (k : Clock) : Saved :=
  { g with
    fibres := g.fibres.map fun e => (e.1, { e.2 with clock := k }.newRegion)
    engines := g.engines.map fun e => (e.1, { e.2 with clock := k, region := e.2.region + 1 })
    crucibles := g.crucibles.map fun e => (e.1, { e.2 with clock := k, region := e.2.region + 1 }) }

/-- CONTEXT_SAVED (95, 22 R395, R396): the last party is saved, and the save area holds the image. -/
def execContextSaved (part : Nat) (s : State) : Out :=
  let p := s.part part
  if p.ctx ≠ .saving || !s.allTaken part then .next s
  else
    let g := s.imageOf part
    let g := g.barrier (s.knownBy g)
    let s := (s.writeImage part).takeOff part g
    let s := { s with hist := s.hist.filter fun h => h.ctx != part * 2 ^ 32 + p.ctxNum }
    let s := g.tasks.foldl (fun s t => s.modTask t fun t => { t with suspended := true }) s
    .next ((s.modPart part fun p =>
      { p with ctx := .saved, active := false, tren := false, bpen := 0#4, faults := [], saved := SMap.put p.saved p.desc.save.toNat g, tlb := [] }).settleAges part)

/-! ## Place tables -/

/-- A table after an entry has been changed: the entry that held the new value takes the old one, so that no two logical numbers
name one unit (log 5). -/
def swapAt (l : List Nat) (i v : Nat) : List Nat :=
  match l[i]? with
  | none => l
  | some o => if l.contains v then l.map fun x => if x = v then o else if x = o then v else x else l

/-- Spill a partition's tiles of a core, whose logical number is about to change (13 R295). -/
def State.spillCore (s : State) (part core : Nat) : State :=
  (s.core core).tiles.foldl (fun s e =>
    match e.2.owner with
    | some (p, _) => if p = part then (s.spillTile core e.1 e.2).modTile core e.1 fun _ => {} else s
    | none => s) s

/-- Exchange what two range units hold. -/
def swapRanges (m : SMap Range) (a b : Nat) : SMap Range :=
  SMap.putD {} (SMap.putD {} m a (SMap.getD m b {})) b (SMap.getD m a {})

/-- Whether a task that is not suspended depends on an entry of a place table, or on the one that holds the new value: a pour
or an instance of the partition stands on its unit, or it is bound to its range unit (20 R359). -/
def State.depends (s : State) (part : Nat) (t : PlaceTab) (i v : Nat) : Bool :=
  let q := s.part part
  let unit (tab : List Nat) (n : Nat) : Bool := n == Config.perPart * part + tab.getD i v || n == Config.perPart * part + v
  match t with
  | .core => s.pours.any fun e => e.2.part == part && unit q.coreTab e.2.core
  | .chan => s.crucibles.any fun e => e.2.part == part && unit q.chanTab e.2.chan
  | .range => [q.rangeTab.getD i v, v].any fun r =>
      match (SMap.getD q.ranges r {}).task with
      | some o => (match s.task? o with | some t => !t.suspended | none => false)
      | none => false

/-- The hypervisor changes an entry of a place table (20 R359), which it does only while every task that depends on it is suspended.
The change takes effect at resumption: the tiles of a core that is renumbered have been spilled by then. -/
def State.placeEntry (s : State) (part : Nat) (t : PlaceTab) (i v : Nat) : State :=
  let q := s.part part
  if s.depends part t i v then s
  else
    match t with
    | .core =>
      let cores := [q.coreTab.getD i v, v].map fun c => Config.perPart * part + c
      (cores.foldl (fun s c => s.spillCore part c) s).modPart part fun q => { q with coreTab := swapAt q.coreTab i v }
    | .chan => s.modPart part fun q => { q with chanTab := swapAt q.chanTab i v }
    | .range => s.modPart part fun q =>
        { q with rangeTab := swapAt q.rangeTab i v
                 ranges := if v < 64 then swapRanges q.ranges (q.rangeTab.getD i v) v else q.ranges }

/-! ## Restore -/

/-- Put the entries of a map back. -/
def putAll {α : Type} (m g : SMap α) : SMap α := g.foldl (fun m e => SMap.put m e.1 e.2) m

/-- Put the contents of ranges back: what lies there goes, and the image's entries return; the default `d` is not listed. -/
def putRanges {α : Type} [DecidableEq α] (d : α) (rs : List (Nat × Nat)) (m g : SMap α) : SMap α :=
  g.foldl (fun m e => SMap.putD d m e.1 e.2) (m.filter fun e => !inRanges rs e.1)

/-- The unit that a place table gives to the logical number that an older table gave to a unit (20 R359). -/
def renumbered (old new : List Nat) (part unit : Nat) : Nat :=
  match old.idxOf? (unit % Config.perPart) with
  | some i => Config.perPart * part + new.getD i (unit % Config.perPart)
  | none => unit

/-- A key of scratchpad memory on the core that its pour moves to. -/
def movedKey (mv : Nat → Nat) (k : Nat) : Nat :=
  match sortOfKey k with
  | .scratch c => k - scratchKey c 0 + scratchKey (mv c) 0
  | _ => k

/-- A synchronization object on the core that its pour moves to. -/
def SyncKey.moved (mv : Nat → Nat) : SyncKey → SyncKey
  | .atomic l p => .atomic (movedKey mv l) p
  | .phase l => .phase (movedKey mv l)
  | .phaseDone l => .phaseDone (movedKey mv l)
  | k => k

/-- The image of a context for the units that the place tables name now (20 R359). -/
def Saved.moved (g : Saved) (part : Nat) (q : Part) : Saved :=
  let mv := renumbered g.coreTab q.coreTab part
  let mk {α : Type} (m : SMap α) : SMap α := m.map fun e => (movedKey mv e.1, e.2)
  { g with
    pours := g.pours.map fun e => (e.1, { e.2 with core := mv e.2.core })
    weaves := g.weaves.map fun e => (e.1, { e.2 with core := mv e.2.core })
    engines := g.engines.map fun e => (e.1, { e.2 with core := mv e.2.core })
    cmds := g.cmds.map fun c => { c with core := mv c.core, owner := { c.owner with core := mv c.owner.core } }
    crucibles := g.crucibles.map fun e => (e.1, { e.2 with chan := renumbered g.chanTab q.chanTab part e.2.chan })
    mats := g.mats.map fun e => (mv e.1, e.2)
    pairs := g.pairs.map fun e => (e.1, { e.2 with ckpt := e.2.ckpt.map fun k =>
      (k.1, { k.2 with weave := { k.2.weave with core := mv k.2.weave.core } }) })
    sync := g.sync.map fun e => (e.1.moved mv, e.2)
    scratch := mk g.scratch
    stags := mk g.stags
    spoison := mk g.spoison
    sflips := mk g.sflips }

/-- Put a context's parties back on the cores of the logical numbers they left (03 R70: any fitting core may take a pour; log 19). -/
def State.putBack (s : State) (part : Nat) (g : Saved) : State :=
  let s := { s with
    pours := putAll s.pours g.pours
    weaves := putAll s.weaves g.weaves
    fibres := putAll s.fibres g.fibres
    engines := putAll s.engines g.engines
    crucibles := putAll s.crucibles g.crucibles
    held := s.held ++ g.held
    pend := s.pend ++ g.pend
    cmds := s.cmds ++ g.cmds
    pairs := putAll s.pairs g.pairs
    sync := g.sync ++ s.sync }
  let rs := s.scratchKeys part
  let s := { s with
    mem := { s.mem with
      bytes := putRanges 0#8 rs s.mem.bytes g.scratch
      tags := putRanges Config.noTag rs s.mem.tags g.stags
      poison := putRanges false rs s.mem.poison g.spoison
      flips := putRanges 0#64 rs s.mem.flips g.sflips } }
  let s := g.mats.foldl (fun s e => s.modCore e.1 fun c => { c with mat := some e.2 }) s
  let s := g.tasks.foldl (fun s t => s.modTask t fun t => { t with suspended := false }) s
  (partCores part).foldl State.mirrorCheck s

/-- A purge that named a suspended context, applied at its restore (22 R401): to the tasks that the context had begun and that
bear the tag, not to a record that was entered after it. -/
def State.purgeKept (s : State) (g : Saved) (rtag : BitVec 16) : State :=
  s.purgeIds (g.tasks.filter fun t => match s.task? t with | some t => t.rtag == rtag | none => false)

/-- CONTEXT_RESTORE_DONE (95, 22 R392, R393, R401): the parties are back, the fault answers and purges that came meanwhile are
applied, and placement may begin. An area that holds no image restores no party. While a weight-store copy is busy no pour is
placed (21 R367). -/
def execContextRestoreDone (part : Nat) (s : State) : Out :=
  let p := s.part part
  if p.ctx ≠ .restoring || p.wsst = 1 then .next s
  else
    match SMap.get? p.saved p.desc.save.toNat with
    | none => .next (s.modPart part fun p => { p with ctx := .running })
    | some g =>
      let s := (s.putBack part (g.moved part p)).readImage part
      let s := s.modPart part fun p =>
        { p with ctx := .running, ctxNum := g.ctxNum, faults := g.faults, saved := SMap.erase p.saved p.desc.save.toNat }
      let s := s.flushFaults part
      let s := g.answers.foldl (fun s a =>
        match (s.part part).faults.find? fun f => f.id == a.1 with
        | some f => s.answer part f a.2
        | none => s) s
      let s := g.purges.foldl (fun s t => s.purgeKept g t) s
      .next ((s.walkOn part).dispatchOn part)

end Sys2Proof.Machine
end

