-- ==== Sys2Proof/Machine/Prob.lean ====
section
/-!
DEFINITION. Machine/Prob.lean: the probability predicates (07 R148 to R159, 13 R296, R297) and TAG (13 R298).
-/

namespace Sys2Proof.Machine

/-- The temperature of a fibre as a value (07 R150). -/
def Fibre.temp (f : Fibre) : FVal := dec f.qtemp.toNat fFP32

/-- Whether a temperature is invalid (07 R150): a NaN, or below zero. -/
def tempBad (t : FVal) : Bool :=
  match t with
  | .nan _ => true
  | .inf n => n
  | .fin n m _ _ => n && decide (m ≠ 0)

/-- The FP-exception trap of an invalid temperature (07 R150): tinfo2 shows invalid whatever `fpmode` enables (log 13). -/
def Ctx.tempGate (c : Ctx) (h : Form) (s : State) (ins : SMap LaneIn) (k : State → State) : State :=
  let bad := ins.filter fun e => tempBad e.2.f.temp
  if bad.isEmpty then k s
  else
    c.trap s h ins cFp (bad.map (·.2.f.lane))
      (ins.map fun e => (e.2.f.lane, if tempBad e.2.f.temp then 1#64 else 0#64))

/-- `rne(65535 * clamp(1/2 + x/(4T), 0, 1))` (07 R151), for finite nonzero x and finite positive T: ties go to the even
code. -/
def rampCode (neg : Bool) (m : Nat) (e : Int) (n : Nat) (f : Int) : Nat :=
  let d := e - f
  let num : Nat := if 0 ≤ d then m * 2 ^ d.toNat else m
  let den : Nat := if 0 ≤ d then 4 * n else 4 * n * 2 ^ (-d).toNat
  -- 1/2 ± num/den
  let up := if neg then (if den ≤ 2 * num then 0 else den - 2 * num) else den + 2 * num
  let lo := 2 * den
  if lo ≤ up then 65535
  else
    let q := 65535 * up / lo
    let r := 65535 * up % lo
    if lo < 2 * r then q + 1 else if 2 * r = lo then q + q % 2 else q

/-- The code of a soft comparison (07 R151). -/
def softCode (cond : Nat) (t : FVal) (logi : Bool) (a b : FVal) : Nat :=
  if a.isNaN || b.isNaN then 0
  else
    let tz := match t with | .fin _ 0 _ _ => true | _ => false
    if cmpV a b == .eq then
      if tz then (if cond = 3 ∨ cond = 5 then 65535 else 0) else 32768
    else
      let d := if cond = 2 ∨ cond = 3 then addV b a.negate mRNE else addV a b.negate mRNE
      let x := dec (rne32 d.1) fFP32
      let pos := match x with | .fin n _ _ _ => !n | .inf n => !n | .nan _ => false
      if tz then (if pos then 65535 else 0)
      else
        match t, x with
        | .inf _, _ => 32768
        | .fin _ n f _, .fin neg m e _ => if logi then logistic neg m e n f else rampCode neg m e n f
        | _, _ => if pos then 65535 else 0

/-- Whether a q index is illegal (09 R191). -/
def qBad (k : BitVec 4) : Bool := decide (7 < k.toNat)

/-- The tag of a q register's new value (07 R151, R152). -/
def qTag (c : Ctx) (f : Fibre) (sp : Bool) (ops : List TagOp) (k : Nat) : Tag := tagpick f.tagmode c.here sp ops (f.qr k).tag

/-- `QCMP` (07 R151). -/
def execQcmp (cond k : BitVec 4) (a b : BitVec 8) (l : Word) (s : State) : Out :=
  let h : Form := { instr := .qcmp cond k a b l, a := some (.s, a), b := some (.s, b), lit := l,
                    bad := decide (cond.toNat < 2) || decide (5 < cond.toNat), badOp := qBad k }
  s.laneOp h false [] fun s c ins =>
    c.tempGate h s ins fun s =>
      let s := ins.foldl (fun s e =>
        let x := e.2
        let va := dec x.a0.val.toNat fFP32
        let vb := dec x.b0.val.toNat fFP32
        s.modFibre e.1 fun f =>
          f.setQ k.toNat
            { code := BitVec.ofNat 16 (softCode cond.toNat f.temp (f.qmode.getLsbD 0) va vb)
              srcs := 1#8 <<< (c.here.toNat / 16 % 8)
              dep := false
              poison := poi [x.a0, x.b0]
              tag := qTag c f (va.special || vb.special) (tagOps special32 [x.a0, x.b0]) k.toNat }) s
      c.finish h s []

/-- `rne(x / 65535)` (07 R152). -/
def rq (x : Nat) : Nat := x / 65535 + (if 65535 < 2 * (x % 65535) then 1 else 0)

/-- Codes of AND and OR (07 R152). -/
def qAnd (p q : BitVec 16) : BitVec 16 := BitVec.ofNat 16 (rq (p.toNat * q.toNat))
def qOr (p q : BitVec 16) : BitVec 16 := BitVec.ofNat 16 (65535 - rq ((65535 - p.toNat) * (65535 - q.toNat)))

/-- AND and OR (07 R152), with the dependence trap (R154). -/
def State.qBin (s : State) (h : Form) (d a b : BitVec 4) (g : BitVec 16 → BitVec 16 → BitVec 16) : Out :=
  s.laneOp h false [] fun s c ins =>
    let meets (f : Fibre) : Bool := (f.qr a.toNat).srcs &&& (f.qr b.toNat).srcs != 0#8
    let bad := ins.filter fun e => meets e.2.f && e.2.f.qmode.getLsbD 1
    if !bad.isEmpty then c.trap s h ins cDepend (bad.map (·.2.f.lane)) []
    else
      let s := ins.foldl (fun s e => s.modFibre e.1 fun f =>
        let x := f.qr a.toNat
        let y := f.qr b.toNat
        f.setQ d.toNat { code := g x.code y.code, srcs := x.srcs ||| y.srcs, dep := x.dep || y.dep || meets f,
                         poison := x.poison || y.poison, tag := qTag c f false [] d.toNat }) s
      c.finish h s []

/-- `QLOG.AND` (07 R152). -/
def execQlogAnd (d a b : BitVec 4) (s : State) : Out :=
  s.qBin { instr := .qlogAnd d a b, badOp := qBad d || qBad a || qBad b } d a b qAnd

/-- `QLOG.OR` (07 R152). -/
def execQlogOr (d a b : BitVec 4) (s : State) : Out :=
  s.qBin { instr := .qlogOr d a b, badOp := qBad d || qBad a || qBad b } d a b qOr

/-- `QLOG.NOT` (07 R152). -/
def execQlogNot (d a : BitVec 4) (s : State) : Out :=
  let h : Form := { instr := .qlogNot d a, badOp := qBad d || qBad a }
  s.laneOp h false [] fun s c ins =>
    let s := ins.foldl (fun s e => s.modFibre e.1 fun f =>
      let x := f.qr a.toNat
      f.setQ d.toNat { x with code := BitVec.ofNat 16 (65535 - x.code.toNat), tag := qTag c f false [] d.toNat }) s
    c.finish h s []

/-- The blending case of QBLEND (07 R155). -/
def blendR (c : Nat) (a d : Nat) : FRes :=
  let va := dec a fFP32
  let vd := dec d fFP32
  if va.isNaN || vd.isNaN then (canonNaN fFP32, if va.isSig || vd.isSig then flInvalid else 0#5)
  else
    match va, vd with
    | .inf x, .inf y => if x = y then (infBits fFP32 x, 0#5) else (canonNaN fFP32, flInvalid)
    | .inf x, _ => (infBits fFP32 x, 0#5)
    | _, .inf y => (infBits fFP32 y, 0#5)
    | .fin na ma ea _, .fin nd md ed _ =>
      -- D + (c/65535)(A - D) = (c A + (65535 - c) D) / 65535
      let sum := (addV (mulV (.fin false c 0 false) (.fin na ma ea false)).1
        (mulV (.fin false (65535 - c) 0 false) (.fin nd md ed false)).1 mRNE).1
      match sum with
      | .fin _ 0 _ _ => (signBit fFP32 (na && nd && decide (ma = 0) && decide (md = 0)), 0#5)
      | .fin n m e _ => fprNoFtz (divFin n m e false 65535 0) fFP32 mRNE
      | v => fprNoFtz v fFP32 mRNE
    | _, _ => (canonNaN fFP32, 0#5)

/-- `QBLEND` (07 R155). -/
def execQblend (n : BitVec 1) (d a : BitVec 8) (k : BitVec 4) (l : Word) (s : State) : Out :=
  let h : Form := { uniForm (.qblend n d a k l) n d a l with badOp := qBad k, reads := .blend k.toNat }
  s.laneOp h true [] fun s c ins =>
    let code (x : LaneIn) : Nat := (x.f.qr k.toNat).code.toNat
    let r (x : LaneIn) : FRes := blendR (code x) x.a0.val.toNat x.d0.val.toNat
    let blends (x : LaneIn) : Bool := decide (0 < code x) && decide (code x < 65535)
    c.fpGate h s ins (fun x => if blends x then (r x).2 else 0#5) fun s =>
      c.finish h s (ins.map fun e =>
        let x := e.2
        let q := x.f.qr k.toNat
        if blends x then
          let v := BitVec.ofNat 32 (r x).1
          let w := fpWord c h x v (special32 v) (tagOps special32 [x.a0, x.d0]) [x.a0, x.d0]
          (e.1, [{ w with poison := w.poison || q.poison }])
        else
          let m := if code x = 0 then x.d0 else x.a0
          (e.1, moved x.f.tagmode x.d [{ m with poison := m.poison || q.poison, parity := false }]))

/-- `QDRAW` (07 R156): poison is consumed (R159). -/
def execQdraw (p : BitVec 4) (a : BitVec 8) (k : BitVec 4) (l : Word) (s : State) : Out :=
  let h : Form := { instr := .qdraw p a k l, a := some (.s, a), lit := l, badOp := qBad k }
  s.laneOp h false [] fun s c ins =>
    if ins.any fun e => e.2.a0.poison || (e.2.f.qr k.toNat).poison then c.consume s
    else
      let s := ins.foldl (fun s e => s.modFibre e.1 fun f =>
        f.setP p.toNat (decide (e.2.a0.val.toNat / 65536 * 65535 < (f.qr k.toNat).code.toNat * 65536))) s
      c.finish h s []

/-- g times the exact factor num/den * 2^sh that is not negative (07 R157). -/
def gmulR (g : Nat) (num den : Nat) (sh : Int) : FRes :=
  match dec g fFP32 with
  | .nan sig => (canonNaN fFP32, if sig then flInvalid else 0#5)
  | .inf n => if num = 0 then (canonNaN fFP32, flInvalid) else (infBits fFP32 n, 0#5)
  | .fin n m e _ =>
    if m = 0 ∨ num = 0 then (signBit fFP32 n, 0#5)
    else fprNoFtz (divFin n (m * num) (e + sh) false den 0) fFP32 mRNE

/-- The clamped cases of RAMP and LOGI (07 R157): +0, or the canonical NaN. -/
def gclampR (g : Nat) : FRes :=
  match dec g fFP32 with
  | .nan sig => (canonNaN fFP32, if sig then flInvalid else 0#5)
  | _ => (0, 0#5)

/-- RAMP (07 R157): g/(4T). -/
def gradRamp (t : FVal) (c g _p : Nat) : FRes :=
  if c = 0 ∨ c = 65535 then gclampR g
  else
    match t with
    | .inf _ => gmulR g 0 1 0
    | .fin _ n f _ => if n = 0 then gclampR g else gmulR g 1 (4 * n) (-f)
    | .nan _ => gclampR g

/-- LOGI (07 R157): g q (1 - q) / T. -/
def gradLogi (t : FVal) (c g _p : Nat) : FRes :=
  if c = 0 ∨ c = 65535 then gclampR g
  else
    match t with
    | .inf _ => gmulR g 0 1 0
    | .fin _ n f _ => if n = 0 then gclampR g else gmulR g (c * (65535 - c)) (65535 * 65535 * n) (-f)
    | .nan _ => gclampR g

/-- AND-partial, OR-partial, NOT and BLEND-q (07 R157). -/
def gradAndp (_ : FVal) (c g _p : Nat) : FRes := gmulR g c 65535 0
def gradOrp (_ : FVal) (c g _p : Nat) : FRes := gmulR g (65535 - c) 65535 0
def gradNot (_ : FVal) (_c g _p : Nat) : FRes :=
  match dec g fFP32 with
  | .nan sig => (canonNaN fFP32, if sig then flInvalid else 0#5)
  | _ => ((g + 2 ^ 31) % 2 ^ 32, 0#5)
def gradBlendq (_ : FVal) (_c g p : Nat) : FRes :=
  let (v, fl) := mulV (dec g fFP32) (dec p fFP32)
  let r := fprNoFtz v fFP32 mRNE
  (r.1, r.2 ||| fl)

/-- QGRAD (07 R157): `temp` for the forms that use the temperature, `acc` where D is read. -/
def State.qgrad (s : State) (h : Form) (k : BitVec 4) (temp acc : Bool) (g : FVal → Nat → Nat → Nat → FRes) : Out :=
  s.laneOp h acc [] fun s c ins =>
    let r (x : LaneIn) : FRes := g x.f.temp (x.f.qr k.toNat).code.toNat x.a0.val.toNat x.d0.val.toNat
    let body (s : State) : State :=
      c.fpGate h s ins (fun x => (r x).2) fun s =>
        c.finish h s (ins.map fun e =>
          let x := e.2
          let v := BitVec.ofNat 32 (r x).1
          let rs := if acc then [x.a0, x.d0] else [x.a0]
          let w := fpWord c h x v (special32 v) (tagOps special32 rs) rs
          (e.1, [{ w with poison := w.poison || (x.f.qr k.toNat).poison }]))
    if temp then c.tempGate h s ins body else body s

/-- The form of a QGRAD. -/
def qgradForm (i : Instr) (n : BitVec 1) (d a : BitVec 8) (k : BitVec 4) (l : Word) : Form :=
  { uniForm i n d a l with badOp := qBad k }

/-- `QGRAD.RAMP` (07 R157). -/
def execQgradRamp (n : BitVec 1) (d a : BitVec 8) (k : BitVec 4) (l : Word) (s : State) : Out :=
  s.qgrad (qgradForm (.qgradRamp n d a k l) n d a k l) k true false gradRamp

/-- `QGRAD.LOGI` (07 R157). -/
def execQgradLogi (n : BitVec 1) (d a : BitVec 8) (k : BitVec 4) (l : Word) (s : State) : Out :=
  s.qgrad (qgradForm (.qgradLogi n d a k l) n d a k l) k true false gradLogi

/-- `QGRAD.ANDP` (07 R157). -/
def execQgradAndp (n : BitVec 1) (d a : BitVec 8) (k : BitVec 4) (l : Word) (s : State) : Out :=
  s.qgrad (qgradForm (.qgradAndp n d a k l) n d a k l) k false false gradAndp

/-- `QGRAD.ORP` (07 R157). -/
def execQgradOrp (n : BitVec 1) (d a : BitVec 8) (k : BitVec 4) (l : Word) (s : State) : Out :=
  s.qgrad (qgradForm (.qgradOrp n d a k l) n d a k l) k false false gradOrp

/-- `QGRAD.NOT` (07 R157). -/
def execQgradNot (n : BitVec 1) (d a : BitVec 8) (k : BitVec 4) (l : Word) (s : State) : Out :=
  s.qgrad (qgradForm (.qgradNot n d a k l) n d a k l) k false false gradNot

/-- `QGRAD.BLENDQ` (07 R157): P is D's prior value. -/
def execQgradBlendq (n : BitVec 1) (d a : BitVec 8) (k : BitVec 4) (l : Word) (s : State) : Out :=
  s.qgrad (qgradForm (.qgradBlendq n d a k l) n d a k l) k false true gradBlendq

/-- The image of a q register (07 R149). -/
def QReg.image (q : QReg) : Word := BitVec.ofNat 32 (q.code.toNat + q.srcs.toNat * 2 ^ 16 + (if q.dep then 2 ^ 24 else 0))

/-- `QXFER.OUT` (07 R149): a movement. -/
def execQxferOut (d : BitVec 8) (k : BitVec 4) (s : State) : Out :=
  let h : Form := { instr := .qxferOut d k, dst := some (d, 1), badOp := qBad k }
  s.laneOp h false [] fun s c ins =>
    c.finish h s (ins.map fun e =>
      let q := e.2.f.qr k.toNat
      (e.1, moved e.2.f.tagmode e.2.d [{ val := q.image, tag := q.tag, poison := q.poison }]))

/-- `QXFER.IN` (07 R149): an image with a reserved bit set is an illegal operand. -/
def execQxferIn (k : BitVec 4) (a : BitVec 8) (l : Word) (s : State) : Out :=
  let h : Form := { instr := .qxferIn k a l, a := some (.s, a), lit := l, badOp := qBad k }
  s.laneOp h false [] fun s c ins =>
    let bad := ins.filter fun e => e.2.a0.val.toNat / 2 ^ 25 != 0
    if !bad.isEmpty then c.valueTrap s h ins (bad.map (·.2.f.lane))
    else
      let s := ins.foldl (fun s e => s.modFibre e.1 fun f =>
        let v := e.2.a0.val
        f.setQ k.toNat { code := v.extractLsb' 0 16, srcs := v.extractLsb' 16 8, dep := v.getLsbD 24,
                         poison := e.2.a0.poison, tag := moveTag f.tagmode e.2.a0.tag (f.qr k.toNat).tag }) s
      c.finish h s []

/-- A TAG form (13 R298): the resulting word from the word of A and the prior D. -/
def State.tagOp (s : State) (h : Form) (acc : Bool) (g : Ctx → LaneIn → Reg) : Out :=
  s.laneOp h acc [] fun s c ins =>
    c.finish h s (ins.map fun e => (e.1, [{ g c e.2 with tag := moveTag e.2.f.tagmode (g c e.2).tag e.2.d0.tag,
                                                         parity := false }]))

/-- `TAG.READ` (13 R298). -/
def execTagRead (n : BitVec 1) (d a : BitVec 8) (l : Word) (s : State) : Out :=
  s.tagOp (uniForm (.tagRead n d a l) n d a l) false fun c x => { val := x.a0.tag.zeroExtend 32, tag := c.here }

/-- `TAG.WRITE` (13 R298): a value above 16 bits is an illegal operand. -/
def execTagWrite (n : BitVec 1) (d a : BitVec 8) (l : Word) (s : State) : Out :=
  let h := uniForm (.tagWrite n d a l) n d a l
  s.laneOp h true [] fun s c ins =>
    let bad := ins.filter fun e => e.2.a0.val.toNat / 2 ^ 16 != 0
    if !bad.isEmpty then c.valueTrap s h ins (bad.map (·.2.f.lane))
    else
      c.finish h s (ins.map fun e =>
        let x := e.2
        (e.1, [{ x.d0 with tag := moveTag x.f.tagmode (x.a0.val.extractLsb' 0 16) x.d0.tag,
                           poison := x.d0.poison || x.a0.poison, parity := false }]))

/-- `TAG.MARK` (13 R298). Its A field is 240. -/
def execTagMark (n : BitVec 1) (d : BitVec 8) (s : State) : Out :=
  s.tagOp { instr := .tagMark n d, nw := n, dst := some (d, 1) } true fun c x => { x.d0 with tag := c.here }

/-- `TAG.COPY` (13 R298). -/
def execTagCopy (n : BitVec 1) (d a : BitVec 8) (l : Word) (s : State) : Out :=
  s.tagOp (uniForm (.tagCopy n d a l) n d a l) true fun _ x => { x.d0 with tag := x.a0.tag }

end Sys2Proof.Machine
end

