-- ==== Sys2Proof/Machine/Debug.lean ====
section
/-!
DEFINITION. Machine/Debug.lean: kernel debug (23 R407 to R416): BKPT, stops and steps, the debugger's commands and their
records in the trace; the samples of profiling (R417, R418).
-/

namespace Sys2Proof.Machine

/-! ## Stops -/

/-- What DBGRES then reads (23 R414). -/
structure DbgRes where
  status : Nat
  pend   : Bool := false
  poison : Bool := false
  data   : Word := 0#32
  tag    : Tag := 0#16
  deriving DecidableEq, Repr

def DbgRes.image (r : DbgRes) : BitVec 128 :=
  BitVec.ofNat 128 (r.status + (if r.pend then 16 else 0) + (if r.poison then 32 else 0) + r.data.toNat * 2 ^ 32
    + r.tag.toNat * 2 ^ 64)

/-- The pours that stop and step with a pour: a redundant pair's members, the leading one first (23 R409). -/
def State.together (s : State) (pid : Nat) : List Nat :=
  match s.pairOf pid with
  | some (_, p) => [p.lead, p.trail]
  | none => [pid]

/-- Whether every weave of some pours has been taken at a yield point (23 R409). -/
def State.allYielded (s : State) (ps : List Nat) : Bool := s.weaves.all fun e => !ps.contains e.2.pour || e.2.yielded

/-- The handle of a pour's task, as records name it. -/
def State.pourHandle (s : State) (p : Pour) : Word := match s.task? p.task with | some t => t.handle | none => 0#32

/-- The word and rank that the record of a stop names: those given, or those of the pour's lowest rank, or of an engine
where no fibre is left (23 R416). -/
def State.stopAt (s : State) (pid : Nat) (r : StopRec) : Nat × Nat :=
  match r.at_ with
  | some x => x
  | none =>
    let fs := s.fibres.filter fun e => e.2.pour == pid
    match (fs.mergeSort fun a b => decide (a.2.rank ≤ b.2.rank)).head? with
    | some e => (e.2.pc, e.2.rank)
    | none =>
      match s.engines.find? fun e => e.2.pour == pid with
      | some e => (e.2.pc, engRank e.2.kind)
      | none => (0, 0)

/-- The token register of a command: its code, 240 where its write-back has gone (23 R416). -/
def State.tokenCode (s : State) (c : Cmd) : Nat :=
  match s.pend.find? fun q => some q.id == c.pend with
  | some q => (match q.dest with | .fibres d _ => d | .engine _ d _ => d)
  | none => 240

/-- The low 24 bits of the address of the barrier word that a command's block names, 0 where it names none or has not been
read. -/
def Cmd.barOff (c : Cmd) : Nat :=
  if c.block.isEmpty then 0
  else
    match c.kind with
    | .put => let b := decodePut c.block; if b.bvalid then b.bar.toNat % 2 ^ 24 else 0
    | _ => let b := decodeBlock c.block; if b.bvalid then b.bar.toNat % 2 ^ 24 else 0

/-- The number of a copy instruction in a record (23 R416). -/
def CmdKind.num : CmdKind → Nat
  | .rcopy => 0 | .rpat => 1 | .put => 2

/-- The records of a pour's operations in flight (23 R412, R416). An `MLDW` has no kind of its own in R416: its kind is a free
value (log 79). -/
def State.flightRecs (s : State) (pid : Nat) (p : Pour) : List TraceRec :=
  let h := s.pourHandle p
  let ofCmd (c : Cmd) : TraceRec :=
    { type := 2, core := p.core, handle := h, pour := p.idx, pc := c.pc
      rank := match c.eng with | some e => engRank e | none => c.rank
      detail := s.tokenCode c + c.kind.num * 2 ^ 8 + c.barOff * 2 ^ 16 }
  let mats : List TraceRec :=
    match (s.core p.core).mat with
    | none => []
    | some m =>
      if m.pour ≠ pid then []
      else
        let r (kind code bar : Nat) : TraceRec :=
          { type := 2, core := p.core, handle := h, pour := p.idx, pc := m.pc, rank := 0xFFFF
            detail := code + kind * 2 ^ 8 + bar % 2 ^ 24 * 2 ^ 16 }
        match m.kind with
        | .mldw => [r ((Config.freeWord s.free).toNat % 8) 240 0]
        | .mmul => [r 3 240 (decodeMmul m.regs).bar]
        | .mdrain =>
          let b := decodeDrain m.block
          [r 4 (if b.dkind = 2 then bits b.dst 0 8 else 240) (if b.bvalid then b.bar else 0)]
  ((s.cmds.filter fun c => c.pour == pid).map ofCmd) ++ mats

/-- Set DBGRES. -/
def State.dbgAnswer (s : State) (part : Nat) (r : DbgRes) : State := s.modPart part fun p => { p with dbgres := r.image }

/-- A pour has stopped: its record, and those of its operations in flight, in a pair those of each member (23 R412). A STOP that waited for it is done (R414). -/
def State.finishStop (s : State) (pid : Nat) (r : StopRec) : State :=
  match s.pour? pid with
  | none => s
  | some p =>
    let ps := s.together pid
    let lead := ps.headD pid
    let s := ps.foldl (fun s q => s.modPour q fun v => { v with dbg := .stopped s.clk }) s
    let (pc, rank) := s.stopAt lead r
    let s := s.trace p.part
      { type := if r.step then 1 else 0, why := r.why, core := (s.pour? lead).elim p.core (·.core), handle := s.pourHandle p
        pour := p.idx, pc := pc, rank := rank, detail := if r.step then 0 else r.code }
    let s := if r.cmd then s.dbgAnswer p.part { status := 0 } else s
    ps.foldl (fun s q =>
      match s.pour? q with
      | some v => ((s.flightRecs q v).foldl (fun s t => s.trace p.part t) s).takeFree.2
      | none => s) s

/-- Begin to stop a pour, with its twin (23 R409, R410); one that stops already, or has stopped, goes on so. -/
def State.stopPour (s : State) (pid : Nat) (r : StopRec) : State :=
  match s.pour? pid with
  | none => s
  | some p =>
    if !p.dbg.runs then s
    else
      let r := { r with step := match p.dbg with | .stepping _ _ => true | _ => false }
      let ps := s.together pid
      if s.allYielded ps then s.finishStop pid r
      else ps.foldl (fun s q => s.modPour q fun v => { v with dbg := .stopping r }) s

/-- Whether a comparator or `BKPT` of a pour stops it: kernel debug is active, and in a redundant pair the leading member
decides for both (log 31). -/
def State.mayBreak (s : State) (pid : Nat) : Bool :=
  match s.pour? pid with
  | some p => (s.part p.part).active && !s.isTrail pid
  | none => false

/-- Whether an enabled comparator holds a word offset (23 R410). -/
def State.compares (s : State) (pid pc : Nat) : Bool :=
  s.mayBreak pid && (match s.pour? pid with
    | some p =>
      let q := s.part p.part
      (List.range 4).any fun i => q.bpen.getLsbD i && decide ((q.bps.getD i 0#32).toNat = pc)
    | none => false)

/-- `BKPT` (13 R301, 23 R410). -/
def execBkpt (code : BitVec 8) (s : State) : Out :=
  s.groupOp { instr := .bkpt code }
    (fun s c x =>
      if !s.mayBreak c.pid then s.after c.w 1 false false
      else (s.after c.w 1 false true).stopPour c.pid { why := 1, code := code.toNat, at_ := some (c.pc + 1, x.f.rank) })
    fun s e x =>
      let s := s.afterEngine e 1
      if !s.mayBreak x.v.pour then s
      else
        s.stopPour x.v.pour
          { why := 1, code := code.toNat, at_ := some (x.v.pc + 1, engRank x.v.kind) }

/-- A stopped pour runs on: the barriers that were held complete, and the ages of its recast records go on from where they
stood (23 R409, R411). -/
def State.runPour (s : State) (pid : Nat) (m : DbgMode) : State :=
  (s.together pid).foldl (fun s q =>
    match s.pour? q with
    | none => s
    | some p =>
      let gap := match p.dbg with | .stopped at_ => s.clk - at_ | _ => 0
      let s := { s with fibres := s.fibres.map fun (e : Nat × Fibre) =>
        if e.2.pour = q then
          (e.1, { e.2 with status := match e.2.status with | .ready k a => .ready k (a + gap) | t => t })
        else e }
      ((s.modPour q fun v => { v with dbg := m }).releaseBars q)) s

/-- Whether every crew of some pours that has live members has its barrier held (23 R411): none has live members where an engine
program alone still runs. -/
def State.stepDone (s : State) (ps : List Nat) : Bool := s.fibres.all fun e => !ps.contains e.2.pour || e.2.status == .bar

/-- STEP_END (95, 23 R411, R412): a step ends where every crew's barrier is held, and a stop takes effect once every weave
has yielded. -/
def execStepEnd (pour : Nat) (s : State) : Out :=
  match s.pour? pour with
  | none => .next s
  | some p =>
    let ps := s.together pour
    match p.dbg with
    | .stopping r => if s.allYielded ps then .next (s.finishStop pour r) else .next s
    | .stepping _ _ => if s.stepDone ps then .next (s.stopPour pour { why := 3 }) else .next s
    | _ => .next s

/-- STEP_LIMIT_EXPIRY (95, 23 R411): the limit counts units of 1,024 cycles, and 0 is none. -/
def execStepLimitExpiry (pour : Nat) (s : State) : Out :=
  match s.pour? pour with
  | none => .next s
  | some p =>
    match p.dbg with
    | .stepping limit elapsed =>
      if limit ≠ 0 ∧ limit * 1024 ≤ elapsed then .next (s.stopPour pour { why := 4 }) else .next s
    | _ => .next s

/-! ## Commands -/

/-- The fields of a command (23 R413). -/
structure DbgCmd where
  op     : Nat
  handle : Word
  pour   : Nat
  rank   : Nat
  limit  : Nat
  reg    : Nat
  cls    : Nat
  data   : Word
  tag    : Tag
  deriving DecidableEq, Repr

def decodeDbg (v : BitVec 256) : DbgCmd :=
  let n := v.toNat
  { op := bits n 0 4, handle := BitVec.ofNat 32 (bits n 32 32), pour := bits n 64 32, rank := bits n 96 10, limit := bits n 96 16
    reg := bits n 112 8, cls := bits n 120 4, data := BitVec.ofNat 32 (bits n 128 32), tag := BitVec.ofNat 16 (bits n 160 16) }

/-- Whether a command is illegal: a reserved operation, or a reserved class (23 R413). -/
def DbgCmd.illegal (c : DbgCmd) : Bool := decide (5 < c.op) || (decide (3 ≤ c.op) && decide (5 < c.cls))

/-- The pour that a command names, the leading member of a pair (23 R409, R413). -/
def State.dbgPour (s : State) (part : Nat) (c : DbgCmd) : Option (Nat × Pour) :=
  match s.byHandle part c.handle with
  | none => none
  | some (tid, _) => s.pours.find? fun e => e.2.task == tid && e.2.idx == c.pour && !s.isTrail e.1

/-- The register of a stopped pour that a command names (23 R413): of a fibre, or of an engine. -/
inductive DbgReg where
  | v (f r : Nat)
  | p (f : Nat)
  | q (f r : Nat)
  | cr (f r : Nat)
  | k (e : Option Nat) (r : Nat)
  deriving DecidableEq, Repr

/-- The fibre of a pour with a rank. -/
def State.ofRank (s : State) (pid rank : Nat) : Option (Nat × Fibre) :=
  s.fibres.find? fun e => e.2.pour == pid && e.2.rank == rank

/-- The engine program of a pour. -/
def State.engineOf (s : State) (pid : Nat) (k : EngKind) : Option Nat :=
  (s.engines.find? fun e => e.2.pour == pid && e.2.kind == k && e.2.running).map (·.1)

/-- The register that a command names in a member, where there is one. -/
def State.dbgReg (s : State) (pid : Nat) (p : Pour) (c : DbgCmd) : Option DbgReg :=
  let f := (s.ofRank pid c.rank).map (·.1)
  match c.cls with
  | 0 => if c.reg < p.hdr.regs then f.map fun f => .v f c.reg else none
  | 1 => if c.reg = 0 then f.map fun f => .p f else none
  | 2 => if c.reg < 8 then f.map fun f => .q f c.reg else none
  | 3 => if c.reg ≤ 0x11 then f.map fun f => .cr f c.reg else none
  | 4 => if c.reg < EngKind.ladle.regs then some (.k (s.engineOf pid .ladle) c.reg) else none
  | 5 => if c.reg < EngKind.runner.regs then some (.k (s.engineOf pid .runner) c.reg) else none
  | _ => none

/-- Whether a register waits for a result (23 R415). -/
def State.dbgPending (s : State) : DbgReg → Bool
  | .v f r => s.regPending f r
  | .k (some e) r => s.kPending e r
  | _ => false

/-- What REGRD reads (23 R414, R415). The k registers of an engine that does not run are no registers (log 31). -/
def State.dbgRead (s : State) (p : Pour) (r : DbgReg) : DbgRes :=
  let ofFibre (f : Nat) (g : Fibre → DbgRes) : DbgRes := match s.fibre? f with | some v => g v | none => { status := 4 }
  match r with
  | .v f n => ofFibre f fun v =>
      let w := v.reg n
      { status := 0, pend := s.regPending f n, poison := w.poison, data := w.val, tag := w.tag }
  | .p f => ofFibre f fun v => { status := 0, data := (v.pred ||| 1#16).zeroExtend 32, tag := Config.noTag }
  | .q f n => ofFibre f fun v =>
      let w := v.qr n
      { status := 0, poison := w.poison, data := w.image, tag := w.tag }
  | .cr f n => ofFibre f fun v =>
      { status := 0, data := s.readCr p (match v.weave with | some w => s.weave? w | none => none) v n, tag := Config.noTag }
  | .k none _ => { status := 4 }
  | .k (some e) n =>
    match s.engine? e with
    | some v =>
      let w := v.k.getD n {}
      { status := 0, pend := s.kPending e n, poison := w.poison, data := w.val, tag := w.tag }
    | none => { status := 4 }

/-- What REGWR writes (23 R415): p0 stays, read-only control registers stay, reserved bits of a value are discarded. -/
def State.dbgWrite (s : State) (pid : Nat) (r : DbgReg) (data : Word) (tag : Tag) : State :=
  match r with
  | .v f n => s.modFibre f fun v => v.setReg n { val := data, tag := tag }
  | .p f => s.modFibre f fun v => { v with pred := data.extractLsb' 0 16 ||| 1#16 }
  | .q f n => s.modFibre f fun v =>
      v.setQ n { code := data.extractLsb' 0 16, srcs := data.extractLsb' 16 8, dep := data.getLsbD 24, tag := tag }
  | .cr f n =>
    if n = 0x0E then s.modPour pid fun p => { p with late := data }
    else s.modFibre f fun v => v.setCr n (if n = 0 then data &&& 0x1FFF#32 else data)
  | .k none _ => s
  | .k (some e) n => s.modEngine e fun v => v.setK n [{ val := data }]

/-- Discard what a register waits for (23 R415). -/
def State.dbgDiscard (s : State) (r : DbgReg) : State :=
  let drop (id n : Nat) (mine : Pending → Bool) : State :=
    { s with pend := s.pend.map fun q => if mine q then { q with drop := (id, n) :: q.drop } else q }
  match r with
  | .v f n => drop f n fun q => match q.dest with | .fibres _ ls => (SMap.get? ls f).isSome | .engine _ _ _ => false
  | .k (some e) n => drop e n fun q => match q.dest with | .engine g _ _ => g == e | .fibres _ _ => false
  | _ => s

/-- A register command on a stopped pour (23 R415): writes go to both members of a pair. -/
def State.dbgRegOp (s : State) (part pid : Nat) (p : Pour) (c : DbgCmd) : State :=
  match s.dbgReg pid p c with
  | none => s.dbgAnswer part { status := 4 }
  | some r =>
    if c.op = 3 then s.dbgAnswer part (s.dbgRead p r)
    else
      let rs := (s.together pid).filterMap fun q =>
        match s.pour? q with
        | some v => (s.dbgReg q v c).map fun r => (q, r)
        | none => none
      if c.op = 4 ∧ rs.any (fun e => s.dbgPending e.2) then s.dbgAnswer part { status := 2 }
      else
        (rs.foldl (fun s e =>
          let s := if c.op = 5 then s.dbgDiscard e.2 else s
          s.dbgWrite e.1 e.2 c.data c.tag) s).dbgAnswer part { status := 0 }

/-- STOP (23 R410, R413, R414): busy until the pour has stopped. -/
def State.dbgStop (s : State) (part pid : Nat) (p : Pour) : State :=
  match p.dbg with
  | .stopped _ => s.dbgAnswer part { status := 0 }
  | .stopping r =>
    (s.together pid).foldl (fun s q => s.modPour q fun v => { v with dbg := .stopping { r with cmd := true } })
      (s.dbgAnswer part { status := 1 })
  | _ => (s.dbgAnswer part { status := 1 }).stopPour pid { why := 0, cmd := true }

/-- Perform a command (23 R408, R413 to R415). -/
def State.debug (s : State) (part : Nat) (cmd : BitVec 256) : State :=
  let c := decodeDbg cmd
  if !(s.part part).active then s.dbgAnswer part { status := 3 }
  else if s.dbgBusy part then s.dbgAnswer part { status := 1 }
  else if c.illegal then s.dbgAnswer part { status := 5 }
  else
    match s.dbgPour part c with
    | none => s.dbgAnswer part { status := 4 }
    | some (pid, p) =>
      if c.op = 0 then s.dbgStop part pid p
      else
        match p.dbg with
        | .stopped _ =>
          if c.op = 1 then (s.dbgAnswer part { status := 0 }).runPour pid (.stepping c.limit 0)
          else if c.op = 2 then (s.dbgAnswer part { status := 0 }).runPour pid .free
          else s.dbgRegOp part pid p c
        | _ => s.dbgAnswer part { status := 3 }

/-- Commit a command: DBGCMD holds its bytes (23 R413). -/
def State.commitDbg (s : State) (part : Nat) (cmd : BitVec 256) : State :=
  (s.modPart part fun p => { p with dbgcmd := cmd }).debug part cmd

/-- A command of the operation `op`; a step whose word holds another operation is no such step (log 3). -/
def State.debugAs (s : State) (part : Nat) (cmd : BitVec 256) (op : Nat) : Out :=
  if bits cmd.toNat 0 4 = op then .next (s.commitDbg part cmd) else .next s

/-- DBG_STOP (95, 23 R409, R410, R413). -/
def execDbgStop (part : Nat) (cmd : BitVec 256) (s : State) : Out := s.debugAs part cmd 0

/-- DBG_STEP (95, 23 R411, R413). -/
def execDbgStep (part : Nat) (cmd : BitVec 256) (s : State) : Out := s.debugAs part cmd 1

/-- DBG_RUN (95, 23 R415). -/
def execDbgRun (part : Nat) (cmd : BitVec 256) (s : State) : Out := s.debugAs part cmd 2

/-- DBG_REGRD (95, 23 R414, R415). -/
def execDbgRegrd (part : Nat) (cmd : BitVec 256) (s : State) : Out := s.debugAs part cmd 3

/-- DBG_REGWR (95, 23 R415). -/
def execDbgRegwr (part : Nat) (cmd : BitVec 256) (s : State) : Out := s.debugAs part cmd 4

/-- DBG_REGWRF (95, 23 R415). -/
def execDbgRegwrf (part : Nat) (cmd : BitVec 256) (s : State) : Out := s.debugAs part cmd 5

/-- DBG_ILLEGAL (95, 23 R413): a reserved operation or class. -/
def execDbgIllegal (part : Nat) (cmd : BitVec 256) (s : State) : Out :=
  if (decodeDbg cmd).illegal then .next (s.commitDbg part cmd) else .next s

/-- DBGCMD as a register of 32 bytes; it is write-only, so no read shows it (23 R407, R413). -/
def dbgcmdReg (p : Nat) : RegW :=
  partReg p 0x620 32 (fun q => q.dbgcmd.toNat) fun v q => { q with dbgcmd := BitVec.ofNat 256 v }

/-- Write the bytes of DBGCMD that a write covers; one that covers byte 31 commits the command (23 R413). -/
def State.writeDbgcmd (s : State) (p off : Nat) (data : List Byte) : State :=
  let s := writeRegs [dbgcmdReg p] off data s
  if off ≤ 0x63F ∧ 0x63F < off + data.length then s.debug p (s.part p).dbgcmd else s

/-- REGISTER_WRITE (95, 00 R9): the value is stored; a register not listed ignores it (21 R363). The PF reaches the
controls of 22 in its own block. -/
def execRegisterWrite (t : RegTarget) (off : Nat) (data : List (BitVec 8)) (s : State) : Out :=
  match t with
  | .pf => .next (writeRegs pfRegs off data s)
  | .ctl p => .next ((writeRegs (ctlRegs p) off data s).flushFaults p)
  | .block p pf =>
    if s.reaches p pf then .next (((writeRegs (blockRegs p) off data s).writeDbgcmd p off data).flushFaults p) else .next s

/-! ## Profiling -/

/-- The image of a sample (23 R418): times of stations that were not passed are 0. -/
def profImage (core : Nat) (r : ProfReq) (seen : BitVec 6) (served : BitVec 2) (queued : List (BitVec 16)) : Nat :=
  r.pc % 2 ^ 27 + r.kind * 2 ^ 27 + core * 2 ^ 32 + r.rtag.toNat * 2 ^ 48 + r.code.toNat * 2 ^ 64 + seen.toNat * 2 ^ 128
    + served.toNat * 2 ^ 134
    + (List.range 6).foldl (fun n i =>
        n + (if seen.getLsbD i then (queued.getD i 0#16).toNat * 2 ^ (144 + 16 * i) else 0)) 0

/-- PROFILE_SAMPLE (95, 23 R417, R418): the oldest sampled request of a core completes; the stations that it passed and the
times it waited there are the memory system's. -/
def execProfileSample (core : Nat) (seen : BitVec 6) (served : BitVec 2) (queued : List (BitVec 16)) (s : State) : Out :=
  match (s.core core).profs with
  | [] => .next s
  | r :: rest =>
    let part := partOf core
    let s := s.modCore core fun c => { c with profs := rest }
    let (ring, s) := s.ringPut part (s.part part).prof (leBytes 32 (profImage core r seen served queued))
    .next (s.modPart part fun p => { p with prof := ring })

end Sys2Proof.Machine
end

