-- ==== Sys2Proof/Machine/Fetch.lean ====
section
/-!
DEFINITION. Machine/Fetch.lean: the fetch of a word of a kernel with its literal (09 R185, R199; 20 R347; 22 R387).
-/

namespace Sys2Proof.Machine

/-- The state of a step that answers the next state, or as it was. -/
def Out.orElse (o : Out) (s : State) : State := match o with | .next t => t | _ => s

/-- What a fetch meets: the word with the one that follows it, a word offset outside the code words, an access violation, a
page to wait for, or a refresh window that is open. -/
inductive Fetched where
  | word (w l : Word)
  | outside
  | violation (a : BitVec 64)
  | wait (va : Nat)
  | refresh
  deriving DecidableEq, Repr

/-- The address of a code word (20 R347): the code words follow the header. -/
def codeAddr (code : BitVec 64) (pc : Nat) : BitVec 64 := code + BitVec.ofNat 64 (64 + 4 * pc)

/-- One code word: its page's leaf must permit the fetch (22 R387). -/
def State.fetch1 (s : State) (part : Nat) (code : BitVec 64) (nwords pc : Nat) : Fetched :=
  if nwords ≤ pc then .outside
  else
    let a := codeAddr code pc
    match aperture a with
    | .global va =>
      match s.walk part va with
      | .notPresent => .wait va
      | .fatal => .violation a
      | .leaf l =>
        if !l.x then .violation a
        else
          match s.globalLoc part va false with
          | .mem pl =>
            if (match wsGroup pl.key with | some (_, g) => windowOpen s.clk g | none => false) then .refresh
            else .word (BitVec.ofNat 32 (s.mem.readNat pl.key 4)) 0#32
          | _ => .violation a
    | _ => .violation a

/-- Whether a Greoskane word takes a literal. -/
def takesLiteral (w : Word) : Bool := match decodeWord w 0#32 with | some i => i.hasLiteral | none => false

/-- A word and, where it takes one, its literal. A literal that is not a code word is not fetched (09 R185): `none`. -/
def State.fetch (s : State) (part : Nat) (code : BitVec 64) (nwords pc : Nat) : Fetched × Option Instr :=
  match s.fetch1 part code nwords pc with
  | .word w _ =>
    if takesLiteral w then
      match s.fetch1 part code nwords (pc + 1) with
      | .word l _ => (.word w l, decodeWord w l)
      | .outside => (.word w 0#32, none)
      | x => (x, none)
    else (.word w 0#32, decodeWord w 0#32)
  | x => (x, none)

end Sys2Proof.Machine
end

