-- ==== Sys2Proof/Machine/Uniform.lean ====
section
/-!
DEFINITION. Machine/Uniform.lean: uniform arithmetic, once per weave or on an engine (11 R249 to R252).
-/

namespace Sys2Proof.Machine

/-- A uniform result word in a fibre (11 R249): `here`, or the fibre's prior tag where its mode is OFF. -/
def uniWord (c : Ctx) (h : Form) (f : Fibre) (i : Nat) (v : Word) (p : Bool) : Reg :=
  { val := v, tag := tagpick f.tagmode c.here false [] ((oldTags f h).getD i Config.noTag), poison := p }

/-- A uniform computation (11 R249): the words from l0's operands, to every active lane; poisoned where an operand is. -/
def State.uniOp (s : State) (h : Form) (g : List Reg → List Reg → List Word) : Out :=
  s.groupOp h
    (fun s c x =>
      let p := poi (x.a ++ x.b)
      c.finishG h s ((s.actives c.w).map fun e =>
        (e.1, (g x.a x.b).zipIdx.map fun y => uniWord c h e.2 y.2 y.1 p)))
    fun s e x => finishE h s e ((g x.a x.b).map fun y => { val := y, poison := poi (x.a ++ x.b) })

/-- A uniform operation of two words (11 R249). -/
def State.uni2 (s : State) (h : Form) (f : Word → Word → Word) : Out :=
  s.uniOp h fun a b => [f (head1 a).val (head1 b).val]

/-- `GADD` (11 R249). -/
def execGadd (n : BitVec 1) (d a b : BitVec 8) (l : Word) (s : State) : Out :=
  s.uni2 (intForm (.gadd n d a b l) n d a b l) (fun a b => a + b)

/-- `GSUB` (11 R249). -/
def execGsub (n : BitVec 1) (d a b : BitVec 8) (l : Word) (s : State) : Out :=
  s.uni2 (intForm (.gsub n d a b l) n d a b l) (fun a b => a - b)

/-- `GMUL` (11 R249). -/
def execGmul (n : BitVec 1) (d a b : BitVec 8) (l : Word) (s : State) : Out :=
  s.uni2 (intForm (.gmul n d a b l) n d a b l) (fun a b => a * b)

/-- `GAND` (11 R249). -/
def execGand (n : BitVec 1) (d a b : BitVec 8) (l : Word) (s : State) : Out :=
  s.uni2 (intForm (.gand n d a b l) n d a b l) (fun a b => a &&& b)

/-- `GOR` (11 R249). -/
def execGor (n : BitVec 1) (d a b : BitVec 8) (l : Word) (s : State) : Out :=
  s.uni2 (intForm (.gor n d a b l) n d a b l) (fun a b => a ||| b)

/-- `GXOR` (11 R249). -/
def execGxor (n : BitVec 1) (d a b : BitVec 8) (l : Word) (s : State) : Out :=
  s.uni2 (intForm (.gxor n d a b l) n d a b l) (fun a b => a ^^^ b)

/-- `GSHL` (11 R249). -/
def execGshl (n : BitVec 1) (d a b : BitVec 8) (l : Word) (s : State) : Out :=
  s.uni2 (intForm (.gshl n d a b l) n d a b l) shlW

/-- `GSHR` (11 R249). -/
def execGshr (n : BitVec 1) (d a b : BitVec 8) (l : Word) (s : State) : Out :=
  s.uni2 (intForm (.gshr n d a b l) n d a b l) shrW

/-- `GSAR` (11 R249). -/
def execGsar (n : BitVec 1) (d a b : BitVec 8) (l : Word) (s : State) : Out :=
  s.uni2 (intForm (.gsar n d a b l) n d a b l) sarW

/-- `GADDI` (11 R250). -/
def execGaddi (n : BitVec 1) (d a i : BitVec 8) (l : Word) (s : State) : Out :=
  s.uni2 (uniForm (.gaddi n d a i l) n d a l) fun a _ => a + imm8 i

/-- A uniform compare (11 R251): to pK of every active lane, or of the engine; poison is consumed. -/
def State.gcmp (s : State) (h : Form) (k : BitVec 4) (g : Word → Word → Bool) : Out :=
  s.groupOp h
    (fun s c x =>
      if poi (x.a ++ x.b) then c.consume s
      else (s.modFibres c.ids fun f => f.setP k.toNat (g x.a0.val x.b0.val)).after c.w h.len false false)
    fun s e x =>
      if poi (x.a ++ x.b) then consumeE s e
      else (s.modEngine e fun v => { v with pred := setPred v.pred k.toNat (g x.a0.val x.b0.val) }).afterEngine e h.len

/-- `GCMPS` (11 R251). -/
def execGcmps (cond k : BitVec 4) (a b : BitVec 8) (l : Word) (s : State) : Out :=
  s.gcmp (cmpForm (.gcmps cond k a b l) cond a b l) k fun a b => condHolds cond (ordS a b)

/-- `GCMPZ` (11 R251). -/
def execGcmpz (cond k : BitVec 4) (a b : BitVec 8) (l : Word) (s : State) : Out :=
  s.gcmp (cmpForm (.gcmpz cond k a b l) cond a b l) k fun a b => condHolds cond (ordZ a b)

/-- `GADD64` (11 R252). -/
def execGadd64 (n : BitVec 1) (d a b : BitVec 8) (l : Word) (s : State) : Out :=
  s.uniOp { instr := .gadd64 n d a b l, nw := n, dst := some (d, 2), a := some (.ws, a), b := some (.ws, b), lit := l } add64

end Sys2Proof.Machine
end

