-- ==== Sys2Proof/Machine/Replay.lean ====
section
/-!
DEFINITION. Machine/Replay.lean: the replay of a sampled pour's fibres from its log (24 R421, R422): the records of the log as they are
read back, the words of the kernel as a replay executes them, and the signature of the stores that it computes. The log's layout, and
that a replay passes in one step, are the model's (log 33).
-/

namespace Sys2Proof.Machine

/-! ## The log as it is read -/

/-- A record of a log: the values that the next word of a weave brings, after `n` words of it, to the fibres of some ranks, with how
far its store is performed; a weave after `n` words of it: its `member`, its window, and its fibres by rank with where they stand (1
moving, 2 parked, 0 waiting) and their words; a trap of a weave; what a drain writes. -/
inductive LogRow where
  | word (w n mark d : Nat) (lanes : SMap (List Reg))
  | weave (w n : Nat) (member : BitVec 32) (guard : Option Guard) (fibres : List (Nat × Nat × Nat))
  | trap (w n : Nat) (tinfo1 : Nat)
  | drain (d : Nat) (lanes : SMap (List Reg))
  deriving DecidableEq, Repr

/-- The number in `n` bytes from a place. -/
def numAt (bs : List Byte) (o n : Nat) : Nat := leNat ((bs.drop o).take n)

/-- A word of a log. -/
def readLogWord (bs : List Byte) (o : Nat) : Reg :=
  { val := BitVec.ofNat 32 (numAt bs o 4), tag := BitVec.ofNat 16 (numAt bs (o + 4) 2), poison := numAt bs (o + 6) 2 != 0 }

/-- The values of `n` fibres, `k` words for each, by rank. -/
def readLogLanes (bs : List Byte) (k n : Nat) : SMap (List Reg) :=
  (List.range n).map fun i =>
    let o := 32 + i * (8 + 8 * k)
    (numAt bs o 8, (List.range k).map fun j => readLogWord bs (o + 8 + 8 * j))

/-- The first record of a log, and its length. -/
def readLogRow (bs : List Byte) : LogRow × Nat :=
  let k := numAt bs 2 2
  let n := numAt bs 4 4
  let at_ := numAt bs 8 8
  let w := numAt bs 16 8
  let done := numAt bs 24 8
  match numAt bs 0 1 with
  | 0 => (.word w done (numAt bs 1 1) at_ (readLogLanes bs k n), 32 + n * (8 + 8 * k))
  | 1 =>
    let left := numAt bs 40 8
    (.weave w done (BitVec.ofNat 32 at_) (if left = 0 then none else some { excl := BitVec.ofNat 32 (numAt bs 32 8), left := left })
      ((List.range n).map fun i => (numAt bs (48 + 16 * i) 4, numAt bs (52 + 16 * i) 4, numAt bs (56 + 16 * i) 8)), 48 + 16 * n)
  | 2 => (.trap w done at_, 32)
  | _ => (.drain at_ (readLogLanes bs k n), 32 + n * (8 + 8 * k))

/-- The records of a log, as many as the fuel allows. -/
def readLog : Nat → List Byte → List LogRow
  | 0, _ => []
  | fuel + 1, bs =>
    if bs.isEmpty then []
    else
      let r := readLogRow bs
      r.1 :: readLog fuel (bs.drop r.2)

/-! ## Words -/

/-- The words that are a fibre's own computation, as they execute: they take no value from outside, and change no weave but their own
(24 R420). -/
def ownWord (i : Instr) (s : State) : Option Out :=
  match i with
  | .iadd n d a b l => some (execIadd n d a b l s)
  | .isub n d a b l => some (execIsub n d a b l s)
  | .imul n d a b l => some (execImul n d a b l s)
  | .imulhs n d a b l => some (execImulhs n d a b l s)
  | .imulhz n d a b l => some (execImulhz n d a b l s)
  | .imad n d a b l => some (execImad n d a b l s)
  | .imins n d a b l => some (execImins n d a b l s)
  | .imaxs n d a b l => some (execImaxs n d a b l s)
  | .iminz n d a b l => some (execIminz n d a b l s)
  | .imaxz n d a b l => some (execImaxz n d a b l s)
  | .and n d a b l => some (execAnd n d a b l s)
  | .or n d a b l => some (execOr n d a b l s)
  | .xor n d a b l => some (execXor n d a b l s)
  | .shl n d a b l => some (execShl n d a b l s)
  | .shr n d a b l => some (execShr n d a b l s)
  | .sar n d a b l => some (execSar n d a b l s)
  | .iaddi n d a imm l => some (execIaddi n d a imm l s)
  | .shimShl n d a s1 l => some (execShimShl n d a s1 l s)
  | .shimShr n d a s1 l => some (execShimShr n d a s1 l s)
  | .shimSar n d a s1 l => some (execShimSar n d a s1 l s)
  | .icmps c k a b l => some (execIcmps c k a b l s)
  | .icmpz c k a b l => some (execIcmpz c k a b l s)
  | .iadd64 n d a b l => some (execIadd64 n d a b l s)
  | .uniMov n d a l => some (execUniMov n d a l s)
  | .uniNot n d a l => some (execUniNot n d a l s)
  | .uniNeg n d a l => some (execUniNeg n d a l s)
  | .uniAbs n d a l => some (execUniAbs n d a l s)
  | .uniPopc n d a l => some (execUniPopc n d a l s)
  | .uniClz n d a l => some (execUniClz n d a l s)
  | .uniBrev n d a l => some (execUniBrev n d a l s)
  | .uniSext8 n d a l => some (execUniSext8 n d a l s)
  | .uniSext16 n d a l => some (execUniSext16 n d a l s)
  | .uniBswap n d a l => some (execUniBswap n d a l s)
  | .fadd n d a b l => some (execFadd n d a b l s)
  | .fsub n d a b l => some (execFsub n d a b l s)
  | .fmul n d a b l => some (execFmul n d a b l s)
  | .ffma n d a b l => some (execFfma n d a b l s)
  | .fmin n d a b l => some (execFmin n d a b l s)
  | .fmax n d a b l => some (execFmax n d a b l s)
  | .fcmp c k a b l => some (execFcmp c k a b l s)
  | .fabs n d a l => some (execFabs n d a l s)
  | .fneg n d a l => some (execFneg n d a l s)
  | .frcp n d a l => some (execFrcp n d a l s)
  | .frsq n d a l => some (execFrsq n d a l s)
  | .fsqrt n d a l => some (execFsqrt n d a l s)
  | .fexp2 n d a l => some (execFexp2 n d a l s)
  | .flog2 n d a l => some (execFlog2 n d a l s)
  | .frint n d a l => some (execFrint n d a l s)
  | .ffloor n d a l => some (execFfloor n d a l s)
  | .fceil n d a l => some (execFceil n d a l s)
  | .hadd2 n d a b l => some (execHadd2 n d a b l s)
  | .hfma2 n d a b l => some (execHfma2 n d a b l s)
  | .badd2 n d a b l => some (execBadd2 n d a b l s)
  | .bfma2 n d a b l => some (execBfma2 n d a b l s)
  | .cvt n d a v l => some (execCvt n d a v l s)
  | .selp n d a s1 k l => some (execSelp n d a s1 k l s)
  | .shfx n d a b l => some (execShfx n d a b l s)
  | .shfn n d a b l => some (execShfn n d a b l s)
  | .shfup n d a b l => some (execShfup n d a b l s)
  | .shfdn n d a b l => some (execShfdn n d a b l s)
  | .xchb n s1 => some (execXchb n s1 s)
  | .voteBallot n d k => some (execVoteBallot n d k s)
  | .voteAny n d k => some (execVoteAny n d k s)
  | .voteAll n d k => some (execVoteAll n d k s)
  | .rhad n d a b l => some (execRhad n d a b l s)
  | .qcmp c k a b l => some (execQcmp c k a b l s)
  | .qlogAnd d a b => some (execQlogAnd d a b s)
  | .qlogOr d a b => some (execQlogOr d a b s)
  | .qlogNot d a => some (execQlogNot d a s)
  | .qblend n d a k l => some (execQblend n d a k l s)
  | .qdraw p a k l => some (execQdraw p a k l s)
  | .qgradRamp n d a k l => some (execQgradRamp n d a k l s)
  | .qgradLogi n d a k l => some (execQgradLogi n d a k l s)
  | .qgradAndp n d a k l => some (execQgradAndp n d a k l s)
  | .qgradOrp n d a k l => some (execQgradOrp n d a k l s)
  | .qgradNot n d a k l => some (execQgradNot n d a k l s)
  | .qgradBlendq n d a k l => some (execQgradBlendq n d a k l s)
  | .qxferOut d k => some (execQxferOut d k s)
  | .qxferIn k a l => some (execQxferIn k a l s)
  | .tagRead n d a l => some (execTagRead n d a l s)
  | .tagWrite n d a l => some (execTagWrite n d a l s)
  | .tagMark n d => some (execTagMark n d s)
  | .tagCopy n d a l => some (execTagCopy n d a l s)
  | .br o => some (execBr o s)
  | .brp k s1 o => some (execBrp k s1 o s)
  | .bru a o => some (execBru a o s)
  | .call o => some (execCall o s)
  | .ret => some (execRet s)
  | .brx a l => some (execBrx a l s)
  | .yield => some (execYield s)
  | .guard s1 k n => some (execGuard s1 k n s)
  | .memb a l => some (execMemb a l s)
  | .trap c => some (execTrap c s)
  | .hret => some (execHret s)
  | .set a r l => some (execSet a r l s)
  | .nop => some (execNop s)
  | .gadd n d a b l => some (execGadd n d a b l s)
  | .gsub n d a b l => some (execGsub n d a b l s)
  | .gmul n d a b l => some (execGmul n d a b l s)
  | .gand n d a b l => some (execGand n d a b l s)
  | .gor n d a b l => some (execGor n d a b l s)
  | .gxor n d a b l => some (execGxor n d a b l s)
  | .gshl n d a b l => some (execGshl n d a b l s)
  | .gshr n d a b l => some (execGshr n d a b l s)
  | .gsar n d a b l => some (execGsar n d a b l s)
  | .gaddi n d a imm l => some (execGaddi n d a imm l s)
  | .gcmps c k a b l => some (execGcmps c k a b l s)
  | .gcmpz c k a b l => some (execGcmpz c k a b l s)
  | .gadd64 n d a b l => some (execGadd64 n d a b l s)
  | _ => none

/-- A word whose stores the signature counts (24 R422), as it is captured: its form, its kind, the offset of its address, and the
second address of `STP`. -/
structure StoreWord where
  form   : Form
  kind   : MemKind
  off    : Nat := 0
  second : Option (BitVec 8) := none
  deriving DecidableEq, Repr

/-- The form of a word that stores: its address pair in A, its data in B. -/
def storeForm (i : Instr) (a : BitVec 8) (k : SKind) (b : BitVec 8) (l : Word := 0#32) : Form :=
  { instr := i, a := some (.ap, a), b := some (k, b), lit := l }

/-- An atomic's captured word; D holds the compare value of `ATCAS`. -/
def atomWord (i : Instr) (f : AtomKind) (d a b : BitVec 8) (l : Word) : StoreWord :=
  { form := { storeForm i a .s b l with dst := some (d, 1) }, kind := .atomic f false }

/-- The words that 24 R422 names. -/
def storeWord (i : Instr) : Option StoreWord :=
  match i with
  | .st32 _ s a o l => some { form := storeForm i a .s s l, kind := .store 4, off := o.toNat * 4 }
  | .st64 _ s a o l => some { form := storeForm i a .ws s l, kind := .store 8, off := o.toNat * 8 }
  | .st128 _ s a o => some { form := storeForm i a .xs s, kind := .store 16, off := o.toNat * 16 }
  | .stnB8 _ s a l => some { form := storeForm i a .s s l, kind := .store 1 }
  | .stnB16 _ s a l => some { form := storeForm i a .s s l, kind := .store 2 }
  | .stp s a b l => some { form := storeForm i a .s s l, kind := .stp, second := some b }
  | .gst _ s a o l => some { form := storeForm i a .s s l, kind := .gst, off := o.toNat * 4 }
  | .atadd _ d a b l => some (atomWord i .add d a b l)
  | .atmaxs _ d a b l => some (atomWord i .maxs d a b l)
  | .atmaxz _ d a b l => some (atomWord i .maxz d a b l)
  | .atexch _ d a b l => some (atomWord i .exch d a b l)
  | .atcas _ d a b l => some (atomWord i .cas d a b l)
  | .epush a b => some { form := storeForm i a .xs b, kind := .epush }
  | .tsig a b l => some { form := { instr := i, a := some (.s, a), b := some (.s, b), lit := l }, kind := .tsig }
  | _ => none

/-- The store records that a lane's word makes (24 R422): address, width and data. `old` is the word that its atomic finds. Of an `STP`
that is half done only the plain copy is. -/
def StoreWord.records (w : StoreWord) (c : Ctx) (half : Bool) (old : Word) (f : Fibre) : List (BitVec 64 × Nat × List Byte) :=
  let x := laneIn c w.form f
  let a := pairAddr x.a + BitVec.ofNat 64 w.off
  match w.kind with
  | .store b => [(a, b, (wordsBytes x.b).take b)]
  | .stp =>
    (a, 4, (wordsBytes x.b).take 4) :: (match w.second with
      | some b => if half then [] else [(pairAddr (readSrc f c.p.idx c.v.latches 2 b 0#32), 4, (wordsBytes x.b).take 4)]
      | none => [])
  | .gst => [(a, 4, wordsBytes x.b)]
  | .atomic g _ => match atomicNew g old x.b0.val x.d0.val with | some v => [(a, 4, bytesOfWord v)] | none => []
  | .epush => [(a, 16, wordsBytes x.b)]
  | .tsig => [(x.a0.val.zeroExtend 64, 8, bytesOfWord x.b0.val ++ bytesOfWord x.a0.val)]
  | _ => []

/-- The lanes whose stores a word makes: a group word's is that of its lowest active lane. -/
def StoreWord.lanes (w : StoreWord) (c : Ctx) : SMap Fibre :=
  match w.kind with
  | .gst | .epush | .tsig => c.acts.take 1
  | _ => c.acts

/-- Sum the records of a word's stores (24 R422). -/
def State.signWord (s : State) (c : Ctx) (i : Instr) (half : Bool) (vals : SMap (List Reg)) : State :=
  match storeWord i with
  | none => s
  | some w =>
    (w.lanes c).foldl (fun s e =>
      (w.records c half (head1 (SMap.getD vals e.1 [])).val e.2).foldl (fun s r => s.sign c.p.part c.pid r.1 r.2.1 r.2.2) s) s

/-- Where a lane word that is not a fibre's own computation puts its words: in a window that leaves no lane active its latch entry is
pushed all the same (09 R188). -/
def laneDst : Instr → Option (BitVec 8 × Nat)
  | .ld32 _ d _ _ | .ldnZ8 _ d _ | .ldnS8 _ d _ | .ldnZ16 _ d _ | .ldnS16 _ d _ => some (d, 1)
  | .ld64 _ d _ _ => some (d, 2)
  | .ld128 _ d _ _ => some (d, 4)
  | .atadd _ d _ _ _ | .atmaxs _ d _ _ _ | .atmaxz _ d _ _ _ | .atexch _ d _ _ _ | .atcas _ d _ _ _ => some (d, 1)
  | _ => none

/-- Whether a word supplies its result at once, so that its latch entry can be read. -/
def supplies : Instr → Bool
  | .get _ _ | .jget _ _ _ | .shget _ _ _ _ => true
  | _ => false

/-- A fibre that the log says was spawned (24 R420, 02 R32): it has the lowest rank that is free, and no weave yet. -/
def State.respawn (s : State) (c : Ctx) (pc : Nat) (f : Fibre) (num : Word) : State :=
  if num = 0xFFFFFFFF#32 then s
  else
    match lowestFree (s.fibres.map fun e => e.2.rank) 1024 with
    | none => s
    | some rank =>
      let (id, s) := s.fresh
      let g : Fibre := { pour := c.pid, num := num, rank := rank, quad := f.quad, lane := f.lane, weave := none, status := .bar, pc := pc
                         win := List.replicate c.p.hdr.regs {} }
      { s with fibres := SMap.put s.fibres id g }

/-- What a word does to the fibres themselves: `FEND` ends those that are active, and the numbers that an `FSPAWN` gets are new fibres. -/
def State.reshape (s : State) (c : Ctx) (i : Instr) (vals : SMap (List Reg)) : State :=
  match i with
  | .fend => { s with fibres := s.fibres.filter fun e => !c.ids.contains e.1 }
  | .fspawn d a l =>
    let h : Form := { instr := .fspawn d a l, dst := some (d, 1), a := some (.s, a), lit := l }
    let pc := match c.acts.head? with | some e => (laneIn c h e.2).a0.val.toNat | none => 0
    c.acts.foldl (fun s e => s.respawn c pc e.2 (head1 (SMap.getD vals e.1 [{ val := 0xFFFFFFFF#32 }])).val) s
  | _ => s

/-- What a log brings with a word: how far its store is performed, its destination, and words by rank. -/
structure Brought where
  mark  : Nat := 1
  d     : Nat := 240
  lanes : SMap (List Reg) := []
  deriving DecidableEq, Repr

/-- Words by rank as words by fibre. -/
def State.byRank (s : State) (lanes : SMap (List Reg)) : SMap (List Reg) :=
  lanes.filterMap fun e => (s.fibres.find? fun f => f.2.rank == e.1).map fun f => (f.1, e.2)

/-- Write what the log brings to its registers. -/
def State.writeWords (s : State) (d : Nat) (vals : SMap (List Reg)) : State :=
  if 240 ≤ d then s else vals.foldl (fun s e => s.modFibre e.1 fun f => f.setRegs d e.2) s

/-- A word of a replay that is not a fibre's own computation (24 R421): it performs no access, and no command, signal, spawn or wait; its
stores are signed, its results are those of the log, and the weave goes on. -/
def State.passWord (s : State) (c : Ctx) (i : Instr) (b : Brought) : State :=
  let vals := s.byRank b.lanes
  let s := if b.mark = 0 then s else s.signWord c i (decide (2 ≤ b.mark)) vals
  if b.mark = 3 then s
  else
    let s := s.reshape c i vals
    let s := if c.acts.isEmpty then
        match laneDst i with | some (d, k) => s.pushLatch c.w d k [] | none => s
      else if vals.isEmpty then s
      else s.pushLatch c.w (BitVec.ofNat 8 b.d) (laneWords vals) vals (!supplies i)
    (s.after c.w (if i.hasLiteral then 2 else 1) (!((encodeWord i).getD 0#32).msb) false).writeWords b.d vals

/-- The next word of a weave of a replay, with what the log brings. Where its code cannot be read, the weave stands. -/
def State.replayWord (s : State) (w : Nat) (b : Brought) : State :=
  match s.ctxOf w with
  | none => s
  | some c =>
    match (s.fetch c.p.part c.p.code c.p.hdr.nwords c.pc).2 with
    | none => s
    | some i =>
      match ownWord i { s with turn := .weave w } with
      | some o => o.orElse s
      | none => s.passWord c i b

/-! ## Weaves -/

/-- A fibre stands as the log records its weave: at its word, moving, parked or waiting; where the record leaves it out, in no weave. -/
def Fibre.stand (f : Fibre) (w : Nat) (fs : List (Nat × Nat × Nat)) : Fibre :=
  match fs.find? fun r => r.1 == f.rank with
  | some r => { f with weave := some w, pc := r.2.2, status := match r.2.1 with | 1 => .run | 2 => .parked 0 0 | _ => .bar }
  | none => if f.weave = some w then { f with weave := none, status := .bar } else f

/-- A weave stands as the log records it (24 R421): it holds the fibres of some ranks, each where it stood. -/
def State.setWeave (s : State) (pid : Nat) (p : Pour) (w : Nat) (member : BitVec 32) (g : Option Guard) (fs : List (Nat × Nat × Nat)) :
    State :=
  let s := { s with fibres := s.fibres.map fun (e : Nat × Fibre) => (e.1, e.2.stand w fs) }
  if fs.isEmpty then { s with weaves := SMap.erase s.weaves w }
  else
    let quad := match (s.members w).head? with | some e => e.2.quad | none => 0
    let v := match s.weave? w with
      | some v => v
      | none => { pour := pid, core := p.core, quad := quad, slot := none, member := member, occ := member }
    let v := { v with member := member, guard := g, hexcl := 0#32, serial := [], stall := none }
    let s := { s with weaves := SMap.put s.weaves w v }
    s.modWeave w fun v => { v with occ := s.occupancy w }

/-- A replay under way: its fibres and weaves, and the words that each weave has executed. -/
structure Replay where
  st     : State
  pid    : Nat
  pour   : Pour
  counts : SMap Nat := []
  deriving DecidableEq, Repr

/-- A weave executes words of its own until it has executed `n`. -/
def Replay.runTo (r : Replay) (w n : Nat) : Replay :=
  let done := SMap.getD r.counts w 0
  { r with st := (List.range (n - done)).foldl (fun s _ => s.replayWord w {}) r.st, counts := SMap.put r.counts w (max n done) }

/-- What a replay does at a record of its log, in the log's order (24 R421). -/
def Replay.row (r : Replay) : LogRow → Replay
  | .word w n mark d lanes =>
    let r := r.runTo w n
    { r with st := r.st.replayWord w { mark := mark, d := d, lanes := lanes }
             counts := if mark = 3 then r.counts else SMap.put r.counts w (n + 1) }
  | .weave w n member g fs =>
    let r := r.runTo w n
    { r with st := r.st.setWeave r.pid r.pour w member g fs }
  | .trap w n t =>
    let r := r.runTo w n
    { r with st := r.st.trapWeave w { cause := t / 2 ^ 27, mask := 0#32, pc := t % 2 ^ 27 } }
  | .drain d lanes => { r with st := r.st.writeWords d (r.st.byRank lanes) }

/-- The state in which a replay runs: its fibres alone, as they were placed, with their own kernel, and a signature that begins at 0.
Nothing that it does there reaches the machine. Its fetches meet no refresh window: one that waits for it goes on after it. -/
def State.replayFrom (s : State) (part : Nat) (m : Sample) (pid : Nat) (p : Pour) : Replay :=
  let p : Pour := { p with part := part, hdr := m.hdr, assay := false, dbg := .free }
  let st : State := { s with
    fibres := s.fibres.filter fun e => e.2.pour == pid
    weaves := []
    pours := [(pid, p)]
    engines := []
    crucibles := []
    tasks := []
    pend := []
    held := []
    cmds := []
    pairs := []
    sync := []
    hist := []
    clk := 1760
    turn := .none
    agenda := [] }
  let st := st.modDev fun d => { d with injarm := false }
  { st := st.modPart part fun q => { q with tren := false, sample := some { m with pour := pid, sig := 0#64, ended := false, replay := none } }
    pid := pid, pour := p }

/-- A replay, from a place of a pour's fibres through the records of its log (24 R421). -/
def State.replayLog (s : State) (part : Nat) (m : Sample) (pid : Nat) (p : Pour) (rows : List LogRow) : Replay :=
  rows.foldl Replay.row (s.replayFrom part m pid p)

/-- The signature that a replay has summed (24 R422). -/
def Replay.sig (r : Replay) : BitVec 64 :=
  match (r.st.part r.pour.part).sample with
  | some m => m.sig
  | none => 0#64

end Sys2Proof.Machine
end

