-- ==== Sys2Proof/Machine/Assay.lean ====
section
/-!
DEFINITION. Machine/Assay.lean: the Assay Unit (24 R419 to R424): what a step adds to the log of a sampled pour, the replay of an
ended sample on a donor core, and its abandonment.
-/

namespace Sys2Proof.Machine

/-! ## The log -/

/-- Where a fibre of a weave stands, as the log has it: moving, parked, or waiting. -/
def State.standOf (s : State) (w : Nat) (e : Nat × Fibre) : Nat :=
  if e.2.status.isParked then 2 else if (s.movers w).any fun x => x.1 == e.1 then 1 else 0

/-- The weaves of a pour as the log sees them change (24 R420): `member`, and the fibres that each holds, by rank, with where they
stand, which gives the occupancy. -/
def State.weaveView (s : State) (pid : Nat) : SMap (BitVec 32 × List (Nat × Nat)) :=
  (s.weaves.filter fun e => e.2.pour == pid).map fun e =>
    (e.1, e.2.member, (s.members e.1).map fun f => (f.2.rank, s.standOf e.1 f))

/-- Log a weave as it stands; one that is gone holds no fibre. -/
def State.logWeave (s : State) (part w : Nat) : State :=
  let ms := s.members w
  let (member, g) := match s.weave? w with | some v => (v.member, v.guard) | none => (0#32, none)
  let g := g.getD { excl := 0#32, left := 0 }
  s.logRow part 1 1 0 ms.length member.toNat w (leBytes 8 g.excl.toNat ++ leBytes 8 g.left
    ++ ms.flatMap fun e => leBytes 4 e.2.rank ++ leBytes 4 (s.standOf w e) ++ leBytes 8 e.2.pc)

/-- The fibres of a weave that have entered the handler in a step (13 R299). -/
def State.trapped (t : State) (s : State) (w : Nat) : SMap Fibre :=
  (t.members w).filter fun e => e.2.saved.isSome && (match s.fibre? e.1 with | some f => f.saved.isNone | none => false)

/-- Whether fibres of a weave have entered or left the handler. -/
def State.handled (t : State) (s : State) (w : Nat) : Bool :=
  (t.members w).any fun e => match s.fibre? e.1 with | some f => e.2.saved.isSome != f.saved.isSome | none => false

/-- The held accesses of a pour that a step has performed or dropped. -/
def State.settled (t : State) (s : State) (pid : Nat) : List Held :=
  s.held.filter fun h => h.op.pour == pid && !t.held.any fun g => g.id == h.id

/-- Whether a fibre has entered the handler at a held access (22 R392). -/
def trappedAt (h : Held) (e : Nat × Fibre) : Bool :=
  h.fibres.contains e.1 && (e.2.tinfoAt 1).toNat % 2 ^ 27 == h.op.pc % 2 ^ 27

/-- The weave of a sampled pour whose word a step has executed. -/
def State.actor (t : State) (s : State) (pid : Nat) : Option Nat :=
  match t.turn with
  | .weave w => (s.weave? w).bind fun v => if v.pour = pid then some w else none
  | _ => none

/-- The fibres that entered the handler at the word of a weave, not at an access that was held. -/
def State.wordTraps (t : State) (s : State) (pid w : Nat) : SMap Fibre :=
  (t.trapped s w).filter fun e => !(t.settled s pid).any fun h => trappedAt h e

/-- Whether a weave has executed its word to its end: it neither trapped nor stalled. -/
def State.wordDone (t : State) (s : State) (pid w : Nat) : Bool :=
  (t.wordTraps s pid w).isEmpty && (match t.weave? w with | some v => v.stall.isNone | none => true)

/-- The registers of fibres that a pending result writes. -/
def Pending.lanes (q : Pending) : Option (Nat × SMap (List Reg)) :=
  match q.dest with
  | .fibres d ls => some (d, ls)
  | .engine _ _ _ => none

/-- The places of a result's words in the log, from that of its record. -/
def laneSlots (id off : Nat) (ls : SMap (List Reg)) : List LogSlot :=
  ls.zipIdx.map fun e => { id := id, fibre := e.1.1, off := off + 32 + e.2 * (8 + 8 * laneWords ls) + 8 }

/-- Note the places that something under way will fill. -/
def State.addSlots (s : State) (part : Nat) (xs : List LogSlot) : State :=
  s.modPart part fun p => { p with sample := p.sample.map fun m => { m with slots := m.slots ++ xs } }

/-- The bytes of a partition's log. -/
def State.logged (s : State) (part : Nat) : Nat := match (s.part part).sample with | some m => m.logged | none => 0

/-- Log a result that a step has issued: what a drain will write, after the weaves of its fibres as they stand, or the values that a
word of a weave brings, which are known or under way. -/
def State.logResult (t : State) (part : Nat) (q : Pending) (w : Nat) (mark : Nat) : State :=
  match q.lanes with
  | none => t
  | some (d, ls) =>
    let drain := q.kind == .drain
    let ws := (ls.filterMap fun e => (t.fibre? e.1).bind Fibre.weave).eraseDups
    let t := if drain then ws.foldl (fun t w => t.logWeave part w) t else t
    let off := t.logged part
    let t := t.logRow part (if drain then 3 else 0) mark (laneWords ls) ls.length d w (t.logLanes ls)
    if q.ready then t else t.addSlots part (laneSlots q.id off ls)

/-- Take a place in the log for each result that a step has issued for a sampled pour, in issue order, and for each store that it
has held: whether it is performed decides whether it is signed. An `STP` that is half done at its issue stands there with its trap. -/
def State.logIssues (t : State) (s : State) (part pid : Nat) : State :=
  let fresh := t.pend.filter fun q => q.pour == pid && !s.pend.any fun o => o.id == q.id
  let held := t.held.filter fun h => h.op.pour == pid && h.op.kind.writes && !s.held.any fun o => o.id == h.id
  let w := (t.actor s pid).getD 0
  let off := t.logged part
  let t := if !held.isEmpty && fresh.isEmpty then t.logRow part 0 0 0 0 240 w [] else t
  let t := fresh.foldl (fun t q => t.logResult part q w (if held.isEmpty then 1 else 0)) t
  let t := t.addSlots part (held.map fun h => { id := h.id, fibre := 0, off := off + 1 })
  if (t.wordTraps s pid w).any fun e => (e.2.tinfoAt 1).toNat / 2 ^ 27 == cHalfDone then t.logRow part 0 3 0 0 240 w [] else t

/-- The words of a result that was under way and has come: those it holds, or those that its registers hold once it is written. What
was under way to fibres that have ended enters none. -/
def State.cameTo (t : State) (o : Pending) : Option (SMap (List Reg)) :=
  match t.pend.find? fun q => q.id == o.id with
  | some q => if q.ready then q.lanes.map (·.2) else none
  | none => (o.lanes.filter fun e => e.2.any fun l => (t.fibre? l.1).isSome).map fun e => e.2.map fun l =>
      (l.1, match t.fibre? l.1 with | some f => (List.range l.2.length).map fun i => f.reg (e.1 + i) | none => l.2)

/-- What fills a place of the log that its record left open: the words of a fibre in a result that has come, or how far a held store
has been performed, once it has been or has trapped. -/
def State.fillOf (t : State) (s : State) (pid : Nat) (k : LogSlot) : Option (List Byte) :=
  match s.pend.find? fun o => o.id == k.id with
  | some o => (t.cameTo o).bind fun ls => (SMap.get? ls k.fibre).map fun ws => ws.flatMap logWord
  | none =>
    ((t.settled s pid).find? fun h => h.id == k.id).map fun h =>
      match t.fibres.find? fun e => e.2.saved.isSome && (match s.fibre? e.1 with | some f => f.saved.isNone | none => false) && trappedAt h e with
      | none => [1#8]
      | some e => [if (e.2.tinfoAt 1).toNat / 2 ^ 27 = cHalfDone then 2#8 else 0#8]

/-- Fill the places of what has come (24 R420). -/
def State.logResults (t : State) (s : State) (part : Nat) (m : Sample) : State :=
  m.slots.foldl (fun t k =>
    match t.fillOf s m.pour k with
    | none => t
    | some bs =>
      (t.logWrite part k.off bs).modPart part fun p =>
        { p with sample := p.sample.map fun n => { n with slots := n.slots.filter (· != k) } }) t

/-- Count the word that a weave has executed to its end. -/
def State.countWord (t : State) (s : State) (part pid : Nat) : State :=
  match t.actor s pid with
  | some w =>
    if t.wordDone s pid w then
      t.modPart part fun p => { p with sample := p.sample.map fun m =>
        { m with counts := SMap.put m.counts w (SMap.getD m.counts w 0 + 1) } }
    else t
  | none => t

/-- Log the traps of weaves, and each weave of the pour that has changed, with its fibres (24 R420). -/
def State.logWeaves (t : State) (s : State) (part pid : Nat) : State :=
  let old := s.weaveView pid
  let new := t.weaveView pid
  let ws := (old ++ new).map (·.1) |>.eraseDups
  let t := ws.foldl (fun t w =>
    match (t.trapped s w).head? with
    | some e => t.logRow part 2 1 0 0 (e.2.tinfoAt 1).toNat w []
    | none => t) t
  (ws.filter fun w => SMap.get? old w != SMap.get? new w || t.handled s w).foldl (fun t w => t.logWeave part w) t

/-- Whether a context's parties stand on its cores: pre-emption suspends logging until they are back (24 R424). -/
def CtxState.on (c : CtxState) : Bool := c == .running || c == .saving

/-- What a step adds to the log of a partition's sample while its parties stand on their cores, to the step that ends its pour: the
results that it issued, those that came, the traps and the changes of weaves. -/
def State.logStep (t : State) (s : State) (part : Nat) (m : Sample) : State :=
  let done := match (s.part part).sample with | some o => o.pour == m.pour && o.ended | none => false
  if done || !(s.part part).ctx.on || !(t.part part).ctx.on then t
  else
    let u := (t.logIssues s part m.pour).logResults s part m
    (u.countWord s part m.pour).logWeaves s part m.pour

/-- What a step adds to the logs of all samples. -/
def State.logAll (t : State) (s : State) : State :=
  t.parts.foldl (fun t e => match e.2.sample with | some m => t.logStep s e.1 m | none => t) t

/-! ## The replay -/

/-- Whether a core fits a ready record of a partition (24 R421, 03 R68, R69). -/
def State.wanted (s : State) (part core : Nat) : Bool :=
  (List.range 4).any fun l => (s.readyAt part l).any fun e =>
    !e.2.tier && !(e.2.placed == 0 && s.rangeBusy e.1 e.2)
      && (match (match e.2.hdr with | some h => some h | none => s.readHeader e.2) with
          | some h => (s.tryCore e.1 e.2 h e.2.placed none core).isSome
          | none => false)

/-- Whether a core may replay a sample (24 R421): it is of another die, its partition is a donor none of whose ready records fits
it, and it fits the replay's pour, which has neither scratchpad nor stack of its own, as it performs no access (log 33). -/
def State.donates (s : State) (m : Sample) (rcore : Nat) : Bool :=
  let d := partOf rcore
  decide (rcore < Config.cores) && dieOf d != dieOf (partOf m.core) && (s.part d).asycfg.getLsbD 5
    && !s.wanted d rcore
    && (s.tryCore m.task { m.record with part := d } { m.hdr with scratch := 0, stack := 0 } m.idx none rcore).isSome

/-- The pour of a replay takes its place on a core (24 R421): it belongs to no task, and holds the lanes and the pour slot of its fibres
until the replay ends. -/
def State.beginReplay (s : State) (part : Nat) (m : Sample) (rcore : Nat) : State :=
  let (tid, s) := s.fresh
  match s.tryCore tid { m.record with part := partOf rcore } { m.hdr with scratch := 0, stack := 0 } m.idx none rcore with
  | none => s
  | some (pid, s) => s.modPart part fun p => { p with sample := some { m with replay := some (rcore, pid) } }

/-- The bytes of an ended sample's log, as they read back (24 R419); none where the area does not read under the context's key. -/
def State.logBytes (s : State) (part : Nat) (m : Sample) : List Byte :=
  if m.logged = 0 then [] else (s.readArea part (s.part part).asylog.toNat m.logged).getD []

/-- The replay of a sample on the core that has taken it (24 R421). -/
def State.replay? (s : State) (part : Nat) (m : Sample) (pid : Nat) (p : Pour) : Replay :=
  s.replayLog part m pid p (readLog m.logged (s.logBytes part m))

/-- An entry of the suspect queue (24 R423). -/
def suspectEntry (m : Sample) (sigr : BitVec 64) (rcore part : Nat) (lost : Bool) : BitVec 256 :=
  BitVec.ofNat 256 (m.sig.toNat + sigr.toNat * 2 ^ 64 + m.core * 2 ^ 128 + rcore * 2 ^ 137 + part * 2 ^ 146
    + m.rtag.toNat * 2 ^ 151 + m.handle.toNat * 2 ^ 167 + m.idx % 1024 * 2 ^ 199 + (if lost then 2 ^ 209 else 0))

/-- A suspect event (24 R423): it purges nothing and stops nothing. -/
def State.suspect (s : State) (m : Sample) (sigr : BitVec 64) (rcore part : Nat) : State :=
  let s := s.modPart part fun p => { p with asysus := satAdd p.asysus 1 }
  (s.msix 0 5).modDev fun d =>
    if 32 ≤ d.sus.length then { d with susLost := satAdd d.susLost 1, susDrop := true }
    else { d with sus := d.sus ++ [suspectEntry m sigr rcore part d.susDrop], susDrop := false }

/-- How long a sample waits for a donor, in core cycles (24 R424). -/
def assayWait : Nat := 2 ^ 28

/-- ASSAY_REPLAY (95, 24 R421 to R423): the replay of an ended sample takes its place on a core that may have it; where it has one, its
fibres run from the log, and it ends with the signature of their stores. DESIGN CHOICE (log 33): they run in that one step. The word
that the event names beside the core is not read, since the replay sums its own. A context that does not run suspends the replay
(R424). -/
def execAssayReplay (part rcore : Nat) (_sigr : BitVec 64) (s : State) : Out :=
  match (s.part part).sample with
  | none => .next s
  | some m =>
    if !m.ended || (s.part part).ctx != .running then .next s
    else
      match m.replay with
      | none => .next (if s.donates m rcore then s.beginReplay part m rcore else s)
      | some (core, pid) =>
        match s.pour? pid with
        | none => .next s
        | some p =>
          if core ≠ rcore then .next s
          else
            let r := s.replay? part m pid p
            let s := (({ s with free := r.st.free } : State).dropReplay m).modPart part fun q =>
              { q with asysamp := satAdd q.asysamp 1, sample := none }
            .next (if m.sig = r.sig then s else s.suspect m r.sig rcore part)

/-- The cores that may take the replay of a sample. -/
def State.donors (s : State) (m : Sample) : List Nat := (List.range Config.cores).filter fun c => s.donates m c

/-- ASSAY_ABANDON (95, 24 R424): no donor core has fitted within 2^28 core cycles, and none does. -/
def execAssayAbandon (part : Nat) (s : State) : Out :=
  match (s.part part).sample with
  | none => .next s
  | some m =>
    if m.ended && m.replay.isNone && decide (assayWait ≤ m.waited) && (s.donors m).isEmpty then .next (s.abandon part)
    else .next s

end Sys2Proof.Machine
end

