-- ==== Sys2Proof/Machine/Dispatch.lean ====
section
/-!
DEFINITION. Machine/Dispatch.lean: one arm for each constructor of Instr, a direct call of its meaning.
-/

namespace Sys2Proof.Machine

/-- The meaning of an instruction, or of a step of the machine or its environment. -/
def exec (i : Instr) (s : State) : Host.Outcome State Fault Refusal :=
  match i with
  | .iadd n d a b l => Sys2Proof.Machine.execIadd n d a b l s
  | .isub n d a b l => Sys2Proof.Machine.execIsub n d a b l s
  | .imul n d a b l => Sys2Proof.Machine.execImul n d a b l s
  | .imulhs n d a b l => Sys2Proof.Machine.execImulhs n d a b l s
  | .imulhz n d a b l => Sys2Proof.Machine.execImulhz n d a b l s
  | .imad n d a b l => Sys2Proof.Machine.execImad n d a b l s
  | .imins n d a b l => Sys2Proof.Machine.execImins n d a b l s
  | .imaxs n d a b l => Sys2Proof.Machine.execImaxs n d a b l s
  | .iminz n d a b l => Sys2Proof.Machine.execIminz n d a b l s
  | .imaxz n d a b l => Sys2Proof.Machine.execImaxz n d a b l s
  | .and n d a b l => Sys2Proof.Machine.execAnd n d a b l s
  | .or n d a b l => Sys2Proof.Machine.execOr n d a b l s
  | .xor n d a b l => Sys2Proof.Machine.execXor n d a b l s
  | .shl n d a b l => Sys2Proof.Machine.execShl n d a b l s
  | .shr n d a b l => Sys2Proof.Machine.execShr n d a b l s
  | .sar n d a b l => Sys2Proof.Machine.execSar n d a b l s
  | .iaddi n d a imm l => Sys2Proof.Machine.execIaddi n d a imm l s
  | .shimShl n d a s1 l => Sys2Proof.Machine.execShimShl n d a s1 l s
  | .shimShr n d a s1 l => Sys2Proof.Machine.execShimShr n d a s1 l s
  | .shimSar n d a s1 l => Sys2Proof.Machine.execShimSar n d a s1 l s
  | .icmps c k a b l => Sys2Proof.Machine.execIcmps c k a b l s
  | .icmpz c k a b l => Sys2Proof.Machine.execIcmpz c k a b l s
  | .iadd64 n d a b l => Sys2Proof.Machine.execIadd64 n d a b l s
  | .uniMov n d a l => Sys2Proof.Machine.execUniMov n d a l s
  | .uniNot n d a l => Sys2Proof.Machine.execUniNot n d a l s
  | .uniNeg n d a l => Sys2Proof.Machine.execUniNeg n d a l s
  | .uniAbs n d a l => Sys2Proof.Machine.execUniAbs n d a l s
  | .uniPopc n d a l => Sys2Proof.Machine.execUniPopc n d a l s
  | .uniClz n d a l => Sys2Proof.Machine.execUniClz n d a l s
  | .uniBrev n d a l => Sys2Proof.Machine.execUniBrev n d a l s
  | .uniSext8 n d a l => Sys2Proof.Machine.execUniSext8 n d a l s
  | .uniSext16 n d a l => Sys2Proof.Machine.execUniSext16 n d a l s
  | .uniBswap n d a l => Sys2Proof.Machine.execUniBswap n d a l s
  | .fadd n d a b l => Sys2Proof.Machine.execFadd n d a b l s
  | .fsub n d a b l => Sys2Proof.Machine.execFsub n d a b l s
  | .fmul n d a b l => Sys2Proof.Machine.execFmul n d a b l s
  | .ffma n d a b l => Sys2Proof.Machine.execFfma n d a b l s
  | .fmin n d a b l => Sys2Proof.Machine.execFmin n d a b l s
  | .fmax n d a b l => Sys2Proof.Machine.execFmax n d a b l s
  | .fcmp c k a b l => Sys2Proof.Machine.execFcmp c k a b l s
  | .fabs n d a l => Sys2Proof.Machine.execFabs n d a l s
  | .fneg n d a l => Sys2Proof.Machine.execFneg n d a l s
  | .frcp n d a l => Sys2Proof.Machine.execFrcp n d a l s
  | .frsq n d a l => Sys2Proof.Machine.execFrsq n d a l s
  | .fsqrt n d a l => Sys2Proof.Machine.execFsqrt n d a l s
  | .fexp2 n d a l => Sys2Proof.Machine.execFexp2 n d a l s
  | .flog2 n d a l => Sys2Proof.Machine.execFlog2 n d a l s
  | .frint n d a l => Sys2Proof.Machine.execFrint n d a l s
  | .ffloor n d a l => Sys2Proof.Machine.execFfloor n d a l s
  | .fceil n d a l => Sys2Proof.Machine.execFceil n d a l s
  | .hadd2 n d a b l => Sys2Proof.Machine.execHadd2 n d a b l s
  | .hfma2 n d a b l => Sys2Proof.Machine.execHfma2 n d a b l s
  | .badd2 n d a b l => Sys2Proof.Machine.execBadd2 n d a b l s
  | .bfma2 n d a b l => Sys2Proof.Machine.execBfma2 n d a b l s
  | .cvt n d a v l => Sys2Proof.Machine.execCvt n d a v l s
  | .selp n d a s1 k l => Sys2Proof.Machine.execSelp n d a s1 k l s
  | .shfx n d a b l => Sys2Proof.Machine.execShfx n d a b l s
  | .shfn n d a b l => Sys2Proof.Machine.execShfn n d a b l s
  | .shfup n d a b l => Sys2Proof.Machine.execShfup n d a b l s
  | .shfdn n d a b l => Sys2Proof.Machine.execShfdn n d a b l s
  | .xchb n s1 => Sys2Proof.Machine.execXchb n s1 s
  | .voteBallot n d k => Sys2Proof.Machine.execVoteBallot n d k s
  | .voteAny n d k => Sys2Proof.Machine.execVoteAny n d k s
  | .voteAll n d k => Sys2Proof.Machine.execVoteAll n d k s
  | .rhad n d a b l => Sys2Proof.Machine.execRhad n d a b l s
  | .ld32 r d a o => Sys2Proof.Machine.execLd32 r d a o s
  | .ld64 r d a o => Sys2Proof.Machine.execLd64 r d a o s
  | .ld128 r d a o => Sys2Proof.Machine.execLd128 r d a o s
  | .ldnZ8 r d a => Sys2Proof.Machine.execLdnZ8 r d a s
  | .ldnS8 r d a => Sys2Proof.Machine.execLdnS8 r d a s
  | .ldnZ16 r d a => Sys2Proof.Machine.execLdnZ16 r d a s
  | .ldnS16 r d a => Sys2Proof.Machine.execLdnS16 r d a s
  | .st32 r s1 a o l => Sys2Proof.Machine.execSt32 r s1 a o l s
  | .st64 r s1 a o l => Sys2Proof.Machine.execSt64 r s1 a o l s
  | .st128 r s1 a o => Sys2Proof.Machine.execSt128 r s1 a o s
  | .stnB8 r s1 a l => Sys2Proof.Machine.execStnB8 r s1 a l s
  | .stnB16 r s1 a l => Sys2Proof.Machine.execStnB16 r s1 a l s
  | .stp s1 a b l => Sys2Proof.Machine.execStp s1 a b l s
  | .atadd c d a b l => Sys2Proof.Machine.execAtadd c d a b l s
  | .atmaxs c d a b l => Sys2Proof.Machine.execAtmaxs c d a b l s
  | .atmaxz c d a b l => Sys2Proof.Machine.execAtmaxz c d a b l s
  | .atexch c d a b l => Sys2Proof.Machine.execAtexch c d a b l s
  | .atcas c d a b l => Sys2Proof.Machine.execAtcas c d a b l s
  | .qcmp c k a b l => Sys2Proof.Machine.execQcmp c k a b l s
  | .qlogAnd d a b => Sys2Proof.Machine.execQlogAnd d a b s
  | .qlogOr d a b => Sys2Proof.Machine.execQlogOr d a b s
  | .qlogNot d a => Sys2Proof.Machine.execQlogNot d a s
  | .qblend n d a k l => Sys2Proof.Machine.execQblend n d a k l s
  | .qdraw p a k l => Sys2Proof.Machine.execQdraw p a k l s
  | .qgradRamp n d a k l => Sys2Proof.Machine.execQgradRamp n d a k l s
  | .qgradLogi n d a k l => Sys2Proof.Machine.execQgradLogi n d a k l s
  | .qgradAndp n d a k l => Sys2Proof.Machine.execQgradAndp n d a k l s
  | .qgradOrp n d a k l => Sys2Proof.Machine.execQgradOrp n d a k l s
  | .qgradNot n d a k l => Sys2Proof.Machine.execQgradNot n d a k l s
  | .qgradBlendq n d a k l => Sys2Proof.Machine.execQgradBlendq n d a k l s
  | .qxferOut d k => Sys2Proof.Machine.execQxferOut d k s
  | .qxferIn k a l => Sys2Proof.Machine.execQxferIn k a l s
  | .tagRead n d a l => Sys2Proof.Machine.execTagRead n d a l s
  | .tagWrite n d a l => Sys2Proof.Machine.execTagWrite n d a l s
  | .tagMark n d => Sys2Proof.Machine.execTagMark n d s
  | .tagCopy n d a l => Sys2Proof.Machine.execTagCopy n d a l s
  | .br o => Sys2Proof.Machine.execBr o s
  | .brp k s1 o => Sys2Proof.Machine.execBrp k s1 o s
  | .bru a o => Sys2Proof.Machine.execBru a o s
  | .call o => Sys2Proof.Machine.execCall o s
  | .ret => Sys2Proof.Machine.execRet s
  | .brx a l => Sys2Proof.Machine.execBrx a l s
  | .fend => Sys2Proof.Machine.execFend s
  | .fspawn d a l => Sys2Proof.Machine.execFspawn d a l s
  | .yield => Sys2Proof.Machine.execYield s
  | .guard s1 k n => Sys2Proof.Machine.execGuard s1 k n s
  | .memb a l => Sys2Proof.Machine.execMemb a l s
  | .jarm n => Sys2Proof.Machine.execJarm n s
  | .join n a l => Sys2Proof.Machine.execJoin n a l s
  | .jget d n w => Sys2Proof.Machine.execJget d n w s
  | .cjoin a l => Sys2Proof.Machine.execCjoin a l s
  | .cleave => Sys2Proof.Machine.execCleave s
  | .bar => Sys2Proof.Machine.execBar s
  | .pbarr a => Sys2Proof.Machine.execPbarr a s
  | .pbwait a p => Sys2Proof.Machine.execPbwait a p s
  | .fork a l => Sys2Proof.Machine.execFork a l s
  | .rdv => Sys2Proof.Machine.execRdv s
  | .rnext d => Sys2Proof.Machine.execRnext d s
  | .epush a b => Sys2Proof.Machine.execEpush a b s
  | .epop d a => Sys2Proof.Machine.execEpop d a s
  | .tspawn d a => Sys2Proof.Machine.execTspawn d a s
  | .tsig a b l => Sys2Proof.Machine.execTsig a b l s
  | .ckpt => Sys2Proof.Machine.execCkpt s
  | .gld r d a o => Sys2Proof.Machine.execGld r d a o s
  | .gst r s1 a o l => Sys2Proof.Machine.execGst r s1 a o l s
  | .fencePour => Sys2Proof.Machine.execFencePour s
  | .fenceDev => Sys2Proof.Machine.execFenceDev s
  | .rcopy d a => Sys2Proof.Machine.execRcopy d a s
  | .rpat d a => Sys2Proof.Machine.execRpat d a s
  | .put d a => Sys2Proof.Machine.execPut d a s
  | .wwait a b l => Sys2Proof.Machine.execWwait a b l s
  | .shld n a => Sys2Proof.Machine.execShld n a s
  | .shst n a => Sys2Proof.Machine.execShst n a s
  | .shset n a b l => Sys2Proof.Machine.execShset n a b l s
  | .shget d n b l => Sys2Proof.Machine.execShget d n b l s
  | .mldw a b l => Sys2Proof.Machine.execMldw a b l s
  | .mmul d a b l => Sys2Proof.Machine.execMmul d a b l s
  | .mmulResume d a b l => Sys2Proof.Machine.execMmulResume d a b l s
  | .mdrain d a => Sys2Proof.Machine.execMdrain d a s
  | .mzero d l => Sys2Proof.Machine.execMzero d l s
  | .mspill d a => Sys2Proof.Machine.execMspill d a s
  | .mfill d a => Sys2Proof.Machine.execMfill d a s
  | .trap c => Sys2Proof.Machine.execTrap c s
  | .hret => Sys2Proof.Machine.execHret s
  | .get d r => Sys2Proof.Machine.execGet d r s
  | .set a r l => Sys2Proof.Machine.execSet a r l s
  | .bkpt c => Sys2Proof.Machine.execBkpt c s
  | .nop => Sys2Proof.Machine.execNop s
  | .halt => Sys2Proof.Machine.execHalt s
  | .gadd n d a b l => Sys2Proof.Machine.execGadd n d a b l s
  | .gsub n d a b l => Sys2Proof.Machine.execGsub n d a b l s
  | .gmul n d a b l => Sys2Proof.Machine.execGmul n d a b l s
  | .gand n d a b l => Sys2Proof.Machine.execGand n d a b l s
  | .gor n d a b l => Sys2Proof.Machine.execGor n d a b l s
  | .gxor n d a b l => Sys2Proof.Machine.execGxor n d a b l s
  | .gshl n d a b l => Sys2Proof.Machine.execGshl n d a b l s
  | .gshr n d a b l => Sys2Proof.Machine.execGshr n d a b l s
  | .gsar n d a b l => Sys2Proof.Machine.execGsar n d a b l s
  | .gaddi n d a imm l => Sys2Proof.Machine.execGaddi n d a imm l s
  | .gcmps c k a b l => Sys2Proof.Machine.execGcmps c k a b l s
  | .gcmpz c k a b l => Sys2Proof.Machine.execGcmpz c k a b l s
  | .gadd64 n d a b l => Sys2Proof.Machine.execGadd64 n d a b l s
  | .cldy d a b s1 f => Sys2Proof.Machine.execCldy d a b s1 f s
  | .csty d a b m s1 f => Sys2Proof.Machine.execCsty d a b m s1 f s
  | .cldc d a imm => Sys2Proof.Machine.execCldc d a imm s
  | .cmovc d a u => Sys2Proof.Machine.execCmovc d a u s
  | .caddc d a b s1 => Sys2Proof.Machine.execCaddc d a b s1 s
  | .csubc d a b => Sys2Proof.Machine.execCsubc d a b s
  | .cmulc d a b => Sys2Proof.Machine.execCmulc d a b s
  | .cbnz a o => Sys2Proof.Machine.execCbnz a o s
  | .cjmp o => Sys2Proof.Machine.execCjmp o s
  | .cfma d a b => Sys2Proof.Machine.execCfma d a b s
  | .cmul d a b => Sys2Proof.Machine.execCmul d a b s
  | .cadd d a b => Sys2Proof.Machine.execCadd d a b s
  | .csub d a b => Sys2Proof.Machine.execCsub d a b s
  | .cmax d a b => Sys2Proof.Machine.execCmax d a b s
  | .cmin d a b => Sys2Proof.Machine.execCmin d a b s
  | .crsq d a => Sys2Proof.Machine.execCrsq d a s
  | .csqrt d a => Sys2Proof.Machine.execCsqrt d a s
  | .csplat d a => Sys2Proof.Machine.execCsplat d a s
  | .ccvt d a b m f => Sys2Proof.Machine.execCcvt d a b m f s
  | .cpair d a b m f => Sys2Proof.Machine.execCpair d a b m f s
  | .cepop d a => Sys2Proof.Machine.execCepop d a s
  | .ctsig a b => Sys2Proof.Machine.execCtsig a b s
  | .chalt => Sys2Proof.Machine.execChalt s
  | .cfence => Sys2Proof.Machine.execCfence s
  | .recastIssue core quad => Sys2Proof.Machine.execRecastIssue core quad s
  | .weaveSlotGrant core quad => Sys2Proof.Machine.execWeaveSlotGrant core quad s
  | .rejoinTimeout weave j => Sys2Proof.Machine.execRejoinTimeout weave j s
  | .placement part => Sys2Proof.Machine.execPlacement part s
  | .runnerCommandStart core => Sys2Proof.Machine.execRunnerCommandStart core s
  | .copyCompletion cmd => Sys2Proof.Machine.execCopyCompletion cmd s
  | .putArrival part p => Sys2Proof.Machine.execPutArrival part p s
  | .putAcknowledgement cmd ok => Sys2Proof.Machine.execPutAcknowledgement cmd ok s
  | .loadResultArrival id => Sys2Proof.Machine.execLoadResultArrival id s
  | .mldwCompletion core => Sys2Proof.Machine.execMldwCompletion core s
  | .mmulCompletion core => Sys2Proof.Machine.execMmulCompletion core s
  | .mmulErrorCompletion core => Sys2Proof.Machine.execMmulErrorCompletion core s
  | .mdrainCompletion core => Sys2Proof.Machine.execMdrainCompletion core s
  | .mdrainErrorCompletion core => Sys2Proof.Machine.execMdrainErrorCompletion core s
  | .refreshWindowOpen group => Sys2Proof.Machine.execRefreshWindowOpen group s
  | .refreshWindowClose group => Sys2Proof.Machine.execRefreshWindowClose group s
  | .appendPortCommit part pf queue off data => Sys2Proof.Machine.execAppendPortCommit part pf queue off data s
  | .qcfgWrite part queue v => Sys2Proof.Machine.execQcfgWrite part queue v s
  | .hostSignal part v => Sys2Proof.Machine.execHostSignal part v s
  | .weightStoreCopy part v => Sys2Proof.Machine.execWeightStoreCopy part v s
  | .weightStoreCopyDone part => Sys2Proof.Machine.execWeightStoreCopyDone part s
  | .bindWrite vf v => Sys2Proof.Machine.execBindWrite vf v s
  | .functionLevelReset vf => Sys2Proof.Machine.execFunctionLevelReset vf s
  | .invalidation part v => Sys2Proof.Machine.execInvalidation part v s
  | .invalidationDone part => Sys2Proof.Machine.execInvalidationDone part s
  | .winregWrite part v => Sys2Proof.Machine.execWinregWrite part v s
  | .sndregWrite part v => Sys2Proof.Machine.execSndregWrite part v s
  | .faultAnswer part v => Sys2Proof.Machine.execFaultAnswer part v s
  | .purgeMessageReceived port rtag => Sys2Proof.Machine.execPurgeMessageReceived port rtag s
  | .contextRun part => Sys2Proof.Machine.execContextRun part s
  | .contextRestoreDone part => Sys2Proof.Machine.execContextRestoreDone part s
  | .contextPreempt part => Sys2Proof.Machine.execContextPreempt part s
  | .contextSaved part => Sys2Proof.Machine.execContextSaved part s
  | .injectionArm v => Sys2Proof.Machine.execInjectionArm v s
  | .resyncComplete unit => Sys2Proof.Machine.execResyncComplete unit s
  | .powerOn => Sys2Proof.Machine.execPowerOn s
  | .conventionalReset => Sys2Proof.Machine.execConventionalReset s
  | .startctlWrite v => Sys2Proof.Machine.execStartctlWrite v s
  | .startComplete failed => Sys2Proof.Machine.execStartComplete failed s
  | .dbgStop part cmd => Sys2Proof.Machine.execDbgStop part cmd s
  | .dbgStep part cmd => Sys2Proof.Machine.execDbgStep part cmd s
  | .stepEnd pour => Sys2Proof.Machine.execStepEnd pour s
  | .stepLimitExpiry pour => Sys2Proof.Machine.execStepLimitExpiry pour s
  | .dbgRun part cmd => Sys2Proof.Machine.execDbgRun part cmd s
  | .dbgRegrd part cmd => Sys2Proof.Machine.execDbgRegrd part cmd s
  | .dbgRegwr part cmd => Sys2Proof.Machine.execDbgRegwr part cmd s
  | .dbgRegwrf part cmd => Sys2Proof.Machine.execDbgRegwrf part cmd s
  | .dbgIllegal part cmd => Sys2Proof.Machine.execDbgIllegal part cmd s
  | .assayAbandon part => Sys2Proof.Machine.execAssayAbandon part s
  | .registerWrite t off data => Sys2Proof.Machine.execRegisterWrite t off data s
  | .mirrorCopyDone core => Sys2Proof.Machine.execMirrorCopyDone core s
  | .atomicResultArrival id => Sys2Proof.Machine.execAtomicResultArrival id s
  | .getMeasurements => Sys2Proof.Machine.execGetMeasurements s
  | .getChallenge nonce => Sys2Proof.Machine.execGetChallenge nonce s
  | .unlock sig => Sys2Proof.Machine.execUnlock sig s
  | .firmwareUpdate img => Sys2Proof.Machine.execFirmwareUpdate img s
  | .activateFirmware => Sys2Proof.Machine.execActivateFirmware s
  | .pldmSensorRead sensor => Sys2Proof.Machine.execPldmSensorRead sensor s
  | .sensorPoll r => Sys2Proof.Machine.execSensorPoll r s
  | .thermalRecoveryStart hottest => Sys2Proof.Machine.execThermalRecoveryStart hottest s
  | .thermalFatal => Sys2Proof.Machine.execThermalFatal s
  | .managementPortStartRequest cold => Sys2Proof.Machine.execManagementPortStartRequest cold s
  | .firmwareDebugCommand c => Sys2Proof.Machine.execFirmwareDebugCommand c s
  | .suspopRead width => Sys2Proof.Machine.execSuspopRead width s
  | .escpopRead width => Sys2Proof.Machine.execEscpopRead width s
  | .portsWrite part v => Sys2Proof.Machine.execPortsWrite part v s
  | .keysetWrite v => Sys2Proof.Machine.execKeysetWrite v s
  | .assayReplay part rcore sigr => Sys2Proof.Machine.execAssayReplay part rcore sigr s
  | .profileSample core seen served queued => Sys2Proof.Machine.execProfileSample core seen served queued s
  | .fabricReadRequest part win off len => Sys2Proof.Machine.execFabricReadRequest part win off len s
  | .voteDissent unit copies => Sys2Proof.Machine.execVoteDissent unit copies s
  | .probationEnd unit => Sys2Proof.Machine.execProbationEnd unit s

end Sys2Proof.Machine
end

