-- ==== Sys2Proof/Machine/Sched.lean ====
section
/-!
DEFINITION. Machine/Sched.lean: whose turn it is: the issue of a quadrant (03 R72), the fates of a fetch (09 R199), what a
core cycle changes, and the steps that may come next (log 2).
-/

namespace Sys2Proof.Machine

/-! ## Who may go on -/

/-- Whether a stall has cleared (03 R72), and the driver has answered for the page that it waits for (22 R391). -/
def State.stallOver (s : State) (part : Nat) : Option Stall → Bool
  | none => true
  | some t => !t.holds && !s.unanswered part t.fault

/-- Whether a weave can issue. -/
def State.canIssue (s : State) (w : Nat) : Bool :=
  match s.weave? w with
  | none => false
  | some v =>
    match s.pour? v.pour with
    | none => false
    | some p => v.slot.isSome && !(s.movers w).isEmpty && s.stallOver p.part v.stall && s.letsGo p v.yielded

/-- The order of choice of a quadrant (03 R72): priority, ready time, issue slot. -/
def State.issueKey (s : State) (v : Weave) : Nat × Nat × Nat := (s.prioOf v, v.readyAt, v.slot.getD 0)

/-- The weave that issues next in a quadrant: the one that has not reached a yield point, or the first of those that can
issue (03 R72). -/
def State.quadPick (s : State) (core quad : Nat) : Option Nat :=
  match (s.core core).turn.getD quad none with
  | some w => if s.canIssue w then some w else none
  | none =>
    let less (a b : Nat × Nat × Nat) : Bool :=
      decide (a.1 < b.1 ∨ (a.1 = b.1 ∧ (a.2.1 < b.2.1 ∨ (a.2.1 = b.2.1 ∧ a.2.2 < b.2.2))))
    ((s.weaves.filter fun e => e.2.core == core && e.2.quad == quad && s.canIssue e.1).foldl (fun b e =>
      match b with
      | none => some e
      | some x => if less (s.issueKey e.2) (s.issueKey x.2) then some e else b) none).map (·.1)

/-- Whether an engine program can issue. -/
def State.engineReady (s : State) (v : Engine) : Bool :=
  v.running && !v.atRdv
    && (match s.pour? v.pour with
      | some p => s.stallOver p.part v.stall && p.dbg.runs && (s.part p.part).ctx == CtxState.running
      | none => false)

/-- Whether a Crucible instance can issue: instances that share a Crucible run one after another (03 R71). One that pre-emption finds
within a `CPAIR` runs on to its boundary (14 R305, 22 R395). -/
def State.crucibleReady (s : State) (k : Nat) (c : Crucible) : Bool :=
  (match s.crucibles.find? fun e => e.2.chan == c.chan with | some e => e.1 == k | none => false)
    && s.stallOver c.part c.stall
    && (match (s.part c.part).ctx with | .running => true | .saving => decide (c.prog ≠ 0) | _ => false)

/-! ## Fetch -/

/-- A code word of an instance: a host or peer frame is a fatal access violation, as for its data (14 R309 item 5). -/
def State.fetchCru (s : State) (c : Crucible) : Fetched :=
  match s.fetch1 c.part c.code c.hdr.nwords c.pc with
  | .word x l =>
    let a := codeAddr c.code c.pc
    if s.cruLoc c.part a false = .violation then .violation a else .word x l
  | f => f

/-- A fetch of `n` words corrects and counts what it finds (22 R398). -/
def State.touchCode (s : State) (part : Nat) (code : BitVec 64) (pc n : Nat) : State :=
  if s.mem.sound then s
  else
    (List.range n).foldl (fun s i =>
      match aperture (codeAddr code (pc + i)) with
      | .global va => (s.touchLoc (s.globalLoc part va false) 4 false).touchWalk part va
      | _ => s) s

/-- The cause that a word raises which decodes to nothing (09 R200): `TAG.MARK` with an A that is not 240 names an illegal
operand (13 R298); any other is illegal. -/
def undecodedCause (w : Word) : Nat :=
  if w.extractLsb' 25 7 = 63#7 ∧ w.extractLsb' 0 8 = 2#8 then cOperand else cIllegal

/-- A word of a weave that decodes to nothing (09 R200 items 1 and 3): every active lane shows the word. Where a guard window
leaves no lane active, a lane word passes, and a group word traps in the lanes that the window excludes (02 R39, log 42). -/
def State.undecoded (s : State) (w : Nat) (word : Word) : State :=
  match s.ctxOf w with
  | none => s
  | some c =>
    let acts := if c.acts.isEmpty then s.movers w else c.acts
    if c.acts.isEmpty && !word.msb then s.after w 1 true false
    else
      s.trapWeave w { cause := undecodedCause word, mask := laneMask acts, pc := c.pc
                      addrs := acts.map fun e => (e.2.lane, word.zeroExtend 64) }

/-- A fetch of a weave that gives no word: the trap with the word offset in `tinfo1` (09 R199), the access violation (22 R387),
or the wait for a page (22 R391) or for a refresh window (04 R94). DESIGN CHOICE (log 66): 02 R54 does not list a fetch that
waits, and the model stalls it as at a yield point. -/
def State.fetchTrap (s : State) (w : Nat) (f : Fetched) : State :=
  match s.ctxOf w with
  | none => s
  | some c =>
    let ids := if c.acts.isEmpty then (s.movers w).map (·.1) else c.ids
    let lanes := ids.filterMap fun f => (s.fibre? f).map (·.lane)
    match f with
    | .word _ _ => s
    | .outside => s.trapWeave w { cause := cIllegal, mask := maskOf lanes, pc := c.pc }
    | .violation a =>
      s.trapWeave w { cause := cAccess, mask := maskOf lanes, pc := c.pc, addrs := lanes.map fun l => (l, a) }
    | .wait va =>
      let (id, s) := s.reportFault c.p.part va .code false c.p.core (s.rtagOf c.p)
      s.stallWeave w .result false (some id)
    | .refresh => s.stallWeave w .result

/-- The same of an engine program (09 R187). -/
def State.fetchTrapEngine (s : State) (e : Nat) (v : Engine) (p : Pour) (f : Fetched) : State :=
  match f with
  | .word _ _ => s
  | .outside => s.trapEngine e cIllegal
  | .violation _ => s.trapEngine e cAccess
  | .wait va =>
    let (id, s) := s.reportFault p.part va .code false v.core (s.rtagOf p)
    s.stallEngine e .result (some id)
  | .refresh => s.stallEngine e .result

/-- The same of a Crucible instance (14 R309). -/
def State.fetchTrapCru (s : State) (k : Nat) (c : Crucible) (f : Fetched) : State :=
  match f with
  | .word _ _ => s
  | .outside => s.cruHalt k cIllegal
  | .violation _ => s.cruHalt k cAccess
  | .wait va =>
    let (id, s) := s.reportFault c.part va .code false c.chan (s.cruTag c)
    s.cruStall k .order (some id)
  | .refresh => s.cruStall k .order none

/-! ## A core cycle -/

/-- The levels that are due to time out (02 R50): their pour runs. -/
def State.expiredLevels (s : State) : List (Nat × Nat) :=
  s.weaves.flatMap fun e =>
    match s.pour? e.2.pour with
    | some p =>
      if !p.dbg.runs then []
      else (e.2.j.zipIdx.filter fun r => r.1.expired).map fun r => (e.1, r.2)
    | none => []

/-- Slots of a quadrant go to the weaves that wait for one (02 R43, R55). -/
def State.grantSlots (s : State) (core quad : Nat) : Nat → State
  | 0 => s
  | n + 1 =>
    if (s.waiting core quad).isEmpty || (s.takeSlot core quad).isNone then s
    else State.grantSlots (Out.orElse (execWeaveSlotGrant core quad s) s) core quad n

/-- Whether the Recast Unit can issue the candidate of a quadrant (02 R43). -/
def State.recastDue (s : State) (core quad : Nat) : Bool :=
  s.candidateDue (s.candidate core quad) && (s.waiting core quad).isEmpty && (s.takeSlot core quad).isSome

/-- The candidates of a quadrant that are due issue (02 R43, R55). -/
def State.issueRecast (s : State) (core quad : Nat) : Nat → State
  | 0 => s
  | n + 1 =>
    if s.recastDue core quad then State.issueRecast (Out.orElse (execRecastIssue core quad s) s) core quad n else s

/-- The quadrants where a pour's fibres live. -/
def State.quads (s : State) : List (Nat × Nat) :=
  ((s.pours.map fun e => e.2.core).eraseDups).flatMap fun c => (List.range 4).map fun q => (c, q)

/-- The slots that are due before a cycle passes (02 R55): to weaves that can run again, then to candidates. -/
def State.settleSlots (s : State) : State :=
  s.quads.foldl (fun s q => (s.grantSlots q.1 q.2 Config.slotsPerQuad).issueRecast q.1 q.2 Config.slotsPerQuad) s

/-- What must happen before a cycle passes: the issue slots and recast weaves that are due (02 R43, R55), the timeouts that are
due (02 R50), the ends of debug steps (23 R411), the abandonment of samples (24 R424), the ends of resyncs and of probations (21
R371, R372) of units that no halted firmware core serves (23 R406). -/
def State.settleDue (s : State) : State :=
  let s := s.settleSlots
  let s := s.expiredLevels.foldl (fun s e => Out.orElse (execRejoinTimeout e.1 e.2 s) s) s
  let s := s.pours.foldl (fun s e => Out.orElse (execStepEnd e.1 s) s) s
  let s := s.pours.foldl (fun s e => Out.orElse (execStepLimitExpiry e.1 s) s) s
  let s := s.parts.foldl (fun s e => Out.orElse (execAssayAbandon e.1 s) s) s
  (List.range 18).foldl (fun s u =>
    let c := s.dev.units.getD u {}
    if c.state = 1#2 ∧ c.resync = 0 ∧ ¬ s.dev.fwHalted.contains u then
      Out.orElse (if c.probing then execProbationEnd u s else execResyncComplete u s) s
    else s) s

/-- What a cycle counts in a level (02 R45): `elapsed` of one that counts, in a pour that runs. -/
def JReg.tick (r : JReg) : JReg := if r.state = 2#2 then { r with elapsed := satAdd r.elapsed 1 } else r

/-- A core cycle passes: the held operations whose place has not come are tried, what is due happens, and the counts of levels,
steps, samples and resyncs go on. -/
def State.passCycle (s : State) : State :=
  let s := (s.retryHeld fun n => decide (s.beat < n))
  let s := s.settleDue
  let runs (pid : Nat) : Bool := match s.pour? pid with | some p => p.dbg.runs | none => false
  { s with
    clk := s.clk + 1
    beat := 0
    weaves := s.weaves.map fun (e : Nat × Weave) => if runs e.2.pour then (e.1, { e.2 with j := e.2.j.map JReg.tick }) else e
    pours := s.pours.map fun (e : Nat × Pour) =>
      match e.2.dbg with
      | .stepping l n => (e.1, { e.2 with dbg := .stepping l (n + 1) })
      | _ => e
    parts := s.parts.map fun (e : Nat × Part) =>
      match e.2.sample with
      | some m => if m.ended && m.replay.isNone && e.2.ctx == CtxState.running then (e.1, { e.2 with sample := some { m with waited := m.waited + 1 } }) else e
      | none => e
    dev := { s.dev with units := s.dev.units.zipIdx.map fun (u : CtlUnit × Nat) =>
      if u.1.state = 1#2 ∧ ¬ s.dev.fwHalted.contains u.2 then { u.1 with resync := u.1.resync - 1 } else u.1 } }

/-! ## The order within a core cycle -/

/-- The place of a turn in the order of a core cycle, and whether its party has one turn a cycle: by core the Ladle, the Runner and
the quadrants, whose weaves go by issue slot (04 R108, 08 R165, 11 R230), then Crucibles by channel (03 R74, 14 R314), then the
host's commits, the VF's before the PF's (21 R365), its signals (03 R61), and at the end the timeouts (02 R50). A turn without a
place may come at any time. -/
def State.place (s : State) : Turn → Option (Nat × Bool)
  | .run (.weave w) => (s.weave? w).map fun v => (slotPlace v.core v.quad v.slot, true)
  | .run (.engine e) => (s.engine? e).map fun v => (16 * corePlace v.core (match v.kind with | .ladle => 1 | .runner => 3), true)
  | .run (.crucible k) => (s.crucible? k).map fun c => (16 * (2 ^ 20 + c.chan), true)
  | .event (.mldwCompletion c) | .event (.mmulCompletion c) | .event (.mmulErrorCompletion c) | .event (.mdrainCompletion c)
  | .event (.mdrainErrorCompletion c) => some (16 * corePlace c 0, false)
  | .event (.runnerCommandStart c) => some (16 * corePlace c 2, false)
  | .event (.copyCompletion n) | .event (.putAcknowledgement n _) =>
    (s.cmds.find? fun c => c.id == n).map fun c => (16 * corePlace c.core 2, false)
  | .event (.appendPortCommit _ pf _ _ _) => some (16 * (2 ^ 21 + (if pf then 1 else 0)), false)
  | .event (.hostSignal _ _) => some (16 * (2 ^ 21 + 2), false)
  | .event (.rejoinTimeout _ _) => some (16 * (2 ^ 21 + 3), false)
  | _ => none

/-- Whether the order of the core cycle has passed the place of a turn: a party that has one turn a cycle, a quadrant among them,
has had it (02 R33). -/
def State.isPast (s : State) (n : Nat) (once : Bool) : Bool :=
  decide (n < s.beat) || (once && n / 16 == s.beat / 16)

/-! ## What may come next -/

/-- The parties that can issue. -/
def State.partyTurns (s : State) : List Turn :=
  (s.weaves.filterMap fun e =>
    if s.canIssue e.1 && s.quadPick e.2.core e.2.quad == some e.1 then some (.run (.weave e.1)) else none)
  ++ (s.engines.filterMap fun e => if s.engineReady e.2 then some (.run (.engine e.1)) else none)
  ++ (s.crucibles.filterMap fun e => if s.crucibleReady e.1 e.2 then some (.run (.crucible e.1)) else none)

/-- Steps of a partition that need nothing from outside. -/
def State.partTurns (s : State) (part : Nat) (p : Part) : List Instr :=
  (if s.mayPlace part && (s.chosen part).isSome then [.placement part] else [])
  ++ (if p.ctx = .saving ∧ s.allTaken part then [.contextSaved part] else [])
  ++ (if p.ctx = .restoring ∧ p.wsst ≠ 1 then [.contextRestoreDone part] else [])
  ++ (if p.inv.isSome then [.invalidationDone part] else [])
  ++ (if p.wsst = 1 then [.weightStoreCopyDone part] else [])
  ++ (match p.sample with
    | some m =>
      if !m.ended || p.ctx ≠ .running then []
      else
        let cores := match m.replay with | some (c, _) => [c] | none => (s.donors m).take 1
        cores.map fun c => .assayReplay part c 0#64
    | none => [])

/-- Steps of a core's units that need nothing from outside. -/
def State.coreTurns (s : State) (core : Nat) (c : CoreSt) : List Instr :=
  (if s.cmds.any fun x => x.core == core && x.state == CmdState.queued then [.runnerCommandStart core] else [])
  ++ (if c.copying then [.mirrorCopyDone core] else [])
  ++ (match c.mat with
    | none => []
    | some m =>
      match m.kind with
      | .mldw => [.mldwCompletion core]
      | .mmul => [.mmulCompletion core, .mmulErrorCompletion core]
      | .mdrain => [.mdrainCompletion core, .mdrainErrorCompletion core])

/-- The steps that need nothing from outside. -/
def State.innerTurns (s : State) : List Instr :=
  (s.quads.flatMap fun q =>
    (if s.recastDue q.1 q.2 then [.recastIssue q.1 q.2] else [])
    ++ (if (s.waiting q.1 q.2).isEmpty || (s.takeSlot q.1 q.2).isNone then [] else [.weaveSlotGrant q.1 q.2]))
  ++ (s.pend.filterMap fun p =>
    if !p.ready then none
    else match p.kind with | .load => some (.loadResultArrival p.id) | .atomic => some (.atomicResultArrival p.id) | _ => none)
  ++ (s.cmds.filterMap fun c => if (c.state == CmdState.running || c.state == CmdState.starting) && !s.unanswered c.owner.part c.wait then some (.copyCompletion c.id) else none)
  ++ (s.parts.flatMap fun e => s.partTurns e.1 e.2)
  ++ (((s.pours.map fun e => e.2.core) ++ (s.cmds.map fun c => c.core)).eraseDups.flatMap fun c => s.coreTurns c (s.core c))
  ++ (if s.dev.starting.isSome then [.startComplete 0] else [])

/-- The step that comes next where the agenda names none: one of those that may, by the cycle (log 2). -/
def State.pickTurn (s : State) : Turn :=
  let ts := s.partyTurns ++ s.innerTurns.map Turn.event
  match ts with
  | [] => .cycle
  | t :: _ => ts.getD (s.clk % ts.length) t

end Sys2Proof.Machine
end

