-- ==== Sys2Proof/WellFormed.lean ====
section
/-!
DEFINITION. WellFormed.lean: which instructions are well-formed: an encoded one carries a literal only where a source field
names it (09 R185), and a step names units that exist (00 R2, R4).
-/

namespace Sys2Proof

/-- Whether a register block's partition exists. -/
def RegTarget.wf : RegTarget → Bool
  | .pf => true
  | .ctl p | .block p _ => decide (p < Config.partitions)

/-- Whether an instruction carries a literal only where a source field names one. -/
def Instr.litWf (i : Instr) : Bool := i.hasLiteral || i.literal == 0#32

/-- Whether the units that a step names exist. -/
def Instr.unitsWf : Instr → Bool
  | .recastIssue core quad => decide (core < Config.cores) && decide (quad < 4)
  | .weaveSlotGrant core quad => decide (core < Config.cores) && decide (quad < 4)
  | .rejoinTimeout _ j => decide (j < 8)
  | .placement part => decide (part < Config.partitions)
  | .runnerCommandStart core => decide (core < Config.cores)
  | .putArrival part _ => decide (part < Config.partitions)
  | .mldwCompletion core => decide (core < Config.cores)
  | .mmulCompletion core => decide (core < Config.cores)
  | .mmulErrorCompletion core => decide (core < Config.cores)
  | .mdrainCompletion core => decide (core < Config.cores)
  | .mdrainErrorCompletion core => decide (core < Config.cores)
  | .refreshWindowOpen group => decide (group < 4)
  | .refreshWindowClose group => decide (group < 4)
  | .appendPortCommit part _ queue _ _ => decide (part < Config.partitions) && decide (queue < 4)
  | .qcfgWrite part queue _ => decide (part < Config.partitions) && decide (queue < 4)
  | .hostSignal part _ => decide (part < Config.partitions)
  | .weightStoreCopy part _ => decide (part < Config.partitions)
  | .weightStoreCopyDone part => decide (part < Config.partitions)
  | .bindWrite vf _ => decide (1 ≤ vf) && decide (vf ≤ Config.partitions)
  | .functionLevelReset vf => decide (1 ≤ vf) && decide (vf ≤ Config.partitions)
  | .invalidation part _ => decide (part < Config.partitions)
  | .invalidationDone part => decide (part < Config.partitions)
  | .winregWrite part _ => decide (part < Config.partitions)
  | .sndregWrite part _ => decide (part < Config.partitions)
  | .faultAnswer part _ => decide (part < Config.partitions)
  | .purgeMessageReceived port _ => decide (port < 32)
  | .contextRun part => decide (part < Config.partitions)
  | .contextRestoreDone part => decide (part < Config.partitions)
  | .contextPreempt part => decide (part < Config.partitions)
  | .contextSaved part => decide (part < Config.partitions)
  | .resyncComplete unit => decide (unit < 18)
  | .dbgStop part _ => decide (part < Config.partitions)
  | .dbgStep part _ => decide (part < Config.partitions)
  | .dbgRun part _ => decide (part < Config.partitions)
  | .dbgRegrd part _ => decide (part < Config.partitions)
  | .dbgRegwr part _ => decide (part < Config.partitions)
  | .dbgRegwrf part _ => decide (part < Config.partitions)
  | .dbgIllegal part _ => decide (part < Config.partitions)
  | .assayAbandon part => decide (part < Config.partitions)
  | .registerWrite t _ _ => t.wf
  | .mirrorCopyDone core => decide (core < Config.cores)
  | .portsWrite part _ => decide (part < Config.partitions)
  | .assayReplay part rcore _ => decide (part < Config.partitions) && decide (rcore < Config.cores)
  | .profileSample core _ _ _ => decide (core < Config.cores)
  | .fabricReadRequest part win _ _ => decide (part < Config.partitions) && decide (win < 1024)
  | .voteDissent unit _ => decide (unit < 18)
  | .probationEnd unit => decide (unit < 18)
  | _ => true

/-- Whether an instruction is of the Crucible set, whose words have a map of their own (14 R306). -/
def Instr.isCrucible : Instr → Bool
  | .cldy _ _ _ _ _ => true
  | .csty _ _ _ _ _ _ => true
  | .cldc _ _ _ => true
  | .cmovc _ _ _ => true
  | .caddc _ _ _ _ => true
  | .csubc _ _ _ => true
  | .cmulc _ _ _ => true
  | .cbnz _ _ => true
  | .cjmp _ => true
  | .cfma _ _ _ => true
  | .cmul _ _ _ => true
  | .cadd _ _ _ => true
  | .csub _ _ _ => true
  | .cmax _ _ _ => true
  | .cmin _ _ _ => true
  | .crsq _ _ => true
  | .csqrt _ _ => true
  | .csplat _ _ => true
  | .ccvt _ _ _ _ _ => true
  | .cpair _ _ _ _ _ => true
  | .cepop _ _ => true
  | .ctsig _ _ => true
  | .chalt => true
  | .cfence => true
  | _ => false

/-- Whether an instruction is well-formed. -/
def Instr.wf (i : Instr) : Bool := i.litWf && i.unitsWf

end Sys2Proof
end

