-- ==== Sys2Proof/Machine/Run.lean ====
section
/-!
DEFINITION. Machine/Run.lean: what one step does: a party fetches, decodes and executes a word (02 R33, 09 R199), or a step of
the machine or its environment comes about (log 2); and how an instruction is placed so that it is the next to run.
-/

namespace Sys2Proof.Machine

/-! ## A word of a party -/

/-- A weave fetches its word and executes it (02 R33, 09 R199); one that owes a checkpoint takes that first (11 R248). -/
def State.weaveWord (s : State) (w : Nat) : Out :=
  match s.ctxOf w with
  | none => .next s
  | some c =>
    if c.v.owes then .next (s.payOwed w) else
    match s.fetch c.p.part c.p.code c.p.hdr.nwords c.pc with
    | (.word _ _, some i) => exec i { s.touchCode c.p.part c.p.code c.pc (if i.hasLiteral then 2 else 1) with turn := .weave w }
    | (.word x _, none) => .next ((s.touchCode c.p.part c.p.code c.pc 1).undecoded w x)
    | (f, _) => .next (s.fetchTrap w f)

/-- An engine program fetches its word and executes it (03 R80, 09 R187). -/
def State.engineWord (s : State) (e : Nat) : Out :=
  match s.engine? e with
  | none => .next s
  | some v =>
    match s.pour? v.pour with
    | none => .next s
    | some p =>
      match s.fetch p.part p.code p.hdr.nwords v.pc with
      | (.word _ _, some i) => exec i { s.touchCode p.part p.code v.pc (if i.hasLiteral then 2 else 1) with turn := .engine e }
      | (.word _ _, none) => .next ((s.touchCode p.part p.code v.pc 1).trapEngine e cIllegal)
      | (f, _) => .next (s.fetchTrapEngine e v p f)

/-- A Crucible instance fetches its word and executes it (14 R305, R309). -/
def State.crucibleWord (s : State) (k : Nat) : Out :=
  match s.crucible? k with
  | none => .next s
  | some c =>
    match s.fetchCru c with
    | .word x _ =>
      match decodeCrucible x with
      | some i => exec i { s.touchCode c.part c.code c.pc 1 with turn := .crucible k }
      | none => .next ((s.touchCode c.part c.code c.pc 1).cruHalt k cIllegal)
    | f => .next (s.fetchTrapCru k c f)

/-! ## Stalls -/

/-- Whether a party that stalled, and tried its word again, still stalls for the same. -/
def sameStall (old new : Option Stall) : Bool :=
  match old, new with
  | some a, some b => b.fault.isNone || b.fault == a.fault
  | _, _ => false

/-- Whether what a weave waits for has not come about: its word would stall again, with nothing more done. -/
def State.weaveHolds (s : State) (w : Nat) (v : Weave) : Bool :=
  match s.weaveWord w with
  | .next t => (match t.weave? w with | some u => sameStall v.stall u.stall && u.forked == v.forked | none => false)
  | _ => false

/-- The same of an engine program. -/
def State.engineHolds (s : State) (e : Nat) (v : Engine) : Bool :=
  match s.engineWord e with
  | .next t => (match t.engine? e with | some u => sameStall v.stall u.stall | none => false)
  | _ => false

/-- The same of a Crucible instance. -/
def State.crucibleHolds (s : State) (k : Nat) (c : Crucible) : Bool :=
  match s.crucibleWord k with
  | .next t => (match t.crucible? k with | some d => sameStall c.stall d.stall && d.prog == c.prog | none => false)
  | _ => false

/-- Look again at every stall (03 R72): whether what it waits for has come about since. A weave is ready from the cycle in which its
stall clears. -/
def State.lookAgain (s : State) : State :=
  let waits (part : Nat) (t : Stall) (again : Bool) : Bool := s.unanswered part t.fault || again
  { s with
    weaves := s.weaves.map fun e =>
      match e.2.stall, s.pour? e.2.pour with
      | some t, some p =>
        let h := waits p.part t (s.weaveHolds e.1 e.2)
        (e.1, { e.2 with stall := some { t with holds := h }, readyAt := if t.holds && !h then s.clk else e.2.readyAt })
      | _, _ => e
    engines := s.engines.map fun e =>
      match e.2.stall, s.pour? e.2.pour with
      | some t, some p => (e.1, { e.2 with stall := some { t with holds := waits p.part t (s.engineHolds e.1 e.2) } })
      | _, _ => e
    crucibles := s.crucibles.map fun e =>
      match e.2.stall with
      | some t => (e.1, { e.2 with stall := some { t with holds := waits e.2.part t (s.crucibleHolds e.1 e.2) } })
      | none => e }

/-! ## Turns -/

/-- A weave's turn (02 R33). A comparator stops it before the word (23 R410). -/
def State.runWeave (s : State) (w : Nat) : Out :=
  match s.ctxOf w with
  | none => .next s
  | some c =>
    if !s.canIssue w || s.quadPick c.v.core c.v.quad != some w then .next s
    else if s.compares c.pid c.pc then
      let rank := match c.acts.head? with | some e => e.2.rank | none => 0
      .next ((s.yieldWeave w).stopPour c.pid { why := 2, at_ := some (c.pc, rank) })
    else s.weaveWord w

/-- An engine program's turn (03 R80). -/
def State.runEngine (s : State) (e : Nat) : Out :=
  match s.engine? e with
  | none => .next s
  | some v => if s.engineReady v then s.engineWord e else .next s

/-- A Crucible instance's turn (14 R305). -/
def State.runCrucible (s : State) (k : Nat) : Out :=
  match s.crucible? k with
  | none => .next s
  | some c => if s.crucibleReady k c then s.crucibleWord k else .next s

/-- A word that firmware executes on a core's Ladle: of the set only the spill and the fill of a tile are given a meaning in
firmware (13 R294). -/
def State.runFirmware (s : State) (core part : Nat) (w : Word) : Out :=
  match decodeWord w 0#32 with
  | some (.mspill d a) => exec (.mspill d a) { s with turn := .firmware core part }
  | some (.mfill d a) => exec (.mfill d a) { s with turn := .firmware core part }
  | _ => .next s

/-- The control unit that makes a step of the machine: a command processor what the host commands of a partition, a dispatcher its
placements, a walker unit its invalidations (21 R370). DEDUCED (log 29): the spec names the units and not the commands. -/
def servedBy : Instr → Option Nat
  | .appendPortCommit p _ _ _ _ | .qcfgWrite p _ _ | .hostSignal p _ | .weightStoreCopy p _ | .weightStoreCopyDone p
  | .invalidation p _ | .faultAnswer p _ | .contextRun p | .contextRestoreDone p | .contextPreempt p | .contextSaved p
  | .dbgStop p _ | .dbgStep p _ | .dbgRun p _ | .dbgRegrd p _ | .dbgRegwr p _ | .dbgRegwrf p _ | .dbgIllegal p _ =>
    some (3 * dieOf p)
  | .placement p => some (3 * dieOf p + 1)
  | .invalidationDone p => some (3 * dieOf p + 2)
  | _ => none

/-- Whether the unit that makes a step stalls, because the firmware core that serves it is halted (23 R406): the step does not come
about. -/
def State.unitStalls (s : State) (i : Instr) : Bool :=
  match servedBy i with | some u => s.dev.fwHalted.contains u | none => false

/-- What a turn does. A step that names a unit that does not exist is no step (log 3), nor is
one of a control unit that stalls. -/
def State.turnStep (s : State) (t : Turn) : Out :=
  match t with
  | .run (.weave w) => s.runWeave w
  | .run (.engine e) => s.runEngine e
  | .run (.crucible k) => s.runCrucible k
  | .run _ => .next s
  | .firmware core part w => s.runFirmware core part w
  | .event i => if i.unitsWf && !s.unitStalls i then exec i { s with turn := .none } else .next s
  | .load key bytes => .next { s with mem := s.mem.store key bytes }
  | .place part t i v => .next (s.placeEntry part t i v)
  | .tagError key => .next { s with mem := s.mem.spoilTag key }
  | .eccError e hard => .next (if e.there then s.eccError e hard else s)
  | .cycle => .next s.passCycle

/-- The order of the core cycle comes to a place: the held operations up to it are tried (22 R392, 03 R74). -/
def State.comeTo (s : State) (n : Nat) : State :=
  { s.retryHeld fun m => decide (s.beat < m) && decide (m ≤ n) with beat := n }

/-- The state in which a turn comes about: where the order of the core cycle has passed its place, a cycle passes first. -/
def State.cue (s : State) (t : Turn) : State :=
  match s.place t with
  | none => s
  | some (n, once) => (if s.isPast n once then s.passCycle.lookAgain else s).comeTo n

/-- The same, with what samples log of the way there (24 R420). -/
def State.cued (s : State) (t : Turn) : State :=
  match s.place t with
  | none => s
  | some _ => ({ s.cue t with turn := .none } : State).logAll s

/-- What follows a turn from a state: the stalls are looked at again, samples log what it did (24 R420), and the turn is over. -/
def State.follow (s : State) : Out → Out
  | .next t => .next { t.lookAgain.logAll s with turn := .none }
  | o => o

/-- A core cycle passes after a turn that no agenda named. -/
def thenCycle (t : Turn) : Out → Out
  | .next s => .next (match t with | .cycle => s | _ => s.passCycle)
  | o => o

/-- One step (log 2): the turn that the agenda names, at its place in the core cycle; where it names none, one of those that may
come next, and a core cycle passes. -/
def State.oneStep (s : State) : Out :=
  match s.agenda with
  | t :: rest => let u := State.cued { s with agenda := rest } t; u.follow (u.turnStep t)
  | [] => let t := s.pickTurn; let u := s.cued t; u.follow (thenCycle t (u.turnStep t))

/-! ## The placement of one instruction -/

/-- Who executes an instruction: the words that only engines may execute are given to a Ladle, those of the Crucible set to a
Crucible. -/
inductive Place1 where
  | fibre
  | ladle
  | crucible
  | firmware
  deriving DecidableEq, Repr

def placeOf (nbits w : Nat) : Place1 :=
  match decodeTableWord nbits w with
  | some (.mspill _ _) | some (.mfill _ _) => .firmware
  | some (.mldw _ _ _) | some (.mmul _ _ _ _) | some (.mmulResume _ _ _ _) | some (.mdrain _ _) | some (.mzero _ _)
  | some .halt => .ladle
  | some _ => if (decodeWord (BitVec.ofNat 32 (w % 2 ^ nbits)) 0#32).isSome then .fibre else .crucible
  | none => .fibre

/-- The leaf that maps the code page: DRAM frame 0, readable, writable, and code may be fetched. -/
def codeLeaf : Leaf :=
  { level := 0, w := true, x := true, key := 0#6, tagged := false, opt := false, ws := false, cache := 0#2, frame := 0
    target := 0#2 }

/-- The header of the placed kernel: two code words. -/
def codeHdr : Header := { nwords := 2 }

/-- The task of the placed kernel. -/
def codeTask : Task :=
  { part := 0, queue := 0, slot := 0, gen := 0, code := 0#64, frame := 0#64, join := 0#32, nfib := 1#32, psize := 1
    prio := 0, tier := false, rpair := false, assay := false, rtag := 0#16, rid := 0#6, rvalid := false, heir := 0#32, svalid := false, status := 0#64
    ready := some 0, placed := 1, live := 1, hdr := some codeHdr }

/-- Place one instruction so that the next step runs it (log 1): partition 0 runs a context whose page 0 holds the code; one
fibre of one pour on core 0, its Ladle program, or an instance on channel 0, stands at the first code word. -/
def State.placeWord (s : State) (nbits w : Nat) : State :=
  let v := w % 2 ^ nbits
  let word := BitVec.ofNat 32 v
  let n := s.nextId
  let s := { s with
    nextId := n + 8
    beat := 0
    mem := s.mem.store (dramKey 64) (bytesOfWord word ++ bytesOfWord (BitVec.ofNat 32 (v / 2 ^ 32)))
    tasks := SMap.put s.tasks n codeTask }
  let s := s.modPart 0 fun p => { p with ctx := .running, active := false, tlb := (0, codeLeaf) :: p.tlb }
  let pour : Pour := { part := 0, core := 0, slot := 0, task := n, idx := 0, first := 0#32, hdr := codeHdr, code := 0#64, scratch := 0 }
  match placeOf nbits w with
  | .firmware => { s with agenda := .firmware 0 0 word :: s.agenda }
  | .fibre =>
    let f : Fibre := { pour := n + 1, num := 0#32, rank := 0, quad := 0, lane := 0, weave := some (n + 2), win := List.replicate 64 {} }
    let v : Weave := { pour := n + 1, core := 0, quad := 0, slot := some 0, member := 1#32, occ := 1#32 }
    let s := s.modCore 0 fun c => { c with turn := c.turn.set 0 (some (n + 2)) }
    { s with
      pours := SMap.put s.pours (n + 1) pour
      weaves := SMap.put s.weaves (n + 2) v
      fibres := SMap.put s.fibres (n + 3) f
      agenda := .run (.weave (n + 2)) :: s.agenda }
  | .ladle =>
    let e : Engine := { core := 0, kind := .ladle, pour := n + 1 }
    { s with
      pours := SMap.put s.pours (n + 1) pour
      engines := SMap.put s.engines (n + 4) e
      agenda := .run (.engine (n + 4)) :: s.agenda }
  | .crucible =>
    let c : Crucible := { chan := 0, part := 0, task := n, inst := 0, hdr := codeHdr, code := 0#64 }
    { s with
      crucibles := SMap.put (s.crucibles.filter fun e => e.2.chan != 0) (n + 5) c
      agenda := .run (.crucible (n + 5)) :: s.agenda }

end Sys2Proof.Machine
end

