-- ==== Sys2Proof/Laws/Decode.lean ====
section
/-!
SUPPORT. Laws/Decode.lean: fields of a word made of fields, and the literal of a well-formed instruction.
-/

namespace Sys2Proof.Laws

/-- A field of the upper part of a word. -/
theorem seg_hi {m n : Nat} (x : BitVec m) (y : BitVec n) (s k : Nat) (h : n ≤ s) :
    (x ++ y).extractLsb' s k = x.extractLsb' (s - n) k :=
  BitVec.extractLsb'_append_eq_of_le h

/-- A field of the lower part of a word. -/
theorem seg_lo {m n : Nat} (x : BitVec m) (y : BitVec n) (s k : Nat) (h : s + k ≤ n) :
    (x ++ y).extractLsb' s k = y.extractLsb' s k :=
  BitVec.extractLsb'_append_eq_of_add_le h

/-- A field that is the whole word. -/
theorem seg_all {n : Nat} (x : BitVec n) : x.extractLsb' 0 n = x := BitVec.extractLsb'_eq_self

/-- A field of a field. -/
theorem sub_field {n : Nat} (x : BitVec n) (s k t j : Nat) (h : t + j ≤ k) :
    (x.extractLsb' s k).extractLsb' t j = x.extractLsb' (s + t) j := by
  ext i hi
  simp [BitVec.getElem_extractLsb', Nat.add_assoc, show t + i < k by omega]

theorem litWf_of_wf {i : Instr} (h : i.wf = true) : (i.hasLiteral || i.literal == 0#32) = true :=
  (Bool.and_eq_true_iff.mp h).1

/-- A well-formed instruction's literal is the one that its source fields name. -/
theorem litOf_wf {b : Bool} {l : Word} (h : (b || l == 0#32) = true) : litOf b l = l := by
  cases b
  · exact (eq_of_beq (h : (l == 0#32) = true)).symm
  · rfl

/-- The bytes of a word are read back as the word. -/
theorem wordOfBytes_bytes (w : Word) :
    wordOfBytes (w.extractLsb' 0 8) (w.extractLsb' 8 8) (w.extractLsb' 16 8) (w.extractLsb' 24 8) = w := by
  unfold wordOfBytes
  ext i hi
  simp only [BitVec.getElem_append, BitVec.getElem_extractLsb']
  split
  · simp [BitVec.getLsbD_eq_getElem hi]
  · split
    · simp only [BitVec.getLsbD_eq_getElem hi, show 8 + (i - 8) = i by omega]
    · split
      · simp only [BitVec.getLsbD_eq_getElem hi, show 16 + (i - 8 - 8) = i by omega]
      · simp only [BitVec.getLsbD_eq_getElem hi, show 24 + (i - 8 - 8 - 8) = i by omega]

end Sys2Proof.Laws
end

