-- ==== Sys2Proof/Laws/Fields.lean ====
section
/-!
SUPPORT. Laws/Fields.lean: for each layout of an encoded word, that every field is read back from its place.
-/

namespace Sys2Proof.Laws

theorem fields_5_27 (x0 : BitVec 5) (x1 : BitVec 27) :
    (x0 ++ x1 : Word).extractLsb' 27 5 = x0 ∧
    (x0 ++ x1 : Word).extractLsb' 0 27 = x1 :=
  ⟨(@seg_hi 5 27 _ _ 27 5 (by decide)).trans <| (seg_all _),
   (@seg_lo 5 27 _ _ 0 27 (by decide)).trans <| (seg_all _)⟩

theorem fields_5_5_22 (x0 : BitVec 5) (x1 : BitVec 5) (x2 : BitVec 22) :
    (x0 ++ x1 ++ x2 : Word).extractLsb' 27 5 = x0 ∧
    (x0 ++ x1 ++ x2 : Word).extractLsb' 22 5 = x1 ∧
    (x0 ++ x1 ++ x2 : Word).extractLsb' 0 22 = x2 :=
  ⟨(@seg_hi 10 22 _ _ 27 5 (by decide)).trans <| (@seg_hi 5 5 _ _ 5 5 (by decide)).trans <| (seg_all _),
   (@seg_hi 10 22 _ _ 22 5 (by decide)).trans <| (@seg_lo 5 5 _ _ 0 5 (by decide)).trans <| (seg_all _),
   (@seg_lo 10 22 _ _ 0 22 (by decide)).trans <| (seg_all _)⟩

theorem fields_5_5_5_17 (x0 : BitVec 5) (x1 : BitVec 5) (x2 : BitVec 5) (x3 : BitVec 17) :
    (x0 ++ x1 ++ x2 ++ x3 : Word).extractLsb' 27 5 = x0 ∧
    (x0 ++ x1 ++ x2 ++ x3 : Word).extractLsb' 22 5 = x1 ∧
    (x0 ++ x1 ++ x2 ++ x3 : Word).extractLsb' 17 5 = x2 ∧
    (x0 ++ x1 ++ x2 ++ x3 : Word).extractLsb' 0 17 = x3 :=
  ⟨(@seg_hi 15 17 _ _ 27 5 (by decide)).trans <| (@seg_hi 10 5 _ _ 10 5 (by decide)).trans <| (@seg_hi 5 5 _ _ 5 5 (by decide)).trans <| (seg_all _),
   (@seg_hi 15 17 _ _ 22 5 (by decide)).trans <| (@seg_hi 10 5 _ _ 5 5 (by decide)).trans <| (@seg_lo 5 5 _ _ 0 5 (by decide)).trans <| (seg_all _),
   (@seg_hi 15 17 _ _ 17 5 (by decide)).trans <| (@seg_lo 10 5 _ _ 0 5 (by decide)).trans <| (seg_all _),
   (@seg_lo 15 17 _ _ 0 17 (by decide)).trans <| (seg_all _)⟩

theorem fields_5_5_5_1_16 (x0 : BitVec 5) (x1 : BitVec 5) (x2 : BitVec 5) (x3 : BitVec 1) (x4 : BitVec 16) :
    (x0 ++ x1 ++ x2 ++ x3 ++ x4 : Word).extractLsb' 27 5 = x0 ∧
    (x0 ++ x1 ++ x2 ++ x3 ++ x4 : Word).extractLsb' 22 5 = x1 ∧
    (x0 ++ x1 ++ x2 ++ x3 ++ x4 : Word).extractLsb' 17 5 = x2 ∧
    (x0 ++ x1 ++ x2 ++ x3 ++ x4 : Word).extractLsb' 16 1 = x3 ∧
    (x0 ++ x1 ++ x2 ++ x3 ++ x4 : Word).extractLsb' 0 16 = x4 :=
  ⟨(@seg_hi 16 16 _ _ 27 5 (by decide)).trans <| (@seg_hi 15 1 _ _ 11 5 (by decide)).trans <| (@seg_hi 10 5 _ _ 10 5 (by decide)).trans <| (@seg_hi 5 5 _ _ 5 5 (by decide)).trans <| (seg_all _),
   (@seg_hi 16 16 _ _ 22 5 (by decide)).trans <| (@seg_hi 15 1 _ _ 6 5 (by decide)).trans <| (@seg_hi 10 5 _ _ 5 5 (by decide)).trans <| (@seg_lo 5 5 _ _ 0 5 (by decide)).trans <| (seg_all _),
   (@seg_hi 16 16 _ _ 17 5 (by decide)).trans <| (@seg_hi 15 1 _ _ 1 5 (by decide)).trans <| (@seg_lo 10 5 _ _ 0 5 (by decide)).trans <| (seg_all _),
   (@seg_hi 16 16 _ _ 16 1 (by decide)).trans <| (@seg_lo 15 1 _ _ 0 1 (by decide)).trans <| (seg_all _),
   (@seg_lo 16 16 _ _ 0 16 (by decide)).trans <| (seg_all _)⟩

theorem fields_5_5_5_5_12 (x0 : BitVec 5) (x1 : BitVec 5) (x2 : BitVec 5) (x3 : BitVec 5) (x4 : BitVec 12) :
    (x0 ++ x1 ++ x2 ++ x3 ++ x4 : Word).extractLsb' 27 5 = x0 ∧
    (x0 ++ x1 ++ x2 ++ x3 ++ x4 : Word).extractLsb' 22 5 = x1 ∧
    (x0 ++ x1 ++ x2 ++ x3 ++ x4 : Word).extractLsb' 17 5 = x2 ∧
    (x0 ++ x1 ++ x2 ++ x3 ++ x4 : Word).extractLsb' 12 5 = x3 ∧
    (x0 ++ x1 ++ x2 ++ x3 ++ x4 : Word).extractLsb' 0 12 = x4 :=
  ⟨(@seg_hi 20 12 _ _ 27 5 (by decide)).trans <| (@seg_hi 15 5 _ _ 15 5 (by decide)).trans <| (@seg_hi 10 5 _ _ 10 5 (by decide)).trans <| (@seg_hi 5 5 _ _ 5 5 (by decide)).trans <| (seg_all _),
   (@seg_hi 20 12 _ _ 22 5 (by decide)).trans <| (@seg_hi 15 5 _ _ 10 5 (by decide)).trans <| (@seg_hi 10 5 _ _ 5 5 (by decide)).trans <| (@seg_lo 5 5 _ _ 0 5 (by decide)).trans <| (seg_all _),
   (@seg_hi 20 12 _ _ 17 5 (by decide)).trans <| (@seg_hi 15 5 _ _ 5 5 (by decide)).trans <| (@seg_lo 10 5 _ _ 0 5 (by decide)).trans <| (seg_all _),
   (@seg_hi 20 12 _ _ 12 5 (by decide)).trans <| (@seg_lo 15 5 _ _ 0 5 (by decide)).trans <| (seg_all _),
   (@seg_lo 20 12 _ _ 0 12 (by decide)).trans <| (seg_all _)⟩

theorem fields_5_5_5_5_1_3_8 (x0 : BitVec 5) (x1 : BitVec 5) (x2 : BitVec 5) (x3 : BitVec 5) (x4 : BitVec 1) (x5 : BitVec 3) (x6 : BitVec 8) :
    (x0 ++ x1 ++ x2 ++ x3 ++ x4 ++ x5 ++ x6 : Word).extractLsb' 27 5 = x0 ∧
    (x0 ++ x1 ++ x2 ++ x3 ++ x4 ++ x5 ++ x6 : Word).extractLsb' 22 5 = x1 ∧
    (x0 ++ x1 ++ x2 ++ x3 ++ x4 ++ x5 ++ x6 : Word).extractLsb' 17 5 = x2 ∧
    (x0 ++ x1 ++ x2 ++ x3 ++ x4 ++ x5 ++ x6 : Word).extractLsb' 12 5 = x3 ∧
    (x0 ++ x1 ++ x2 ++ x3 ++ x4 ++ x5 ++ x6 : Word).extractLsb' 11 1 = x4 ∧
    (x0 ++ x1 ++ x2 ++ x3 ++ x4 ++ x5 ++ x6 : Word).extractLsb' 8 3 = x5 ∧
    (x0 ++ x1 ++ x2 ++ x3 ++ x4 ++ x5 ++ x6 : Word).extractLsb' 0 8 = x6 :=
  ⟨(@seg_hi 24 8 _ _ 27 5 (by decide)).trans <| (@seg_hi 21 3 _ _ 19 5 (by decide)).trans <| (@seg_hi 20 1 _ _ 16 5 (by decide)).trans <| (@seg_hi 15 5 _ _ 15 5 (by decide)).trans <| (@seg_hi 10 5 _ _ 10 5 (by decide)).trans <| (@seg_hi 5 5 _ _ 5 5 (by decide)).trans <| (seg_all _),
   (@seg_hi 24 8 _ _ 22 5 (by decide)).trans <| (@seg_hi 21 3 _ _ 14 5 (by decide)).trans <| (@seg_hi 20 1 _ _ 11 5 (by decide)).trans <| (@seg_hi 15 5 _ _ 10 5 (by decide)).trans <| (@seg_hi 10 5 _ _ 5 5 (by decide)).trans <| (@seg_lo 5 5 _ _ 0 5 (by decide)).trans <| (seg_all _),
   (@seg_hi 24 8 _ _ 17 5 (by decide)).trans <| (@seg_hi 21 3 _ _ 9 5 (by decide)).trans <| (@seg_hi 20 1 _ _ 6 5 (by decide)).trans <| (@seg_hi 15 5 _ _ 5 5 (by decide)).trans <| (@seg_lo 10 5 _ _ 0 5 (by decide)).trans <| (seg_all _),
   (@seg_hi 24 8 _ _ 12 5 (by decide)).trans <| (@seg_hi 21 3 _ _ 4 5 (by decide)).trans <| (@seg_hi 20 1 _ _ 1 5 (by decide)).trans <| (@seg_lo 15 5 _ _ 0 5 (by decide)).trans <| (seg_all _),
   (@seg_hi 24 8 _ _ 11 1 (by decide)).trans <| (@seg_hi 21 3 _ _ 3 1 (by decide)).trans <| (@seg_lo 20 1 _ _ 0 1 (by decide)).trans <| (seg_all _),
   (@seg_hi 24 8 _ _ 8 3 (by decide)).trans <| (@seg_lo 21 3 _ _ 0 3 (by decide)).trans <| (seg_all _),
   (@seg_lo 24 8 _ _ 0 8 (by decide)).trans <| (seg_all _)⟩

theorem fields_5_5_5_5_3_1_8 (x0 : BitVec 5) (x1 : BitVec 5) (x2 : BitVec 5) (x3 : BitVec 5) (x4 : BitVec 3) (x5 : BitVec 1) (x6 : BitVec 8) :
    (x0 ++ x1 ++ x2 ++ x3 ++ x4 ++ x5 ++ x6 : Word).extractLsb' 27 5 = x0 ∧
    (x0 ++ x1 ++ x2 ++ x3 ++ x4 ++ x5 ++ x6 : Word).extractLsb' 22 5 = x1 ∧
    (x0 ++ x1 ++ x2 ++ x3 ++ x4 ++ x5 ++ x6 : Word).extractLsb' 17 5 = x2 ∧
    (x0 ++ x1 ++ x2 ++ x3 ++ x4 ++ x5 ++ x6 : Word).extractLsb' 12 5 = x3 ∧
    (x0 ++ x1 ++ x2 ++ x3 ++ x4 ++ x5 ++ x6 : Word).extractLsb' 9 3 = x4 ∧
    (x0 ++ x1 ++ x2 ++ x3 ++ x4 ++ x5 ++ x6 : Word).extractLsb' 8 1 = x5 ∧
    (x0 ++ x1 ++ x2 ++ x3 ++ x4 ++ x5 ++ x6 : Word).extractLsb' 0 8 = x6 :=
  ⟨(@seg_hi 24 8 _ _ 27 5 (by decide)).trans <| (@seg_hi 23 1 _ _ 19 5 (by decide)).trans <| (@seg_hi 20 3 _ _ 18 5 (by decide)).trans <| (@seg_hi 15 5 _ _ 15 5 (by decide)).trans <| (@seg_hi 10 5 _ _ 10 5 (by decide)).trans <| (@seg_hi 5 5 _ _ 5 5 (by decide)).trans <| (seg_all _),
   (@seg_hi 24 8 _ _ 22 5 (by decide)).trans <| (@seg_hi 23 1 _ _ 14 5 (by decide)).trans <| (@seg_hi 20 3 _ _ 13 5 (by decide)).trans <| (@seg_hi 15 5 _ _ 10 5 (by decide)).trans <| (@seg_hi 10 5 _ _ 5 5 (by decide)).trans <| (@seg_lo 5 5 _ _ 0 5 (by decide)).trans <| (seg_all _),
   (@seg_hi 24 8 _ _ 17 5 (by decide)).trans <| (@seg_hi 23 1 _ _ 9 5 (by decide)).trans <| (@seg_hi 20 3 _ _ 8 5 (by decide)).trans <| (@seg_hi 15 5 _ _ 5 5 (by decide)).trans <| (@seg_lo 10 5 _ _ 0 5 (by decide)).trans <| (seg_all _),
   (@seg_hi 24 8 _ _ 12 5 (by decide)).trans <| (@seg_hi 23 1 _ _ 4 5 (by decide)).trans <| (@seg_hi 20 3 _ _ 3 5 (by decide)).trans <| (@seg_lo 15 5 _ _ 0 5 (by decide)).trans <| (seg_all _),
   (@seg_hi 24 8 _ _ 9 3 (by decide)).trans <| (@seg_hi 23 1 _ _ 1 3 (by decide)).trans <| (@seg_lo 20 3 _ _ 0 3 (by decide)).trans <| (seg_all _),
   (@seg_hi 24 8 _ _ 8 1 (by decide)).trans <| (@seg_lo 23 1 _ _ 0 1 (by decide)).trans <| (seg_all _),
   (@seg_lo 24 8 _ _ 0 8 (by decide)).trans <| (seg_all _)⟩

theorem fields_7_17_8 (x0 : BitVec 7) (x1 : BitVec 17) (x2 : BitVec 8) :
    (x0 ++ x1 ++ x2 : Word).extractLsb' 25 7 = x0 ∧
    (x0 ++ x1 ++ x2 : Word).extractLsb' 8 17 = x1 ∧
    (x0 ++ x1 ++ x2 : Word).extractLsb' 0 8 = x2 :=
  ⟨(@seg_hi 24 8 _ _ 25 7 (by decide)).trans <| (@seg_hi 7 17 _ _ 17 7 (by decide)).trans <| (seg_all _),
   (@seg_hi 24 8 _ _ 8 17 (by decide)).trans <| (@seg_lo 7 17 _ _ 0 17 (by decide)).trans <| (seg_all _),
   (@seg_lo 24 8 _ _ 0 8 (by decide)).trans <| (seg_all _)⟩

theorem fields_7_1_4_4_8_8 (x0 : BitVec 7) (x1 : BitVec 1) (x2 : BitVec 4) (x3 : BitVec 4) (x4 : BitVec 8) (x5 : BitVec 8) :
    (x0 ++ x1 ++ x2 ++ x3 ++ x4 ++ x5 : Word).extractLsb' 25 7 = x0 ∧
    (x0 ++ x1 ++ x2 ++ x3 ++ x4 ++ x5 : Word).extractLsb' 24 1 = x1 ∧
    (x0 ++ x1 ++ x2 ++ x3 ++ x4 ++ x5 : Word).extractLsb' 20 4 = x2 ∧
    (x0 ++ x1 ++ x2 ++ x3 ++ x4 ++ x5 : Word).extractLsb' 16 4 = x3 ∧
    (x0 ++ x1 ++ x2 ++ x3 ++ x4 ++ x5 : Word).extractLsb' 8 8 = x4 ∧
    (x0 ++ x1 ++ x2 ++ x3 ++ x4 ++ x5 : Word).extractLsb' 0 8 = x5 :=
  ⟨(@seg_hi 24 8 _ _ 25 7 (by decide)).trans <| (@seg_hi 16 8 _ _ 17 7 (by decide)).trans <| (@seg_hi 12 4 _ _ 9 7 (by decide)).trans <| (@seg_hi 8 4 _ _ 5 7 (by decide)).trans <| (@seg_hi 7 1 _ _ 1 7 (by decide)).trans <| (seg_all _),
   (@seg_hi 24 8 _ _ 24 1 (by decide)).trans <| (@seg_hi 16 8 _ _ 16 1 (by decide)).trans <| (@seg_hi 12 4 _ _ 8 1 (by decide)).trans <| (@seg_hi 8 4 _ _ 4 1 (by decide)).trans <| (@seg_lo 7 1 _ _ 0 1 (by decide)).trans <| (seg_all _),
   (@seg_hi 24 8 _ _ 20 4 (by decide)).trans <| (@seg_hi 16 8 _ _ 12 4 (by decide)).trans <| (@seg_hi 12 4 _ _ 4 4 (by decide)).trans <| (@seg_lo 8 4 _ _ 0 4 (by decide)).trans <| (seg_all _),
   (@seg_hi 24 8 _ _ 16 4 (by decide)).trans <| (@seg_hi 16 8 _ _ 8 4 (by decide)).trans <| (@seg_lo 12 4 _ _ 0 4 (by decide)).trans <| (seg_all _),
   (@seg_hi 24 8 _ _ 8 8 (by decide)).trans <| (@seg_lo 16 8 _ _ 0 8 (by decide)).trans <| (seg_all _),
   (@seg_lo 24 8 _ _ 0 8 (by decide)).trans <| (seg_all _)⟩

theorem fields_7_1_8_13_3 (x0 : BitVec 7) (x1 : BitVec 1) (x2 : BitVec 8) (x3 : BitVec 13) (x4 : BitVec 3) :
    (x0 ++ x1 ++ x2 ++ x3 ++ x4 : Word).extractLsb' 25 7 = x0 ∧
    (x0 ++ x1 ++ x2 ++ x3 ++ x4 : Word).extractLsb' 24 1 = x1 ∧
    (x0 ++ x1 ++ x2 ++ x3 ++ x4 : Word).extractLsb' 16 8 = x2 ∧
    (x0 ++ x1 ++ x2 ++ x3 ++ x4 : Word).extractLsb' 3 13 = x3 ∧
    (x0 ++ x1 ++ x2 ++ x3 ++ x4 : Word).extractLsb' 0 3 = x4 :=
  ⟨(@seg_hi 29 3 _ _ 25 7 (by decide)).trans <| (@seg_hi 16 13 _ _ 22 7 (by decide)).trans <| (@seg_hi 8 8 _ _ 9 7 (by decide)).trans <| (@seg_hi 7 1 _ _ 1 7 (by decide)).trans <| (seg_all _),
   (@seg_hi 29 3 _ _ 24 1 (by decide)).trans <| (@seg_hi 16 13 _ _ 21 1 (by decide)).trans <| (@seg_hi 8 8 _ _ 8 1 (by decide)).trans <| (@seg_lo 7 1 _ _ 0 1 (by decide)).trans <| (seg_all _),
   (@seg_hi 29 3 _ _ 16 8 (by decide)).trans <| (@seg_hi 16 13 _ _ 13 8 (by decide)).trans <| (@seg_lo 8 8 _ _ 0 8 (by decide)).trans <| (seg_all _),
   (@seg_hi 29 3 _ _ 3 13 (by decide)).trans <| (@seg_lo 16 13 _ _ 0 13 (by decide)).trans <| (seg_all _),
   (@seg_lo 29 3 _ _ 0 3 (by decide)).trans <| (seg_all _)⟩

theorem fields_7_1_8_16 (x0 : BitVec 7) (x1 : BitVec 1) (x2 : BitVec 8) (x3 : BitVec 16) :
    (x0 ++ x1 ++ x2 ++ x3 : Word).extractLsb' 25 7 = x0 ∧
    (x0 ++ x1 ++ x2 ++ x3 : Word).extractLsb' 24 1 = x1 ∧
    (x0 ++ x1 ++ x2 ++ x3 : Word).extractLsb' 16 8 = x2 ∧
    (x0 ++ x1 ++ x2 ++ x3 : Word).extractLsb' 0 16 = x3 :=
  ⟨(@seg_hi 16 16 _ _ 25 7 (by decide)).trans <| (@seg_hi 8 8 _ _ 9 7 (by decide)).trans <| (@seg_hi 7 1 _ _ 1 7 (by decide)).trans <| (seg_all _),
   (@seg_hi 16 16 _ _ 24 1 (by decide)).trans <| (@seg_hi 8 8 _ _ 8 1 (by decide)).trans <| (@seg_lo 7 1 _ _ 0 1 (by decide)).trans <| (seg_all _),
   (@seg_hi 16 16 _ _ 16 8 (by decide)).trans <| (@seg_lo 8 8 _ _ 0 8 (by decide)).trans <| (seg_all _),
   (@seg_lo 16 16 _ _ 0 16 (by decide)).trans <| (seg_all _)⟩

theorem fields_7_1_8_4_4_8 (x0 : BitVec 7) (x1 : BitVec 1) (x2 : BitVec 8) (x3 : BitVec 4) (x4 : BitVec 4) (x5 : BitVec 8) :
    (x0 ++ x1 ++ x2 ++ x3 ++ x4 ++ x5 : Word).extractLsb' 25 7 = x0 ∧
    (x0 ++ x1 ++ x2 ++ x3 ++ x4 ++ x5 : Word).extractLsb' 24 1 = x1 ∧
    (x0 ++ x1 ++ x2 ++ x3 ++ x4 ++ x5 : Word).extractLsb' 16 8 = x2 ∧
    (x0 ++ x1 ++ x2 ++ x3 ++ x4 ++ x5 : Word).extractLsb' 12 4 = x3 ∧
    (x0 ++ x1 ++ x2 ++ x3 ++ x4 ++ x5 : Word).extractLsb' 8 4 = x4 ∧
    (x0 ++ x1 ++ x2 ++ x3 ++ x4 ++ x5 : Word).extractLsb' 0 8 = x5 :=
  ⟨(@seg_hi 24 8 _ _ 25 7 (by decide)).trans <| (@seg_hi 20 4 _ _ 17 7 (by decide)).trans <| (@seg_hi 16 4 _ _ 13 7 (by decide)).trans <| (@seg_hi 8 8 _ _ 9 7 (by decide)).trans <| (@seg_hi 7 1 _ _ 1 7 (by decide)).trans <| (seg_all _),
   (@seg_hi 24 8 _ _ 24 1 (by decide)).trans <| (@seg_hi 20 4 _ _ 16 1 (by decide)).trans <| (@seg_hi 16 4 _ _ 12 1 (by decide)).trans <| (@seg_hi 8 8 _ _ 8 1 (by decide)).trans <| (@seg_lo 7 1 _ _ 0 1 (by decide)).trans <| (seg_all _),
   (@seg_hi 24 8 _ _ 16 8 (by decide)).trans <| (@seg_hi 20 4 _ _ 8 8 (by decide)).trans <| (@seg_hi 16 4 _ _ 4 8 (by decide)).trans <| (@seg_lo 8 8 _ _ 0 8 (by decide)).trans <| (seg_all _),
   (@seg_hi 24 8 _ _ 12 4 (by decide)).trans <| (@seg_hi 20 4 _ _ 4 4 (by decide)).trans <| (@seg_lo 16 4 _ _ 0 4 (by decide)).trans <| (seg_all _),
   (@seg_hi 24 8 _ _ 8 4 (by decide)).trans <| (@seg_lo 20 4 _ _ 0 4 (by decide)).trans <| (seg_all _),
   (@seg_lo 24 8 _ _ 0 8 (by decide)).trans <| (seg_all _)⟩

theorem fields_7_1_8_5_3_8 (x0 : BitVec 7) (x1 : BitVec 1) (x2 : BitVec 8) (x3 : BitVec 5) (x4 : BitVec 3) (x5 : BitVec 8) :
    (x0 ++ x1 ++ x2 ++ x3 ++ x4 ++ x5 : Word).extractLsb' 25 7 = x0 ∧
    (x0 ++ x1 ++ x2 ++ x3 ++ x4 ++ x5 : Word).extractLsb' 24 1 = x1 ∧
    (x0 ++ x1 ++ x2 ++ x3 ++ x4 ++ x5 : Word).extractLsb' 16 8 = x2 ∧
    (x0 ++ x1 ++ x2 ++ x3 ++ x4 ++ x5 : Word).extractLsb' 11 5 = x3 ∧
    (x0 ++ x1 ++ x2 ++ x3 ++ x4 ++ x5 : Word).extractLsb' 8 3 = x4 ∧
    (x0 ++ x1 ++ x2 ++ x3 ++ x4 ++ x5 : Word).extractLsb' 0 8 = x5 :=
  ⟨(@seg_hi 24 8 _ _ 25 7 (by decide)).trans <| (@seg_hi 21 3 _ _ 17 7 (by decide)).trans <| (@seg_hi 16 5 _ _ 14 7 (by decide)).trans <| (@seg_hi 8 8 _ _ 9 7 (by decide)).trans <| (@seg_hi 7 1 _ _ 1 7 (by decide)).trans <| (seg_all _),
   (@seg_hi 24 8 _ _ 24 1 (by decide)).trans <| (@seg_hi 21 3 _ _ 16 1 (by decide)).trans <| (@seg_hi 16 5 _ _ 13 1 (by decide)).trans <| (@seg_hi 8 8 _ _ 8 1 (by decide)).trans <| (@seg_lo 7 1 _ _ 0 1 (by decide)).trans <| (seg_all _),
   (@seg_hi 24 8 _ _ 16 8 (by decide)).trans <| (@seg_hi 21 3 _ _ 8 8 (by decide)).trans <| (@seg_hi 16 5 _ _ 5 8 (by decide)).trans <| (@seg_lo 8 8 _ _ 0 8 (by decide)).trans <| (seg_all _),
   (@seg_hi 24 8 _ _ 11 5 (by decide)).trans <| (@seg_hi 21 3 _ _ 3 5 (by decide)).trans <| (@seg_lo 16 5 _ _ 0 5 (by decide)).trans <| (seg_all _),
   (@seg_hi 24 8 _ _ 8 3 (by decide)).trans <| (@seg_lo 21 3 _ _ 0 3 (by decide)).trans <| (seg_all _),
   (@seg_lo 24 8 _ _ 0 8 (by decide)).trans <| (seg_all _)⟩

theorem fields_7_1_8_8_3_1_4 (x0 : BitVec 7) (x1 : BitVec 1) (x2 : BitVec 8) (x3 : BitVec 8) (x4 : BitVec 3) (x5 : BitVec 1) (x6 : BitVec 4) :
    (x0 ++ x1 ++ x2 ++ x3 ++ x4 ++ x5 ++ x6 : Word).extractLsb' 25 7 = x0 ∧
    (x0 ++ x1 ++ x2 ++ x3 ++ x4 ++ x5 ++ x6 : Word).extractLsb' 24 1 = x1 ∧
    (x0 ++ x1 ++ x2 ++ x3 ++ x4 ++ x5 ++ x6 : Word).extractLsb' 16 8 = x2 ∧
    (x0 ++ x1 ++ x2 ++ x3 ++ x4 ++ x5 ++ x6 : Word).extractLsb' 8 8 = x3 ∧
    (x0 ++ x1 ++ x2 ++ x3 ++ x4 ++ x5 ++ x6 : Word).extractLsb' 5 3 = x4 ∧
    (x0 ++ x1 ++ x2 ++ x3 ++ x4 ++ x5 ++ x6 : Word).extractLsb' 4 1 = x5 ∧
    (x0 ++ x1 ++ x2 ++ x3 ++ x4 ++ x5 ++ x6 : Word).extractLsb' 0 4 = x6 :=
  ⟨(@seg_hi 28 4 _ _ 25 7 (by decide)).trans <| (@seg_hi 27 1 _ _ 21 7 (by decide)).trans <| (@seg_hi 24 3 _ _ 20 7 (by decide)).trans <| (@seg_hi 16 8 _ _ 17 7 (by decide)).trans <| (@seg_hi 8 8 _ _ 9 7 (by decide)).trans <| (@seg_hi 7 1 _ _ 1 7 (by decide)).trans <| (seg_all _),
   (@seg_hi 28 4 _ _ 24 1 (by decide)).trans <| (@seg_hi 27 1 _ _ 20 1 (by decide)).trans <| (@seg_hi 24 3 _ _ 19 1 (by decide)).trans <| (@seg_hi 16 8 _ _ 16 1 (by decide)).trans <| (@seg_hi 8 8 _ _ 8 1 (by decide)).trans <| (@seg_lo 7 1 _ _ 0 1 (by decide)).trans <| (seg_all _),
   (@seg_hi 28 4 _ _ 16 8 (by decide)).trans <| (@seg_hi 27 1 _ _ 12 8 (by decide)).trans <| (@seg_hi 24 3 _ _ 11 8 (by decide)).trans <| (@seg_hi 16 8 _ _ 8 8 (by decide)).trans <| (@seg_lo 8 8 _ _ 0 8 (by decide)).trans <| (seg_all _),
   (@seg_hi 28 4 _ _ 8 8 (by decide)).trans <| (@seg_hi 27 1 _ _ 4 8 (by decide)).trans <| (@seg_hi 24 3 _ _ 3 8 (by decide)).trans <| (@seg_lo 16 8 _ _ 0 8 (by decide)).trans <| (seg_all _),
   (@seg_hi 28 4 _ _ 5 3 (by decide)).trans <| (@seg_hi 27 1 _ _ 1 3 (by decide)).trans <| (@seg_lo 24 3 _ _ 0 3 (by decide)).trans <| (seg_all _),
   (@seg_hi 28 4 _ _ 4 1 (by decide)).trans <| (@seg_lo 27 1 _ _ 0 1 (by decide)).trans <| (seg_all _),
   (@seg_lo 28 4 _ _ 0 4 (by decide)).trans <| (seg_all _)⟩

theorem fields_7_1_8_8_3_5 (x0 : BitVec 7) (x1 : BitVec 1) (x2 : BitVec 8) (x3 : BitVec 8) (x4 : BitVec 3) (x5 : BitVec 5) :
    (x0 ++ x1 ++ x2 ++ x3 ++ x4 ++ x5 : Word).extractLsb' 25 7 = x0 ∧
    (x0 ++ x1 ++ x2 ++ x3 ++ x4 ++ x5 : Word).extractLsb' 24 1 = x1 ∧
    (x0 ++ x1 ++ x2 ++ x3 ++ x4 ++ x5 : Word).extractLsb' 16 8 = x2 ∧
    (x0 ++ x1 ++ x2 ++ x3 ++ x4 ++ x5 : Word).extractLsb' 8 8 = x3 ∧
    (x0 ++ x1 ++ x2 ++ x3 ++ x4 ++ x5 : Word).extractLsb' 5 3 = x4 ∧
    (x0 ++ x1 ++ x2 ++ x3 ++ x4 ++ x5 : Word).extractLsb' 0 5 = x5 :=
  ⟨(@seg_hi 27 5 _ _ 25 7 (by decide)).trans <| (@seg_hi 24 3 _ _ 20 7 (by decide)).trans <| (@seg_hi 16 8 _ _ 17 7 (by decide)).trans <| (@seg_hi 8 8 _ _ 9 7 (by decide)).trans <| (@seg_hi 7 1 _ _ 1 7 (by decide)).trans <| (seg_all _),
   (@seg_hi 27 5 _ _ 24 1 (by decide)).trans <| (@seg_hi 24 3 _ _ 19 1 (by decide)).trans <| (@seg_hi 16 8 _ _ 16 1 (by decide)).trans <| (@seg_hi 8 8 _ _ 8 1 (by decide)).trans <| (@seg_lo 7 1 _ _ 0 1 (by decide)).trans <| (seg_all _),
   (@seg_hi 27 5 _ _ 16 8 (by decide)).trans <| (@seg_hi 24 3 _ _ 11 8 (by decide)).trans <| (@seg_hi 16 8 _ _ 8 8 (by decide)).trans <| (@seg_lo 8 8 _ _ 0 8 (by decide)).trans <| (seg_all _),
   (@seg_hi 27 5 _ _ 8 8 (by decide)).trans <| (@seg_hi 24 3 _ _ 3 8 (by decide)).trans <| (@seg_lo 16 8 _ _ 0 8 (by decide)).trans <| (seg_all _),
   (@seg_hi 27 5 _ _ 5 3 (by decide)).trans <| (@seg_lo 24 3 _ _ 0 3 (by decide)).trans <| (seg_all _),
   (@seg_lo 27 5 _ _ 0 5 (by decide)).trans <| (seg_all _)⟩

theorem fields_7_1_8_8_4_4 (x0 : BitVec 7) (x1 : BitVec 1) (x2 : BitVec 8) (x3 : BitVec 8) (x4 : BitVec 4) (x5 : BitVec 4) :
    (x0 ++ x1 ++ x2 ++ x3 ++ x4 ++ x5 : Word).extractLsb' 25 7 = x0 ∧
    (x0 ++ x1 ++ x2 ++ x3 ++ x4 ++ x5 : Word).extractLsb' 24 1 = x1 ∧
    (x0 ++ x1 ++ x2 ++ x3 ++ x4 ++ x5 : Word).extractLsb' 16 8 = x2 ∧
    (x0 ++ x1 ++ x2 ++ x3 ++ x4 ++ x5 : Word).extractLsb' 8 8 = x3 ∧
    (x0 ++ x1 ++ x2 ++ x3 ++ x4 ++ x5 : Word).extractLsb' 4 4 = x4 ∧
    (x0 ++ x1 ++ x2 ++ x3 ++ x4 ++ x5 : Word).extractLsb' 0 4 = x5 :=
  ⟨(@seg_hi 28 4 _ _ 25 7 (by decide)).trans <| (@seg_hi 24 4 _ _ 21 7 (by decide)).trans <| (@seg_hi 16 8 _ _ 17 7 (by decide)).trans <| (@seg_hi 8 8 _ _ 9 7 (by decide)).trans <| (@seg_hi 7 1 _ _ 1 7 (by decide)).trans <| (seg_all _),
   (@seg_hi 28 4 _ _ 24 1 (by decide)).trans <| (@seg_hi 24 4 _ _ 20 1 (by decide)).trans <| (@seg_hi 16 8 _ _ 16 1 (by decide)).trans <| (@seg_hi 8 8 _ _ 8 1 (by decide)).trans <| (@seg_lo 7 1 _ _ 0 1 (by decide)).trans <| (seg_all _),
   (@seg_hi 28 4 _ _ 16 8 (by decide)).trans <| (@seg_hi 24 4 _ _ 12 8 (by decide)).trans <| (@seg_hi 16 8 _ _ 8 8 (by decide)).trans <| (@seg_lo 8 8 _ _ 0 8 (by decide)).trans <| (seg_all _),
   (@seg_hi 28 4 _ _ 8 8 (by decide)).trans <| (@seg_hi 24 4 _ _ 4 8 (by decide)).trans <| (@seg_lo 16 8 _ _ 0 8 (by decide)).trans <| (seg_all _),
   (@seg_hi 28 4 _ _ 4 4 (by decide)).trans <| (@seg_lo 24 4 _ _ 0 4 (by decide)).trans <| (seg_all _),
   (@seg_lo 28 4 _ _ 0 4 (by decide)).trans <| (seg_all _)⟩

theorem fields_7_1_8_8_8 (x0 : BitVec 7) (x1 : BitVec 1) (x2 : BitVec 8) (x3 : BitVec 8) (x4 : BitVec 8) :
    (x0 ++ x1 ++ x2 ++ x3 ++ x4 : Word).extractLsb' 25 7 = x0 ∧
    (x0 ++ x1 ++ x2 ++ x3 ++ x4 : Word).extractLsb' 24 1 = x1 ∧
    (x0 ++ x1 ++ x2 ++ x3 ++ x4 : Word).extractLsb' 16 8 = x2 ∧
    (x0 ++ x1 ++ x2 ++ x3 ++ x4 : Word).extractLsb' 8 8 = x3 ∧
    (x0 ++ x1 ++ x2 ++ x3 ++ x4 : Word).extractLsb' 0 8 = x4 :=
  ⟨(@seg_hi 24 8 _ _ 25 7 (by decide)).trans <| (@seg_hi 16 8 _ _ 17 7 (by decide)).trans <| (@seg_hi 8 8 _ _ 9 7 (by decide)).trans <| (@seg_hi 7 1 _ _ 1 7 (by decide)).trans <| (seg_all _),
   (@seg_hi 24 8 _ _ 24 1 (by decide)).trans <| (@seg_hi 16 8 _ _ 16 1 (by decide)).trans <| (@seg_hi 8 8 _ _ 8 1 (by decide)).trans <| (@seg_lo 7 1 _ _ 0 1 (by decide)).trans <| (seg_all _),
   (@seg_hi 24 8 _ _ 16 8 (by decide)).trans <| (@seg_hi 16 8 _ _ 8 8 (by decide)).trans <| (@seg_lo 8 8 _ _ 0 8 (by decide)).trans <| (seg_all _),
   (@seg_hi 24 8 _ _ 8 8 (by decide)).trans <| (@seg_lo 16 8 _ _ 0 8 (by decide)).trans <| (seg_all _),
   (@seg_lo 24 8 _ _ 0 8 (by decide)).trans <| (seg_all _)⟩

theorem fields_7_25 (x0 : BitVec 7) (x1 : BitVec 25) :
    (x0 ++ x1 : Word).extractLsb' 25 7 = x0 ∧
    (x0 ++ x1 : Word).extractLsb' 0 25 = x1 :=
  ⟨(@seg_hi 7 25 _ _ 25 7 (by decide)).trans <| (seg_all _),
   (@seg_lo 7 25 _ _ 0 25 (by decide)).trans <| (seg_all _)⟩

theorem fields_7_4_1_20 (x0 : BitVec 7) (x1 : BitVec 4) (x2 : BitVec 1) (x3 : BitVec 20) :
    (x0 ++ x1 ++ x2 ++ x3 : Word).extractLsb' 25 7 = x0 ∧
    (x0 ++ x1 ++ x2 ++ x3 : Word).extractLsb' 21 4 = x1 ∧
    (x0 ++ x1 ++ x2 ++ x3 : Word).extractLsb' 20 1 = x2 ∧
    (x0 ++ x1 ++ x2 ++ x3 : Word).extractLsb' 0 20 = x3 :=
  ⟨(@seg_hi 12 20 _ _ 25 7 (by decide)).trans <| (@seg_hi 11 1 _ _ 5 7 (by decide)).trans <| (@seg_hi 7 4 _ _ 4 7 (by decide)).trans <| (seg_all _),
   (@seg_hi 12 20 _ _ 21 4 (by decide)).trans <| (@seg_hi 11 1 _ _ 1 4 (by decide)).trans <| (@seg_lo 7 4 _ _ 0 4 (by decide)).trans <| (seg_all _),
   (@seg_hi 12 20 _ _ 20 1 (by decide)).trans <| (@seg_lo 11 1 _ _ 0 1 (by decide)).trans <| (seg_all _),
   (@seg_lo 12 20 _ _ 0 20 (by decide)).trans <| (seg_all _)⟩

theorem fields_7_4_1_4_8_8 (x0 : BitVec 7) (x1 : BitVec 4) (x2 : BitVec 1) (x3 : BitVec 4) (x4 : BitVec 8) (x5 : BitVec 8) :
    (x0 ++ x1 ++ x2 ++ x3 ++ x4 ++ x5 : Word).extractLsb' 25 7 = x0 ∧
    (x0 ++ x1 ++ x2 ++ x3 ++ x4 ++ x5 : Word).extractLsb' 21 4 = x1 ∧
    (x0 ++ x1 ++ x2 ++ x3 ++ x4 ++ x5 : Word).extractLsb' 20 1 = x2 ∧
    (x0 ++ x1 ++ x2 ++ x3 ++ x4 ++ x5 : Word).extractLsb' 16 4 = x3 ∧
    (x0 ++ x1 ++ x2 ++ x3 ++ x4 ++ x5 : Word).extractLsb' 8 8 = x4 ∧
    (x0 ++ x1 ++ x2 ++ x3 ++ x4 ++ x5 : Word).extractLsb' 0 8 = x5 :=
  ⟨(@seg_hi 24 8 _ _ 25 7 (by decide)).trans <| (@seg_hi 16 8 _ _ 17 7 (by decide)).trans <| (@seg_hi 12 4 _ _ 9 7 (by decide)).trans <| (@seg_hi 11 1 _ _ 5 7 (by decide)).trans <| (@seg_hi 7 4 _ _ 4 7 (by decide)).trans <| (seg_all _),
   (@seg_hi 24 8 _ _ 21 4 (by decide)).trans <| (@seg_hi 16 8 _ _ 13 4 (by decide)).trans <| (@seg_hi 12 4 _ _ 5 4 (by decide)).trans <| (@seg_hi 11 1 _ _ 1 4 (by decide)).trans <| (@seg_lo 7 4 _ _ 0 4 (by decide)).trans <| (seg_all _),
   (@seg_hi 24 8 _ _ 20 1 (by decide)).trans <| (@seg_hi 16 8 _ _ 12 1 (by decide)).trans <| (@seg_hi 12 4 _ _ 4 1 (by decide)).trans <| (@seg_lo 11 1 _ _ 0 1 (by decide)).trans <| (seg_all _),
   (@seg_hi 24 8 _ _ 16 4 (by decide)).trans <| (@seg_hi 16 8 _ _ 8 4 (by decide)).trans <| (@seg_lo 12 4 _ _ 0 4 (by decide)).trans <| (seg_all _),
   (@seg_hi 24 8 _ _ 8 8 (by decide)).trans <| (@seg_lo 16 8 _ _ 0 8 (by decide)).trans <| (seg_all _),
   (@seg_lo 24 8 _ _ 0 8 (by decide)).trans <| (seg_all _)⟩

theorem fields_7_5_4_4_4_4_4 (x0 : BitVec 7) (x1 : BitVec 5) (x2 : BitVec 4) (x3 : BitVec 4) (x4 : BitVec 4) (x5 : BitVec 4) (x6 : BitVec 4) :
    (x0 ++ x1 ++ x2 ++ x3 ++ x4 ++ x5 ++ x6 : Word).extractLsb' 25 7 = x0 ∧
    (x0 ++ x1 ++ x2 ++ x3 ++ x4 ++ x5 ++ x6 : Word).extractLsb' 20 5 = x1 ∧
    (x0 ++ x1 ++ x2 ++ x3 ++ x4 ++ x5 ++ x6 : Word).extractLsb' 16 4 = x2 ∧
    (x0 ++ x1 ++ x2 ++ x3 ++ x4 ++ x5 ++ x6 : Word).extractLsb' 12 4 = x3 ∧
    (x0 ++ x1 ++ x2 ++ x3 ++ x4 ++ x5 ++ x6 : Word).extractLsb' 8 4 = x4 ∧
    (x0 ++ x1 ++ x2 ++ x3 ++ x4 ++ x5 ++ x6 : Word).extractLsb' 4 4 = x5 ∧
    (x0 ++ x1 ++ x2 ++ x3 ++ x4 ++ x5 ++ x6 : Word).extractLsb' 0 4 = x6 :=
  ⟨(@seg_hi 28 4 _ _ 25 7 (by decide)).trans <| (@seg_hi 24 4 _ _ 21 7 (by decide)).trans <| (@seg_hi 20 4 _ _ 17 7 (by decide)).trans <| (@seg_hi 16 4 _ _ 13 7 (by decide)).trans <| (@seg_hi 12 4 _ _ 9 7 (by decide)).trans <| (@seg_hi 7 5 _ _ 5 7 (by decide)).trans <| (seg_all _),
   (@seg_hi 28 4 _ _ 20 5 (by decide)).trans <| (@seg_hi 24 4 _ _ 16 5 (by decide)).trans <| (@seg_hi 20 4 _ _ 12 5 (by decide)).trans <| (@seg_hi 16 4 _ _ 8 5 (by decide)).trans <| (@seg_hi 12 4 _ _ 4 5 (by decide)).trans <| (@seg_lo 7 5 _ _ 0 5 (by decide)).trans <| (seg_all _),
   (@seg_hi 28 4 _ _ 16 4 (by decide)).trans <| (@seg_hi 24 4 _ _ 12 4 (by decide)).trans <| (@seg_hi 20 4 _ _ 8 4 (by decide)).trans <| (@seg_hi 16 4 _ _ 4 4 (by decide)).trans <| (@seg_lo 12 4 _ _ 0 4 (by decide)).trans <| (seg_all _),
   (@seg_hi 28 4 _ _ 12 4 (by decide)).trans <| (@seg_hi 24 4 _ _ 8 4 (by decide)).trans <| (@seg_hi 20 4 _ _ 4 4 (by decide)).trans <| (@seg_lo 16 4 _ _ 0 4 (by decide)).trans <| (seg_all _),
   (@seg_hi 28 4 _ _ 8 4 (by decide)).trans <| (@seg_hi 24 4 _ _ 4 4 (by decide)).trans <| (@seg_lo 20 4 _ _ 0 4 (by decide)).trans <| (seg_all _),
   (@seg_hi 28 4 _ _ 4 4 (by decide)).trans <| (@seg_lo 24 4 _ _ 0 4 (by decide)).trans <| (seg_all _),
   (@seg_lo 28 4 _ _ 0 4 (by decide)).trans <| (seg_all _)⟩

theorem fields_7_5_4_4_4_8 (x0 : BitVec 7) (x1 : BitVec 5) (x2 : BitVec 4) (x3 : BitVec 4) (x4 : BitVec 4) (x5 : BitVec 8) :
    (x0 ++ x1 ++ x2 ++ x3 ++ x4 ++ x5 : Word).extractLsb' 25 7 = x0 ∧
    (x0 ++ x1 ++ x2 ++ x3 ++ x4 ++ x5 : Word).extractLsb' 20 5 = x1 ∧
    (x0 ++ x1 ++ x2 ++ x3 ++ x4 ++ x5 : Word).extractLsb' 16 4 = x2 ∧
    (x0 ++ x1 ++ x2 ++ x3 ++ x4 ++ x5 : Word).extractLsb' 12 4 = x3 ∧
    (x0 ++ x1 ++ x2 ++ x3 ++ x4 ++ x5 : Word).extractLsb' 8 4 = x4 ∧
    (x0 ++ x1 ++ x2 ++ x3 ++ x4 ++ x5 : Word).extractLsb' 0 8 = x5 :=
  ⟨(@seg_hi 24 8 _ _ 25 7 (by decide)).trans <| (@seg_hi 20 4 _ _ 17 7 (by decide)).trans <| (@seg_hi 16 4 _ _ 13 7 (by decide)).trans <| (@seg_hi 12 4 _ _ 9 7 (by decide)).trans <| (@seg_hi 7 5 _ _ 5 7 (by decide)).trans <| (seg_all _),
   (@seg_hi 24 8 _ _ 20 5 (by decide)).trans <| (@seg_hi 20 4 _ _ 12 5 (by decide)).trans <| (@seg_hi 16 4 _ _ 8 5 (by decide)).trans <| (@seg_hi 12 4 _ _ 4 5 (by decide)).trans <| (@seg_lo 7 5 _ _ 0 5 (by decide)).trans <| (seg_all _),
   (@seg_hi 24 8 _ _ 16 4 (by decide)).trans <| (@seg_hi 20 4 _ _ 8 4 (by decide)).trans <| (@seg_hi 16 4 _ _ 4 4 (by decide)).trans <| (@seg_lo 12 4 _ _ 0 4 (by decide)).trans <| (seg_all _),
   (@seg_hi 24 8 _ _ 12 4 (by decide)).trans <| (@seg_hi 20 4 _ _ 4 4 (by decide)).trans <| (@seg_lo 16 4 _ _ 0 4 (by decide)).trans <| (seg_all _),
   (@seg_hi 24 8 _ _ 8 4 (by decide)).trans <| (@seg_lo 20 4 _ _ 0 4 (by decide)).trans <| (seg_all _),
   (@seg_lo 24 8 _ _ 0 8 (by decide)).trans <| (seg_all _)⟩

theorem fields_7_5_4_8_4_4 (x0 : BitVec 7) (x1 : BitVec 5) (x2 : BitVec 4) (x3 : BitVec 8) (x4 : BitVec 4) (x5 : BitVec 4) :
    (x0 ++ x1 ++ x2 ++ x3 ++ x4 ++ x5 : Word).extractLsb' 25 7 = x0 ∧
    (x0 ++ x1 ++ x2 ++ x3 ++ x4 ++ x5 : Word).extractLsb' 20 5 = x1 ∧
    (x0 ++ x1 ++ x2 ++ x3 ++ x4 ++ x5 : Word).extractLsb' 16 4 = x2 ∧
    (x0 ++ x1 ++ x2 ++ x3 ++ x4 ++ x5 : Word).extractLsb' 8 8 = x3 ∧
    (x0 ++ x1 ++ x2 ++ x3 ++ x4 ++ x5 : Word).extractLsb' 4 4 = x4 ∧
    (x0 ++ x1 ++ x2 ++ x3 ++ x4 ++ x5 : Word).extractLsb' 0 4 = x5 :=
  ⟨(@seg_hi 28 4 _ _ 25 7 (by decide)).trans <| (@seg_hi 24 4 _ _ 21 7 (by decide)).trans <| (@seg_hi 16 8 _ _ 17 7 (by decide)).trans <| (@seg_hi 12 4 _ _ 9 7 (by decide)).trans <| (@seg_hi 7 5 _ _ 5 7 (by decide)).trans <| (seg_all _),
   (@seg_hi 28 4 _ _ 20 5 (by decide)).trans <| (@seg_hi 24 4 _ _ 16 5 (by decide)).trans <| (@seg_hi 16 8 _ _ 12 5 (by decide)).trans <| (@seg_hi 12 4 _ _ 4 5 (by decide)).trans <| (@seg_lo 7 5 _ _ 0 5 (by decide)).trans <| (seg_all _),
   (@seg_hi 28 4 _ _ 16 4 (by decide)).trans <| (@seg_hi 24 4 _ _ 12 4 (by decide)).trans <| (@seg_hi 16 8 _ _ 8 4 (by decide)).trans <| (@seg_lo 12 4 _ _ 0 4 (by decide)).trans <| (seg_all _),
   (@seg_hi 28 4 _ _ 8 8 (by decide)).trans <| (@seg_hi 24 4 _ _ 4 8 (by decide)).trans <| (@seg_lo 16 8 _ _ 0 8 (by decide)).trans <| (seg_all _),
   (@seg_hi 28 4 _ _ 4 4 (by decide)).trans <| (@seg_lo 24 4 _ _ 0 4 (by decide)).trans <| (seg_all _),
   (@seg_lo 28 4 _ _ 0 4 (by decide)).trans <| (seg_all _)⟩

theorem fields_7_5_4_8_8 (x0 : BitVec 7) (x1 : BitVec 5) (x2 : BitVec 4) (x3 : BitVec 8) (x4 : BitVec 8) :
    (x0 ++ x1 ++ x2 ++ x3 ++ x4 : Word).extractLsb' 25 7 = x0 ∧
    (x0 ++ x1 ++ x2 ++ x3 ++ x4 : Word).extractLsb' 20 5 = x1 ∧
    (x0 ++ x1 ++ x2 ++ x3 ++ x4 : Word).extractLsb' 16 4 = x2 ∧
    (x0 ++ x1 ++ x2 ++ x3 ++ x4 : Word).extractLsb' 8 8 = x3 ∧
    (x0 ++ x1 ++ x2 ++ x3 ++ x4 : Word).extractLsb' 0 8 = x4 :=
  ⟨(@seg_hi 24 8 _ _ 25 7 (by decide)).trans <| (@seg_hi 16 8 _ _ 17 7 (by decide)).trans <| (@seg_hi 12 4 _ _ 9 7 (by decide)).trans <| (@seg_hi 7 5 _ _ 5 7 (by decide)).trans <| (seg_all _),
   (@seg_hi 24 8 _ _ 20 5 (by decide)).trans <| (@seg_hi 16 8 _ _ 12 5 (by decide)).trans <| (@seg_hi 12 4 _ _ 4 5 (by decide)).trans <| (@seg_lo 7 5 _ _ 0 5 (by decide)).trans <| (seg_all _),
   (@seg_hi 24 8 _ _ 16 4 (by decide)).trans <| (@seg_hi 16 8 _ _ 8 4 (by decide)).trans <| (@seg_lo 12 4 _ _ 0 4 (by decide)).trans <| (seg_all _),
   (@seg_hi 24 8 _ _ 8 8 (by decide)).trans <| (@seg_lo 16 8 _ _ 0 8 (by decide)).trans <| (seg_all _),
   (@seg_lo 24 8 _ _ 0 8 (by decide)).trans <| (seg_all _)⟩

theorem fields_7_6_3_16 (x0 : BitVec 7) (x1 : BitVec 6) (x2 : BitVec 3) (x3 : BitVec 16) :
    (x0 ++ x1 ++ x2 ++ x3 : Word).extractLsb' 25 7 = x0 ∧
    (x0 ++ x1 ++ x2 ++ x3 : Word).extractLsb' 19 6 = x1 ∧
    (x0 ++ x1 ++ x2 ++ x3 : Word).extractLsb' 16 3 = x2 ∧
    (x0 ++ x1 ++ x2 ++ x3 : Word).extractLsb' 0 16 = x3 :=
  ⟨(@seg_hi 16 16 _ _ 25 7 (by decide)).trans <| (@seg_hi 13 3 _ _ 9 7 (by decide)).trans <| (@seg_hi 7 6 _ _ 6 7 (by decide)).trans <| (seg_all _),
   (@seg_hi 16 16 _ _ 19 6 (by decide)).trans <| (@seg_hi 13 3 _ _ 3 6 (by decide)).trans <| (@seg_lo 7 6 _ _ 0 6 (by decide)).trans <| (seg_all _),
   (@seg_hi 16 16 _ _ 16 3 (by decide)).trans <| (@seg_lo 13 3 _ _ 0 3 (by decide)).trans <| (seg_all _),
   (@seg_lo 16 16 _ _ 0 16 (by decide)).trans <| (seg_all _)⟩

theorem fields_7_6_3_5_3_8 (x0 : BitVec 7) (x1 : BitVec 6) (x2 : BitVec 3) (x3 : BitVec 5) (x4 : BitVec 3) (x5 : BitVec 8) :
    (x0 ++ x1 ++ x2 ++ x3 ++ x4 ++ x5 : Word).extractLsb' 25 7 = x0 ∧
    (x0 ++ x1 ++ x2 ++ x3 ++ x4 ++ x5 : Word).extractLsb' 19 6 = x1 ∧
    (x0 ++ x1 ++ x2 ++ x3 ++ x4 ++ x5 : Word).extractLsb' 16 3 = x2 ∧
    (x0 ++ x1 ++ x2 ++ x3 ++ x4 ++ x5 : Word).extractLsb' 11 5 = x3 ∧
    (x0 ++ x1 ++ x2 ++ x3 ++ x4 ++ x5 : Word).extractLsb' 8 3 = x4 ∧
    (x0 ++ x1 ++ x2 ++ x3 ++ x4 ++ x5 : Word).extractLsb' 0 8 = x5 :=
  ⟨(@seg_hi 24 8 _ _ 25 7 (by decide)).trans <| (@seg_hi 21 3 _ _ 17 7 (by decide)).trans <| (@seg_hi 16 5 _ _ 14 7 (by decide)).trans <| (@seg_hi 13 3 _ _ 9 7 (by decide)).trans <| (@seg_hi 7 6 _ _ 6 7 (by decide)).trans <| (seg_all _),
   (@seg_hi 24 8 _ _ 19 6 (by decide)).trans <| (@seg_hi 21 3 _ _ 11 6 (by decide)).trans <| (@seg_hi 16 5 _ _ 8 6 (by decide)).trans <| (@seg_hi 13 3 _ _ 3 6 (by decide)).trans <| (@seg_lo 7 6 _ _ 0 6 (by decide)).trans <| (seg_all _),
   (@seg_hi 24 8 _ _ 16 3 (by decide)).trans <| (@seg_hi 21 3 _ _ 8 3 (by decide)).trans <| (@seg_hi 16 5 _ _ 5 3 (by decide)).trans <| (@seg_lo 13 3 _ _ 0 3 (by decide)).trans <| (seg_all _),
   (@seg_hi 24 8 _ _ 11 5 (by decide)).trans <| (@seg_hi 21 3 _ _ 3 5 (by decide)).trans <| (@seg_lo 16 5 _ _ 0 5 (by decide)).trans <| (seg_all _),
   (@seg_hi 24 8 _ _ 8 3 (by decide)).trans <| (@seg_lo 21 3 _ _ 0 3 (by decide)).trans <| (seg_all _),
   (@seg_lo 24 8 _ _ 0 8 (by decide)).trans <| (seg_all _)⟩

theorem fields_7_6_3_8_8 (x0 : BitVec 7) (x1 : BitVec 6) (x2 : BitVec 3) (x3 : BitVec 8) (x4 : BitVec 8) :
    (x0 ++ x1 ++ x2 ++ x3 ++ x4 : Word).extractLsb' 25 7 = x0 ∧
    (x0 ++ x1 ++ x2 ++ x3 ++ x4 : Word).extractLsb' 19 6 = x1 ∧
    (x0 ++ x1 ++ x2 ++ x3 ++ x4 : Word).extractLsb' 16 3 = x2 ∧
    (x0 ++ x1 ++ x2 ++ x3 ++ x4 : Word).extractLsb' 8 8 = x3 ∧
    (x0 ++ x1 ++ x2 ++ x3 ++ x4 : Word).extractLsb' 0 8 = x4 :=
  ⟨(@seg_hi 24 8 _ _ 25 7 (by decide)).trans <| (@seg_hi 16 8 _ _ 17 7 (by decide)).trans <| (@seg_hi 13 3 _ _ 9 7 (by decide)).trans <| (@seg_hi 7 6 _ _ 6 7 (by decide)).trans <| (seg_all _),
   (@seg_hi 24 8 _ _ 19 6 (by decide)).trans <| (@seg_hi 16 8 _ _ 11 6 (by decide)).trans <| (@seg_hi 13 3 _ _ 3 6 (by decide)).trans <| (@seg_lo 7 6 _ _ 0 6 (by decide)).trans <| (seg_all _),
   (@seg_hi 24 8 _ _ 16 3 (by decide)).trans <| (@seg_hi 16 8 _ _ 8 3 (by decide)).trans <| (@seg_lo 13 3 _ _ 0 3 (by decide)).trans <| (seg_all _),
   (@seg_hi 24 8 _ _ 8 8 (by decide)).trans <| (@seg_lo 16 8 _ _ 0 8 (by decide)).trans <| (seg_all _),
   (@seg_lo 24 8 _ _ 0 8 (by decide)).trans <| (seg_all _)⟩

theorem fields_7_8_17 (x0 : BitVec 7) (x1 : BitVec 8) (x2 : BitVec 17) :
    (x0 ++ x1 ++ x2 : Word).extractLsb' 25 7 = x0 ∧
    (x0 ++ x1 ++ x2 : Word).extractLsb' 17 8 = x1 ∧
    (x0 ++ x1 ++ x2 : Word).extractLsb' 0 17 = x2 :=
  ⟨(@seg_hi 15 17 _ _ 25 7 (by decide)).trans <| (@seg_hi 7 8 _ _ 8 7 (by decide)).trans <| (seg_all _),
   (@seg_hi 15 17 _ _ 17 8 (by decide)).trans <| (@seg_lo 7 8 _ _ 0 8 (by decide)).trans <| (seg_all _),
   (@seg_lo 15 17 _ _ 0 17 (by decide)).trans <| (seg_all _)⟩

theorem fields_7_9_8_7_1 (x0 : BitVec 7) (x1 : BitVec 9) (x2 : BitVec 8) (x3 : BitVec 7) (x4 : BitVec 1) :
    (x0 ++ x1 ++ x2 ++ x3 ++ x4 : Word).extractLsb' 25 7 = x0 ∧
    (x0 ++ x1 ++ x2 ++ x3 ++ x4 : Word).extractLsb' 16 9 = x1 ∧
    (x0 ++ x1 ++ x2 ++ x3 ++ x4 : Word).extractLsb' 8 8 = x2 ∧
    (x0 ++ x1 ++ x2 ++ x3 ++ x4 : Word).extractLsb' 1 7 = x3 ∧
    (x0 ++ x1 ++ x2 ++ x3 ++ x4 : Word).extractLsb' 0 1 = x4 :=
  ⟨(@seg_hi 31 1 _ _ 25 7 (by decide)).trans <| (@seg_hi 24 7 _ _ 24 7 (by decide)).trans <| (@seg_hi 16 8 _ _ 17 7 (by decide)).trans <| (@seg_hi 7 9 _ _ 9 7 (by decide)).trans <| (seg_all _),
   (@seg_hi 31 1 _ _ 16 9 (by decide)).trans <| (@seg_hi 24 7 _ _ 15 9 (by decide)).trans <| (@seg_hi 16 8 _ _ 8 9 (by decide)).trans <| (@seg_lo 7 9 _ _ 0 9 (by decide)).trans <| (seg_all _),
   (@seg_hi 31 1 _ _ 8 8 (by decide)).trans <| (@seg_hi 24 7 _ _ 7 8 (by decide)).trans <| (@seg_lo 16 8 _ _ 0 8 (by decide)).trans <| (seg_all _),
   (@seg_hi 31 1 _ _ 1 7 (by decide)).trans <| (@seg_lo 24 7 _ _ 0 7 (by decide)).trans <| (seg_all _),
   (@seg_lo 31 1 _ _ 0 1 (by decide)).trans <| (seg_all _)⟩

theorem fields_7_9_8_8 (x0 : BitVec 7) (x1 : BitVec 9) (x2 : BitVec 8) (x3 : BitVec 8) :
    (x0 ++ x1 ++ x2 ++ x3 : Word).extractLsb' 25 7 = x0 ∧
    (x0 ++ x1 ++ x2 ++ x3 : Word).extractLsb' 16 9 = x1 ∧
    (x0 ++ x1 ++ x2 ++ x3 : Word).extractLsb' 8 8 = x2 ∧
    (x0 ++ x1 ++ x2 ++ x3 : Word).extractLsb' 0 8 = x3 :=
  ⟨(@seg_hi 24 8 _ _ 25 7 (by decide)).trans <| (@seg_hi 16 8 _ _ 17 7 (by decide)).trans <| (@seg_hi 7 9 _ _ 9 7 (by decide)).trans <| (seg_all _),
   (@seg_hi 24 8 _ _ 16 9 (by decide)).trans <| (@seg_hi 16 8 _ _ 8 9 (by decide)).trans <| (@seg_lo 7 9 _ _ 0 9 (by decide)).trans <| (seg_all _),
   (@seg_hi 24 8 _ _ 8 8 (by decide)).trans <| (@seg_lo 16 8 _ _ 0 8 (by decide)).trans <| (seg_all _),
   (@seg_lo 24 8 _ _ 0 8 (by decide)).trans <| (seg_all _)⟩

end Sys2Proof.Laws
end

