-- ==== Sys2Proof/Laws/PerInstr.lean ====
section
/-!
SUPPORT. Laws/PerInstr.lean: the statements made of each instruction by itself: RoundTrip, that the decoder reads an encoded
instruction back.
-/

namespace Sys2Proof.Laws

set_option linter.unusedSimpArgs false
set_option linter.unusedVariables false

/-- The decoder reads the word of a well-formed instruction back as that instruction (09 R182, R185, R192, R198; 14 R306,
R307): a Greoskane word with its literal, and from the word alone whether it takes one; a Crucible word from its own map. -/
def RoundTrip.Statement (i : Instr) : Prop :=
  i.wf = true → ∀ w, encodeWord i = some w →
    if i.isCrucible then decodeCrucible w = some i
    else decodeWord w i.literal = some i ∧ (decodeWord w 0#32).map Instr.hasLiteral = some i.hasLiteral

theorem RoundTrip.iadd : ∀ n d a b l, RoundTrip.Statement (.iadd n d a b l) := by
  intro n d a b l hw ww h
  have h : some (0#7 ++ n ++ d ++ a ++ b : Word) = some ww := h
  cases h
  obtain ⟨f0, f1, f2, f3, f4⟩ := fields_7_1_8_8_8 0#7 n d a b
  generalize (0#7 ++ n ++ d ++ a ++ b : Word) = ww at *
  have hl := litWf_of_wf hw
  have key : ∀ l', decodeWord ww l' = some (.iadd n d a b (litOf (Instr.hasLiteral (.iadd n d a b l)) l')) := by
    intro l'
    simp only [decodeWord, decodeWord1, f0, f1, f2, f3, f4, BitVec.reduceToNat, Nat.reduceLeDiff, ite_true, ite_false, BitVec.reduceEq, and_self, and_true, true_and, false_and, and_false]
    rfl
  exact ⟨(key l).trans (congrArg _ (congrArg _ (litOf_wf hl))), congrArg (Option.map _) (key 0#32)⟩

theorem RoundTrip.isub : ∀ n d a b l, RoundTrip.Statement (.isub n d a b l) := by
  intro n d a b l hw ww h
  have h : some (1#7 ++ n ++ d ++ a ++ b : Word) = some ww := h
  cases h
  obtain ⟨f0, f1, f2, f3, f4⟩ := fields_7_1_8_8_8 1#7 n d a b
  generalize (1#7 ++ n ++ d ++ a ++ b : Word) = ww at *
  have hl := litWf_of_wf hw
  have key : ∀ l', decodeWord ww l' = some (.isub n d a b (litOf (Instr.hasLiteral (.isub n d a b l)) l')) := by
    intro l'
    simp only [decodeWord, decodeWord1, f0, f1, f2, f3, f4, BitVec.reduceToNat, Nat.reduceLeDiff, ite_true, ite_false, BitVec.reduceEq, and_self, and_true, true_and, false_and, and_false]
    rfl
  exact ⟨(key l).trans (congrArg _ (congrArg _ (litOf_wf hl))), congrArg (Option.map _) (key 0#32)⟩

theorem RoundTrip.imul : ∀ n d a b l, RoundTrip.Statement (.imul n d a b l) := by
  intro n d a b l hw ww h
  have h : some (2#7 ++ n ++ d ++ a ++ b : Word) = some ww := h
  cases h
  obtain ⟨f0, f1, f2, f3, f4⟩ := fields_7_1_8_8_8 2#7 n d a b
  generalize (2#7 ++ n ++ d ++ a ++ b : Word) = ww at *
  have hl := litWf_of_wf hw
  have key : ∀ l', decodeWord ww l' = some (.imul n d a b (litOf (Instr.hasLiteral (.imul n d a b l)) l')) := by
    intro l'
    simp only [decodeWord, decodeWord1, f0, f1, f2, f3, f4, BitVec.reduceToNat, Nat.reduceLeDiff, ite_true, ite_false, BitVec.reduceEq, and_self, and_true, true_and, false_and, and_false]
    rfl
  exact ⟨(key l).trans (congrArg _ (congrArg _ (litOf_wf hl))), congrArg (Option.map _) (key 0#32)⟩

theorem RoundTrip.imulhs : ∀ n d a b l, RoundTrip.Statement (.imulhs n d a b l) := by
  intro n d a b l hw ww h
  have h : some (3#7 ++ n ++ d ++ a ++ b : Word) = some ww := h
  cases h
  obtain ⟨f0, f1, f2, f3, f4⟩ := fields_7_1_8_8_8 3#7 n d a b
  generalize (3#7 ++ n ++ d ++ a ++ b : Word) = ww at *
  have hl := litWf_of_wf hw
  have key : ∀ l', decodeWord ww l' = some (.imulhs n d a b (litOf (Instr.hasLiteral (.imulhs n d a b l)) l')) := by
    intro l'
    simp only [decodeWord, decodeWord1, f0, f1, f2, f3, f4, BitVec.reduceToNat, Nat.reduceLeDiff, ite_true, ite_false, BitVec.reduceEq, and_self, and_true, true_and, false_and, and_false]
    rfl
  exact ⟨(key l).trans (congrArg _ (congrArg _ (litOf_wf hl))), congrArg (Option.map _) (key 0#32)⟩

theorem RoundTrip.imulhz : ∀ n d a b l, RoundTrip.Statement (.imulhz n d a b l) := by
  intro n d a b l hw ww h
  have h : some (4#7 ++ n ++ d ++ a ++ b : Word) = some ww := h
  cases h
  obtain ⟨f0, f1, f2, f3, f4⟩ := fields_7_1_8_8_8 4#7 n d a b
  generalize (4#7 ++ n ++ d ++ a ++ b : Word) = ww at *
  have hl := litWf_of_wf hw
  have key : ∀ l', decodeWord ww l' = some (.imulhz n d a b (litOf (Instr.hasLiteral (.imulhz n d a b l)) l')) := by
    intro l'
    simp only [decodeWord, decodeWord1, f0, f1, f2, f3, f4, BitVec.reduceToNat, Nat.reduceLeDiff, ite_true, ite_false, BitVec.reduceEq, and_self, and_true, true_and, false_and, and_false]
    rfl
  exact ⟨(key l).trans (congrArg _ (congrArg _ (litOf_wf hl))), congrArg (Option.map _) (key 0#32)⟩

theorem RoundTrip.imad : ∀ n d a b l, RoundTrip.Statement (.imad n d a b l) := by
  intro n d a b l hw ww h
  have h : some (5#7 ++ n ++ d ++ a ++ b : Word) = some ww := h
  cases h
  obtain ⟨f0, f1, f2, f3, f4⟩ := fields_7_1_8_8_8 5#7 n d a b
  generalize (5#7 ++ n ++ d ++ a ++ b : Word) = ww at *
  have hl := litWf_of_wf hw
  have key : ∀ l', decodeWord ww l' = some (.imad n d a b (litOf (Instr.hasLiteral (.imad n d a b l)) l')) := by
    intro l'
    simp only [decodeWord, decodeWord1, f0, f1, f2, f3, f4, BitVec.reduceToNat, Nat.reduceLeDiff, ite_true, ite_false, BitVec.reduceEq, and_self, and_true, true_and, false_and, and_false]
    rfl
  exact ⟨(key l).trans (congrArg _ (congrArg _ (litOf_wf hl))), congrArg (Option.map _) (key 0#32)⟩

theorem RoundTrip.imins : ∀ n d a b l, RoundTrip.Statement (.imins n d a b l) := by
  intro n d a b l hw ww h
  have h : some (6#7 ++ n ++ d ++ a ++ b : Word) = some ww := h
  cases h
  obtain ⟨f0, f1, f2, f3, f4⟩ := fields_7_1_8_8_8 6#7 n d a b
  generalize (6#7 ++ n ++ d ++ a ++ b : Word) = ww at *
  have hl := litWf_of_wf hw
  have key : ∀ l', decodeWord ww l' = some (.imins n d a b (litOf (Instr.hasLiteral (.imins n d a b l)) l')) := by
    intro l'
    simp only [decodeWord, decodeWord1, f0, f1, f2, f3, f4, BitVec.reduceToNat, Nat.reduceLeDiff, ite_true, ite_false, BitVec.reduceEq, and_self, and_true, true_and, false_and, and_false]
    rfl
  exact ⟨(key l).trans (congrArg _ (congrArg _ (litOf_wf hl))), congrArg (Option.map _) (key 0#32)⟩

theorem RoundTrip.imaxs : ∀ n d a b l, RoundTrip.Statement (.imaxs n d a b l) := by
  intro n d a b l hw ww h
  have h : some (7#7 ++ n ++ d ++ a ++ b : Word) = some ww := h
  cases h
  obtain ⟨f0, f1, f2, f3, f4⟩ := fields_7_1_8_8_8 7#7 n d a b
  generalize (7#7 ++ n ++ d ++ a ++ b : Word) = ww at *
  have hl := litWf_of_wf hw
  have key : ∀ l', decodeWord ww l' = some (.imaxs n d a b (litOf (Instr.hasLiteral (.imaxs n d a b l)) l')) := by
    intro l'
    simp only [decodeWord, decodeWord1, f0, f1, f2, f3, f4, BitVec.reduceToNat, Nat.reduceLeDiff, ite_true, ite_false, BitVec.reduceEq, and_self, and_true, true_and, false_and, and_false]
    rfl
  exact ⟨(key l).trans (congrArg _ (congrArg _ (litOf_wf hl))), congrArg (Option.map _) (key 0#32)⟩

theorem RoundTrip.iminz : ∀ n d a b l, RoundTrip.Statement (.iminz n d a b l) := by
  intro n d a b l hw ww h
  have h : some (8#7 ++ n ++ d ++ a ++ b : Word) = some ww := h
  cases h
  obtain ⟨f0, f1, f2, f3, f4⟩ := fields_7_1_8_8_8 8#7 n d a b
  generalize (8#7 ++ n ++ d ++ a ++ b : Word) = ww at *
  have hl := litWf_of_wf hw
  have key : ∀ l', decodeWord ww l' = some (.iminz n d a b (litOf (Instr.hasLiteral (.iminz n d a b l)) l')) := by
    intro l'
    simp only [decodeWord, decodeWord1, f0, f1, f2, f3, f4, BitVec.reduceToNat, Nat.reduceLeDiff, ite_true, ite_false, BitVec.reduceEq, and_self, and_true, true_and, false_and, and_false]
    rfl
  exact ⟨(key l).trans (congrArg _ (congrArg _ (litOf_wf hl))), congrArg (Option.map _) (key 0#32)⟩

theorem RoundTrip.imaxz : ∀ n d a b l, RoundTrip.Statement (.imaxz n d a b l) := by
  intro n d a b l hw ww h
  have h : some (9#7 ++ n ++ d ++ a ++ b : Word) = some ww := h
  cases h
  obtain ⟨f0, f1, f2, f3, f4⟩ := fields_7_1_8_8_8 9#7 n d a b
  generalize (9#7 ++ n ++ d ++ a ++ b : Word) = ww at *
  have hl := litWf_of_wf hw
  have key : ∀ l', decodeWord ww l' = some (.imaxz n d a b (litOf (Instr.hasLiteral (.imaxz n d a b l)) l')) := by
    intro l'
    simp only [decodeWord, decodeWord1, f0, f1, f2, f3, f4, BitVec.reduceToNat, Nat.reduceLeDiff, ite_true, ite_false, BitVec.reduceEq, and_self, and_true, true_and, false_and, and_false]
    rfl
  exact ⟨(key l).trans (congrArg _ (congrArg _ (litOf_wf hl))), congrArg (Option.map _) (key 0#32)⟩

theorem RoundTrip.and : ∀ n d a b l, RoundTrip.Statement (.and n d a b l) := by
  intro n d a b l hw ww h
  have h : some (10#7 ++ n ++ d ++ a ++ b : Word) = some ww := h
  cases h
  obtain ⟨f0, f1, f2, f3, f4⟩ := fields_7_1_8_8_8 10#7 n d a b
  generalize (10#7 ++ n ++ d ++ a ++ b : Word) = ww at *
  have hl := litWf_of_wf hw
  have key : ∀ l', decodeWord ww l' = some (.and n d a b (litOf (Instr.hasLiteral (.and n d a b l)) l')) := by
    intro l'
    simp only [decodeWord, decodeWord1, f0, f1, f2, f3, f4, BitVec.reduceToNat, Nat.reduceLeDiff, ite_true, ite_false, BitVec.reduceEq, and_self, and_true, true_and, false_and, and_false]
    rfl
  exact ⟨(key l).trans (congrArg _ (congrArg _ (litOf_wf hl))), congrArg (Option.map _) (key 0#32)⟩

theorem RoundTrip.or : ∀ n d a b l, RoundTrip.Statement (.or n d a b l) := by
  intro n d a b l hw ww h
  have h : some (11#7 ++ n ++ d ++ a ++ b : Word) = some ww := h
  cases h
  obtain ⟨f0, f1, f2, f3, f4⟩ := fields_7_1_8_8_8 11#7 n d a b
  generalize (11#7 ++ n ++ d ++ a ++ b : Word) = ww at *
  have hl := litWf_of_wf hw
  have key : ∀ l', decodeWord ww l' = some (.or n d a b (litOf (Instr.hasLiteral (.or n d a b l)) l')) := by
    intro l'
    simp only [decodeWord, decodeWord1, f0, f1, f2, f3, f4, BitVec.reduceToNat, Nat.reduceLeDiff, ite_true, ite_false, BitVec.reduceEq, and_self, and_true, true_and, false_and, and_false]
    rfl
  exact ⟨(key l).trans (congrArg _ (congrArg _ (litOf_wf hl))), congrArg (Option.map _) (key 0#32)⟩

theorem RoundTrip.xor : ∀ n d a b l, RoundTrip.Statement (.xor n d a b l) := by
  intro n d a b l hw ww h
  have h : some (12#7 ++ n ++ d ++ a ++ b : Word) = some ww := h
  cases h
  obtain ⟨f0, f1, f2, f3, f4⟩ := fields_7_1_8_8_8 12#7 n d a b
  generalize (12#7 ++ n ++ d ++ a ++ b : Word) = ww at *
  have hl := litWf_of_wf hw
  have key : ∀ l', decodeWord ww l' = some (.xor n d a b (litOf (Instr.hasLiteral (.xor n d a b l)) l')) := by
    intro l'
    simp only [decodeWord, decodeWord1, f0, f1, f2, f3, f4, BitVec.reduceToNat, Nat.reduceLeDiff, ite_true, ite_false, BitVec.reduceEq, and_self, and_true, true_and, false_and, and_false]
    rfl
  exact ⟨(key l).trans (congrArg _ (congrArg _ (litOf_wf hl))), congrArg (Option.map _) (key 0#32)⟩

theorem RoundTrip.shl : ∀ n d a b l, RoundTrip.Statement (.shl n d a b l) := by
  intro n d a b l hw ww h
  have h : some (13#7 ++ n ++ d ++ a ++ b : Word) = some ww := h
  cases h
  obtain ⟨f0, f1, f2, f3, f4⟩ := fields_7_1_8_8_8 13#7 n d a b
  generalize (13#7 ++ n ++ d ++ a ++ b : Word) = ww at *
  have hl := litWf_of_wf hw
  have key : ∀ l', decodeWord ww l' = some (.shl n d a b (litOf (Instr.hasLiteral (.shl n d a b l)) l')) := by
    intro l'
    simp only [decodeWord, decodeWord1, f0, f1, f2, f3, f4, BitVec.reduceToNat, Nat.reduceLeDiff, ite_true, ite_false, BitVec.reduceEq, and_self, and_true, true_and, false_and, and_false]
    rfl
  exact ⟨(key l).trans (congrArg _ (congrArg _ (litOf_wf hl))), congrArg (Option.map _) (key 0#32)⟩

theorem RoundTrip.shr : ∀ n d a b l, RoundTrip.Statement (.shr n d a b l) := by
  intro n d a b l hw ww h
  have h : some (14#7 ++ n ++ d ++ a ++ b : Word) = some ww := h
  cases h
  obtain ⟨f0, f1, f2, f3, f4⟩ := fields_7_1_8_8_8 14#7 n d a b
  generalize (14#7 ++ n ++ d ++ a ++ b : Word) = ww at *
  have hl := litWf_of_wf hw
  have key : ∀ l', decodeWord ww l' = some (.shr n d a b (litOf (Instr.hasLiteral (.shr n d a b l)) l')) := by
    intro l'
    simp only [decodeWord, decodeWord1, f0, f1, f2, f3, f4, BitVec.reduceToNat, Nat.reduceLeDiff, ite_true, ite_false, BitVec.reduceEq, and_self, and_true, true_and, false_and, and_false]
    rfl
  exact ⟨(key l).trans (congrArg _ (congrArg _ (litOf_wf hl))), congrArg (Option.map _) (key 0#32)⟩

theorem RoundTrip.sar : ∀ n d a b l, RoundTrip.Statement (.sar n d a b l) := by
  intro n d a b l hw ww h
  have h : some (15#7 ++ n ++ d ++ a ++ b : Word) = some ww := h
  cases h
  obtain ⟨f0, f1, f2, f3, f4⟩ := fields_7_1_8_8_8 15#7 n d a b
  generalize (15#7 ++ n ++ d ++ a ++ b : Word) = ww at *
  have hl := litWf_of_wf hw
  have key : ∀ l', decodeWord ww l' = some (.sar n d a b (litOf (Instr.hasLiteral (.sar n d a b l)) l')) := by
    intro l'
    simp only [decodeWord, decodeWord1, f0, f1, f2, f3, f4, BitVec.reduceToNat, Nat.reduceLeDiff, ite_true, ite_false, BitVec.reduceEq, and_self, and_true, true_and, false_and, and_false]
    rfl
  exact ⟨(key l).trans (congrArg _ (congrArg _ (litOf_wf hl))), congrArg (Option.map _) (key 0#32)⟩

theorem RoundTrip.iaddi : ∀ n d a i l, RoundTrip.Statement (.iaddi n d a i l) := by
  intro n d a i l hw ww h
  have h : some (16#7 ++ n ++ d ++ a ++ i : Word) = some ww := h
  cases h
  obtain ⟨f0, f1, f2, f3, f4⟩ := fields_7_1_8_8_8 16#7 n d a i
  generalize (16#7 ++ n ++ d ++ a ++ i : Word) = ww at *
  have hl := litWf_of_wf hw
  have key : ∀ l', decodeWord ww l' = some (.iaddi n d a i (litOf (Instr.hasLiteral (.iaddi n d a i l)) l')) := by
    intro l'
    simp only [decodeWord, decodeWord1, f0, f1, f2, f3, f4, BitVec.reduceToNat, Nat.reduceLeDiff, ite_true, ite_false, BitVec.reduceEq, and_self, and_true, true_and, false_and, and_false]
    rfl
  exact ⟨(key l).trans (congrArg _ (congrArg _ (litOf_wf hl))), congrArg (Option.map _) (key 0#32)⟩

theorem RoundTrip.shimShl : ∀ n d a s1 l, RoundTrip.Statement (.shimShl n d a s1 l) := by
  intro n d a s1 l hw ww h
  have h : some (17#7 ++ n ++ d ++ a ++ 0#3 ++ s1 : Word) = some ww := h
  cases h
  obtain ⟨f0, f1, f2, f3, f4, f5⟩ := fields_7_1_8_8_3_5 17#7 n d a 0#3 s1
  generalize (17#7 ++ n ++ d ++ a ++ 0#3 ++ s1 : Word) = ww at *
  have hl := litWf_of_wf hw
  have key : ∀ l', decodeWord ww l' = some (.shimShl n d a s1 (litOf (Instr.hasLiteral (.shimShl n d a s1 l)) l')) := by
    intro l'
    simp only [decodeWord, decodeWord1, f0, f1, f2, f3, f4, f5, BitVec.reduceToNat, Nat.reduceLeDiff, ite_true, ite_false, BitVec.reduceEq, and_self, and_true, true_and, false_and, and_false]
    rfl
  exact ⟨(key l).trans (congrArg _ (congrArg _ (litOf_wf hl))), congrArg (Option.map _) (key 0#32)⟩

theorem RoundTrip.shimShr : ∀ n d a s1 l, RoundTrip.Statement (.shimShr n d a s1 l) := by
  intro n d a s1 l hw ww h
  have h : some (17#7 ++ n ++ d ++ a ++ 2#3 ++ s1 : Word) = some ww := h
  cases h
  obtain ⟨f0, f1, f2, f3, f4, f5⟩ := fields_7_1_8_8_3_5 17#7 n d a 2#3 s1
  generalize (17#7 ++ n ++ d ++ a ++ 2#3 ++ s1 : Word) = ww at *
  have hl := litWf_of_wf hw
  have key : ∀ l', decodeWord ww l' = some (.shimShr n d a s1 (litOf (Instr.hasLiteral (.shimShr n d a s1 l)) l')) := by
    intro l'
    simp only [decodeWord, decodeWord1, f0, f1, f2, f3, f4, f5, BitVec.reduceToNat, Nat.reduceLeDiff, ite_true, ite_false, BitVec.reduceEq, and_self, and_true, true_and, false_and, and_false]
    rfl
  exact ⟨(key l).trans (congrArg _ (congrArg _ (litOf_wf hl))), congrArg (Option.map _) (key 0#32)⟩

theorem RoundTrip.shimSar : ∀ n d a s1 l, RoundTrip.Statement (.shimSar n d a s1 l) := by
  intro n d a s1 l hw ww h
  have h : some (17#7 ++ n ++ d ++ a ++ 4#3 ++ s1 : Word) = some ww := h
  cases h
  obtain ⟨f0, f1, f2, f3, f4, f5⟩ := fields_7_1_8_8_3_5 17#7 n d a 4#3 s1
  generalize (17#7 ++ n ++ d ++ a ++ 4#3 ++ s1 : Word) = ww at *
  have hl := litWf_of_wf hw
  have key : ∀ l', decodeWord ww l' = some (.shimSar n d a s1 (litOf (Instr.hasLiteral (.shimSar n d a s1 l)) l')) := by
    intro l'
    simp only [decodeWord, decodeWord1, f0, f1, f2, f3, f4, f5, BitVec.reduceToNat, Nat.reduceLeDiff, ite_true, ite_false, BitVec.reduceEq, and_self, and_true, true_and, false_and, and_false]
    rfl
  exact ⟨(key l).trans (congrArg _ (congrArg _ (litOf_wf hl))), congrArg (Option.map _) (key 0#32)⟩

theorem RoundTrip.icmps : ∀ c k a b l, RoundTrip.Statement (.icmps c k a b l) := by
  intro c k a b l hw ww h
  have h : some (18#7 ++ 0#1 ++ c ++ k ++ a ++ b : Word) = some ww := h
  cases h
  obtain ⟨f0, f1, f2, f3, f4, f5⟩ := fields_7_1_4_4_8_8 18#7 0#1 c k a b
  generalize (18#7 ++ 0#1 ++ c ++ k ++ a ++ b : Word) = ww at *
  have hl := litWf_of_wf hw
  have key : ∀ l', decodeWord ww l' = some (.icmps c k a b (litOf (Instr.hasLiteral (.icmps c k a b l)) l')) := by
    intro l'
    simp only [decodeWord, decodeWord1, f0, f1, f2, f3, f4, f5, BitVec.reduceToNat, Nat.reduceLeDiff, ite_true, ite_false, BitVec.reduceEq, and_self, and_true, true_and, false_and, and_false]
    rfl
  exact ⟨(key l).trans (congrArg _ (congrArg _ (litOf_wf hl))), congrArg (Option.map _) (key 0#32)⟩

theorem RoundTrip.icmpz : ∀ c k a b l, RoundTrip.Statement (.icmpz c k a b l) := by
  intro c k a b l hw ww h
  have h : some (19#7 ++ 0#1 ++ c ++ k ++ a ++ b : Word) = some ww := h
  cases h
  obtain ⟨f0, f1, f2, f3, f4, f5⟩ := fields_7_1_4_4_8_8 19#7 0#1 c k a b
  generalize (19#7 ++ 0#1 ++ c ++ k ++ a ++ b : Word) = ww at *
  have hl := litWf_of_wf hw
  have key : ∀ l', decodeWord ww l' = some (.icmpz c k a b (litOf (Instr.hasLiteral (.icmpz c k a b l)) l')) := by
    intro l'
    simp only [decodeWord, decodeWord1, f0, f1, f2, f3, f4, f5, BitVec.reduceToNat, Nat.reduceLeDiff, ite_true, ite_false, BitVec.reduceEq, and_self, and_true, true_and, false_and, and_false]
    rfl
  exact ⟨(key l).trans (congrArg _ (congrArg _ (litOf_wf hl))), congrArg (Option.map _) (key 0#32)⟩

theorem RoundTrip.iadd64 : ∀ n d a b l, RoundTrip.Statement (.iadd64 n d a b l) := by
  intro n d a b l hw ww h
  have h : some (20#7 ++ n ++ d ++ a ++ b : Word) = some ww := h
  cases h
  obtain ⟨f0, f1, f2, f3, f4⟩ := fields_7_1_8_8_8 20#7 n d a b
  generalize (20#7 ++ n ++ d ++ a ++ b : Word) = ww at *
  have hl := litWf_of_wf hw
  have key : ∀ l', decodeWord ww l' = some (.iadd64 n d a b (litOf (Instr.hasLiteral (.iadd64 n d a b l)) l')) := by
    intro l'
    simp only [decodeWord, decodeWord1, f0, f1, f2, f3, f4, BitVec.reduceToNat, Nat.reduceLeDiff, ite_true, ite_false, BitVec.reduceEq, and_self, and_true, true_and, false_and, and_false]
    rfl
  exact ⟨(key l).trans (congrArg _ (congrArg _ (litOf_wf hl))), congrArg (Option.map _) (key 0#32)⟩

theorem RoundTrip.uniMov : ∀ n d a l, RoundTrip.Statement (.uniMov n d a l) := by
  intro n d a l hw ww h
  have h : some (21#7 ++ n ++ d ++ a ++ 0#8 : Word) = some ww := h
  cases h
  obtain ⟨f0, f1, f2, f3, f4⟩ := fields_7_1_8_8_8 21#7 n d a 0#8
  generalize (21#7 ++ n ++ d ++ a ++ 0#8 : Word) = ww at *
  have hl := litWf_of_wf hw
  have key : ∀ l', decodeWord ww l' = some (.uniMov n d a (litOf (Instr.hasLiteral (.uniMov n d a l)) l')) := by
    intro l'
    simp only [decodeWord, decodeWord1, f0, f1, f2, f3, f4, BitVec.reduceToNat, Nat.reduceLeDiff, ite_true, ite_false, BitVec.reduceEq, and_self, and_true, true_and, false_and, and_false]
    rfl
  exact ⟨(key l).trans (congrArg _ (congrArg _ (litOf_wf hl))), congrArg (Option.map _) (key 0#32)⟩

theorem RoundTrip.uniNot : ∀ n d a l, RoundTrip.Statement (.uniNot n d a l) := by
  intro n d a l hw ww h
  have h : some (21#7 ++ n ++ d ++ a ++ 1#8 : Word) = some ww := h
  cases h
  obtain ⟨f0, f1, f2, f3, f4⟩ := fields_7_1_8_8_8 21#7 n d a 1#8
  generalize (21#7 ++ n ++ d ++ a ++ 1#8 : Word) = ww at *
  have hl := litWf_of_wf hw
  have key : ∀ l', decodeWord ww l' = some (.uniNot n d a (litOf (Instr.hasLiteral (.uniNot n d a l)) l')) := by
    intro l'
    simp only [decodeWord, decodeWord1, f0, f1, f2, f3, f4, BitVec.reduceToNat, Nat.reduceLeDiff, ite_true, ite_false, BitVec.reduceEq, and_self, and_true, true_and, false_and, and_false]
    rfl
  exact ⟨(key l).trans (congrArg _ (congrArg _ (litOf_wf hl))), congrArg (Option.map _) (key 0#32)⟩

theorem RoundTrip.uniNeg : ∀ n d a l, RoundTrip.Statement (.uniNeg n d a l) := by
  intro n d a l hw ww h
  have h : some (21#7 ++ n ++ d ++ a ++ 2#8 : Word) = some ww := h
  cases h
  obtain ⟨f0, f1, f2, f3, f4⟩ := fields_7_1_8_8_8 21#7 n d a 2#8
  generalize (21#7 ++ n ++ d ++ a ++ 2#8 : Word) = ww at *
  have hl := litWf_of_wf hw
  have key : ∀ l', decodeWord ww l' = some (.uniNeg n d a (litOf (Instr.hasLiteral (.uniNeg n d a l)) l')) := by
    intro l'
    simp only [decodeWord, decodeWord1, f0, f1, f2, f3, f4, BitVec.reduceToNat, Nat.reduceLeDiff, ite_true, ite_false, BitVec.reduceEq, and_self, and_true, true_and, false_and, and_false]
    rfl
  exact ⟨(key l).trans (congrArg _ (congrArg _ (litOf_wf hl))), congrArg (Option.map _) (key 0#32)⟩

theorem RoundTrip.uniAbs : ∀ n d a l, RoundTrip.Statement (.uniAbs n d a l) := by
  intro n d a l hw ww h
  have h : some (21#7 ++ n ++ d ++ a ++ 3#8 : Word) = some ww := h
  cases h
  obtain ⟨f0, f1, f2, f3, f4⟩ := fields_7_1_8_8_8 21#7 n d a 3#8
  generalize (21#7 ++ n ++ d ++ a ++ 3#8 : Word) = ww at *
  have hl := litWf_of_wf hw
  have key : ∀ l', decodeWord ww l' = some (.uniAbs n d a (litOf (Instr.hasLiteral (.uniAbs n d a l)) l')) := by
    intro l'
    simp only [decodeWord, decodeWord1, f0, f1, f2, f3, f4, BitVec.reduceToNat, Nat.reduceLeDiff, ite_true, ite_false, BitVec.reduceEq, and_self, and_true, true_and, false_and, and_false]
    rfl
  exact ⟨(key l).trans (congrArg _ (congrArg _ (litOf_wf hl))), congrArg (Option.map _) (key 0#32)⟩

theorem RoundTrip.uniPopc : ∀ n d a l, RoundTrip.Statement (.uniPopc n d a l) := by
  intro n d a l hw ww h
  have h : some (21#7 ++ n ++ d ++ a ++ 4#8 : Word) = some ww := h
  cases h
  obtain ⟨f0, f1, f2, f3, f4⟩ := fields_7_1_8_8_8 21#7 n d a 4#8
  generalize (21#7 ++ n ++ d ++ a ++ 4#8 : Word) = ww at *
  have hl := litWf_of_wf hw
  have key : ∀ l', decodeWord ww l' = some (.uniPopc n d a (litOf (Instr.hasLiteral (.uniPopc n d a l)) l')) := by
    intro l'
    simp only [decodeWord, decodeWord1, f0, f1, f2, f3, f4, BitVec.reduceToNat, Nat.reduceLeDiff, ite_true, ite_false, BitVec.reduceEq, and_self, and_true, true_and, false_and, and_false]
    rfl
  exact ⟨(key l).trans (congrArg _ (congrArg _ (litOf_wf hl))), congrArg (Option.map _) (key 0#32)⟩

theorem RoundTrip.uniClz : ∀ n d a l, RoundTrip.Statement (.uniClz n d a l) := by
  intro n d a l hw ww h
  have h : some (21#7 ++ n ++ d ++ a ++ 5#8 : Word) = some ww := h
  cases h
  obtain ⟨f0, f1, f2, f3, f4⟩ := fields_7_1_8_8_8 21#7 n d a 5#8
  generalize (21#7 ++ n ++ d ++ a ++ 5#8 : Word) = ww at *
  have hl := litWf_of_wf hw
  have key : ∀ l', decodeWord ww l' = some (.uniClz n d a (litOf (Instr.hasLiteral (.uniClz n d a l)) l')) := by
    intro l'
    simp only [decodeWord, decodeWord1, f0, f1, f2, f3, f4, BitVec.reduceToNat, Nat.reduceLeDiff, ite_true, ite_false, BitVec.reduceEq, and_self, and_true, true_and, false_and, and_false]
    rfl
  exact ⟨(key l).trans (congrArg _ (congrArg _ (litOf_wf hl))), congrArg (Option.map _) (key 0#32)⟩

theorem RoundTrip.uniBrev : ∀ n d a l, RoundTrip.Statement (.uniBrev n d a l) := by
  intro n d a l hw ww h
  have h : some (21#7 ++ n ++ d ++ a ++ 6#8 : Word) = some ww := h
  cases h
  obtain ⟨f0, f1, f2, f3, f4⟩ := fields_7_1_8_8_8 21#7 n d a 6#8
  generalize (21#7 ++ n ++ d ++ a ++ 6#8 : Word) = ww at *
  have hl := litWf_of_wf hw
  have key : ∀ l', decodeWord ww l' = some (.uniBrev n d a (litOf (Instr.hasLiteral (.uniBrev n d a l)) l')) := by
    intro l'
    simp only [decodeWord, decodeWord1, f0, f1, f2, f3, f4, BitVec.reduceToNat, Nat.reduceLeDiff, ite_true, ite_false, BitVec.reduceEq, and_self, and_true, true_and, false_and, and_false]
    rfl
  exact ⟨(key l).trans (congrArg _ (congrArg _ (litOf_wf hl))), congrArg (Option.map _) (key 0#32)⟩

theorem RoundTrip.uniSext8 : ∀ n d a l, RoundTrip.Statement (.uniSext8 n d a l) := by
  intro n d a l hw ww h
  have h : some (21#7 ++ n ++ d ++ a ++ 7#8 : Word) = some ww := h
  cases h
  obtain ⟨f0, f1, f2, f3, f4⟩ := fields_7_1_8_8_8 21#7 n d a 7#8
  generalize (21#7 ++ n ++ d ++ a ++ 7#8 : Word) = ww at *
  have hl := litWf_of_wf hw
  have key : ∀ l', decodeWord ww l' = some (.uniSext8 n d a (litOf (Instr.hasLiteral (.uniSext8 n d a l)) l')) := by
    intro l'
    simp only [decodeWord, decodeWord1, f0, f1, f2, f3, f4, BitVec.reduceToNat, Nat.reduceLeDiff, ite_true, ite_false, BitVec.reduceEq, and_self, and_true, true_and, false_and, and_false]
    rfl
  exact ⟨(key l).trans (congrArg _ (congrArg _ (litOf_wf hl))), congrArg (Option.map _) (key 0#32)⟩

theorem RoundTrip.uniSext16 : ∀ n d a l, RoundTrip.Statement (.uniSext16 n d a l) := by
  intro n d a l hw ww h
  have h : some (21#7 ++ n ++ d ++ a ++ 8#8 : Word) = some ww := h
  cases h
  obtain ⟨f0, f1, f2, f3, f4⟩ := fields_7_1_8_8_8 21#7 n d a 8#8
  generalize (21#7 ++ n ++ d ++ a ++ 8#8 : Word) = ww at *
  have hl := litWf_of_wf hw
  have key : ∀ l', decodeWord ww l' = some (.uniSext16 n d a (litOf (Instr.hasLiteral (.uniSext16 n d a l)) l')) := by
    intro l'
    simp only [decodeWord, decodeWord1, f0, f1, f2, f3, f4, BitVec.reduceToNat, Nat.reduceLeDiff, ite_true, ite_false, BitVec.reduceEq, and_self, and_true, true_and, false_and, and_false]
    rfl
  exact ⟨(key l).trans (congrArg _ (congrArg _ (litOf_wf hl))), congrArg (Option.map _) (key 0#32)⟩

theorem RoundTrip.uniBswap : ∀ n d a l, RoundTrip.Statement (.uniBswap n d a l) := by
  intro n d a l hw ww h
  have h : some (21#7 ++ n ++ d ++ a ++ 9#8 : Word) = some ww := h
  cases h
  obtain ⟨f0, f1, f2, f3, f4⟩ := fields_7_1_8_8_8 21#7 n d a 9#8
  generalize (21#7 ++ n ++ d ++ a ++ 9#8 : Word) = ww at *
  have hl := litWf_of_wf hw
  have key : ∀ l', decodeWord ww l' = some (.uniBswap n d a (litOf (Instr.hasLiteral (.uniBswap n d a l)) l')) := by
    intro l'
    simp only [decodeWord, decodeWord1, f0, f1, f2, f3, f4, BitVec.reduceToNat, Nat.reduceLeDiff, ite_true, ite_false, BitVec.reduceEq, and_self, and_true, true_and, false_and, and_false]
    rfl
  exact ⟨(key l).trans (congrArg _ (congrArg _ (litOf_wf hl))), congrArg (Option.map _) (key 0#32)⟩

theorem RoundTrip.fadd : ∀ n d a b l, RoundTrip.Statement (.fadd n d a b l) := by
  intro n d a b l hw ww h
  have h : some (22#7 ++ n ++ d ++ a ++ b : Word) = some ww := h
  cases h
  obtain ⟨f0, f1, f2, f3, f4⟩ := fields_7_1_8_8_8 22#7 n d a b
  generalize (22#7 ++ n ++ d ++ a ++ b : Word) = ww at *
  have hl := litWf_of_wf hw
  have key : ∀ l', decodeWord ww l' = some (.fadd n d a b (litOf (Instr.hasLiteral (.fadd n d a b l)) l')) := by
    intro l'
    simp only [decodeWord, decodeWord1, f0, f1, f2, f3, f4, BitVec.reduceToNat, Nat.reduceLeDiff, ite_true, ite_false, BitVec.reduceEq, and_self, and_true, true_and, false_and, and_false]
    rfl
  exact ⟨(key l).trans (congrArg _ (congrArg _ (litOf_wf hl))), congrArg (Option.map _) (key 0#32)⟩

theorem RoundTrip.fsub : ∀ n d a b l, RoundTrip.Statement (.fsub n d a b l) := by
  intro n d a b l hw ww h
  have h : some (23#7 ++ n ++ d ++ a ++ b : Word) = some ww := h
  cases h
  obtain ⟨f0, f1, f2, f3, f4⟩ := fields_7_1_8_8_8 23#7 n d a b
  generalize (23#7 ++ n ++ d ++ a ++ b : Word) = ww at *
  have hl := litWf_of_wf hw
  have key : ∀ l', decodeWord ww l' = some (.fsub n d a b (litOf (Instr.hasLiteral (.fsub n d a b l)) l')) := by
    intro l'
    simp only [decodeWord, decodeWord1, f0, f1, f2, f3, f4, BitVec.reduceToNat, Nat.reduceLeDiff, ite_true, ite_false, BitVec.reduceEq, and_self, and_true, true_and, false_and, and_false]
    rfl
  exact ⟨(key l).trans (congrArg _ (congrArg _ (litOf_wf hl))), congrArg (Option.map _) (key 0#32)⟩

theorem RoundTrip.fmul : ∀ n d a b l, RoundTrip.Statement (.fmul n d a b l) := by
  intro n d a b l hw ww h
  have h : some (24#7 ++ n ++ d ++ a ++ b : Word) = some ww := h
  cases h
  obtain ⟨f0, f1, f2, f3, f4⟩ := fields_7_1_8_8_8 24#7 n d a b
  generalize (24#7 ++ n ++ d ++ a ++ b : Word) = ww at *
  have hl := litWf_of_wf hw
  have key : ∀ l', decodeWord ww l' = some (.fmul n d a b (litOf (Instr.hasLiteral (.fmul n d a b l)) l')) := by
    intro l'
    simp only [decodeWord, decodeWord2, f0, f1, f2, f3, f4, BitVec.reduceToNat, Nat.reduceLeDiff, ite_true, ite_false, BitVec.reduceEq, and_self, and_true, true_and, false_and, and_false]
    rfl
  exact ⟨(key l).trans (congrArg _ (congrArg _ (litOf_wf hl))), congrArg (Option.map _) (key 0#32)⟩

theorem RoundTrip.ffma : ∀ n d a b l, RoundTrip.Statement (.ffma n d a b l) := by
  intro n d a b l hw ww h
  have h : some (25#7 ++ n ++ d ++ a ++ b : Word) = some ww := h
  cases h
  obtain ⟨f0, f1, f2, f3, f4⟩ := fields_7_1_8_8_8 25#7 n d a b
  generalize (25#7 ++ n ++ d ++ a ++ b : Word) = ww at *
  have hl := litWf_of_wf hw
  have key : ∀ l', decodeWord ww l' = some (.ffma n d a b (litOf (Instr.hasLiteral (.ffma n d a b l)) l')) := by
    intro l'
    simp only [decodeWord, decodeWord2, f0, f1, f2, f3, f4, BitVec.reduceToNat, Nat.reduceLeDiff, ite_true, ite_false, BitVec.reduceEq, and_self, and_true, true_and, false_and, and_false]
    rfl
  exact ⟨(key l).trans (congrArg _ (congrArg _ (litOf_wf hl))), congrArg (Option.map _) (key 0#32)⟩

theorem RoundTrip.fmin : ∀ n d a b l, RoundTrip.Statement (.fmin n d a b l) := by
  intro n d a b l hw ww h
  have h : some (26#7 ++ n ++ d ++ a ++ b : Word) = some ww := h
  cases h
  obtain ⟨f0, f1, f2, f3, f4⟩ := fields_7_1_8_8_8 26#7 n d a b
  generalize (26#7 ++ n ++ d ++ a ++ b : Word) = ww at *
  have hl := litWf_of_wf hw
  have key : ∀ l', decodeWord ww l' = some (.fmin n d a b (litOf (Instr.hasLiteral (.fmin n d a b l)) l')) := by
    intro l'
    simp only [decodeWord, decodeWord2, f0, f1, f2, f3, f4, BitVec.reduceToNat, Nat.reduceLeDiff, ite_true, ite_false, BitVec.reduceEq, and_self, and_true, true_and, false_and, and_false]
    rfl
  exact ⟨(key l).trans (congrArg _ (congrArg _ (litOf_wf hl))), congrArg (Option.map _) (key 0#32)⟩

theorem RoundTrip.fmax : ∀ n d a b l, RoundTrip.Statement (.fmax n d a b l) := by
  intro n d a b l hw ww h
  have h : some (27#7 ++ n ++ d ++ a ++ b : Word) = some ww := h
  cases h
  obtain ⟨f0, f1, f2, f3, f4⟩ := fields_7_1_8_8_8 27#7 n d a b
  generalize (27#7 ++ n ++ d ++ a ++ b : Word) = ww at *
  have hl := litWf_of_wf hw
  have key : ∀ l', decodeWord ww l' = some (.fmax n d a b (litOf (Instr.hasLiteral (.fmax n d a b l)) l')) := by
    intro l'
    simp only [decodeWord, decodeWord2, f0, f1, f2, f3, f4, BitVec.reduceToNat, Nat.reduceLeDiff, ite_true, ite_false, BitVec.reduceEq, and_self, and_true, true_and, false_and, and_false]
    rfl
  exact ⟨(key l).trans (congrArg _ (congrArg _ (litOf_wf hl))), congrArg (Option.map _) (key 0#32)⟩

theorem RoundTrip.fcmp : ∀ c k a b l, RoundTrip.Statement (.fcmp c k a b l) := by
  intro c k a b l hw ww h
  have h : some (28#7 ++ 0#1 ++ c ++ k ++ a ++ b : Word) = some ww := h
  cases h
  obtain ⟨f0, f1, f2, f3, f4, f5⟩ := fields_7_1_4_4_8_8 28#7 0#1 c k a b
  generalize (28#7 ++ 0#1 ++ c ++ k ++ a ++ b : Word) = ww at *
  have hl := litWf_of_wf hw
  have key : ∀ l', decodeWord ww l' = some (.fcmp c k a b (litOf (Instr.hasLiteral (.fcmp c k a b l)) l')) := by
    intro l'
    simp only [decodeWord, decodeWord2, f0, f1, f2, f3, f4, f5, BitVec.reduceToNat, Nat.reduceLeDiff, ite_true, ite_false, BitVec.reduceEq, and_self, and_true, true_and, false_and, and_false]
    rfl
  exact ⟨(key l).trans (congrArg _ (congrArg _ (litOf_wf hl))), congrArg (Option.map _) (key 0#32)⟩

theorem RoundTrip.fabs : ∀ n d a l, RoundTrip.Statement (.fabs n d a l) := by
  intro n d a l hw ww h
  have h : some (29#7 ++ n ++ d ++ a ++ 0#8 : Word) = some ww := h
  cases h
  obtain ⟨f0, f1, f2, f3, f4⟩ := fields_7_1_8_8_8 29#7 n d a 0#8
  generalize (29#7 ++ n ++ d ++ a ++ 0#8 : Word) = ww at *
  have hl := litWf_of_wf hw
  have key : ∀ l', decodeWord ww l' = some (.fabs n d a (litOf (Instr.hasLiteral (.fabs n d a l)) l')) := by
    intro l'
    simp only [decodeWord, decodeWord2, f0, f1, f2, f3, f4, BitVec.reduceToNat, Nat.reduceLeDiff, ite_true, ite_false, BitVec.reduceEq, and_self, and_true, true_and, false_and, and_false]
    rfl
  exact ⟨(key l).trans (congrArg _ (congrArg _ (litOf_wf hl))), congrArg (Option.map _) (key 0#32)⟩

theorem RoundTrip.fneg : ∀ n d a l, RoundTrip.Statement (.fneg n d a l) := by
  intro n d a l hw ww h
  have h : some (29#7 ++ n ++ d ++ a ++ 1#8 : Word) = some ww := h
  cases h
  obtain ⟨f0, f1, f2, f3, f4⟩ := fields_7_1_8_8_8 29#7 n d a 1#8
  generalize (29#7 ++ n ++ d ++ a ++ 1#8 : Word) = ww at *
  have hl := litWf_of_wf hw
  have key : ∀ l', decodeWord ww l' = some (.fneg n d a (litOf (Instr.hasLiteral (.fneg n d a l)) l')) := by
    intro l'
    simp only [decodeWord, decodeWord2, f0, f1, f2, f3, f4, BitVec.reduceToNat, Nat.reduceLeDiff, ite_true, ite_false, BitVec.reduceEq, and_self, and_true, true_and, false_and, and_false]
    rfl
  exact ⟨(key l).trans (congrArg _ (congrArg _ (litOf_wf hl))), congrArg (Option.map _) (key 0#32)⟩

theorem RoundTrip.frcp : ∀ n d a l, RoundTrip.Statement (.frcp n d a l) := by
  intro n d a l hw ww h
  have h : some (29#7 ++ n ++ d ++ a ++ 2#8 : Word) = some ww := h
  cases h
  obtain ⟨f0, f1, f2, f3, f4⟩ := fields_7_1_8_8_8 29#7 n d a 2#8
  generalize (29#7 ++ n ++ d ++ a ++ 2#8 : Word) = ww at *
  have hl := litWf_of_wf hw
  have key : ∀ l', decodeWord ww l' = some (.frcp n d a (litOf (Instr.hasLiteral (.frcp n d a l)) l')) := by
    intro l'
    simp only [decodeWord, decodeWord2, f0, f1, f2, f3, f4, BitVec.reduceToNat, Nat.reduceLeDiff, ite_true, ite_false, BitVec.reduceEq, and_self, and_true, true_and, false_and, and_false]
    rfl
  exact ⟨(key l).trans (congrArg _ (congrArg _ (litOf_wf hl))), congrArg (Option.map _) (key 0#32)⟩

theorem RoundTrip.frsq : ∀ n d a l, RoundTrip.Statement (.frsq n d a l) := by
  intro n d a l hw ww h
  have h : some (29#7 ++ n ++ d ++ a ++ 3#8 : Word) = some ww := h
  cases h
  obtain ⟨f0, f1, f2, f3, f4⟩ := fields_7_1_8_8_8 29#7 n d a 3#8
  generalize (29#7 ++ n ++ d ++ a ++ 3#8 : Word) = ww at *
  have hl := litWf_of_wf hw
  have key : ∀ l', decodeWord ww l' = some (.frsq n d a (litOf (Instr.hasLiteral (.frsq n d a l)) l')) := by
    intro l'
    simp only [decodeWord, decodeWord2, f0, f1, f2, f3, f4, BitVec.reduceToNat, Nat.reduceLeDiff, ite_true, ite_false, BitVec.reduceEq, and_self, and_true, true_and, false_and, and_false]
    rfl
  exact ⟨(key l).trans (congrArg _ (congrArg _ (litOf_wf hl))), congrArg (Option.map _) (key 0#32)⟩

theorem RoundTrip.fsqrt : ∀ n d a l, RoundTrip.Statement (.fsqrt n d a l) := by
  intro n d a l hw ww h
  have h : some (29#7 ++ n ++ d ++ a ++ 4#8 : Word) = some ww := h
  cases h
  obtain ⟨f0, f1, f2, f3, f4⟩ := fields_7_1_8_8_8 29#7 n d a 4#8
  generalize (29#7 ++ n ++ d ++ a ++ 4#8 : Word) = ww at *
  have hl := litWf_of_wf hw
  have key : ∀ l', decodeWord ww l' = some (.fsqrt n d a (litOf (Instr.hasLiteral (.fsqrt n d a l)) l')) := by
    intro l'
    simp only [decodeWord, decodeWord2, f0, f1, f2, f3, f4, BitVec.reduceToNat, Nat.reduceLeDiff, ite_true, ite_false, BitVec.reduceEq, and_self, and_true, true_and, false_and, and_false]
    rfl
  exact ⟨(key l).trans (congrArg _ (congrArg _ (litOf_wf hl))), congrArg (Option.map _) (key 0#32)⟩

theorem RoundTrip.fexp2 : ∀ n d a l, RoundTrip.Statement (.fexp2 n d a l) := by
  intro n d a l hw ww h
  have h : some (29#7 ++ n ++ d ++ a ++ 5#8 : Word) = some ww := h
  cases h
  obtain ⟨f0, f1, f2, f3, f4⟩ := fields_7_1_8_8_8 29#7 n d a 5#8
  generalize (29#7 ++ n ++ d ++ a ++ 5#8 : Word) = ww at *
  have hl := litWf_of_wf hw
  have key : ∀ l', decodeWord ww l' = some (.fexp2 n d a (litOf (Instr.hasLiteral (.fexp2 n d a l)) l')) := by
    intro l'
    simp only [decodeWord, decodeWord2, f0, f1, f2, f3, f4, BitVec.reduceToNat, Nat.reduceLeDiff, ite_true, ite_false, BitVec.reduceEq, and_self, and_true, true_and, false_and, and_false]
    rfl
  exact ⟨(key l).trans (congrArg _ (congrArg _ (litOf_wf hl))), congrArg (Option.map _) (key 0#32)⟩

theorem RoundTrip.flog2 : ∀ n d a l, RoundTrip.Statement (.flog2 n d a l) := by
  intro n d a l hw ww h
  have h : some (29#7 ++ n ++ d ++ a ++ 6#8 : Word) = some ww := h
  cases h
  obtain ⟨f0, f1, f2, f3, f4⟩ := fields_7_1_8_8_8 29#7 n d a 6#8
  generalize (29#7 ++ n ++ d ++ a ++ 6#8 : Word) = ww at *
  have hl := litWf_of_wf hw
  have key : ∀ l', decodeWord ww l' = some (.flog2 n d a (litOf (Instr.hasLiteral (.flog2 n d a l)) l')) := by
    intro l'
    simp only [decodeWord, decodeWord2, f0, f1, f2, f3, f4, BitVec.reduceToNat, Nat.reduceLeDiff, ite_true, ite_false, BitVec.reduceEq, and_self, and_true, true_and, false_and, and_false]
    rfl
  exact ⟨(key l).trans (congrArg _ (congrArg _ (litOf_wf hl))), congrArg (Option.map _) (key 0#32)⟩

theorem RoundTrip.frint : ∀ n d a l, RoundTrip.Statement (.frint n d a l) := by
  intro n d a l hw ww h
  have h : some (29#7 ++ n ++ d ++ a ++ 7#8 : Word) = some ww := h
  cases h
  obtain ⟨f0, f1, f2, f3, f4⟩ := fields_7_1_8_8_8 29#7 n d a 7#8
  generalize (29#7 ++ n ++ d ++ a ++ 7#8 : Word) = ww at *
  have hl := litWf_of_wf hw
  have key : ∀ l', decodeWord ww l' = some (.frint n d a (litOf (Instr.hasLiteral (.frint n d a l)) l')) := by
    intro l'
    simp only [decodeWord, decodeWord2, f0, f1, f2, f3, f4, BitVec.reduceToNat, Nat.reduceLeDiff, ite_true, ite_false, BitVec.reduceEq, and_self, and_true, true_and, false_and, and_false]
    rfl
  exact ⟨(key l).trans (congrArg _ (congrArg _ (litOf_wf hl))), congrArg (Option.map _) (key 0#32)⟩

theorem RoundTrip.ffloor : ∀ n d a l, RoundTrip.Statement (.ffloor n d a l) := by
  intro n d a l hw ww h
  have h : some (29#7 ++ n ++ d ++ a ++ 8#8 : Word) = some ww := h
  cases h
  obtain ⟨f0, f1, f2, f3, f4⟩ := fields_7_1_8_8_8 29#7 n d a 8#8
  generalize (29#7 ++ n ++ d ++ a ++ 8#8 : Word) = ww at *
  have hl := litWf_of_wf hw
  have key : ∀ l', decodeWord ww l' = some (.ffloor n d a (litOf (Instr.hasLiteral (.ffloor n d a l)) l')) := by
    intro l'
    simp only [decodeWord, decodeWord2, f0, f1, f2, f3, f4, BitVec.reduceToNat, Nat.reduceLeDiff, ite_true, ite_false, BitVec.reduceEq, and_self, and_true, true_and, false_and, and_false]
    rfl
  exact ⟨(key l).trans (congrArg _ (congrArg _ (litOf_wf hl))), congrArg (Option.map _) (key 0#32)⟩

theorem RoundTrip.fceil : ∀ n d a l, RoundTrip.Statement (.fceil n d a l) := by
  intro n d a l hw ww h
  have h : some (29#7 ++ n ++ d ++ a ++ 9#8 : Word) = some ww := h
  cases h
  obtain ⟨f0, f1, f2, f3, f4⟩ := fields_7_1_8_8_8 29#7 n d a 9#8
  generalize (29#7 ++ n ++ d ++ a ++ 9#8 : Word) = ww at *
  have hl := litWf_of_wf hw
  have key : ∀ l', decodeWord ww l' = some (.fceil n d a (litOf (Instr.hasLiteral (.fceil n d a l)) l')) := by
    intro l'
    simp only [decodeWord, decodeWord2, f0, f1, f2, f3, f4, BitVec.reduceToNat, Nat.reduceLeDiff, ite_true, ite_false, BitVec.reduceEq, and_self, and_true, true_and, false_and, and_false]
    rfl
  exact ⟨(key l).trans (congrArg _ (congrArg _ (litOf_wf hl))), congrArg (Option.map _) (key 0#32)⟩

theorem RoundTrip.hadd2 : ∀ n d a b l, RoundTrip.Statement (.hadd2 n d a b l) := by
  intro n d a b l hw ww h
  have h : some (30#7 ++ n ++ d ++ a ++ b : Word) = some ww := h
  cases h
  obtain ⟨f0, f1, f2, f3, f4⟩ := fields_7_1_8_8_8 30#7 n d a b
  generalize (30#7 ++ n ++ d ++ a ++ b : Word) = ww at *
  have hl := litWf_of_wf hw
  have key : ∀ l', decodeWord ww l' = some (.hadd2 n d a b (litOf (Instr.hasLiteral (.hadd2 n d a b l)) l')) := by
    intro l'
    simp only [decodeWord, decodeWord2, f0, f1, f2, f3, f4, BitVec.reduceToNat, Nat.reduceLeDiff, ite_true, ite_false, BitVec.reduceEq, and_self, and_true, true_and, false_and, and_false]
    rfl
  exact ⟨(key l).trans (congrArg _ (congrArg _ (litOf_wf hl))), congrArg (Option.map _) (key 0#32)⟩

theorem RoundTrip.hfma2 : ∀ n d a b l, RoundTrip.Statement (.hfma2 n d a b l) := by
  intro n d a b l hw ww h
  have h : some (31#7 ++ n ++ d ++ a ++ b : Word) = some ww := h
  cases h
  obtain ⟨f0, f1, f2, f3, f4⟩ := fields_7_1_8_8_8 31#7 n d a b
  generalize (31#7 ++ n ++ d ++ a ++ b : Word) = ww at *
  have hl := litWf_of_wf hw
  have key : ∀ l', decodeWord ww l' = some (.hfma2 n d a b (litOf (Instr.hasLiteral (.hfma2 n d a b l)) l')) := by
    intro l'
    simp only [decodeWord, decodeWord2, f0, f1, f2, f3, f4, BitVec.reduceToNat, Nat.reduceLeDiff, ite_true, ite_false, BitVec.reduceEq, and_self, and_true, true_and, false_and, and_false]
    rfl
  exact ⟨(key l).trans (congrArg _ (congrArg _ (litOf_wf hl))), congrArg (Option.map _) (key 0#32)⟩

theorem RoundTrip.badd2 : ∀ n d a b l, RoundTrip.Statement (.badd2 n d a b l) := by
  intro n d a b l hw ww h
  have h : some (32#7 ++ n ++ d ++ a ++ b : Word) = some ww := h
  cases h
  obtain ⟨f0, f1, f2, f3, f4⟩ := fields_7_1_8_8_8 32#7 n d a b
  generalize (32#7 ++ n ++ d ++ a ++ b : Word) = ww at *
  have hl := litWf_of_wf hw
  have key : ∀ l', decodeWord ww l' = some (.badd2 n d a b (litOf (Instr.hasLiteral (.badd2 n d a b l)) l')) := by
    intro l'
    simp only [decodeWord, decodeWord2, f0, f1, f2, f3, f4, BitVec.reduceToNat, Nat.reduceLeDiff, ite_true, ite_false, BitVec.reduceEq, and_self, and_true, true_and, false_and, and_false]
    rfl
  exact ⟨(key l).trans (congrArg _ (congrArg _ (litOf_wf hl))), congrArg (Option.map _) (key 0#32)⟩

theorem RoundTrip.bfma2 : ∀ n d a b l, RoundTrip.Statement (.bfma2 n d a b l) := by
  intro n d a b l hw ww h
  have h : some (33#7 ++ n ++ d ++ a ++ b : Word) = some ww := h
  cases h
  obtain ⟨f0, f1, f2, f3, f4⟩ := fields_7_1_8_8_8 33#7 n d a b
  generalize (33#7 ++ n ++ d ++ a ++ b : Word) = ww at *
  have hl := litWf_of_wf hw
  have key : ∀ l', decodeWord ww l' = some (.bfma2 n d a b (litOf (Instr.hasLiteral (.bfma2 n d a b l)) l')) := by
    intro l'
    simp only [decodeWord, decodeWord2, f0, f1, f2, f3, f4, BitVec.reduceToNat, Nat.reduceLeDiff, ite_true, ite_false, BitVec.reduceEq, and_self, and_true, true_and, false_and, and_false]
    rfl
  exact ⟨(key l).trans (congrArg _ (congrArg _ (litOf_wf hl))), congrArg (Option.map _) (key 0#32)⟩

theorem RoundTrip.cvt : ∀ n d a v l, RoundTrip.Statement (.cvt n d a v l) := by
  intro n d a v l hw ww h
  have h : some (34#7 ++ n ++ d ++ a ++ v : Word) = some ww := h
  cases h
  obtain ⟨f0, f1, f2, f3, f4⟩ := fields_7_1_8_8_8 34#7 n d a v
  generalize (34#7 ++ n ++ d ++ a ++ v : Word) = ww at *
  have hl := litWf_of_wf hw
  have key : ∀ l', decodeWord ww l' = some (.cvt n d a v (litOf (Instr.hasLiteral (.cvt n d a v l)) l')) := by
    intro l'
    simp only [decodeWord, decodeWord2, f0, f1, f2, f3, f4, BitVec.reduceToNat, Nat.reduceLeDiff, ite_true, ite_false, BitVec.reduceEq, and_self, and_true, true_and, false_and, and_false]
    rfl
  exact ⟨(key l).trans (congrArg _ (congrArg _ (litOf_wf hl))), congrArg (Option.map _) (key 0#32)⟩

theorem RoundTrip.selp : ∀ n d a s1 k l, RoundTrip.Statement (.selp n d a s1 k l) := by
  intro n d a s1 k l hw ww h
  have h : some (35#7 ++ n ++ d ++ a ++ 0#3 ++ s1 ++ k : Word) = some ww := h
  cases h
  obtain ⟨f0, f1, f2, f3, f4, f5, f6⟩ := fields_7_1_8_8_3_1_4 35#7 n d a 0#3 s1 k
  generalize (35#7 ++ n ++ d ++ a ++ 0#3 ++ s1 ++ k : Word) = ww at *
  have hl := litWf_of_wf hw
  have key : ∀ l', decodeWord ww l' = some (.selp n d a s1 k (litOf (Instr.hasLiteral (.selp n d a s1 k l)) l')) := by
    intro l'
    simp only [decodeWord, decodeWord2, f0, f1, f2, f3, f4, f5, f6, BitVec.reduceToNat, Nat.reduceLeDiff, ite_true, ite_false, BitVec.reduceEq, and_self, and_true, true_and, false_and, and_false]
    rfl
  exact ⟨(key l).trans (congrArg _ (congrArg _ (litOf_wf hl))), congrArg (Option.map _) (key 0#32)⟩

theorem RoundTrip.shfx : ∀ n d a b l, RoundTrip.Statement (.shfx n d a b l) := by
  intro n d a b l hw ww h
  have h : some (36#7 ++ n ++ d ++ a ++ b : Word) = some ww := h
  cases h
  obtain ⟨f0, f1, f2, f3, f4⟩ := fields_7_1_8_8_8 36#7 n d a b
  generalize (36#7 ++ n ++ d ++ a ++ b : Word) = ww at *
  have hl := litWf_of_wf hw
  have key : ∀ l', decodeWord ww l' = some (.shfx n d a b (litOf (Instr.hasLiteral (.shfx n d a b l)) l')) := by
    intro l'
    simp only [decodeWord, decodeWord2, f0, f1, f2, f3, f4, BitVec.reduceToNat, Nat.reduceLeDiff, ite_true, ite_false, BitVec.reduceEq, and_self, and_true, true_and, false_and, and_false]
    rfl
  exact ⟨(key l).trans (congrArg _ (congrArg _ (litOf_wf hl))), congrArg (Option.map _) (key 0#32)⟩

theorem RoundTrip.shfn : ∀ n d a b l, RoundTrip.Statement (.shfn n d a b l) := by
  intro n d a b l hw ww h
  have h : some (37#7 ++ n ++ d ++ a ++ b : Word) = some ww := h
  cases h
  obtain ⟨f0, f1, f2, f3, f4⟩ := fields_7_1_8_8_8 37#7 n d a b
  generalize (37#7 ++ n ++ d ++ a ++ b : Word) = ww at *
  have hl := litWf_of_wf hw
  have key : ∀ l', decodeWord ww l' = some (.shfn n d a b (litOf (Instr.hasLiteral (.shfn n d a b l)) l')) := by
    intro l'
    simp only [decodeWord, decodeWord2, f0, f1, f2, f3, f4, BitVec.reduceToNat, Nat.reduceLeDiff, ite_true, ite_false, BitVec.reduceEq, and_self, and_true, true_and, false_and, and_false]
    rfl
  exact ⟨(key l).trans (congrArg _ (congrArg _ (litOf_wf hl))), congrArg (Option.map _) (key 0#32)⟩

theorem RoundTrip.shfup : ∀ n d a b l, RoundTrip.Statement (.shfup n d a b l) := by
  intro n d a b l hw ww h
  have h : some (38#7 ++ n ++ d ++ a ++ b : Word) = some ww := h
  cases h
  obtain ⟨f0, f1, f2, f3, f4⟩ := fields_7_1_8_8_8 38#7 n d a b
  generalize (38#7 ++ n ++ d ++ a ++ b : Word) = ww at *
  have hl := litWf_of_wf hw
  have key : ∀ l', decodeWord ww l' = some (.shfup n d a b (litOf (Instr.hasLiteral (.shfup n d a b l)) l')) := by
    intro l'
    simp only [decodeWord, decodeWord2, f0, f1, f2, f3, f4, BitVec.reduceToNat, Nat.reduceLeDiff, ite_true, ite_false, BitVec.reduceEq, and_self, and_true, true_and, false_and, and_false]
    rfl
  exact ⟨(key l).trans (congrArg _ (congrArg _ (litOf_wf hl))), congrArg (Option.map _) (key 0#32)⟩

theorem RoundTrip.shfdn : ∀ n d a b l, RoundTrip.Statement (.shfdn n d a b l) := by
  intro n d a b l hw ww h
  have h : some (39#7 ++ n ++ d ++ a ++ b : Word) = some ww := h
  cases h
  obtain ⟨f0, f1, f2, f3, f4⟩ := fields_7_1_8_8_8 39#7 n d a b
  generalize (39#7 ++ n ++ d ++ a ++ b : Word) = ww at *
  have hl := litWf_of_wf hw
  have key : ∀ l', decodeWord ww l' = some (.shfdn n d a b (litOf (Instr.hasLiteral (.shfdn n d a b l)) l')) := by
    intro l'
    simp only [decodeWord, decodeWord2, f0, f1, f2, f3, f4, BitVec.reduceToNat, Nat.reduceLeDiff, ite_true, ite_false, BitVec.reduceEq, and_self, and_true, true_and, false_and, and_false]
    rfl
  exact ⟨(key l).trans (congrArg _ (congrArg _ (litOf_wf hl))), congrArg (Option.map _) (key 0#32)⟩

theorem RoundTrip.xchb : ∀ n s1, RoundTrip.Statement (.xchb n s1) := by
  intro n s1 hw ww h
  have h : some (40#7 ++ 0#1 ++ n ++ 0#13 ++ s1 : Word) = some ww := h
  cases h
  obtain ⟨f0, f1, f2, f3, f4⟩ := fields_7_1_8_13_3 40#7 0#1 n 0#13 s1
  generalize (40#7 ++ 0#1 ++ n ++ 0#13 ++ s1 : Word) = ww at *
  have key : ∀ l', decodeWord ww l' = some (.xchb n s1) := by
    intro l'
    simp only [decodeWord, decodeWord2, f0, f1, f2, f3, f4, BitVec.reduceToNat, Nat.reduceLeDiff, ite_true, ite_false, BitVec.reduceEq, and_self, and_true, true_and, false_and, and_false]
  exact ⟨key _, congrArg (Option.map _) (key 0#32)⟩

theorem RoundTrip.voteBallot : ∀ n d k, RoundTrip.Statement (.voteBallot n d k) := by
  intro n d k hw ww h
  have h : some (41#7 ++ n ++ d ++ 0#4 ++ k ++ 0#8 : Word) = some ww := h
  cases h
  obtain ⟨f0, f1, f2, f3, f4, f5⟩ := fields_7_1_8_4_4_8 41#7 n d 0#4 k 0#8
  generalize (41#7 ++ n ++ d ++ 0#4 ++ k ++ 0#8 : Word) = ww at *
  have key : ∀ l', decodeWord ww l' = some (.voteBallot n d k) := by
    intro l'
    simp only [decodeWord, decodeWord2, f0, f1, f2, f3, f4, f5, BitVec.reduceToNat, Nat.reduceLeDiff, ite_true, ite_false, BitVec.reduceEq, and_self, and_true, true_and, false_and, and_false]
  exact ⟨key _, congrArg (Option.map _) (key 0#32)⟩

theorem RoundTrip.voteAny : ∀ n d k, RoundTrip.Statement (.voteAny n d k) := by
  intro n d k hw ww h
  have h : some (41#7 ++ n ++ d ++ 0#4 ++ k ++ 1#8 : Word) = some ww := h
  cases h
  obtain ⟨f0, f1, f2, f3, f4, f5⟩ := fields_7_1_8_4_4_8 41#7 n d 0#4 k 1#8
  generalize (41#7 ++ n ++ d ++ 0#4 ++ k ++ 1#8 : Word) = ww at *
  have key : ∀ l', decodeWord ww l' = some (.voteAny n d k) := by
    intro l'
    simp only [decodeWord, decodeWord2, f0, f1, f2, f3, f4, f5, BitVec.reduceToNat, Nat.reduceLeDiff, ite_true, ite_false, BitVec.reduceEq, and_self, and_true, true_and, false_and, and_false]
  exact ⟨key _, congrArg (Option.map _) (key 0#32)⟩

theorem RoundTrip.voteAll : ∀ n d k, RoundTrip.Statement (.voteAll n d k) := by
  intro n d k hw ww h
  have h : some (41#7 ++ n ++ d ++ 0#4 ++ k ++ 2#8 : Word) = some ww := h
  cases h
  obtain ⟨f0, f1, f2, f3, f4, f5⟩ := fields_7_1_8_4_4_8 41#7 n d 0#4 k 2#8
  generalize (41#7 ++ n ++ d ++ 0#4 ++ k ++ 2#8 : Word) = ww at *
  have key : ∀ l', decodeWord ww l' = some (.voteAll n d k) := by
    intro l'
    simp only [decodeWord, decodeWord2, f0, f1, f2, f3, f4, f5, BitVec.reduceToNat, Nat.reduceLeDiff, ite_true, ite_false, BitVec.reduceEq, and_self, and_true, true_and, false_and, and_false]
  exact ⟨key _, congrArg (Option.map _) (key 0#32)⟩

theorem RoundTrip.rhad : ∀ n d a b l, RoundTrip.Statement (.rhad n d a b l) := by
  intro n d a b l hw ww h
  have h : some (42#7 ++ n ++ d ++ a ++ b : Word) = some ww := h
  cases h
  obtain ⟨f0, f1, f2, f3, f4⟩ := fields_7_1_8_8_8 42#7 n d a b
  generalize (42#7 ++ n ++ d ++ a ++ b : Word) = ww at *
  have hl := litWf_of_wf hw
  have key : ∀ l', decodeWord ww l' = some (.rhad n d a b (litOf (Instr.hasLiteral (.rhad n d a b l)) l')) := by
    intro l'
    simp only [decodeWord, decodeWord2, f0, f1, f2, f3, f4, BitVec.reduceToNat, Nat.reduceLeDiff, ite_true, ite_false, BitVec.reduceEq, and_self, and_true, true_and, false_and, and_false]
    rfl
  exact ⟨(key l).trans (congrArg _ (congrArg _ (litOf_wf hl))), congrArg (Option.map _) (key 0#32)⟩

theorem RoundTrip.ld32 : ∀ r d a o, RoundTrip.Statement (.ld32 r d a o) := by
  intro r d a o hw ww h
  have h : some (43#7 ++ r ++ d ++ a ++ o : Word) = some ww := h
  cases h
  obtain ⟨f0, f1, f2, f3, f4⟩ := fields_7_1_8_8_8 43#7 r d a o
  generalize (43#7 ++ r ++ d ++ a ++ o : Word) = ww at *
  have key : ∀ l', decodeWord ww l' = some (.ld32 r d a o) := by
    intro l'
    simp only [decodeWord, decodeWord2, f0, f1, f2, f3, f4, BitVec.reduceToNat, Nat.reduceLeDiff, ite_true, ite_false, BitVec.reduceEq, and_self, and_true, true_and, false_and, and_false]
  exact ⟨key _, congrArg (Option.map _) (key 0#32)⟩

theorem RoundTrip.ld64 : ∀ r d a o, RoundTrip.Statement (.ld64 r d a o) := by
  intro r d a o hw ww h
  have h : some (44#7 ++ r ++ d ++ a ++ o : Word) = some ww := h
  cases h
  obtain ⟨f0, f1, f2, f3, f4⟩ := fields_7_1_8_8_8 44#7 r d a o
  generalize (44#7 ++ r ++ d ++ a ++ o : Word) = ww at *
  have key : ∀ l', decodeWord ww l' = some (.ld64 r d a o) := by
    intro l'
    simp only [decodeWord, decodeWord2, f0, f1, f2, f3, f4, BitVec.reduceToNat, Nat.reduceLeDiff, ite_true, ite_false, BitVec.reduceEq, and_self, and_true, true_and, false_and, and_false]
  exact ⟨key _, congrArg (Option.map _) (key 0#32)⟩

theorem RoundTrip.ld128 : ∀ r d a o, RoundTrip.Statement (.ld128 r d a o) := by
  intro r d a o hw ww h
  have h : some (45#7 ++ r ++ d ++ a ++ o : Word) = some ww := h
  cases h
  obtain ⟨f0, f1, f2, f3, f4⟩ := fields_7_1_8_8_8 45#7 r d a o
  generalize (45#7 ++ r ++ d ++ a ++ o : Word) = ww at *
  have key : ∀ l', decodeWord ww l' = some (.ld128 r d a o) := by
    intro l'
    simp only [decodeWord, decodeWord2, f0, f1, f2, f3, f4, BitVec.reduceToNat, Nat.reduceLeDiff, ite_true, ite_false, BitVec.reduceEq, and_self, and_true, true_and, false_and, and_false]
  exact ⟨key _, congrArg (Option.map _) (key 0#32)⟩

theorem RoundTrip.ldnZ8 : ∀ r d a, RoundTrip.Statement (.ldnZ8 r d a) := by
  intro r d a hw ww h
  have h : some (46#7 ++ r ++ d ++ a ++ 0#8 : Word) = some ww := h
  cases h
  obtain ⟨f0, f1, f2, f3, f4⟩ := fields_7_1_8_8_8 46#7 r d a 0#8
  generalize (46#7 ++ r ++ d ++ a ++ 0#8 : Word) = ww at *
  have key : ∀ l', decodeWord ww l' = some (.ldnZ8 r d a) := by
    intro l'
    simp only [decodeWord, decodeWord2, f0, f1, f2, f3, f4, BitVec.reduceToNat, Nat.reduceLeDiff, ite_true, ite_false, BitVec.reduceEq, and_self, and_true, true_and, false_and, and_false]
  exact ⟨key _, congrArg (Option.map _) (key 0#32)⟩

theorem RoundTrip.ldnS8 : ∀ r d a, RoundTrip.Statement (.ldnS8 r d a) := by
  intro r d a hw ww h
  have h : some (46#7 ++ r ++ d ++ a ++ 1#8 : Word) = some ww := h
  cases h
  obtain ⟨f0, f1, f2, f3, f4⟩ := fields_7_1_8_8_8 46#7 r d a 1#8
  generalize (46#7 ++ r ++ d ++ a ++ 1#8 : Word) = ww at *
  have key : ∀ l', decodeWord ww l' = some (.ldnS8 r d a) := by
    intro l'
    simp only [decodeWord, decodeWord2, f0, f1, f2, f3, f4, BitVec.reduceToNat, Nat.reduceLeDiff, ite_true, ite_false, BitVec.reduceEq, and_self, and_true, true_and, false_and, and_false]
  exact ⟨key _, congrArg (Option.map _) (key 0#32)⟩

theorem RoundTrip.ldnZ16 : ∀ r d a, RoundTrip.Statement (.ldnZ16 r d a) := by
  intro r d a hw ww h
  have h : some (46#7 ++ r ++ d ++ a ++ 2#8 : Word) = some ww := h
  cases h
  obtain ⟨f0, f1, f2, f3, f4⟩ := fields_7_1_8_8_8 46#7 r d a 2#8
  generalize (46#7 ++ r ++ d ++ a ++ 2#8 : Word) = ww at *
  have key : ∀ l', decodeWord ww l' = some (.ldnZ16 r d a) := by
    intro l'
    simp only [decodeWord, decodeWord2, f0, f1, f2, f3, f4, BitVec.reduceToNat, Nat.reduceLeDiff, ite_true, ite_false, BitVec.reduceEq, and_self, and_true, true_and, false_and, and_false]
  exact ⟨key _, congrArg (Option.map _) (key 0#32)⟩

theorem RoundTrip.ldnS16 : ∀ r d a, RoundTrip.Statement (.ldnS16 r d a) := by
  intro r d a hw ww h
  have h : some (46#7 ++ r ++ d ++ a ++ 3#8 : Word) = some ww := h
  cases h
  obtain ⟨f0, f1, f2, f3, f4⟩ := fields_7_1_8_8_8 46#7 r d a 3#8
  generalize (46#7 ++ r ++ d ++ a ++ 3#8 : Word) = ww at *
  have key : ∀ l', decodeWord ww l' = some (.ldnS16 r d a) := by
    intro l'
    simp only [decodeWord, decodeWord2, f0, f1, f2, f3, f4, BitVec.reduceToNat, Nat.reduceLeDiff, ite_true, ite_false, BitVec.reduceEq, and_self, and_true, true_and, false_and, and_false]
  exact ⟨key _, congrArg (Option.map _) (key 0#32)⟩

theorem RoundTrip.st32 : ∀ r s1 a o l, RoundTrip.Statement (.st32 r s1 a o l) := by
  intro r s1 a o l hw ww h
  have h : some (47#7 ++ r ++ s1 ++ a ++ o : Word) = some ww := h
  cases h
  obtain ⟨f0, f1, f2, f3, f4⟩ := fields_7_1_8_8_8 47#7 r s1 a o
  generalize (47#7 ++ r ++ s1 ++ a ++ o : Word) = ww at *
  have hl := litWf_of_wf hw
  have key : ∀ l', decodeWord ww l' = some (.st32 r s1 a o (litOf (Instr.hasLiteral (.st32 r s1 a o l)) l')) := by
    intro l'
    simp only [decodeWord, decodeWord2, f0, f1, f2, f3, f4, BitVec.reduceToNat, Nat.reduceLeDiff, ite_true, ite_false, BitVec.reduceEq, and_self, and_true, true_and, false_and, and_false]
    rfl
  exact ⟨(key l).trans (congrArg _ (congrArg _ (litOf_wf hl))), congrArg (Option.map _) (key 0#32)⟩

theorem RoundTrip.st64 : ∀ r s1 a o l, RoundTrip.Statement (.st64 r s1 a o l) := by
  intro r s1 a o l hw ww h
  have h : some (48#7 ++ r ++ s1 ++ a ++ o : Word) = some ww := h
  cases h
  obtain ⟨f0, f1, f2, f3, f4⟩ := fields_7_1_8_8_8 48#7 r s1 a o
  generalize (48#7 ++ r ++ s1 ++ a ++ o : Word) = ww at *
  have hl := litWf_of_wf hw
  have key : ∀ l', decodeWord ww l' = some (.st64 r s1 a o (litOf (Instr.hasLiteral (.st64 r s1 a o l)) l')) := by
    intro l'
    simp only [decodeWord, decodeWord3, f0, f1, f2, f3, f4, BitVec.reduceToNat, Nat.reduceLeDiff, ite_true, ite_false, BitVec.reduceEq, and_self, and_true, true_and, false_and, and_false]
    rfl
  exact ⟨(key l).trans (congrArg _ (congrArg _ (litOf_wf hl))), congrArg (Option.map _) (key 0#32)⟩

theorem RoundTrip.st128 : ∀ r s1 a o, RoundTrip.Statement (.st128 r s1 a o) := by
  intro r s1 a o hw ww h
  have h : some (49#7 ++ r ++ s1 ++ a ++ o : Word) = some ww := h
  cases h
  obtain ⟨f0, f1, f2, f3, f4⟩ := fields_7_1_8_8_8 49#7 r s1 a o
  generalize (49#7 ++ r ++ s1 ++ a ++ o : Word) = ww at *
  have key : ∀ l', decodeWord ww l' = some (.st128 r s1 a o) := by
    intro l'
    simp only [decodeWord, decodeWord3, f0, f1, f2, f3, f4, BitVec.reduceToNat, Nat.reduceLeDiff, ite_true, ite_false, BitVec.reduceEq, and_self, and_true, true_and, false_and, and_false]
  exact ⟨key _, congrArg (Option.map _) (key 0#32)⟩

theorem RoundTrip.stnB8 : ∀ r s1 a l, RoundTrip.Statement (.stnB8 r s1 a l) := by
  intro r s1 a l hw ww h
  have h : some (50#7 ++ r ++ s1 ++ a ++ 0#8 : Word) = some ww := h
  cases h
  obtain ⟨f0, f1, f2, f3, f4⟩ := fields_7_1_8_8_8 50#7 r s1 a 0#8
  generalize (50#7 ++ r ++ s1 ++ a ++ 0#8 : Word) = ww at *
  have hl := litWf_of_wf hw
  have key : ∀ l', decodeWord ww l' = some (.stnB8 r s1 a (litOf (Instr.hasLiteral (.stnB8 r s1 a l)) l')) := by
    intro l'
    simp only [decodeWord, decodeWord3, f0, f1, f2, f3, f4, BitVec.reduceToNat, Nat.reduceLeDiff, ite_true, ite_false, BitVec.reduceEq, and_self, and_true, true_and, false_and, and_false]
    rfl
  exact ⟨(key l).trans (congrArg _ (congrArg _ (litOf_wf hl))), congrArg (Option.map _) (key 0#32)⟩

theorem RoundTrip.stnB16 : ∀ r s1 a l, RoundTrip.Statement (.stnB16 r s1 a l) := by
  intro r s1 a l hw ww h
  have h : some (50#7 ++ r ++ s1 ++ a ++ 2#8 : Word) = some ww := h
  cases h
  obtain ⟨f0, f1, f2, f3, f4⟩ := fields_7_1_8_8_8 50#7 r s1 a 2#8
  generalize (50#7 ++ r ++ s1 ++ a ++ 2#8 : Word) = ww at *
  have hl := litWf_of_wf hw
  have key : ∀ l', decodeWord ww l' = some (.stnB16 r s1 a (litOf (Instr.hasLiteral (.stnB16 r s1 a l)) l')) := by
    intro l'
    simp only [decodeWord, decodeWord3, f0, f1, f2, f3, f4, BitVec.reduceToNat, Nat.reduceLeDiff, ite_true, ite_false, BitVec.reduceEq, and_self, and_true, true_and, false_and, and_false]
    rfl
  exact ⟨(key l).trans (congrArg _ (congrArg _ (litOf_wf hl))), congrArg (Option.map _) (key 0#32)⟩

theorem RoundTrip.stp : ∀ s1 a b l, RoundTrip.Statement (.stp s1 a b l) := by
  intro s1 a b l hw ww h
  have h : some (51#7 ++ 0#1 ++ s1 ++ a ++ b : Word) = some ww := h
  cases h
  obtain ⟨f0, f1, f2, f3, f4⟩ := fields_7_1_8_8_8 51#7 0#1 s1 a b
  generalize (51#7 ++ 0#1 ++ s1 ++ a ++ b : Word) = ww at *
  have hl := litWf_of_wf hw
  have key : ∀ l', decodeWord ww l' = some (.stp s1 a b (litOf (Instr.hasLiteral (.stp s1 a b l)) l')) := by
    intro l'
    simp only [decodeWord, decodeWord3, f0, f1, f2, f3, f4, BitVec.reduceToNat, Nat.reduceLeDiff, ite_true, ite_false, BitVec.reduceEq, and_self, and_true, true_and, false_and, and_false]
    rfl
  exact ⟨(key l).trans (congrArg _ (congrArg _ (litOf_wf hl))), congrArg (Option.map _) (key 0#32)⟩

theorem RoundTrip.atadd : ∀ c d a b l, RoundTrip.Statement (.atadd c d a b l) := by
  intro c d a b l hw ww h
  have h : some (52#7 ++ c ++ d ++ a ++ b : Word) = some ww := h
  cases h
  obtain ⟨f0, f1, f2, f3, f4⟩ := fields_7_1_8_8_8 52#7 c d a b
  generalize (52#7 ++ c ++ d ++ a ++ b : Word) = ww at *
  have hl := litWf_of_wf hw
  have key : ∀ l', decodeWord ww l' = some (.atadd c d a b (litOf (Instr.hasLiteral (.atadd c d a b l)) l')) := by
    intro l'
    simp only [decodeWord, decodeWord3, f0, f1, f2, f3, f4, BitVec.reduceToNat, Nat.reduceLeDiff, ite_true, ite_false, BitVec.reduceEq, and_self, and_true, true_and, false_and, and_false]
    rfl
  exact ⟨(key l).trans (congrArg _ (congrArg _ (litOf_wf hl))), congrArg (Option.map _) (key 0#32)⟩

theorem RoundTrip.atmaxs : ∀ c d a b l, RoundTrip.Statement (.atmaxs c d a b l) := by
  intro c d a b l hw ww h
  have h : some (53#7 ++ c ++ d ++ a ++ b : Word) = some ww := h
  cases h
  obtain ⟨f0, f1, f2, f3, f4⟩ := fields_7_1_8_8_8 53#7 c d a b
  generalize (53#7 ++ c ++ d ++ a ++ b : Word) = ww at *
  have hl := litWf_of_wf hw
  have key : ∀ l', decodeWord ww l' = some (.atmaxs c d a b (litOf (Instr.hasLiteral (.atmaxs c d a b l)) l')) := by
    intro l'
    simp only [decodeWord, decodeWord3, f0, f1, f2, f3, f4, BitVec.reduceToNat, Nat.reduceLeDiff, ite_true, ite_false, BitVec.reduceEq, and_self, and_true, true_and, false_and, and_false]
    rfl
  exact ⟨(key l).trans (congrArg _ (congrArg _ (litOf_wf hl))), congrArg (Option.map _) (key 0#32)⟩

theorem RoundTrip.atmaxz : ∀ c d a b l, RoundTrip.Statement (.atmaxz c d a b l) := by
  intro c d a b l hw ww h
  have h : some (54#7 ++ c ++ d ++ a ++ b : Word) = some ww := h
  cases h
  obtain ⟨f0, f1, f2, f3, f4⟩ := fields_7_1_8_8_8 54#7 c d a b
  generalize (54#7 ++ c ++ d ++ a ++ b : Word) = ww at *
  have hl := litWf_of_wf hw
  have key : ∀ l', decodeWord ww l' = some (.atmaxz c d a b (litOf (Instr.hasLiteral (.atmaxz c d a b l)) l')) := by
    intro l'
    simp only [decodeWord, decodeWord3, f0, f1, f2, f3, f4, BitVec.reduceToNat, Nat.reduceLeDiff, ite_true, ite_false, BitVec.reduceEq, and_self, and_true, true_and, false_and, and_false]
    rfl
  exact ⟨(key l).trans (congrArg _ (congrArg _ (litOf_wf hl))), congrArg (Option.map _) (key 0#32)⟩

theorem RoundTrip.atexch : ∀ c d a b l, RoundTrip.Statement (.atexch c d a b l) := by
  intro c d a b l hw ww h
  have h : some (55#7 ++ c ++ d ++ a ++ b : Word) = some ww := h
  cases h
  obtain ⟨f0, f1, f2, f3, f4⟩ := fields_7_1_8_8_8 55#7 c d a b
  generalize (55#7 ++ c ++ d ++ a ++ b : Word) = ww at *
  have hl := litWf_of_wf hw
  have key : ∀ l', decodeWord ww l' = some (.atexch c d a b (litOf (Instr.hasLiteral (.atexch c d a b l)) l')) := by
    intro l'
    simp only [decodeWord, decodeWord3, f0, f1, f2, f3, f4, BitVec.reduceToNat, Nat.reduceLeDiff, ite_true, ite_false, BitVec.reduceEq, and_self, and_true, true_and, false_and, and_false]
    rfl
  exact ⟨(key l).trans (congrArg _ (congrArg _ (litOf_wf hl))), congrArg (Option.map _) (key 0#32)⟩

theorem RoundTrip.atcas : ∀ c d a b l, RoundTrip.Statement (.atcas c d a b l) := by
  intro c d a b l hw ww h
  have h : some (56#7 ++ c ++ d ++ a ++ b : Word) = some ww := h
  cases h
  obtain ⟨f0, f1, f2, f3, f4⟩ := fields_7_1_8_8_8 56#7 c d a b
  generalize (56#7 ++ c ++ d ++ a ++ b : Word) = ww at *
  have hl := litWf_of_wf hw
  have key : ∀ l', decodeWord ww l' = some (.atcas c d a b (litOf (Instr.hasLiteral (.atcas c d a b l)) l')) := by
    intro l'
    simp only [decodeWord, decodeWord3, f0, f1, f2, f3, f4, BitVec.reduceToNat, Nat.reduceLeDiff, ite_true, ite_false, BitVec.reduceEq, and_self, and_true, true_and, false_and, and_false]
    rfl
  exact ⟨(key l).trans (congrArg _ (congrArg _ (litOf_wf hl))), congrArg (Option.map _) (key 0#32)⟩

theorem RoundTrip.qcmp : ∀ c k a b l, RoundTrip.Statement (.qcmp c k a b l) := by
  intro c k a b l hw ww h
  have h : some (57#7 ++ 0#1 ++ c ++ k ++ a ++ b : Word) = some ww := h
  cases h
  obtain ⟨f0, f1, f2, f3, f4, f5⟩ := fields_7_1_4_4_8_8 57#7 0#1 c k a b
  generalize (57#7 ++ 0#1 ++ c ++ k ++ a ++ b : Word) = ww at *
  have hl := litWf_of_wf hw
  have key : ∀ l', decodeWord ww l' = some (.qcmp c k a b (litOf (Instr.hasLiteral (.qcmp c k a b l)) l')) := by
    intro l'
    simp only [decodeWord, decodeWord3, f0, f1, f2, f3, f4, f5, BitVec.reduceToNat, Nat.reduceLeDiff, ite_true, ite_false, BitVec.reduceEq, and_self, and_true, true_and, false_and, and_false]
    rfl
  exact ⟨(key l).trans (congrArg _ (congrArg _ (litOf_wf hl))), congrArg (Option.map _) (key 0#32)⟩

theorem RoundTrip.qlogAnd : ∀ d a b, RoundTrip.Statement (.qlogAnd d a b) := by
  intro d a b hw ww h
  have h : some (58#7 ++ 0#5 ++ d ++ 0#4 ++ a ++ 0#4 ++ b : Word) = some ww := h
  cases h
  obtain ⟨f0, f1, f2, f3, f4, f5, f6⟩ := fields_7_5_4_4_4_4_4 58#7 0#5 d 0#4 a 0#4 b
  generalize (58#7 ++ 0#5 ++ d ++ 0#4 ++ a ++ 0#4 ++ b : Word) = ww at *
  have key : ∀ l', decodeWord ww l' = some (.qlogAnd d a b) := by
    intro l'
    simp only [decodeWord, decodeWord3, f0, f1, f2, f3, f4, f5, f6, BitVec.reduceToNat, Nat.reduceLeDiff, ite_true, ite_false, BitVec.reduceEq, and_self, and_true, true_and, false_and, and_false]
  exact ⟨key _, congrArg (Option.map _) (key 0#32)⟩

theorem RoundTrip.qlogOr : ∀ d a b, RoundTrip.Statement (.qlogOr d a b) := by
  intro d a b hw ww h
  have h : some (58#7 ++ 1#5 ++ d ++ 0#4 ++ a ++ 0#4 ++ b : Word) = some ww := h
  cases h
  obtain ⟨f0, f1, f2, f3, f4, f5, f6⟩ := fields_7_5_4_4_4_4_4 58#7 1#5 d 0#4 a 0#4 b
  generalize (58#7 ++ 1#5 ++ d ++ 0#4 ++ a ++ 0#4 ++ b : Word) = ww at *
  have key : ∀ l', decodeWord ww l' = some (.qlogOr d a b) := by
    intro l'
    simp only [decodeWord, decodeWord3, f0, f1, f2, f3, f4, f5, f6, BitVec.reduceToNat, Nat.reduceLeDiff, ite_true, ite_false, BitVec.reduceEq, and_self, and_true, true_and, false_and, and_false]
  exact ⟨key _, congrArg (Option.map _) (key 0#32)⟩

theorem RoundTrip.qlogNot : ∀ d a, RoundTrip.Statement (.qlogNot d a) := by
  intro d a hw ww h
  have h : some (58#7 ++ 2#5 ++ d ++ 0#4 ++ a ++ 0#8 : Word) = some ww := h
  cases h
  obtain ⟨f0, f1, f2, f3, f4, f5⟩ := fields_7_5_4_4_4_8 58#7 2#5 d 0#4 a 0#8
  generalize (58#7 ++ 2#5 ++ d ++ 0#4 ++ a ++ 0#8 : Word) = ww at *
  have key : ∀ l', decodeWord ww l' = some (.qlogNot d a) := by
    intro l'
    simp only [decodeWord, decodeWord3, f0, f1, f2, f3, f4, f5, BitVec.reduceToNat, Nat.reduceLeDiff, ite_true, ite_false, BitVec.reduceEq, and_self, and_true, true_and, false_and, and_false]
  exact ⟨key _, congrArg (Option.map _) (key 0#32)⟩

theorem RoundTrip.qblend : ∀ n d a k l, RoundTrip.Statement (.qblend n d a k l) := by
  intro n d a k l hw ww h
  have h : some (59#7 ++ n ++ d ++ a ++ 0#4 ++ k : Word) = some ww := h
  cases h
  obtain ⟨f0, f1, f2, f3, f4, f5⟩ := fields_7_1_8_8_4_4 59#7 n d a 0#4 k
  generalize (59#7 ++ n ++ d ++ a ++ 0#4 ++ k : Word) = ww at *
  have hl := litWf_of_wf hw
  have key : ∀ l', decodeWord ww l' = some (.qblend n d a k (litOf (Instr.hasLiteral (.qblend n d a k l)) l')) := by
    intro l'
    simp only [decodeWord, decodeWord3, f0, f1, f2, f3, f4, f5, BitVec.reduceToNat, Nat.reduceLeDiff, ite_true, ite_false, BitVec.reduceEq, and_self, and_true, true_and, false_and, and_false]
    rfl
  exact ⟨(key l).trans (congrArg _ (congrArg _ (litOf_wf hl))), congrArg (Option.map _) (key 0#32)⟩

theorem RoundTrip.qdraw : ∀ p a k l, RoundTrip.Statement (.qdraw p a k l) := by
  intro p a k l hw ww h
  have h : some (60#7 ++ 0#5 ++ p ++ a ++ 0#4 ++ k : Word) = some ww := h
  cases h
  obtain ⟨f0, f1, f2, f3, f4, f5⟩ := fields_7_5_4_8_4_4 60#7 0#5 p a 0#4 k
  generalize (60#7 ++ 0#5 ++ p ++ a ++ 0#4 ++ k : Word) = ww at *
  have hl := litWf_of_wf hw
  have key : ∀ l', decodeWord ww l' = some (.qdraw p a k (litOf (Instr.hasLiteral (.qdraw p a k l)) l')) := by
    intro l'
    simp only [decodeWord, decodeWord3, f0, f1, f2, f3, f4, f5, BitVec.reduceToNat, Nat.reduceLeDiff, ite_true, ite_false, BitVec.reduceEq, and_self, and_true, true_and, false_and, and_false]
    rfl
  exact ⟨(key l).trans (congrArg _ (congrArg _ (litOf_wf hl))), congrArg (Option.map _) (key 0#32)⟩

theorem RoundTrip.qgradRamp : ∀ n d a k l, RoundTrip.Statement (.qgradRamp n d a k l) := by
  intro n d a k l hw ww h
  have h : some (61#7 ++ n ++ d ++ a ++ 0#4 ++ k : Word) = some ww := h
  cases h
  obtain ⟨f0, f1, f2, f3, f4, f5⟩ := fields_7_1_8_8_4_4 61#7 n d a 0#4 k
  generalize (61#7 ++ n ++ d ++ a ++ 0#4 ++ k : Word) = ww at *
  have hl := litWf_of_wf hw
  have key : ∀ l', decodeWord ww l' = some (.qgradRamp n d a k (litOf (Instr.hasLiteral (.qgradRamp n d a k l)) l')) := by
    intro l'
    simp only [decodeWord, decodeWord3, f0, f1, f2, f3, f4, f5, BitVec.reduceToNat, Nat.reduceLeDiff, ite_true, ite_false, BitVec.reduceEq, and_self, and_true, true_and, false_and, and_false]
    rfl
  exact ⟨(key l).trans (congrArg _ (congrArg _ (litOf_wf hl))), congrArg (Option.map _) (key 0#32)⟩

theorem RoundTrip.qgradLogi : ∀ n d a k l, RoundTrip.Statement (.qgradLogi n d a k l) := by
  intro n d a k l hw ww h
  have h : some (61#7 ++ n ++ d ++ a ++ 1#4 ++ k : Word) = some ww := h
  cases h
  obtain ⟨f0, f1, f2, f3, f4, f5⟩ := fields_7_1_8_8_4_4 61#7 n d a 1#4 k
  generalize (61#7 ++ n ++ d ++ a ++ 1#4 ++ k : Word) = ww at *
  have hl := litWf_of_wf hw
  have key : ∀ l', decodeWord ww l' = some (.qgradLogi n d a k (litOf (Instr.hasLiteral (.qgradLogi n d a k l)) l')) := by
    intro l'
    simp only [decodeWord, decodeWord3, f0, f1, f2, f3, f4, f5, BitVec.reduceToNat, Nat.reduceLeDiff, ite_true, ite_false, BitVec.reduceEq, and_self, and_true, true_and, false_and, and_false]
    rfl
  exact ⟨(key l).trans (congrArg _ (congrArg _ (litOf_wf hl))), congrArg (Option.map _) (key 0#32)⟩

theorem RoundTrip.qgradAndp : ∀ n d a k l, RoundTrip.Statement (.qgradAndp n d a k l) := by
  intro n d a k l hw ww h
  have h : some (61#7 ++ n ++ d ++ a ++ 2#4 ++ k : Word) = some ww := h
  cases h
  obtain ⟨f0, f1, f2, f3, f4, f5⟩ := fields_7_1_8_8_4_4 61#7 n d a 2#4 k
  generalize (61#7 ++ n ++ d ++ a ++ 2#4 ++ k : Word) = ww at *
  have hl := litWf_of_wf hw
  have key : ∀ l', decodeWord ww l' = some (.qgradAndp n d a k (litOf (Instr.hasLiteral (.qgradAndp n d a k l)) l')) := by
    intro l'
    simp only [decodeWord, decodeWord3, f0, f1, f2, f3, f4, f5, BitVec.reduceToNat, Nat.reduceLeDiff, ite_true, ite_false, BitVec.reduceEq, and_self, and_true, true_and, false_and, and_false]
    rfl
  exact ⟨(key l).trans (congrArg _ (congrArg _ (litOf_wf hl))), congrArg (Option.map _) (key 0#32)⟩

theorem RoundTrip.qgradOrp : ∀ n d a k l, RoundTrip.Statement (.qgradOrp n d a k l) := by
  intro n d a k l hw ww h
  have h : some (61#7 ++ n ++ d ++ a ++ 3#4 ++ k : Word) = some ww := h
  cases h
  obtain ⟨f0, f1, f2, f3, f4, f5⟩ := fields_7_1_8_8_4_4 61#7 n d a 3#4 k
  generalize (61#7 ++ n ++ d ++ a ++ 3#4 ++ k : Word) = ww at *
  have hl := litWf_of_wf hw
  have key : ∀ l', decodeWord ww l' = some (.qgradOrp n d a k (litOf (Instr.hasLiteral (.qgradOrp n d a k l)) l')) := by
    intro l'
    simp only [decodeWord, decodeWord3, f0, f1, f2, f3, f4, f5, BitVec.reduceToNat, Nat.reduceLeDiff, ite_true, ite_false, BitVec.reduceEq, and_self, and_true, true_and, false_and, and_false]
    rfl
  exact ⟨(key l).trans (congrArg _ (congrArg _ (litOf_wf hl))), congrArg (Option.map _) (key 0#32)⟩

theorem RoundTrip.qgradNot : ∀ n d a k l, RoundTrip.Statement (.qgradNot n d a k l) := by
  intro n d a k l hw ww h
  have h : some (61#7 ++ n ++ d ++ a ++ 4#4 ++ k : Word) = some ww := h
  cases h
  obtain ⟨f0, f1, f2, f3, f4, f5⟩ := fields_7_1_8_8_4_4 61#7 n d a 4#4 k
  generalize (61#7 ++ n ++ d ++ a ++ 4#4 ++ k : Word) = ww at *
  have hl := litWf_of_wf hw
  have key : ∀ l', decodeWord ww l' = some (.qgradNot n d a k (litOf (Instr.hasLiteral (.qgradNot n d a k l)) l')) := by
    intro l'
    simp only [decodeWord, decodeWord3, f0, f1, f2, f3, f4, f5, BitVec.reduceToNat, Nat.reduceLeDiff, ite_true, ite_false, BitVec.reduceEq, and_self, and_true, true_and, false_and, and_false]
    rfl
  exact ⟨(key l).trans (congrArg _ (congrArg _ (litOf_wf hl))), congrArg (Option.map _) (key 0#32)⟩

theorem RoundTrip.qgradBlendq : ∀ n d a k l, RoundTrip.Statement (.qgradBlendq n d a k l) := by
  intro n d a k l hw ww h
  have h : some (61#7 ++ n ++ d ++ a ++ 5#4 ++ k : Word) = some ww := h
  cases h
  obtain ⟨f0, f1, f2, f3, f4, f5⟩ := fields_7_1_8_8_4_4 61#7 n d a 5#4 k
  generalize (61#7 ++ n ++ d ++ a ++ 5#4 ++ k : Word) = ww at *
  have hl := litWf_of_wf hw
  have key : ∀ l', decodeWord ww l' = some (.qgradBlendq n d a k (litOf (Instr.hasLiteral (.qgradBlendq n d a k l)) l')) := by
    intro l'
    simp only [decodeWord, decodeWord3, f0, f1, f2, f3, f4, f5, BitVec.reduceToNat, Nat.reduceLeDiff, ite_true, ite_false, BitVec.reduceEq, and_self, and_true, true_and, false_and, and_false]
    rfl
  exact ⟨(key l).trans (congrArg _ (congrArg _ (litOf_wf hl))), congrArg (Option.map _) (key 0#32)⟩

theorem RoundTrip.qxferOut : ∀ d k, RoundTrip.Statement (.qxferOut d k) := by
  intro d k hw ww h
  have h : some (62#7 ++ 0#1 ++ d ++ 0#4 ++ k ++ 0#8 : Word) = some ww := h
  cases h
  obtain ⟨f0, f1, f2, f3, f4, f5⟩ := fields_7_1_8_4_4_8 62#7 0#1 d 0#4 k 0#8
  generalize (62#7 ++ 0#1 ++ d ++ 0#4 ++ k ++ 0#8 : Word) = ww at *
  have key : ∀ l', decodeWord ww l' = some (.qxferOut d k) := by
    intro l'
    simp only [decodeWord, decodeWord3, f0, f1, f2, f3, f4, f5, BitVec.reduceToNat, Nat.reduceLeDiff, ite_true, ite_false, BitVec.reduceEq, and_self, and_true, true_and, false_and, and_false]
  exact ⟨key _, congrArg (Option.map _) (key 0#32)⟩

theorem RoundTrip.qxferIn : ∀ k a l, RoundTrip.Statement (.qxferIn k a l) := by
  intro k a l hw ww h
  have h : some (62#7 ++ 16#5 ++ k ++ a ++ 0#8 : Word) = some ww := h
  cases h
  obtain ⟨f0, f1, f2, f3, f4⟩ := fields_7_5_4_8_8 62#7 16#5 k a 0#8
  generalize (62#7 ++ 16#5 ++ k ++ a ++ 0#8 : Word) = ww at *
  have g := (sub_field ww 20 5 4 1 (by decide)).symm.trans (congrArg (·.extractLsb' 4 1) f1)
  have hl := litWf_of_wf hw
  have key : ∀ l', decodeWord ww l' = some (.qxferIn k a (litOf (Instr.hasLiteral (.qxferIn k a l)) l')) := by
    intro l'
    simp only [decodeWord, decodeWord3, f0, f1, f2, f3, f4, g, show (16#5).extractLsb' 4 1 = 1#1 from rfl, BitVec.reduceToNat, Nat.reduceLeDiff, ite_true, ite_false, BitVec.reduceEq, and_self, and_true, true_and, false_and, and_false]
    rfl
  exact ⟨(key l).trans (congrArg _ (congrArg _ (litOf_wf hl))), congrArg (Option.map _) (key 0#32)⟩

theorem RoundTrip.tagRead : ∀ n d a l, RoundTrip.Statement (.tagRead n d a l) := by
  intro n d a l hw ww h
  have h : some (63#7 ++ n ++ d ++ a ++ 0#8 : Word) = some ww := h
  cases h
  obtain ⟨f0, f1, f2, f3, f4⟩ := fields_7_1_8_8_8 63#7 n d a 0#8
  generalize (63#7 ++ n ++ d ++ a ++ 0#8 : Word) = ww at *
  have hl := litWf_of_wf hw
  have key : ∀ l', decodeWord ww l' = some (.tagRead n d a (litOf (Instr.hasLiteral (.tagRead n d a l)) l')) := by
    intro l'
    simp only [decodeWord, decodeWord3, f0, f1, f2, f3, f4, BitVec.reduceToNat, Nat.reduceLeDiff, ite_true, ite_false, BitVec.reduceEq, and_self, and_true, true_and, false_and, and_false]
    rfl
  exact ⟨(key l).trans (congrArg _ (congrArg _ (litOf_wf hl))), congrArg (Option.map _) (key 0#32)⟩

theorem RoundTrip.tagWrite : ∀ n d a l, RoundTrip.Statement (.tagWrite n d a l) := by
  intro n d a l hw ww h
  have h : some (63#7 ++ n ++ d ++ a ++ 1#8 : Word) = some ww := h
  cases h
  obtain ⟨f0, f1, f2, f3, f4⟩ := fields_7_1_8_8_8 63#7 n d a 1#8
  generalize (63#7 ++ n ++ d ++ a ++ 1#8 : Word) = ww at *
  have hl := litWf_of_wf hw
  have key : ∀ l', decodeWord ww l' = some (.tagWrite n d a (litOf (Instr.hasLiteral (.tagWrite n d a l)) l')) := by
    intro l'
    simp only [decodeWord, decodeWord3, f0, f1, f2, f3, f4, BitVec.reduceToNat, Nat.reduceLeDiff, ite_true, ite_false, BitVec.reduceEq, and_self, and_true, true_and, false_and, and_false]
    rfl
  exact ⟨(key l).trans (congrArg _ (congrArg _ (litOf_wf hl))), congrArg (Option.map _) (key 0#32)⟩

theorem RoundTrip.tagMark : ∀ n d, RoundTrip.Statement (.tagMark n d) := by
  intro n d hw ww h
  have h : some (63#7 ++ n ++ d ++ 61442#16 : Word) = some ww := h
  cases h
  obtain ⟨f0, f1, f2, f3⟩ := fields_7_1_8_16 63#7 n d 61442#16
  generalize (63#7 ++ n ++ d ++ 61442#16 : Word) = ww at *
  have g := (sub_field ww 0 16 0 8 (by decide)).symm.trans (congrArg (·.extractLsb' 0 8) f3)
  have key : ∀ l', decodeWord ww l' = some (.tagMark n d) := by
    intro l'
    simp only [decodeWord, decodeWord3, f0, f1, f2, f3, g, show (61442#16).extractLsb' 0 8 = 2#8 from rfl, BitVec.reduceToNat, Nat.reduceLeDiff, ite_true, ite_false, BitVec.reduceEq, and_self, and_true, true_and, false_and, and_false]
  exact ⟨key _, congrArg (Option.map _) (key 0#32)⟩

theorem RoundTrip.tagCopy : ∀ n d a l, RoundTrip.Statement (.tagCopy n d a l) := by
  intro n d a l hw ww h
  have h : some (63#7 ++ n ++ d ++ a ++ 3#8 : Word) = some ww := h
  cases h
  obtain ⟨f0, f1, f2, f3, f4⟩ := fields_7_1_8_8_8 63#7 n d a 3#8
  generalize (63#7 ++ n ++ d ++ a ++ 3#8 : Word) = ww at *
  have g : ¬ ww.extractLsb' 0 16 = 61442#16 := fun e =>
    absurd (f4.symm.trans ((sub_field ww 0 16 0 8 (by decide)).symm.trans (congrArg (·.extractLsb' 0 8) e))) (by decide)
  have hl := litWf_of_wf hw
  have key : ∀ l', decodeWord ww l' = some (.tagCopy n d a (litOf (Instr.hasLiteral (.tagCopy n d a l)) l')) := by
    intro l'
    simp only [decodeWord, decodeWord3, f0, f1, f2, f3, f4, g, BitVec.reduceToNat, Nat.reduceLeDiff, ite_true, ite_false, BitVec.reduceEq, and_self, and_true, true_and, false_and, and_false]
    rfl
  exact ⟨(key l).trans (congrArg _ (congrArg _ (litOf_wf hl))), congrArg (Option.map _) (key 0#32)⟩

theorem RoundTrip.br : ∀ o, RoundTrip.Statement (.br o) := by
  intro o hw ww h
  have h : some (64#7 ++ o : Word) = some ww := h
  cases h
  obtain ⟨f0, f1⟩ := fields_7_25 64#7 o
  generalize (64#7 ++ o : Word) = ww at *
  have key : ∀ l', decodeWord ww l' = some (.br o) := by
    intro l'
    simp only [decodeWord, decodeWord3, f0, f1, BitVec.reduceToNat, Nat.reduceLeDiff, ite_true, ite_false, BitVec.reduceEq, and_self, and_true, true_and, false_and, and_false]
  exact ⟨key _, congrArg (Option.map _) (key 0#32)⟩

theorem RoundTrip.brp : ∀ k s1 o, RoundTrip.Statement (.brp k s1 o) := by
  intro k s1 o hw ww h
  have h : some (65#7 ++ k ++ s1 ++ o : Word) = some ww := h
  cases h
  obtain ⟨f0, f1, f2, f3⟩ := fields_7_4_1_20 65#7 k s1 o
  generalize (65#7 ++ k ++ s1 ++ o : Word) = ww at *
  have key : ∀ l', decodeWord ww l' = some (.brp k s1 o) := by
    intro l'
    simp only [decodeWord, decodeWord3, f0, f1, f2, f3, BitVec.reduceToNat, Nat.reduceLeDiff, ite_true, ite_false, BitVec.reduceEq, and_self, and_true, true_and, false_and, and_false]
  exact ⟨key _, congrArg (Option.map _) (key 0#32)⟩

theorem RoundTrip.bru : ∀ a o, RoundTrip.Statement (.bru a o) := by
  intro a o hw ww h
  have h : some (66#7 ++ a ++ o : Word) = some ww := h
  cases h
  obtain ⟨f0, f1, f2⟩ := fields_7_8_17 66#7 a o
  generalize (66#7 ++ a ++ o : Word) = ww at *
  have key : ∀ l', decodeWord ww l' = some (.bru a o) := by
    intro l'
    simp only [decodeWord, decodeWord3, f0, f1, f2, BitVec.reduceToNat, Nat.reduceLeDiff, ite_true, ite_false, BitVec.reduceEq, and_self, and_true, true_and, false_and, and_false]
  exact ⟨key _, congrArg (Option.map _) (key 0#32)⟩

theorem RoundTrip.call : ∀ o, RoundTrip.Statement (.call o) := by
  intro o hw ww h
  have h : some (67#7 ++ o : Word) = some ww := h
  cases h
  obtain ⟨f0, f1⟩ := fields_7_25 67#7 o
  generalize (67#7 ++ o : Word) = ww at *
  have key : ∀ l', decodeWord ww l' = some (.call o) := by
    intro l'
    simp only [decodeWord, decodeWord3, f0, f1, BitVec.reduceToNat, Nat.reduceLeDiff, ite_true, ite_false, BitVec.reduceEq, and_self, and_true, true_and, false_and, and_false]
  exact ⟨key _, congrArg (Option.map _) (key 0#32)⟩

theorem RoundTrip.ret : RoundTrip.Statement .ret := by
  intro hw ww h
  have h : some (68#7 ++ 0#25 : Word) = some ww := h
  cases h
  obtain ⟨f0, f1⟩ := fields_7_25 68#7 0#25
  generalize (68#7 ++ 0#25 : Word) = ww at *
  have key : ∀ l', decodeWord ww l' = some .ret := by
    intro l'
    simp only [decodeWord, decodeWord3, f0, f1, BitVec.reduceToNat, Nat.reduceLeDiff, ite_true, ite_false, BitVec.reduceEq, and_self, and_true, true_and, false_and, and_false]
  exact ⟨key _, congrArg (Option.map _) (key 0#32)⟩

theorem RoundTrip.brx : ∀ a l, RoundTrip.Statement (.brx a l) := by
  intro a l hw ww h
  have h : some (69#7 ++ 0#9 ++ a ++ 0#8 : Word) = some ww := h
  cases h
  obtain ⟨f0, f1, f2, f3⟩ := fields_7_9_8_8 69#7 0#9 a 0#8
  generalize (69#7 ++ 0#9 ++ a ++ 0#8 : Word) = ww at *
  have hl := litWf_of_wf hw
  have key : ∀ l', decodeWord ww l' = some (.brx a (litOf (Instr.hasLiteral (.brx a l)) l')) := by
    intro l'
    simp only [decodeWord, decodeWord3, f0, f1, f2, f3, BitVec.reduceToNat, Nat.reduceLeDiff, ite_true, ite_false, BitVec.reduceEq, and_self, and_true, true_and, false_and, and_false]
    rfl
  exact ⟨(key l).trans (congrArg _ (congrArg _ (litOf_wf hl))), congrArg (Option.map _) (key 0#32)⟩

theorem RoundTrip.fend : RoundTrip.Statement .fend := by
  intro hw ww h
  have h : some (70#7 ++ 0#25 : Word) = some ww := h
  cases h
  obtain ⟨f0, f1⟩ := fields_7_25 70#7 0#25
  generalize (70#7 ++ 0#25 : Word) = ww at *
  have key : ∀ l', decodeWord ww l' = some .fend := by
    intro l'
    simp only [decodeWord, decodeWord3, f0, f1, BitVec.reduceToNat, Nat.reduceLeDiff, ite_true, ite_false, BitVec.reduceEq, and_self, and_true, true_and, false_and, and_false]
  exact ⟨key _, congrArg (Option.map _) (key 0#32)⟩

theorem RoundTrip.fspawn : ∀ d a l, RoundTrip.Statement (.fspawn d a l) := by
  intro d a l hw ww h
  have h : some (71#7 ++ 0#1 ++ d ++ a ++ 0#8 : Word) = some ww := h
  cases h
  obtain ⟨f0, f1, f2, f3, f4⟩ := fields_7_1_8_8_8 71#7 0#1 d a 0#8
  generalize (71#7 ++ 0#1 ++ d ++ a ++ 0#8 : Word) = ww at *
  have hl := litWf_of_wf hw
  have key : ∀ l', decodeWord ww l' = some (.fspawn d a (litOf (Instr.hasLiteral (.fspawn d a l)) l')) := by
    intro l'
    simp only [decodeWord, decodeWord3, f0, f1, f2, f3, f4, BitVec.reduceToNat, Nat.reduceLeDiff, ite_true, ite_false, BitVec.reduceEq, and_self, and_true, true_and, false_and, and_false]
    rfl
  exact ⟨(key l).trans (congrArg _ (congrArg _ (litOf_wf hl))), congrArg (Option.map _) (key 0#32)⟩

theorem RoundTrip.yield : RoundTrip.Statement .yield := by
  intro hw ww h
  have h : some (72#7 ++ 0#25 : Word) = some ww := h
  cases h
  obtain ⟨f0, f1⟩ := fields_7_25 72#7 0#25
  generalize (72#7 ++ 0#25 : Word) = ww at *
  have key : ∀ l', decodeWord ww l' = some .yield := by
    intro l'
    simp only [decodeWord, decodeWord4, f0, f1, BitVec.reduceToNat, Nat.reduceLeDiff, ite_true, ite_false, BitVec.reduceEq, and_self, and_true, true_and, false_and, and_false]
  exact ⟨key _, congrArg (Option.map _) (key 0#32)⟩

theorem RoundTrip.guard : ∀ s1 k n, RoundTrip.Statement (.guard s1 k n) := by
  intro s1 k n hw ww h
  have h : some (73#7 ++ 0#4 ++ s1 ++ k ++ n ++ 0#8 : Word) = some ww := h
  cases h
  obtain ⟨f0, f1, f2, f3, f4, f5⟩ := fields_7_4_1_4_8_8 73#7 0#4 s1 k n 0#8
  generalize (73#7 ++ 0#4 ++ s1 ++ k ++ n ++ 0#8 : Word) = ww at *
  have key : ∀ l', decodeWord ww l' = some (.guard s1 k n) := by
    intro l'
    simp only [decodeWord, decodeWord4, f0, f1, f2, f3, f4, f5, BitVec.reduceToNat, Nat.reduceLeDiff, ite_true, ite_false, BitVec.reduceEq, and_self, and_true, true_and, false_and, and_false]
  exact ⟨key _, congrArg (Option.map _) (key 0#32)⟩

theorem RoundTrip.memb : ∀ a l, RoundTrip.Statement (.memb a l) := by
  intro a l hw ww h
  have h : some (74#7 ++ 0#9 ++ a ++ 0#8 : Word) = some ww := h
  cases h
  obtain ⟨f0, f1, f2, f3⟩ := fields_7_9_8_8 74#7 0#9 a 0#8
  generalize (74#7 ++ 0#9 ++ a ++ 0#8 : Word) = ww at *
  have hl := litWf_of_wf hw
  have key : ∀ l', decodeWord ww l' = some (.memb a (litOf (Instr.hasLiteral (.memb a l)) l')) := by
    intro l'
    simp only [decodeWord, decodeWord4, f0, f1, f2, f3, BitVec.reduceToNat, Nat.reduceLeDiff, ite_true, ite_false, BitVec.reduceEq, and_self, and_true, true_and, false_and, and_false]
    rfl
  exact ⟨(key l).trans (congrArg _ (congrArg _ (litOf_wf hl))), congrArg (Option.map _) (key 0#32)⟩

theorem RoundTrip.jarm : ∀ n, RoundTrip.Statement (.jarm n) := by
  intro n hw ww h
  have h : some (75#7 ++ 0#6 ++ n ++ 0#16 : Word) = some ww := h
  cases h
  obtain ⟨f0, f1, f2, f3⟩ := fields_7_6_3_16 75#7 0#6 n 0#16
  generalize (75#7 ++ 0#6 ++ n ++ 0#16 : Word) = ww at *
  have key : ∀ l', decodeWord ww l' = some (.jarm n) := by
    intro l'
    simp only [decodeWord, decodeWord4, f0, f1, f2, f3, BitVec.reduceToNat, Nat.reduceLeDiff, ite_true, ite_false, BitVec.reduceEq, and_self, and_true, true_and, false_and, and_false]
  exact ⟨key _, congrArg (Option.map _) (key 0#32)⟩

theorem RoundTrip.join : ∀ n a l, RoundTrip.Statement (.join n a l) := by
  intro n a l hw ww h
  have h : some (76#7 ++ 0#6 ++ n ++ a ++ 0#8 : Word) = some ww := h
  cases h
  obtain ⟨f0, f1, f2, f3, f4⟩ := fields_7_6_3_8_8 76#7 0#6 n a 0#8
  generalize (76#7 ++ 0#6 ++ n ++ a ++ 0#8 : Word) = ww at *
  have hl := litWf_of_wf hw
  have key : ∀ l', decodeWord ww l' = some (.join n a (litOf (Instr.hasLiteral (.join n a l)) l')) := by
    intro l'
    simp only [decodeWord, decodeWord4, f0, f1, f2, f3, f4, BitVec.reduceToNat, Nat.reduceLeDiff, ite_true, ite_false, BitVec.reduceEq, and_self, and_true, true_and, false_and, and_false]
    rfl
  exact ⟨(key l).trans (congrArg _ (congrArg _ (litOf_wf hl))), congrArg (Option.map _) (key 0#32)⟩

theorem RoundTrip.jget : ∀ d n w, RoundTrip.Statement (.jget d n w) := by
  intro d n w hw ww h
  have h : some (77#7 ++ 0#1 ++ d ++ 0#5 ++ n ++ w : Word) = some ww := h
  cases h
  obtain ⟨f0, f1, f2, f3, f4, f5⟩ := fields_7_1_8_5_3_8 77#7 0#1 d 0#5 n w
  generalize (77#7 ++ 0#1 ++ d ++ 0#5 ++ n ++ w : Word) = ww at *
  have key : ∀ l', decodeWord ww l' = some (.jget d n w) := by
    intro l'
    simp only [decodeWord, decodeWord4, f0, f1, f2, f3, f4, f5, BitVec.reduceToNat, Nat.reduceLeDiff, ite_true, ite_false, BitVec.reduceEq, and_self, and_true, true_and, false_and, and_false]
  exact ⟨key _, congrArg (Option.map _) (key 0#32)⟩

theorem RoundTrip.cjoin : ∀ a l, RoundTrip.Statement (.cjoin a l) := by
  intro a l hw ww h
  have h : some (78#7 ++ 0#9 ++ a ++ 0#8 : Word) = some ww := h
  cases h
  obtain ⟨f0, f1, f2, f3⟩ := fields_7_9_8_8 78#7 0#9 a 0#8
  generalize (78#7 ++ 0#9 ++ a ++ 0#8 : Word) = ww at *
  have hl := litWf_of_wf hw
  have key : ∀ l', decodeWord ww l' = some (.cjoin a (litOf (Instr.hasLiteral (.cjoin a l)) l')) := by
    intro l'
    simp only [decodeWord, decodeWord4, f0, f1, f2, f3, BitVec.reduceToNat, Nat.reduceLeDiff, ite_true, ite_false, BitVec.reduceEq, and_self, and_true, true_and, false_and, and_false]
    rfl
  exact ⟨(key l).trans (congrArg _ (congrArg _ (litOf_wf hl))), congrArg (Option.map _) (key 0#32)⟩

theorem RoundTrip.cleave : RoundTrip.Statement .cleave := by
  intro hw ww h
  have h : some (79#7 ++ 0#25 : Word) = some ww := h
  cases h
  obtain ⟨f0, f1⟩ := fields_7_25 79#7 0#25
  generalize (79#7 ++ 0#25 : Word) = ww at *
  have key : ∀ l', decodeWord ww l' = some .cleave := by
    intro l'
    simp only [decodeWord, decodeWord4, f0, f1, BitVec.reduceToNat, Nat.reduceLeDiff, ite_true, ite_false, BitVec.reduceEq, and_self, and_true, true_and, false_and, and_false]
  exact ⟨key _, congrArg (Option.map _) (key 0#32)⟩

theorem RoundTrip.bar : RoundTrip.Statement .bar := by
  intro hw ww h
  have h : some (80#7 ++ 0#25 : Word) = some ww := h
  cases h
  obtain ⟨f0, f1⟩ := fields_7_25 80#7 0#25
  generalize (80#7 ++ 0#25 : Word) = ww at *
  have key : ∀ l', decodeWord ww l' = some .bar := by
    intro l'
    simp only [decodeWord, decodeWord4, f0, f1, BitVec.reduceToNat, Nat.reduceLeDiff, ite_true, ite_false, BitVec.reduceEq, and_self, and_true, true_and, false_and, and_false]
  exact ⟨key _, congrArg (Option.map _) (key 0#32)⟩

theorem RoundTrip.pbarr : ∀ a, RoundTrip.Statement (.pbarr a) := by
  intro a hw ww h
  have h : some (81#7 ++ 0#9 ++ a ++ 0#8 : Word) = some ww := h
  cases h
  obtain ⟨f0, f1, f2, f3⟩ := fields_7_9_8_8 81#7 0#9 a 0#8
  generalize (81#7 ++ 0#9 ++ a ++ 0#8 : Word) = ww at *
  have key : ∀ l', decodeWord ww l' = some (.pbarr a) := by
    intro l'
    simp only [decodeWord, decodeWord4, f0, f1, f2, f3, BitVec.reduceToNat, Nat.reduceLeDiff, ite_true, ite_false, BitVec.reduceEq, and_self, and_true, true_and, false_and, and_false]
  exact ⟨key _, congrArg (Option.map _) (key 0#32)⟩

theorem RoundTrip.pbwait : ∀ a p, RoundTrip.Statement (.pbwait a p) := by
  intro a p hw ww h
  have h : some (82#7 ++ 0#9 ++ a ++ 0#7 ++ p : Word) = some ww := h
  cases h
  obtain ⟨f0, f1, f2, f3, f4⟩ := fields_7_9_8_7_1 82#7 0#9 a 0#7 p
  generalize (82#7 ++ 0#9 ++ a ++ 0#7 ++ p : Word) = ww at *
  have key : ∀ l', decodeWord ww l' = some (.pbwait a p) := by
    intro l'
    simp only [decodeWord, decodeWord4, f0, f1, f2, f3, f4, BitVec.reduceToNat, Nat.reduceLeDiff, ite_true, ite_false, BitVec.reduceEq, and_self, and_true, true_and, false_and, and_false]
  exact ⟨key _, congrArg (Option.map _) (key 0#32)⟩

theorem RoundTrip.fork : ∀ a l, RoundTrip.Statement (.fork a l) := by
  intro a l hw ww h
  have h : some (83#7 ++ 0#9 ++ a ++ 0#8 : Word) = some ww := h
  cases h
  obtain ⟨f0, f1, f2, f3⟩ := fields_7_9_8_8 83#7 0#9 a 0#8
  generalize (83#7 ++ 0#9 ++ a ++ 0#8 : Word) = ww at *
  have hl := litWf_of_wf hw
  have key : ∀ l', decodeWord ww l' = some (.fork a (litOf (Instr.hasLiteral (.fork a l)) l')) := by
    intro l'
    simp only [decodeWord, decodeWord4, f0, f1, f2, f3, BitVec.reduceToNat, Nat.reduceLeDiff, ite_true, ite_false, BitVec.reduceEq, and_self, and_true, true_and, false_and, and_false]
    rfl
  exact ⟨(key l).trans (congrArg _ (congrArg _ (litOf_wf hl))), congrArg (Option.map _) (key 0#32)⟩

theorem RoundTrip.rdv : RoundTrip.Statement .rdv := by
  intro hw ww h
  have h : some (84#7 ++ 0#25 : Word) = some ww := h
  cases h
  obtain ⟨f0, f1⟩ := fields_7_25 84#7 0#25
  generalize (84#7 ++ 0#25 : Word) = ww at *
  have key : ∀ l', decodeWord ww l' = some .rdv := by
    intro l'
    simp only [decodeWord, decodeWord4, f0, f1, BitVec.reduceToNat, Nat.reduceLeDiff, ite_true, ite_false, BitVec.reduceEq, and_self, and_true, true_and, false_and, and_false]
  exact ⟨key _, congrArg (Option.map _) (key 0#32)⟩

theorem RoundTrip.rnext : ∀ d, RoundTrip.Statement (.rnext d) := by
  intro d hw ww h
  have h : some (85#7 ++ 0#1 ++ d ++ 0#16 : Word) = some ww := h
  cases h
  obtain ⟨f0, f1, f2, f3⟩ := fields_7_1_8_16 85#7 0#1 d 0#16
  generalize (85#7 ++ 0#1 ++ d ++ 0#16 : Word) = ww at *
  have key : ∀ l', decodeWord ww l' = some (.rnext d) := by
    intro l'
    simp only [decodeWord, decodeWord4, f0, f1, f2, f3, BitVec.reduceToNat, Nat.reduceLeDiff, ite_true, ite_false, BitVec.reduceEq, and_self, and_true, true_and, false_and, and_false]
  exact ⟨key _, congrArg (Option.map _) (key 0#32)⟩

theorem RoundTrip.epush : ∀ a b, RoundTrip.Statement (.epush a b) := by
  intro a b hw ww h
  have h : some (86#7 ++ 0#9 ++ a ++ b : Word) = some ww := h
  cases h
  obtain ⟨f0, f1, f2, f3⟩ := fields_7_9_8_8 86#7 0#9 a b
  generalize (86#7 ++ 0#9 ++ a ++ b : Word) = ww at *
  have key : ∀ l', decodeWord ww l' = some (.epush a b) := by
    intro l'
    simp only [decodeWord, decodeWord4, f0, f1, f2, f3, BitVec.reduceToNat, Nat.reduceLeDiff, ite_true, ite_false, BitVec.reduceEq, and_self, and_true, true_and, false_and, and_false]
  exact ⟨key _, congrArg (Option.map _) (key 0#32)⟩

theorem RoundTrip.epop : ∀ d a, RoundTrip.Statement (.epop d a) := by
  intro d a hw ww h
  have h : some (87#7 ++ 0#1 ++ d ++ a ++ 0#8 : Word) = some ww := h
  cases h
  obtain ⟨f0, f1, f2, f3, f4⟩ := fields_7_1_8_8_8 87#7 0#1 d a 0#8
  generalize (87#7 ++ 0#1 ++ d ++ a ++ 0#8 : Word) = ww at *
  have key : ∀ l', decodeWord ww l' = some (.epop d a) := by
    intro l'
    simp only [decodeWord, decodeWord4, f0, f1, f2, f3, f4, BitVec.reduceToNat, Nat.reduceLeDiff, ite_true, ite_false, BitVec.reduceEq, and_self, and_true, true_and, false_and, and_false]
  exact ⟨key _, congrArg (Option.map _) (key 0#32)⟩

theorem RoundTrip.tspawn : ∀ d a, RoundTrip.Statement (.tspawn d a) := by
  intro d a hw ww h
  have h : some (88#7 ++ 0#1 ++ d ++ a ++ 0#8 : Word) = some ww := h
  cases h
  obtain ⟨f0, f1, f2, f3, f4⟩ := fields_7_1_8_8_8 88#7 0#1 d a 0#8
  generalize (88#7 ++ 0#1 ++ d ++ a ++ 0#8 : Word) = ww at *
  have key : ∀ l', decodeWord ww l' = some (.tspawn d a) := by
    intro l'
    simp only [decodeWord, decodeWord4, f0, f1, f2, f3, f4, BitVec.reduceToNat, Nat.reduceLeDiff, ite_true, ite_false, BitVec.reduceEq, and_self, and_true, true_and, false_and, and_false]
  exact ⟨key _, congrArg (Option.map _) (key 0#32)⟩

theorem RoundTrip.tsig : ∀ a b l, RoundTrip.Statement (.tsig a b l) := by
  intro a b l hw ww h
  have h : some (89#7 ++ 0#9 ++ a ++ b : Word) = some ww := h
  cases h
  obtain ⟨f0, f1, f2, f3⟩ := fields_7_9_8_8 89#7 0#9 a b
  generalize (89#7 ++ 0#9 ++ a ++ b : Word) = ww at *
  have hl := litWf_of_wf hw
  have key : ∀ l', decodeWord ww l' = some (.tsig a b (litOf (Instr.hasLiteral (.tsig a b l)) l')) := by
    intro l'
    simp only [decodeWord, decodeWord4, f0, f1, f2, f3, BitVec.reduceToNat, Nat.reduceLeDiff, ite_true, ite_false, BitVec.reduceEq, and_self, and_true, true_and, false_and, and_false]
    rfl
  exact ⟨(key l).trans (congrArg _ (congrArg _ (litOf_wf hl))), congrArg (Option.map _) (key 0#32)⟩

theorem RoundTrip.ckpt : RoundTrip.Statement .ckpt := by
  intro hw ww h
  have h : some (90#7 ++ 0#25 : Word) = some ww := h
  cases h
  obtain ⟨f0, f1⟩ := fields_7_25 90#7 0#25
  generalize (90#7 ++ 0#25 : Word) = ww at *
  have key : ∀ l', decodeWord ww l' = some .ckpt := by
    intro l'
    simp only [decodeWord, decodeWord4, f0, f1, BitVec.reduceToNat, Nat.reduceLeDiff, ite_true, ite_false, BitVec.reduceEq, and_self, and_true, true_and, false_and, and_false]
  exact ⟨key _, congrArg (Option.map _) (key 0#32)⟩

theorem RoundTrip.gld : ∀ r d a o, RoundTrip.Statement (.gld r d a o) := by
  intro r d a o hw ww h
  have h : some (91#7 ++ r ++ d ++ a ++ o : Word) = some ww := h
  cases h
  obtain ⟨f0, f1, f2, f3, f4⟩ := fields_7_1_8_8_8 91#7 r d a o
  generalize (91#7 ++ r ++ d ++ a ++ o : Word) = ww at *
  have key : ∀ l', decodeWord ww l' = some (.gld r d a o) := by
    intro l'
    simp only [decodeWord, decodeWord4, f0, f1, f2, f3, f4, BitVec.reduceToNat, Nat.reduceLeDiff, ite_true, ite_false, BitVec.reduceEq, and_self, and_true, true_and, false_and, and_false]
  exact ⟨key _, congrArg (Option.map _) (key 0#32)⟩

theorem RoundTrip.gst : ∀ r s1 a o l, RoundTrip.Statement (.gst r s1 a o l) := by
  intro r s1 a o l hw ww h
  have h : some (92#7 ++ r ++ s1 ++ a ++ o : Word) = some ww := h
  cases h
  obtain ⟨f0, f1, f2, f3, f4⟩ := fields_7_1_8_8_8 92#7 r s1 a o
  generalize (92#7 ++ r ++ s1 ++ a ++ o : Word) = ww at *
  have hl := litWf_of_wf hw
  have key : ∀ l', decodeWord ww l' = some (.gst r s1 a o (litOf (Instr.hasLiteral (.gst r s1 a o l)) l')) := by
    intro l'
    simp only [decodeWord, decodeWord4, f0, f1, f2, f3, f4, BitVec.reduceToNat, Nat.reduceLeDiff, ite_true, ite_false, BitVec.reduceEq, and_self, and_true, true_and, false_and, and_false]
    rfl
  exact ⟨(key l).trans (congrArg _ (congrArg _ (litOf_wf hl))), congrArg (Option.map _) (key 0#32)⟩

theorem RoundTrip.fencePour : RoundTrip.Statement .fencePour := by
  intro hw ww h
  have h : some (93#7 ++ 0#25 : Word) = some ww := h
  cases h
  obtain ⟨f0, f1⟩ := fields_7_25 93#7 0#25
  generalize (93#7 ++ 0#25 : Word) = ww at *
  have key : ∀ l', decodeWord ww l' = some .fencePour := by
    intro l'
    simp only [decodeWord, decodeWord4, f0, f1, BitVec.reduceToNat, Nat.reduceLeDiff, ite_true, ite_false, BitVec.reduceEq, and_self, and_true, true_and, false_and, and_false]
  exact ⟨key _, congrArg (Option.map _) (key 0#32)⟩

theorem RoundTrip.fenceDev : RoundTrip.Statement .fenceDev := by
  intro hw ww h
  have h : some (93#7 ++ 1#25 : Word) = some ww := h
  cases h
  obtain ⟨f0, f1⟩ := fields_7_25 93#7 1#25
  generalize (93#7 ++ 1#25 : Word) = ww at *
  have key : ∀ l', decodeWord ww l' = some .fenceDev := by
    intro l'
    simp only [decodeWord, decodeWord4, f0, f1, BitVec.reduceToNat, Nat.reduceLeDiff, ite_true, ite_false, BitVec.reduceEq, and_self, and_true, true_and, false_and, and_false]
  exact ⟨key _, congrArg (Option.map _) (key 0#32)⟩

theorem RoundTrip.rcopy : ∀ d a, RoundTrip.Statement (.rcopy d a) := by
  intro d a hw ww h
  have h : some (94#7 ++ 0#1 ++ d ++ a ++ 0#8 : Word) = some ww := h
  cases h
  obtain ⟨f0, f1, f2, f3, f4⟩ := fields_7_1_8_8_8 94#7 0#1 d a 0#8
  generalize (94#7 ++ 0#1 ++ d ++ a ++ 0#8 : Word) = ww at *
  have key : ∀ l', decodeWord ww l' = some (.rcopy d a) := by
    intro l'
    simp only [decodeWord, decodeWord4, f0, f1, f2, f3, f4, BitVec.reduceToNat, Nat.reduceLeDiff, ite_true, ite_false, BitVec.reduceEq, and_self, and_true, true_and, false_and, and_false]
  exact ⟨key _, congrArg (Option.map _) (key 0#32)⟩

theorem RoundTrip.rpat : ∀ d a, RoundTrip.Statement (.rpat d a) := by
  intro d a hw ww h
  have h : some (95#7 ++ 0#1 ++ d ++ a ++ 0#8 : Word) = some ww := h
  cases h
  obtain ⟨f0, f1, f2, f3, f4⟩ := fields_7_1_8_8_8 95#7 0#1 d a 0#8
  generalize (95#7 ++ 0#1 ++ d ++ a ++ 0#8 : Word) = ww at *
  have key : ∀ l', decodeWord ww l' = some (.rpat d a) := by
    intro l'
    simp only [decodeWord, decodeWord4, f0, f1, f2, f3, f4, BitVec.reduceToNat, Nat.reduceLeDiff, ite_true, ite_false, BitVec.reduceEq, and_self, and_true, true_and, false_and, and_false]
  exact ⟨key _, congrArg (Option.map _) (key 0#32)⟩

theorem RoundTrip.put : ∀ d a, RoundTrip.Statement (.put d a) := by
  intro d a hw ww h
  have h : some (96#7 ++ 0#1 ++ d ++ a ++ 0#8 : Word) = some ww := h
  cases h
  obtain ⟨f0, f1, f2, f3, f4⟩ := fields_7_1_8_8_8 96#7 0#1 d a 0#8
  generalize (96#7 ++ 0#1 ++ d ++ a ++ 0#8 : Word) = ww at *
  have key : ∀ l', decodeWord ww l' = some (.put d a) := by
    intro l'
    simp only [decodeWord, decodeWord5, f0, f1, f2, f3, f4, BitVec.reduceToNat, Nat.reduceLeDiff, ite_true, ite_false, BitVec.reduceEq, and_self, and_true, true_and, false_and, and_false]
  exact ⟨key _, congrArg (Option.map _) (key 0#32)⟩

theorem RoundTrip.wwait : ∀ a b l, RoundTrip.Statement (.wwait a b l) := by
  intro a b l hw ww h
  have h : some (97#7 ++ 0#9 ++ a ++ b : Word) = some ww := h
  cases h
  obtain ⟨f0, f1, f2, f3⟩ := fields_7_9_8_8 97#7 0#9 a b
  generalize (97#7 ++ 0#9 ++ a ++ b : Word) = ww at *
  have hl := litWf_of_wf hw
  have key : ∀ l', decodeWord ww l' = some (.wwait a b (litOf (Instr.hasLiteral (.wwait a b l)) l')) := by
    intro l'
    simp only [decodeWord, decodeWord5, f0, f1, f2, f3, BitVec.reduceToNat, Nat.reduceLeDiff, ite_true, ite_false, BitVec.reduceEq, and_self, and_true, true_and, false_and, and_false]
    rfl
  exact ⟨(key l).trans (congrArg _ (congrArg _ (litOf_wf hl))), congrArg (Option.map _) (key 0#32)⟩

theorem RoundTrip.shld : ∀ n a, RoundTrip.Statement (.shld n a) := by
  intro n a hw ww h
  have h : some (98#7 ++ 0#5 ++ n ++ a ++ 0#8 : Word) = some ww := h
  cases h
  obtain ⟨f0, f1, f2, f3, f4⟩ := fields_7_5_4_8_8 98#7 0#5 n a 0#8
  generalize (98#7 ++ 0#5 ++ n ++ a ++ 0#8 : Word) = ww at *
  have key : ∀ l', decodeWord ww l' = some (.shld n a) := by
    intro l'
    simp only [decodeWord, decodeWord5, f0, f1, f2, f3, f4, BitVec.reduceToNat, Nat.reduceLeDiff, ite_true, ite_false, BitVec.reduceEq, and_self, and_true, true_and, false_and, and_false]
  exact ⟨key _, congrArg (Option.map _) (key 0#32)⟩

theorem RoundTrip.shst : ∀ n a, RoundTrip.Statement (.shst n a) := by
  intro n a hw ww h
  have h : some (99#7 ++ 0#5 ++ n ++ a ++ 0#8 : Word) = some ww := h
  cases h
  obtain ⟨f0, f1, f2, f3, f4⟩ := fields_7_5_4_8_8 99#7 0#5 n a 0#8
  generalize (99#7 ++ 0#5 ++ n ++ a ++ 0#8 : Word) = ww at *
  have key : ∀ l', decodeWord ww l' = some (.shst n a) := by
    intro l'
    simp only [decodeWord, decodeWord5, f0, f1, f2, f3, f4, BitVec.reduceToNat, Nat.reduceLeDiff, ite_true, ite_false, BitVec.reduceEq, and_self, and_true, true_and, false_and, and_false]
  exact ⟨key _, congrArg (Option.map _) (key 0#32)⟩

theorem RoundTrip.shset : ∀ n a b l, RoundTrip.Statement (.shset n a b l) := by
  intro n a b l hw ww h
  have h : some (100#7 ++ 0#5 ++ n ++ a ++ b : Word) = some ww := h
  cases h
  obtain ⟨f0, f1, f2, f3, f4⟩ := fields_7_5_4_8_8 100#7 0#5 n a b
  generalize (100#7 ++ 0#5 ++ n ++ a ++ b : Word) = ww at *
  have hl := litWf_of_wf hw
  have key : ∀ l', decodeWord ww l' = some (.shset n a b (litOf (Instr.hasLiteral (.shset n a b l)) l')) := by
    intro l'
    simp only [decodeWord, decodeWord5, f0, f1, f2, f3, f4, BitVec.reduceToNat, Nat.reduceLeDiff, ite_true, ite_false, BitVec.reduceEq, and_self, and_true, true_and, false_and, and_false]
    rfl
  exact ⟨(key l).trans (congrArg _ (congrArg _ (litOf_wf hl))), congrArg (Option.map _) (key 0#32)⟩

theorem RoundTrip.shget : ∀ d n b l, RoundTrip.Statement (.shget d n b l) := by
  intro d n b l hw ww h
  have h : some (101#7 ++ 0#1 ++ d ++ 0#4 ++ n ++ b : Word) = some ww := h
  cases h
  obtain ⟨f0, f1, f2, f3, f4, f5⟩ := fields_7_1_8_4_4_8 101#7 0#1 d 0#4 n b
  generalize (101#7 ++ 0#1 ++ d ++ 0#4 ++ n ++ b : Word) = ww at *
  have hl := litWf_of_wf hw
  have key : ∀ l', decodeWord ww l' = some (.shget d n b (litOf (Instr.hasLiteral (.shget d n b l)) l')) := by
    intro l'
    simp only [decodeWord, decodeWord5, f0, f1, f2, f3, f4, f5, BitVec.reduceToNat, Nat.reduceLeDiff, ite_true, ite_false, BitVec.reduceEq, and_self, and_true, true_and, false_and, and_false]
    rfl
  exact ⟨(key l).trans (congrArg _ (congrArg _ (litOf_wf hl))), congrArg (Option.map _) (key 0#32)⟩

theorem RoundTrip.mldw : ∀ a b l, RoundTrip.Statement (.mldw a b l) := by
  intro a b l hw ww h
  have h : some (102#7 ++ 0#9 ++ a ++ b : Word) = some ww := h
  cases h
  obtain ⟨f0, f1, f2, f3⟩ := fields_7_9_8_8 102#7 0#9 a b
  generalize (102#7 ++ 0#9 ++ a ++ b : Word) = ww at *
  have hl := litWf_of_wf hw
  have key : ∀ l', decodeWord ww l' = some (.mldw a b (litOf (Instr.hasLiteral (.mldw a b l)) l')) := by
    intro l'
    simp only [decodeWord, decodeWord5, f0, f1, f2, f3, BitVec.reduceToNat, Nat.reduceLeDiff, ite_true, ite_false, BitVec.reduceEq, and_self, and_true, true_and, false_and, and_false]
    rfl
  exact ⟨(key l).trans (congrArg _ (congrArg _ (litOf_wf hl))), congrArg (Option.map _) (key 0#32)⟩

theorem RoundTrip.mmul : ∀ d a b l, RoundTrip.Statement (.mmul d a b l) := by
  intro d a b l hw ww h
  have h : some (103#7 ++ 0#6 ++ d ++ a ++ b : Word) = some ww := h
  cases h
  obtain ⟨f0, f1, f2, f3, f4⟩ := fields_7_6_3_8_8 103#7 0#6 d a b
  generalize (103#7 ++ 0#6 ++ d ++ a ++ b : Word) = ww at *
  have hl := litWf_of_wf hw
  have key : ∀ l', decodeWord ww l' = some (.mmul d a b (litOf (Instr.hasLiteral (.mmul d a b l)) l')) := by
    intro l'
    simp only [decodeWord, decodeWord5, f0, f1, f2, f3, f4, BitVec.reduceToNat, Nat.reduceLeDiff, ite_true, ite_false, BitVec.reduceEq, and_self, and_true, true_and, false_and, and_false]
    rfl
  exact ⟨(key l).trans (congrArg _ (congrArg _ (litOf_wf hl))), congrArg (Option.map _) (key 0#32)⟩

theorem RoundTrip.mmulResume : ∀ d a b l, RoundTrip.Statement (.mmulResume d a b l) := by
  intro d a b l hw ww h
  have h : some (103#7 ++ 32#6 ++ d ++ a ++ b : Word) = some ww := h
  cases h
  obtain ⟨f0, f1, f2, f3, f4⟩ := fields_7_6_3_8_8 103#7 32#6 d a b
  generalize (103#7 ++ 32#6 ++ d ++ a ++ b : Word) = ww at *
  have hl := litWf_of_wf hw
  have key : ∀ l', decodeWord ww l' = some (.mmulResume d a b (litOf (Instr.hasLiteral (.mmulResume d a b l)) l')) := by
    intro l'
    simp only [decodeWord, decodeWord5, f0, f1, f2, f3, f4, BitVec.reduceToNat, Nat.reduceLeDiff, ite_true, ite_false, BitVec.reduceEq, and_self, and_true, true_and, false_and, and_false]
    rfl
  exact ⟨(key l).trans (congrArg _ (congrArg _ (litOf_wf hl))), congrArg (Option.map _) (key 0#32)⟩

theorem RoundTrip.mdrain : ∀ d a, RoundTrip.Statement (.mdrain d a) := by
  intro d a hw ww h
  have h : some (104#7 ++ 0#6 ++ d ++ a ++ 0#8 : Word) = some ww := h
  cases h
  obtain ⟨f0, f1, f2, f3, f4⟩ := fields_7_6_3_8_8 104#7 0#6 d a 0#8
  generalize (104#7 ++ 0#6 ++ d ++ a ++ 0#8 : Word) = ww at *
  have key : ∀ l', decodeWord ww l' = some (.mdrain d a) := by
    intro l'
    simp only [decodeWord, decodeWord5, f0, f1, f2, f3, f4, BitVec.reduceToNat, Nat.reduceLeDiff, ite_true, ite_false, BitVec.reduceEq, and_self, and_true, true_and, false_and, and_false]
  exact ⟨key _, congrArg (Option.map _) (key 0#32)⟩

theorem RoundTrip.mzero : ∀ d l, RoundTrip.Statement (.mzero d l) := by
  intro d l hw ww h
  have h : some (105#7 ++ 0#6 ++ d ++ 0#5 ++ l ++ 0#8 : Word) = some ww := h
  cases h
  obtain ⟨f0, f1, f2, f3, f4, f5⟩ := fields_7_6_3_5_3_8 105#7 0#6 d 0#5 l 0#8
  generalize (105#7 ++ 0#6 ++ d ++ 0#5 ++ l ++ 0#8 : Word) = ww at *
  have key : ∀ l', decodeWord ww l' = some (.mzero d l) := by
    intro l'
    simp only [decodeWord, decodeWord5, f0, f1, f2, f3, f4, f5, BitVec.reduceToNat, Nat.reduceLeDiff, ite_true, ite_false, BitVec.reduceEq, and_self, and_true, true_and, false_and, and_false]
  exact ⟨key _, congrArg (Option.map _) (key 0#32)⟩

theorem RoundTrip.mspill : ∀ d a, RoundTrip.Statement (.mspill d a) := by
  intro d a hw ww h
  have h : some (106#7 ++ 0#6 ++ d ++ a ++ 0#8 : Word) = some ww := h
  cases h
  obtain ⟨f0, f1, f2, f3, f4⟩ := fields_7_6_3_8_8 106#7 0#6 d a 0#8
  generalize (106#7 ++ 0#6 ++ d ++ a ++ 0#8 : Word) = ww at *
  have key : ∀ l', decodeWord ww l' = some (.mspill d a) := by
    intro l'
    simp only [decodeWord, decodeWord5, f0, f1, f2, f3, f4, BitVec.reduceToNat, Nat.reduceLeDiff, ite_true, ite_false, BitVec.reduceEq, and_self, and_true, true_and, false_and, and_false]
  exact ⟨key _, congrArg (Option.map _) (key 0#32)⟩

theorem RoundTrip.mfill : ∀ d a, RoundTrip.Statement (.mfill d a) := by
  intro d a hw ww h
  have h : some (107#7 ++ 0#6 ++ d ++ a ++ 0#8 : Word) = some ww := h
  cases h
  obtain ⟨f0, f1, f2, f3, f4⟩ := fields_7_6_3_8_8 107#7 0#6 d a 0#8
  generalize (107#7 ++ 0#6 ++ d ++ a ++ 0#8 : Word) = ww at *
  have key : ∀ l', decodeWord ww l' = some (.mfill d a) := by
    intro l'
    simp only [decodeWord, decodeWord5, f0, f1, f2, f3, f4, BitVec.reduceToNat, Nat.reduceLeDiff, ite_true, ite_false, BitVec.reduceEq, and_self, and_true, true_and, false_and, and_false]
  exact ⟨key _, congrArg (Option.map _) (key 0#32)⟩

theorem RoundTrip.trap : ∀ c, RoundTrip.Statement (.trap c) := by
  intro c hw ww h
  have h : some (108#7 ++ 0#17 ++ c : Word) = some ww := h
  cases h
  obtain ⟨f0, f1, f2⟩ := fields_7_17_8 108#7 0#17 c
  generalize (108#7 ++ 0#17 ++ c : Word) = ww at *
  have key : ∀ l', decodeWord ww l' = some (.trap c) := by
    intro l'
    simp only [decodeWord, decodeWord5, f0, f1, f2, BitVec.reduceToNat, Nat.reduceLeDiff, ite_true, ite_false, BitVec.reduceEq, and_self, and_true, true_and, false_and, and_false]
  exact ⟨key _, congrArg (Option.map _) (key 0#32)⟩

theorem RoundTrip.hret : RoundTrip.Statement .hret := by
  intro hw ww h
  have h : some (109#7 ++ 0#25 : Word) = some ww := h
  cases h
  obtain ⟨f0, f1⟩ := fields_7_25 109#7 0#25
  generalize (109#7 ++ 0#25 : Word) = ww at *
  have key : ∀ l', decodeWord ww l' = some .hret := by
    intro l'
    simp only [decodeWord, decodeWord5, f0, f1, BitVec.reduceToNat, Nat.reduceLeDiff, ite_true, ite_false, BitVec.reduceEq, and_self, and_true, true_and, false_and, and_false]
  exact ⟨key _, congrArg (Option.map _) (key 0#32)⟩

theorem RoundTrip.get : ∀ d r, RoundTrip.Statement (.get d r) := by
  intro d r hw ww h
  have h : some (110#7 ++ 0#1 ++ d ++ 0#8 ++ r : Word) = some ww := h
  cases h
  obtain ⟨f0, f1, f2, f3, f4⟩ := fields_7_1_8_8_8 110#7 0#1 d 0#8 r
  generalize (110#7 ++ 0#1 ++ d ++ 0#8 ++ r : Word) = ww at *
  have key : ∀ l', decodeWord ww l' = some (.get d r) := by
    intro l'
    simp only [decodeWord, decodeWord5, f0, f1, f2, f3, f4, BitVec.reduceToNat, Nat.reduceLeDiff, ite_true, ite_false, BitVec.reduceEq, and_self, and_true, true_and, false_and, and_false]
  exact ⟨key _, congrArg (Option.map _) (key 0#32)⟩

theorem RoundTrip.set : ∀ a r l, RoundTrip.Statement (.set a r l) := by
  intro a r l hw ww h
  have h : some (111#7 ++ 0#9 ++ a ++ r : Word) = some ww := h
  cases h
  obtain ⟨f0, f1, f2, f3⟩ := fields_7_9_8_8 111#7 0#9 a r
  generalize (111#7 ++ 0#9 ++ a ++ r : Word) = ww at *
  have hl := litWf_of_wf hw
  have key : ∀ l', decodeWord ww l' = some (.set a r (litOf (Instr.hasLiteral (.set a r l)) l')) := by
    intro l'
    simp only [decodeWord, decodeWord5, f0, f1, f2, f3, BitVec.reduceToNat, Nat.reduceLeDiff, ite_true, ite_false, BitVec.reduceEq, and_self, and_true, true_and, false_and, and_false]
    rfl
  exact ⟨(key l).trans (congrArg _ (congrArg _ (litOf_wf hl))), congrArg (Option.map _) (key 0#32)⟩

theorem RoundTrip.bkpt : ∀ c, RoundTrip.Statement (.bkpt c) := by
  intro c hw ww h
  have h : some (112#7 ++ 0#17 ++ c : Word) = some ww := h
  cases h
  obtain ⟨f0, f1, f2⟩ := fields_7_17_8 112#7 0#17 c
  generalize (112#7 ++ 0#17 ++ c : Word) = ww at *
  have key : ∀ l', decodeWord ww l' = some (.bkpt c) := by
    intro l'
    simp only [decodeWord, decodeWord5, f0, f1, f2, BitVec.reduceToNat, Nat.reduceLeDiff, ite_true, ite_false, BitVec.reduceEq, and_self, and_true, true_and, false_and, and_false]
  exact ⟨key _, congrArg (Option.map _) (key 0#32)⟩

theorem RoundTrip.nop : RoundTrip.Statement .nop := by
  intro hw ww h
  have h : some (113#7 ++ 0#25 : Word) = some ww := h
  cases h
  obtain ⟨f0, f1⟩ := fields_7_25 113#7 0#25
  generalize (113#7 ++ 0#25 : Word) = ww at *
  have key : ∀ l', decodeWord ww l' = some .nop := by
    intro l'
    simp only [decodeWord, decodeWord5, f0, f1, BitVec.reduceToNat, Nat.reduceLeDiff, ite_true, ite_false, BitVec.reduceEq, and_self, and_true, true_and, false_and, and_false]
  exact ⟨key _, congrArg (Option.map _) (key 0#32)⟩

theorem RoundTrip.halt : RoundTrip.Statement .halt := by
  intro hw ww h
  have h : some (114#7 ++ 0#25 : Word) = some ww := h
  cases h
  obtain ⟨f0, f1⟩ := fields_7_25 114#7 0#25
  generalize (114#7 ++ 0#25 : Word) = ww at *
  have key : ∀ l', decodeWord ww l' = some .halt := by
    intro l'
    simp only [decodeWord, decodeWord5, f0, f1, BitVec.reduceToNat, Nat.reduceLeDiff, ite_true, ite_false, BitVec.reduceEq, and_self, and_true, true_and, false_and, and_false]
  exact ⟨key _, congrArg (Option.map _) (key 0#32)⟩

theorem RoundTrip.gadd : ∀ n d a b l, RoundTrip.Statement (.gadd n d a b l) := by
  intro n d a b l hw ww h
  have h : some (115#7 ++ n ++ d ++ a ++ b : Word) = some ww := h
  cases h
  obtain ⟨f0, f1, f2, f3, f4⟩ := fields_7_1_8_8_8 115#7 n d a b
  generalize (115#7 ++ n ++ d ++ a ++ b : Word) = ww at *
  have hl := litWf_of_wf hw
  have key : ∀ l', decodeWord ww l' = some (.gadd n d a b (litOf (Instr.hasLiteral (.gadd n d a b l)) l')) := by
    intro l'
    simp only [decodeWord, decodeWord5, f0, f1, f2, f3, f4, BitVec.reduceToNat, Nat.reduceLeDiff, ite_true, ite_false, BitVec.reduceEq, and_self, and_true, true_and, false_and, and_false]
    rfl
  exact ⟨(key l).trans (congrArg _ (congrArg _ (litOf_wf hl))), congrArg (Option.map _) (key 0#32)⟩

theorem RoundTrip.gsub : ∀ n d a b l, RoundTrip.Statement (.gsub n d a b l) := by
  intro n d a b l hw ww h
  have h : some (116#7 ++ n ++ d ++ a ++ b : Word) = some ww := h
  cases h
  obtain ⟨f0, f1, f2, f3, f4⟩ := fields_7_1_8_8_8 116#7 n d a b
  generalize (116#7 ++ n ++ d ++ a ++ b : Word) = ww at *
  have hl := litWf_of_wf hw
  have key : ∀ l', decodeWord ww l' = some (.gsub n d a b (litOf (Instr.hasLiteral (.gsub n d a b l)) l')) := by
    intro l'
    simp only [decodeWord, decodeWord5, f0, f1, f2, f3, f4, BitVec.reduceToNat, Nat.reduceLeDiff, ite_true, ite_false, BitVec.reduceEq, and_self, and_true, true_and, false_and, and_false]
    rfl
  exact ⟨(key l).trans (congrArg _ (congrArg _ (litOf_wf hl))), congrArg (Option.map _) (key 0#32)⟩

theorem RoundTrip.gmul : ∀ n d a b l, RoundTrip.Statement (.gmul n d a b l) := by
  intro n d a b l hw ww h
  have h : some (117#7 ++ n ++ d ++ a ++ b : Word) = some ww := h
  cases h
  obtain ⟨f0, f1, f2, f3, f4⟩ := fields_7_1_8_8_8 117#7 n d a b
  generalize (117#7 ++ n ++ d ++ a ++ b : Word) = ww at *
  have hl := litWf_of_wf hw
  have key : ∀ l', decodeWord ww l' = some (.gmul n d a b (litOf (Instr.hasLiteral (.gmul n d a b l)) l')) := by
    intro l'
    simp only [decodeWord, decodeWord5, f0, f1, f2, f3, f4, BitVec.reduceToNat, Nat.reduceLeDiff, ite_true, ite_false, BitVec.reduceEq, and_self, and_true, true_and, false_and, and_false]
    rfl
  exact ⟨(key l).trans (congrArg _ (congrArg _ (litOf_wf hl))), congrArg (Option.map _) (key 0#32)⟩

theorem RoundTrip.gand : ∀ n d a b l, RoundTrip.Statement (.gand n d a b l) := by
  intro n d a b l hw ww h
  have h : some (118#7 ++ n ++ d ++ a ++ b : Word) = some ww := h
  cases h
  obtain ⟨f0, f1, f2, f3, f4⟩ := fields_7_1_8_8_8 118#7 n d a b
  generalize (118#7 ++ n ++ d ++ a ++ b : Word) = ww at *
  have hl := litWf_of_wf hw
  have key : ∀ l', decodeWord ww l' = some (.gand n d a b (litOf (Instr.hasLiteral (.gand n d a b l)) l')) := by
    intro l'
    simp only [decodeWord, decodeWord5, f0, f1, f2, f3, f4, BitVec.reduceToNat, Nat.reduceLeDiff, ite_true, ite_false, BitVec.reduceEq, and_self, and_true, true_and, false_and, and_false]
    rfl
  exact ⟨(key l).trans (congrArg _ (congrArg _ (litOf_wf hl))), congrArg (Option.map _) (key 0#32)⟩

theorem RoundTrip.gor : ∀ n d a b l, RoundTrip.Statement (.gor n d a b l) := by
  intro n d a b l hw ww h
  have h : some (119#7 ++ n ++ d ++ a ++ b : Word) = some ww := h
  cases h
  obtain ⟨f0, f1, f2, f3, f4⟩ := fields_7_1_8_8_8 119#7 n d a b
  generalize (119#7 ++ n ++ d ++ a ++ b : Word) = ww at *
  have hl := litWf_of_wf hw
  have key : ∀ l', decodeWord ww l' = some (.gor n d a b (litOf (Instr.hasLiteral (.gor n d a b l)) l')) := by
    intro l'
    simp only [decodeWord, decodeWord5, f0, f1, f2, f3, f4, BitVec.reduceToNat, Nat.reduceLeDiff, ite_true, ite_false, BitVec.reduceEq, and_self, and_true, true_and, false_and, and_false]
    rfl
  exact ⟨(key l).trans (congrArg _ (congrArg _ (litOf_wf hl))), congrArg (Option.map _) (key 0#32)⟩

theorem RoundTrip.gxor : ∀ n d a b l, RoundTrip.Statement (.gxor n d a b l) := by
  intro n d a b l hw ww h
  have h : some (120#7 ++ n ++ d ++ a ++ b : Word) = some ww := h
  cases h
  obtain ⟨f0, f1, f2, f3, f4⟩ := fields_7_1_8_8_8 120#7 n d a b
  generalize (120#7 ++ n ++ d ++ a ++ b : Word) = ww at *
  have hl := litWf_of_wf hw
  have key : ∀ l', decodeWord ww l' = some (.gxor n d a b (litOf (Instr.hasLiteral (.gxor n d a b l)) l')) := by
    intro l'
    simp only [decodeWord, decodeWord6, f0, f1, f2, f3, f4, BitVec.reduceToNat, Nat.reduceLeDiff, ite_true, ite_false, BitVec.reduceEq, and_self, and_true, true_and, false_and, and_false]
    rfl
  exact ⟨(key l).trans (congrArg _ (congrArg _ (litOf_wf hl))), congrArg (Option.map _) (key 0#32)⟩

theorem RoundTrip.gshl : ∀ n d a b l, RoundTrip.Statement (.gshl n d a b l) := by
  intro n d a b l hw ww h
  have h : some (121#7 ++ n ++ d ++ a ++ b : Word) = some ww := h
  cases h
  obtain ⟨f0, f1, f2, f3, f4⟩ := fields_7_1_8_8_8 121#7 n d a b
  generalize (121#7 ++ n ++ d ++ a ++ b : Word) = ww at *
  have hl := litWf_of_wf hw
  have key : ∀ l', decodeWord ww l' = some (.gshl n d a b (litOf (Instr.hasLiteral (.gshl n d a b l)) l')) := by
    intro l'
    simp only [decodeWord, decodeWord6, f0, f1, f2, f3, f4, BitVec.reduceToNat, Nat.reduceLeDiff, ite_true, ite_false, BitVec.reduceEq, and_self, and_true, true_and, false_and, and_false]
    rfl
  exact ⟨(key l).trans (congrArg _ (congrArg _ (litOf_wf hl))), congrArg (Option.map _) (key 0#32)⟩

theorem RoundTrip.gshr : ∀ n d a b l, RoundTrip.Statement (.gshr n d a b l) := by
  intro n d a b l hw ww h
  have h : some (122#7 ++ n ++ d ++ a ++ b : Word) = some ww := h
  cases h
  obtain ⟨f0, f1, f2, f3, f4⟩ := fields_7_1_8_8_8 122#7 n d a b
  generalize (122#7 ++ n ++ d ++ a ++ b : Word) = ww at *
  have hl := litWf_of_wf hw
  have key : ∀ l', decodeWord ww l' = some (.gshr n d a b (litOf (Instr.hasLiteral (.gshr n d a b l)) l')) := by
    intro l'
    simp only [decodeWord, decodeWord6, f0, f1, f2, f3, f4, BitVec.reduceToNat, Nat.reduceLeDiff, ite_true, ite_false, BitVec.reduceEq, and_self, and_true, true_and, false_and, and_false]
    rfl
  exact ⟨(key l).trans (congrArg _ (congrArg _ (litOf_wf hl))), congrArg (Option.map _) (key 0#32)⟩

theorem RoundTrip.gsar : ∀ n d a b l, RoundTrip.Statement (.gsar n d a b l) := by
  intro n d a b l hw ww h
  have h : some (123#7 ++ n ++ d ++ a ++ b : Word) = some ww := h
  cases h
  obtain ⟨f0, f1, f2, f3, f4⟩ := fields_7_1_8_8_8 123#7 n d a b
  generalize (123#7 ++ n ++ d ++ a ++ b : Word) = ww at *
  have hl := litWf_of_wf hw
  have key : ∀ l', decodeWord ww l' = some (.gsar n d a b (litOf (Instr.hasLiteral (.gsar n d a b l)) l')) := by
    intro l'
    simp only [decodeWord, decodeWord6, f0, f1, f2, f3, f4, BitVec.reduceToNat, Nat.reduceLeDiff, ite_true, ite_false, BitVec.reduceEq, and_self, and_true, true_and, false_and, and_false]
    rfl
  exact ⟨(key l).trans (congrArg _ (congrArg _ (litOf_wf hl))), congrArg (Option.map _) (key 0#32)⟩

theorem RoundTrip.gaddi : ∀ n d a i l, RoundTrip.Statement (.gaddi n d a i l) := by
  intro n d a i l hw ww h
  have h : some (124#7 ++ n ++ d ++ a ++ i : Word) = some ww := h
  cases h
  obtain ⟨f0, f1, f2, f3, f4⟩ := fields_7_1_8_8_8 124#7 n d a i
  generalize (124#7 ++ n ++ d ++ a ++ i : Word) = ww at *
  have hl := litWf_of_wf hw
  have key : ∀ l', decodeWord ww l' = some (.gaddi n d a i (litOf (Instr.hasLiteral (.gaddi n d a i l)) l')) := by
    intro l'
    simp only [decodeWord, decodeWord6, f0, f1, f2, f3, f4, BitVec.reduceToNat, Nat.reduceLeDiff, ite_true, ite_false, BitVec.reduceEq, and_self, and_true, true_and, false_and, and_false]
    rfl
  exact ⟨(key l).trans (congrArg _ (congrArg _ (litOf_wf hl))), congrArg (Option.map _) (key 0#32)⟩

theorem RoundTrip.gcmps : ∀ c k a b l, RoundTrip.Statement (.gcmps c k a b l) := by
  intro c k a b l hw ww h
  have h : some (125#7 ++ 0#1 ++ c ++ k ++ a ++ b : Word) = some ww := h
  cases h
  obtain ⟨f0, f1, f2, f3, f4, f5⟩ := fields_7_1_4_4_8_8 125#7 0#1 c k a b
  generalize (125#7 ++ 0#1 ++ c ++ k ++ a ++ b : Word) = ww at *
  have hl := litWf_of_wf hw
  have key : ∀ l', decodeWord ww l' = some (.gcmps c k a b (litOf (Instr.hasLiteral (.gcmps c k a b l)) l')) := by
    intro l'
    simp only [decodeWord, decodeWord6, f0, f1, f2, f3, f4, f5, BitVec.reduceToNat, Nat.reduceLeDiff, ite_true, ite_false, BitVec.reduceEq, and_self, and_true, true_and, false_and, and_false]
    rfl
  exact ⟨(key l).trans (congrArg _ (congrArg _ (litOf_wf hl))), congrArg (Option.map _) (key 0#32)⟩

theorem RoundTrip.gcmpz : ∀ c k a b l, RoundTrip.Statement (.gcmpz c k a b l) := by
  intro c k a b l hw ww h
  have h : some (125#7 ++ 1#1 ++ c ++ k ++ a ++ b : Word) = some ww := h
  cases h
  obtain ⟨f0, f1, f2, f3, f4, f5⟩ := fields_7_1_4_4_8_8 125#7 1#1 c k a b
  generalize (125#7 ++ 1#1 ++ c ++ k ++ a ++ b : Word) = ww at *
  have hl := litWf_of_wf hw
  have key : ∀ l', decodeWord ww l' = some (.gcmpz c k a b (litOf (Instr.hasLiteral (.gcmpz c k a b l)) l')) := by
    intro l'
    simp only [decodeWord, decodeWord6, f0, f1, f2, f3, f4, f5, BitVec.reduceToNat, Nat.reduceLeDiff, ite_true, ite_false, BitVec.reduceEq, and_self, and_true, true_and, false_and, and_false]
    rfl
  exact ⟨(key l).trans (congrArg _ (congrArg _ (litOf_wf hl))), congrArg (Option.map _) (key 0#32)⟩

theorem RoundTrip.gadd64 : ∀ n d a b l, RoundTrip.Statement (.gadd64 n d a b l) := by
  intro n d a b l hw ww h
  have h : some (126#7 ++ n ++ d ++ a ++ b : Word) = some ww := h
  cases h
  obtain ⟨f0, f1, f2, f3, f4⟩ := fields_7_1_8_8_8 126#7 n d a b
  generalize (126#7 ++ n ++ d ++ a ++ b : Word) = ww at *
  have hl := litWf_of_wf hw
  have key : ∀ l', decodeWord ww l' = some (.gadd64 n d a b (litOf (Instr.hasLiteral (.gadd64 n d a b l)) l')) := by
    intro l'
    simp only [decodeWord, decodeWord6, f0, f1, f2, f3, f4, BitVec.reduceToNat, Nat.reduceLeDiff, ite_true, ite_false, BitVec.reduceEq, and_self, and_true, true_and, false_and, and_false]
    rfl
  exact ⟨(key l).trans (congrArg _ (congrArg _ (litOf_wf hl))), congrArg (Option.map _) (key 0#32)⟩

theorem RoundTrip.cldy : ∀ d a b s1 f, RoundTrip.Statement (.cldy d a b s1 f) := by
  intro d a b s1 f hw ww h
  have h : some (0#5 ++ d ++ a ++ b ++ 0#3 ++ s1 ++ f : Word) = some ww := h
  cases h
  obtain ⟨f0, f1, f2, f3, f4, f5, f6⟩ := fields_5_5_5_5_3_1_8 0#5 d a b 0#3 s1 f
  generalize (0#5 ++ d ++ a ++ b ++ 0#3 ++ s1 ++ f : Word) = ww at *
  show decodeCrucible ww = some (.cldy d a b s1 f)
  simp only [decodeCrucible, decodeCrucible1, f0, f1, f2, f3, f4, f5, f6, BitVec.reduceToNat, Nat.reduceLeDiff, ite_true, ite_false, BitVec.reduceEq, and_self, and_true, true_and, false_and, and_false]

theorem RoundTrip.csty : ∀ d a b m s1 f, RoundTrip.Statement (.csty d a b m s1 f) := by
  intro d a b m s1 f hw ww h
  have h : some (1#5 ++ d ++ a ++ b ++ m ++ s1 ++ f : Word) = some ww := h
  cases h
  obtain ⟨f0, f1, f2, f3, f4, f5, f6⟩ := fields_5_5_5_5_3_1_8 1#5 d a b m s1 f
  generalize (1#5 ++ d ++ a ++ b ++ m ++ s1 ++ f : Word) = ww at *
  show decodeCrucible ww = some (.csty d a b m s1 f)
  simp only [decodeCrucible, decodeCrucible1, f0, f1, f2, f3, f4, f5, f6, BitVec.reduceToNat, Nat.reduceLeDiff, ite_true, ite_false, BitVec.reduceEq, and_self, and_true, true_and, false_and, and_false]

theorem RoundTrip.cldc : ∀ d a i, RoundTrip.Statement (.cldc d a i) := by
  intro d a i hw ww h
  have h : some (2#5 ++ d ++ a ++ i : Word) = some ww := h
  cases h
  obtain ⟨f0, f1, f2, f3⟩ := fields_5_5_5_17 2#5 d a i
  generalize (2#5 ++ d ++ a ++ i : Word) = ww at *
  show decodeCrucible ww = some (.cldc d a i)
  simp only [decodeCrucible, decodeCrucible1, f0, f1, f2, f3, BitVec.reduceToNat, Nat.reduceLeDiff, ite_true, ite_false, BitVec.reduceEq, and_self, and_true, true_and, false_and, and_false]

theorem RoundTrip.cmovc : ∀ d a u, RoundTrip.Statement (.cmovc d a u) := by
  intro d a u hw ww h
  have h : some (3#5 ++ d ++ a ++ 0#1 ++ u : Word) = some ww := h
  cases h
  obtain ⟨f0, f1, f2, f3, f4⟩ := fields_5_5_5_1_16 3#5 d a 0#1 u
  generalize (3#5 ++ d ++ a ++ 0#1 ++ u : Word) = ww at *
  show decodeCrucible ww = some (.cmovc d a u)
  simp only [decodeCrucible, decodeCrucible1, f0, f1, f2, f3, f4, BitVec.reduceToNat, Nat.reduceLeDiff, ite_true, ite_false, BitVec.reduceEq, and_self, and_true, true_and, false_and, and_false]

theorem RoundTrip.caddc : ∀ d a b s1, RoundTrip.Statement (.caddc d a b s1) := by
  intro d a b s1 hw ww h
  have h : some (4#5 ++ d ++ a ++ b ++ s1 : Word) = some ww := h
  cases h
  obtain ⟨f0, f1, f2, f3, f4⟩ := fields_5_5_5_5_12 4#5 d a b s1
  generalize (4#5 ++ d ++ a ++ b ++ s1 : Word) = ww at *
  show decodeCrucible ww = some (.caddc d a b s1)
  simp only [decodeCrucible, decodeCrucible1, f0, f1, f2, f3, f4, BitVec.reduceToNat, Nat.reduceLeDiff, ite_true, ite_false, BitVec.reduceEq, and_self, and_true, true_and, false_and, and_false]

theorem RoundTrip.csubc : ∀ d a b, RoundTrip.Statement (.csubc d a b) := by
  intro d a b hw ww h
  have h : some (5#5 ++ d ++ a ++ b ++ 0#12 : Word) = some ww := h
  cases h
  obtain ⟨f0, f1, f2, f3, f4⟩ := fields_5_5_5_5_12 5#5 d a b 0#12
  generalize (5#5 ++ d ++ a ++ b ++ 0#12 : Word) = ww at *
  show decodeCrucible ww = some (.csubc d a b)
  simp only [decodeCrucible, decodeCrucible1, f0, f1, f2, f3, f4, BitVec.reduceToNat, Nat.reduceLeDiff, ite_true, ite_false, BitVec.reduceEq, and_self, and_true, true_and, false_and, and_false]

theorem RoundTrip.cmulc : ∀ d a b, RoundTrip.Statement (.cmulc d a b) := by
  intro d a b hw ww h
  have h : some (6#5 ++ d ++ a ++ b ++ 0#12 : Word) = some ww := h
  cases h
  obtain ⟨f0, f1, f2, f3, f4⟩ := fields_5_5_5_5_12 6#5 d a b 0#12
  generalize (6#5 ++ d ++ a ++ b ++ 0#12 : Word) = ww at *
  show decodeCrucible ww = some (.cmulc d a b)
  simp only [decodeCrucible, decodeCrucible1, f0, f1, f2, f3, f4, BitVec.reduceToNat, Nat.reduceLeDiff, ite_true, ite_false, BitVec.reduceEq, and_self, and_true, true_and, false_and, and_false]

theorem RoundTrip.cbnz : ∀ a o, RoundTrip.Statement (.cbnz a o) := by
  intro a o hw ww h
  have h : some (7#5 ++ a ++ o : Word) = some ww := h
  cases h
  obtain ⟨f0, f1, f2⟩ := fields_5_5_22 7#5 a o
  generalize (7#5 ++ a ++ o : Word) = ww at *
  show decodeCrucible ww = some (.cbnz a o)
  simp only [decodeCrucible, decodeCrucible1, f0, f1, f2, BitVec.reduceToNat, Nat.reduceLeDiff, ite_true, ite_false, BitVec.reduceEq, and_self, and_true, true_and, false_and, and_false]

theorem RoundTrip.cjmp : ∀ o, RoundTrip.Statement (.cjmp o) := by
  intro o hw ww h
  have h : some (8#5 ++ 0#5 ++ o : Word) = some ww := h
  cases h
  obtain ⟨f0, f1, f2⟩ := fields_5_5_22 8#5 0#5 o
  generalize (8#5 ++ 0#5 ++ o : Word) = ww at *
  show decodeCrucible ww = some (.cjmp o)
  simp only [decodeCrucible, decodeCrucible1, f0, f1, f2, BitVec.reduceToNat, Nat.reduceLeDiff, ite_true, ite_false, BitVec.reduceEq, and_self, and_true, true_and, false_and, and_false]

theorem RoundTrip.cfma : ∀ d a b, RoundTrip.Statement (.cfma d a b) := by
  intro d a b hw ww h
  have h : some (9#5 ++ d ++ a ++ b ++ 0#12 : Word) = some ww := h
  cases h
  obtain ⟨f0, f1, f2, f3, f4⟩ := fields_5_5_5_5_12 9#5 d a b 0#12
  generalize (9#5 ++ d ++ a ++ b ++ 0#12 : Word) = ww at *
  show decodeCrucible ww = some (.cfma d a b)
  simp only [decodeCrucible, decodeCrucible1, f0, f1, f2, f3, f4, BitVec.reduceToNat, Nat.reduceLeDiff, ite_true, ite_false, BitVec.reduceEq, and_self, and_true, true_and, false_and, and_false]

theorem RoundTrip.cmul : ∀ d a b, RoundTrip.Statement (.cmul d a b) := by
  intro d a b hw ww h
  have h : some (10#5 ++ d ++ a ++ b ++ 0#12 : Word) = some ww := h
  cases h
  obtain ⟨f0, f1, f2, f3, f4⟩ := fields_5_5_5_5_12 10#5 d a b 0#12
  generalize (10#5 ++ d ++ a ++ b ++ 0#12 : Word) = ww at *
  show decodeCrucible ww = some (.cmul d a b)
  simp only [decodeCrucible, decodeCrucible1, f0, f1, f2, f3, f4, BitVec.reduceToNat, Nat.reduceLeDiff, ite_true, ite_false, BitVec.reduceEq, and_self, and_true, true_and, false_and, and_false]

theorem RoundTrip.cadd : ∀ d a b, RoundTrip.Statement (.cadd d a b) := by
  intro d a b hw ww h
  have h : some (11#5 ++ d ++ a ++ b ++ 0#12 : Word) = some ww := h
  cases h
  obtain ⟨f0, f1, f2, f3, f4⟩ := fields_5_5_5_5_12 11#5 d a b 0#12
  generalize (11#5 ++ d ++ a ++ b ++ 0#12 : Word) = ww at *
  show decodeCrucible ww = some (.cadd d a b)
  simp only [decodeCrucible, decodeCrucible1, f0, f1, f2, f3, f4, BitVec.reduceToNat, Nat.reduceLeDiff, ite_true, ite_false, BitVec.reduceEq, and_self, and_true, true_and, false_and, and_false]

theorem RoundTrip.csub : ∀ d a b, RoundTrip.Statement (.csub d a b) := by
  intro d a b hw ww h
  have h : some (12#5 ++ d ++ a ++ b ++ 0#12 : Word) = some ww := h
  cases h
  obtain ⟨f0, f1, f2, f3, f4⟩ := fields_5_5_5_5_12 12#5 d a b 0#12
  generalize (12#5 ++ d ++ a ++ b ++ 0#12 : Word) = ww at *
  show decodeCrucible ww = some (.csub d a b)
  simp only [decodeCrucible, decodeCrucible1, f0, f1, f2, f3, f4, BitVec.reduceToNat, Nat.reduceLeDiff, ite_true, ite_false, BitVec.reduceEq, and_self, and_true, true_and, false_and, and_false]

theorem RoundTrip.cmax : ∀ d a b, RoundTrip.Statement (.cmax d a b) := by
  intro d a b hw ww h
  have h : some (13#5 ++ d ++ a ++ b ++ 0#12 : Word) = some ww := h
  cases h
  obtain ⟨f0, f1, f2, f3, f4⟩ := fields_5_5_5_5_12 13#5 d a b 0#12
  generalize (13#5 ++ d ++ a ++ b ++ 0#12 : Word) = ww at *
  show decodeCrucible ww = some (.cmax d a b)
  simp only [decodeCrucible, decodeCrucible1, f0, f1, f2, f3, f4, BitVec.reduceToNat, Nat.reduceLeDiff, ite_true, ite_false, BitVec.reduceEq, and_self, and_true, true_and, false_and, and_false]

theorem RoundTrip.cmin : ∀ d a b, RoundTrip.Statement (.cmin d a b) := by
  intro d a b hw ww h
  have h : some (14#5 ++ d ++ a ++ b ++ 0#12 : Word) = some ww := h
  cases h
  obtain ⟨f0, f1, f2, f3, f4⟩ := fields_5_5_5_5_12 14#5 d a b 0#12
  generalize (14#5 ++ d ++ a ++ b ++ 0#12 : Word) = ww at *
  show decodeCrucible ww = some (.cmin d a b)
  simp only [decodeCrucible, decodeCrucible1, f0, f1, f2, f3, f4, BitVec.reduceToNat, Nat.reduceLeDiff, ite_true, ite_false, BitVec.reduceEq, and_self, and_true, true_and, false_and, and_false]

theorem RoundTrip.crsq : ∀ d a, RoundTrip.Statement (.crsq d a) := by
  intro d a hw ww h
  have h : some (15#5 ++ d ++ a ++ 0#17 : Word) = some ww := h
  cases h
  obtain ⟨f0, f1, f2, f3⟩ := fields_5_5_5_17 15#5 d a 0#17
  generalize (15#5 ++ d ++ a ++ 0#17 : Word) = ww at *
  show decodeCrucible ww = some (.crsq d a)
  simp only [decodeCrucible, decodeCrucible1, f0, f1, f2, f3, BitVec.reduceToNat, Nat.reduceLeDiff, ite_true, ite_false, BitVec.reduceEq, and_self, and_true, true_and, false_and, and_false]

theorem RoundTrip.csqrt : ∀ d a, RoundTrip.Statement (.csqrt d a) := by
  intro d a hw ww h
  have h : some (16#5 ++ d ++ a ++ 0#17 : Word) = some ww := h
  cases h
  obtain ⟨f0, f1, f2, f3⟩ := fields_5_5_5_17 16#5 d a 0#17
  generalize (16#5 ++ d ++ a ++ 0#17 : Word) = ww at *
  show decodeCrucible ww = some (.csqrt d a)
  simp only [decodeCrucible, decodeCrucible1, f0, f1, f2, f3, BitVec.reduceToNat, Nat.reduceLeDiff, ite_true, ite_false, BitVec.reduceEq, and_self, and_true, true_and, false_and, and_false]

theorem RoundTrip.csplat : ∀ d a, RoundTrip.Statement (.csplat d a) := by
  intro d a hw ww h
  have h : some (17#5 ++ d ++ a ++ 0#17 : Word) = some ww := h
  cases h
  obtain ⟨f0, f1, f2, f3⟩ := fields_5_5_5_17 17#5 d a 0#17
  generalize (17#5 ++ d ++ a ++ 0#17 : Word) = ww at *
  show decodeCrucible ww = some (.csplat d a)
  simp only [decodeCrucible, decodeCrucible1, f0, f1, f2, f3, BitVec.reduceToNat, Nat.reduceLeDiff, ite_true, ite_false, BitVec.reduceEq, and_self, and_true, true_and, false_and, and_false]

theorem RoundTrip.ccvt : ∀ d a b m f, RoundTrip.Statement (.ccvt d a b m f) := by
  intro d a b m f hw ww h
  have h : some (18#5 ++ d ++ a ++ b ++ 0#1 ++ m ++ f : Word) = some ww := h
  cases h
  obtain ⟨f0, f1, f2, f3, f4, f5, f6⟩ := fields_5_5_5_5_1_3_8 18#5 d a b 0#1 m f
  generalize (18#5 ++ d ++ a ++ b ++ 0#1 ++ m ++ f : Word) = ww at *
  show decodeCrucible ww = some (.ccvt d a b m f)
  simp only [decodeCrucible, decodeCrucible1, f0, f1, f2, f3, f4, f5, f6, BitVec.reduceToNat, Nat.reduceLeDiff, ite_true, ite_false, BitVec.reduceEq, and_self, and_true, true_and, false_and, and_false]

theorem RoundTrip.cpair : ∀ d a b m f, RoundTrip.Statement (.cpair d a b m f) := by
  intro d a b m f hw ww h
  have h : some (19#5 ++ d ++ a ++ b ++ m ++ 0#1 ++ f : Word) = some ww := h
  cases h
  obtain ⟨f0, f1, f2, f3, f4, f5, f6⟩ := fields_5_5_5_5_3_1_8 19#5 d a b m 0#1 f
  generalize (19#5 ++ d ++ a ++ b ++ m ++ 0#1 ++ f : Word) = ww at *
  show decodeCrucible ww = some (.cpair d a b m f)
  simp only [decodeCrucible, decodeCrucible1, f0, f1, f2, f3, f4, f5, f6, BitVec.reduceToNat, Nat.reduceLeDiff, ite_true, ite_false, BitVec.reduceEq, and_self, and_true, true_and, false_and, and_false]

theorem RoundTrip.cepop : ∀ d a, RoundTrip.Statement (.cepop d a) := by
  intro d a hw ww h
  have h : some (20#5 ++ d ++ a ++ 0#17 : Word) = some ww := h
  cases h
  obtain ⟨f0, f1, f2, f3⟩ := fields_5_5_5_17 20#5 d a 0#17
  generalize (20#5 ++ d ++ a ++ 0#17 : Word) = ww at *
  show decodeCrucible ww = some (.cepop d a)
  simp only [decodeCrucible, decodeCrucible1, f0, f1, f2, f3, BitVec.reduceToNat, Nat.reduceLeDiff, ite_true, ite_false, BitVec.reduceEq, and_self, and_true, true_and, false_and, and_false]

theorem RoundTrip.ctsig : ∀ a b, RoundTrip.Statement (.ctsig a b) := by
  intro a b hw ww h
  have h : some (21#5 ++ 0#5 ++ a ++ b ++ 0#12 : Word) = some ww := h
  cases h
  obtain ⟨f0, f1, f2, f3, f4⟩ := fields_5_5_5_5_12 21#5 0#5 a b 0#12
  generalize (21#5 ++ 0#5 ++ a ++ b ++ 0#12 : Word) = ww at *
  show decodeCrucible ww = some (.ctsig a b)
  simp only [decodeCrucible, decodeCrucible1, f0, f1, f2, f3, f4, BitVec.reduceToNat, Nat.reduceLeDiff, ite_true, ite_false, BitVec.reduceEq, and_self, and_true, true_and, false_and, and_false]

theorem RoundTrip.chalt : RoundTrip.Statement .chalt := by
  intro hw ww h
  have h : some (22#5 ++ 0#27 : Word) = some ww := h
  cases h
  obtain ⟨f0, f1⟩ := fields_5_27 22#5 0#27
  generalize (22#5 ++ 0#27 : Word) = ww at *
  show decodeCrucible ww = some .chalt
  simp only [decodeCrucible, decodeCrucible1, f0, f1, BitVec.reduceToNat, Nat.reduceLeDiff, ite_true, ite_false, BitVec.reduceEq, and_self, and_true, true_and, false_and, and_false]

theorem RoundTrip.cfence : RoundTrip.Statement .cfence := by
  intro hw ww h
  have h : some (23#5 ++ 0#27 : Word) = some ww := h
  cases h
  obtain ⟨f0, f1⟩ := fields_5_27 23#5 0#27
  generalize (23#5 ++ 0#27 : Word) = ww at *
  show decodeCrucible ww = some .cfence
  simp only [decodeCrucible, decodeCrucible1, f0, f1, BitVec.reduceToNat, Nat.reduceLeDiff, ite_true, ite_false, BitVec.reduceEq, and_self, and_true, true_and, false_and, and_false]

theorem RoundTrip.recastIssue : ∀ core quad, RoundTrip.Statement (.recastIssue core quad) := fun core quad _ w h => nomatch (show (none : Option Word) = some w from h)

theorem RoundTrip.weaveSlotGrant : ∀ core quad, RoundTrip.Statement (.weaveSlotGrant core quad) := fun core quad _ w h => nomatch (show (none : Option Word) = some w from h)

theorem RoundTrip.rejoinTimeout : ∀ weave j, RoundTrip.Statement (.rejoinTimeout weave j) := fun weave j _ w h => nomatch (show (none : Option Word) = some w from h)

theorem RoundTrip.placement : ∀ part, RoundTrip.Statement (.placement part) := fun part _ w h => nomatch (show (none : Option Word) = some w from h)

theorem RoundTrip.runnerCommandStart : ∀ core, RoundTrip.Statement (.runnerCommandStart core) := fun core _ w h => nomatch (show (none : Option Word) = some w from h)

theorem RoundTrip.copyCompletion : ∀ cmd, RoundTrip.Statement (.copyCompletion cmd) := fun cmd _ w h => nomatch (show (none : Option Word) = some w from h)

theorem RoundTrip.putArrival : ∀ part p, RoundTrip.Statement (.putArrival part p) := fun part p _ w h => nomatch (show (none : Option Word) = some w from h)

theorem RoundTrip.putAcknowledgement : ∀ cmd ok, RoundTrip.Statement (.putAcknowledgement cmd ok) := fun cmd ok _ w h => nomatch (show (none : Option Word) = some w from h)

theorem RoundTrip.loadResultArrival : ∀ id, RoundTrip.Statement (.loadResultArrival id) := fun id _ w h => nomatch (show (none : Option Word) = some w from h)

theorem RoundTrip.mldwCompletion : ∀ core, RoundTrip.Statement (.mldwCompletion core) := fun core _ w h => nomatch (show (none : Option Word) = some w from h)

theorem RoundTrip.mmulCompletion : ∀ core, RoundTrip.Statement (.mmulCompletion core) := fun core _ w h => nomatch (show (none : Option Word) = some w from h)

theorem RoundTrip.mmulErrorCompletion : ∀ core, RoundTrip.Statement (.mmulErrorCompletion core) := fun core _ w h => nomatch (show (none : Option Word) = some w from h)

theorem RoundTrip.mdrainCompletion : ∀ core, RoundTrip.Statement (.mdrainCompletion core) := fun core _ w h => nomatch (show (none : Option Word) = some w from h)

theorem RoundTrip.mdrainErrorCompletion : ∀ core, RoundTrip.Statement (.mdrainErrorCompletion core) := fun core _ w h => nomatch (show (none : Option Word) = some w from h)

theorem RoundTrip.refreshWindowOpen : ∀ group, RoundTrip.Statement (.refreshWindowOpen group) := fun group _ w h => nomatch (show (none : Option Word) = some w from h)

theorem RoundTrip.refreshWindowClose : ∀ group, RoundTrip.Statement (.refreshWindowClose group) := fun group _ w h => nomatch (show (none : Option Word) = some w from h)

theorem RoundTrip.appendPortCommit : ∀ part pf queue off data, RoundTrip.Statement (.appendPortCommit part pf queue off data) := fun part pf queue off data _ w h => nomatch (show (none : Option Word) = some w from h)

theorem RoundTrip.qcfgWrite : ∀ part queue v, RoundTrip.Statement (.qcfgWrite part queue v) := fun part queue v _ w h => nomatch (show (none : Option Word) = some w from h)

theorem RoundTrip.hostSignal : ∀ part v, RoundTrip.Statement (.hostSignal part v) := fun part v _ w h => nomatch (show (none : Option Word) = some w from h)

theorem RoundTrip.weightStoreCopy : ∀ part v, RoundTrip.Statement (.weightStoreCopy part v) := fun part v _ w h => nomatch (show (none : Option Word) = some w from h)

theorem RoundTrip.weightStoreCopyDone : ∀ part, RoundTrip.Statement (.weightStoreCopyDone part) := fun part _ w h => nomatch (show (none : Option Word) = some w from h)

theorem RoundTrip.bindWrite : ∀ vf v, RoundTrip.Statement (.bindWrite vf v) := fun vf v _ w h => nomatch (show (none : Option Word) = some w from h)

theorem RoundTrip.functionLevelReset : ∀ vf, RoundTrip.Statement (.functionLevelReset vf) := fun vf _ w h => nomatch (show (none : Option Word) = some w from h)

theorem RoundTrip.invalidation : ∀ part v, RoundTrip.Statement (.invalidation part v) := fun part v _ w h => nomatch (show (none : Option Word) = some w from h)

theorem RoundTrip.invalidationDone : ∀ part, RoundTrip.Statement (.invalidationDone part) := fun part _ w h => nomatch (show (none : Option Word) = some w from h)

theorem RoundTrip.winregWrite : ∀ part v, RoundTrip.Statement (.winregWrite part v) := fun part v _ w h => nomatch (show (none : Option Word) = some w from h)

theorem RoundTrip.sndregWrite : ∀ part v, RoundTrip.Statement (.sndregWrite part v) := fun part v _ w h => nomatch (show (none : Option Word) = some w from h)

theorem RoundTrip.faultAnswer : ∀ part v, RoundTrip.Statement (.faultAnswer part v) := fun part v _ w h => nomatch (show (none : Option Word) = some w from h)

theorem RoundTrip.purgeMessageReceived : ∀ port rtag, RoundTrip.Statement (.purgeMessageReceived port rtag) := fun port rtag _ w h => nomatch (show (none : Option Word) = some w from h)

theorem RoundTrip.contextRun : ∀ part, RoundTrip.Statement (.contextRun part) := fun part _ w h => nomatch (show (none : Option Word) = some w from h)

theorem RoundTrip.contextRestoreDone : ∀ part, RoundTrip.Statement (.contextRestoreDone part) := fun part _ w h => nomatch (show (none : Option Word) = some w from h)

theorem RoundTrip.contextPreempt : ∀ part, RoundTrip.Statement (.contextPreempt part) := fun part _ w h => nomatch (show (none : Option Word) = some w from h)

theorem RoundTrip.contextSaved : ∀ part, RoundTrip.Statement (.contextSaved part) := fun part _ w h => nomatch (show (none : Option Word) = some w from h)

theorem RoundTrip.injectionArm : ∀ v, RoundTrip.Statement (.injectionArm v) := fun v _ w h => nomatch (show (none : Option Word) = some w from h)

theorem RoundTrip.resyncComplete : ∀ unit, RoundTrip.Statement (.resyncComplete unit) := fun unit _ w h => nomatch (show (none : Option Word) = some w from h)

theorem RoundTrip.powerOn : RoundTrip.Statement .powerOn := fun _ w h => nomatch (show (none : Option Word) = some w from h)

theorem RoundTrip.conventionalReset : RoundTrip.Statement .conventionalReset := fun _ w h => nomatch (show (none : Option Word) = some w from h)

theorem RoundTrip.startctlWrite : ∀ v, RoundTrip.Statement (.startctlWrite v) := fun v _ w h => nomatch (show (none : Option Word) = some w from h)

theorem RoundTrip.startComplete : ∀ failed, RoundTrip.Statement (.startComplete failed) := fun failed _ w h => nomatch (show (none : Option Word) = some w from h)

theorem RoundTrip.dbgStop : ∀ part cmd, RoundTrip.Statement (.dbgStop part cmd) := fun part cmd _ w h => nomatch (show (none : Option Word) = some w from h)

theorem RoundTrip.dbgStep : ∀ part cmd, RoundTrip.Statement (.dbgStep part cmd) := fun part cmd _ w h => nomatch (show (none : Option Word) = some w from h)

theorem RoundTrip.stepEnd : ∀ pour, RoundTrip.Statement (.stepEnd pour) := fun pour _ w h => nomatch (show (none : Option Word) = some w from h)

theorem RoundTrip.stepLimitExpiry : ∀ pour, RoundTrip.Statement (.stepLimitExpiry pour) := fun pour _ w h => nomatch (show (none : Option Word) = some w from h)

theorem RoundTrip.dbgRun : ∀ part cmd, RoundTrip.Statement (.dbgRun part cmd) := fun part cmd _ w h => nomatch (show (none : Option Word) = some w from h)

theorem RoundTrip.dbgRegrd : ∀ part cmd, RoundTrip.Statement (.dbgRegrd part cmd) := fun part cmd _ w h => nomatch (show (none : Option Word) = some w from h)

theorem RoundTrip.dbgRegwr : ∀ part cmd, RoundTrip.Statement (.dbgRegwr part cmd) := fun part cmd _ w h => nomatch (show (none : Option Word) = some w from h)

theorem RoundTrip.dbgRegwrf : ∀ part cmd, RoundTrip.Statement (.dbgRegwrf part cmd) := fun part cmd _ w h => nomatch (show (none : Option Word) = some w from h)

theorem RoundTrip.dbgIllegal : ∀ part cmd, RoundTrip.Statement (.dbgIllegal part cmd) := fun part cmd _ w h => nomatch (show (none : Option Word) = some w from h)

theorem RoundTrip.assayAbandon : ∀ part, RoundTrip.Statement (.assayAbandon part) := fun part _ w h => nomatch (show (none : Option Word) = some w from h)

theorem RoundTrip.registerWrite : ∀ t off data, RoundTrip.Statement (.registerWrite t off data) := fun t off data _ w h => nomatch (show (none : Option Word) = some w from h)

theorem RoundTrip.mirrorCopyDone : ∀ core, RoundTrip.Statement (.mirrorCopyDone core) := fun core _ w h => nomatch (show (none : Option Word) = some w from h)

theorem RoundTrip.atomicResultArrival : ∀ id, RoundTrip.Statement (.atomicResultArrival id) := fun id _ w h => nomatch (show (none : Option Word) = some w from h)

theorem RoundTrip.getMeasurements : RoundTrip.Statement .getMeasurements := fun _ w h => nomatch (show (none : Option Word) = some w from h)

theorem RoundTrip.getChallenge : ∀ nonce, RoundTrip.Statement (.getChallenge nonce) := fun nonce _ w h => nomatch (show (none : Option Word) = some w from h)

theorem RoundTrip.unlock : ∀ sig, RoundTrip.Statement (.unlock sig) := fun sig _ w h => nomatch (show (none : Option Word) = some w from h)

theorem RoundTrip.firmwareUpdate : ∀ img, RoundTrip.Statement (.firmwareUpdate img) := fun img _ w h => nomatch (show (none : Option Word) = some w from h)

theorem RoundTrip.activateFirmware : RoundTrip.Statement .activateFirmware := fun _ w h => nomatch (show (none : Option Word) = some w from h)

theorem RoundTrip.pldmSensorRead : ∀ sensor, RoundTrip.Statement (.pldmSensorRead sensor) := fun sensor _ w h => nomatch (show (none : Option Word) = some w from h)

theorem RoundTrip.sensorPoll : ∀ r, RoundTrip.Statement (.sensorPoll r) := fun r _ w h => nomatch (show (none : Option Word) = some w from h)

theorem RoundTrip.thermalRecoveryStart : ∀ hottest, RoundTrip.Statement (.thermalRecoveryStart hottest) := fun hottest _ w h => nomatch (show (none : Option Word) = some w from h)

theorem RoundTrip.thermalFatal : RoundTrip.Statement .thermalFatal := fun _ w h => nomatch (show (none : Option Word) = some w from h)

theorem RoundTrip.managementPortStartRequest : ∀ cold, RoundTrip.Statement (.managementPortStartRequest cold) := fun cold _ w h => nomatch (show (none : Option Word) = some w from h)

theorem RoundTrip.firmwareDebugCommand : ∀ c, RoundTrip.Statement (.firmwareDebugCommand c) := fun c _ w h => nomatch (show (none : Option Word) = some w from h)

theorem RoundTrip.suspopRead : ∀ width, RoundTrip.Statement (.suspopRead width) := fun width _ w h => nomatch (show (none : Option Word) = some w from h)

theorem RoundTrip.escpopRead : ∀ width, RoundTrip.Statement (.escpopRead width) := fun width _ w h => nomatch (show (none : Option Word) = some w from h)

theorem RoundTrip.portsWrite : ∀ part v, RoundTrip.Statement (.portsWrite part v) := fun part v _ w h => nomatch (show (none : Option Word) = some w from h)

theorem RoundTrip.keysetWrite : ∀ v, RoundTrip.Statement (.keysetWrite v) := fun v _ w h => nomatch (show (none : Option Word) = some w from h)

theorem RoundTrip.assayReplay : ∀ part rcore sigr, RoundTrip.Statement (.assayReplay part rcore sigr) := fun part rcore sigr _ w h => nomatch (show (none : Option Word) = some w from h)

theorem RoundTrip.profileSample : ∀ core seen served queued, RoundTrip.Statement (.profileSample core seen served queued) := fun core seen served queued _ w h => nomatch (show (none : Option Word) = some w from h)

theorem RoundTrip.fabricReadRequest : ∀ part win off len, RoundTrip.Statement (.fabricReadRequest part win off len) := fun part win off len _ w h => nomatch (show (none : Option Word) = some w from h)

theorem RoundTrip.voteDissent : ∀ unit copies, RoundTrip.Statement (.voteDissent unit copies) := fun unit copies _ w h => nomatch (show (none : Option Word) = some w from h)

theorem RoundTrip.probationEnd : ∀ unit, RoundTrip.Statement (.probationEnd unit) := fun unit _ w h => nomatch (show (none : Option Word) = some w from h)

end Sys2Proof.Laws
end

