-- ==== Sys2Proof/Safety.lean ====
section
/-!
DEFINITION. Safety.lean: the terms in which claims are made: when a word completes, what a word has done by reading its
operands, and what a step leaves as it was.
-/

namespace Sys2Proof.Machine

/-! ## When a word completes -/

/-- A word that reads a completed token, and so synchronizes, has nothing to wait for (04 R99, 12 R255). -/
def State.tokenFree (s : State) (w : Nat) (token : Bool) : Prop := token = true → s.syncWait w = none ∧ s.inPair w = false

/-- A weave's lane word completes: the weave has the turn, some lane is active, the word meets no fate of 09 R200, and it
waits for no register and, where it reads a completed token, for no access. -/
structure LaneReady (s : State) (c : Ctx) (h : Form) (extra : List (BitVec 8 × Nat)) : Prop where
  turn  : s.turn = .weave c.w
  ctx   : s.ctxOf c.w = some c
  some  : c.acts.isEmpty = false
  fate  : c.fate h false = none
  waits : s.laneWaits c h true extra = false
  token : s.tokenFree c.w (s.laneToken c h true extra)

/-- What the active lanes read for a lane word. -/
def State.laneIns (s : State) (c : Ctx) (h : Form) (acc : Bool) (extra : List (BitVec 8 × Nat)) : SMap LaneIn :=
  (s.laneRead c h acc extra).inputs c h

/-- The state after a lane word that writes `res` in each active lane. -/
def State.laneEnd (s : State) (c : Ctx) (h : Form) (acc : Bool) (extra : List (BitVec 8 × Nat))
    (res : LaneIn → List Reg) : State :=
  c.finish h (s.laneRead c h acc extra) ((s.laneIns c h acc extra).map fun e => (e.1, res e.2))

/-- The state once each active lane's fibre has changed by `each`. -/
def State.laneEach (s : State) (c : Ctx) (h : Form) (acc : Bool) (extra : List (BitVec 8 × Nat))
    (each : LaneIn → Fibre → Fibre) : State :=
  (s.laneIns c h acc extra).foldl (fun s e => s.modFibre e.1 (each e.2)) (s.laneRead c h acc extra)

/-- The state after a lane word that changes each active lane's fibre, and writes no vector register. -/
def State.laneMod (s : State) (c : Ctx) (h : Form) (acc : Bool) (extra : List (BitVec 8 × Nat))
    (each : LaneIn → Fibre → Fibre) : State :=
  c.finish h (s.laneEach c h acc extra each) []

/-- The state after a lane word that does both. -/
def State.laneBoth (s : State) (c : Ctx) (h : Form) (acc : Bool) (extra : List (BitVec 8 × Nat))
    (each : LaneIn → Fibre → Fibre) (res : LaneIn → List Reg) : State :=
  c.finish h (s.laneEach c h acc extra each) ((s.laneIns c h acc extra).map fun e => (e.1, res e.2))

/-- A floating result as a word with its flags. -/
def fp32Of (r : FRes) : Word × Flags := (BitVec.ofNat 32 r.1, r.2)

/-- No active lane raises a flag whose trap it enables (10 R204). -/
def NoFpTrap (ins : SMap LaneIn) (fl : LaneIn → Flags) : Prop :=
  ∀ x ∈ ins, fl x.2 &&& x.2.f.fpmode.extractLsb' 3 5 = 0#5

/-- A floating word takes the trap of 10 R204: on the state as its operands were read, in the lanes that raise a flag whose trap
they enable, each active lane with those of its flags. -/
def FpTrapTaken (i : Instr) (s : State) (c : Ctx) (h : Form) (acc : Bool) (fl : LaneIn → Flags) : Prop :=
  let ins := s.laneIns c h acc []
  let met (x : LaneIn) : Flags := fl x &&& x.f.fpmode.extractLsb' 3 5
  LaneReady s c h [] → (∃ x ∈ ins, met x.2 ≠ 0#5) →
    exec i s = .next ((s.laneRead c h acc []).trapWeave c.w
      { cause := cFp, mask := maskOf ((ins.filter fun x => met x.2 != 0#5).map (·.2.f.lane)), pc := c.pc,
        addrs := ins.map fun x => (x.2.f.lane, (met x.2).zeroExtend 64), tags := laneTags h ins })

/-- An access of a weave outside a pair is performed at its issue (12 R254, R255): the operand log takes it, no item of R254
stops it, every page is present, and no refresh window is open over it. -/
structure AccessReady (s : State) (c : Ctx) (op : MemOp) : Prop where
  solo   : s.pairOf c.pid = none
  log    : s.logWait op = none
  addr   : addrFaults op (s.laneLocs c.p op false) = none
  kind   : s.kindFaults c.p op (s.laneLocs c.p op false) false = none
  page   : missing (s.laneLocs c.p op false) = none
  order  : s.orderFaults c.p op (checkedLanes op (s.laneLocs c.p op false) false) = none
  window : s.refreshWait c.p op = false

/-- An access outside a pair, which the operand log takes, has canonical addresses, and one is no multiple of `n`. -/
structure Misaligned (u : State) (c : Ctx) (op : MemOp) (n : Nat) : Prop where
  solo  : u.pairOf c.pid = none
  log   : u.logWait op = none
  canon : ∀ x ∈ u.laneLocs c.p op false, x.2 ≠ .noncanon
  some  : ∃ x ∈ op.lanes, x.addr.toNat % n ≠ 0

/-- The trap that follows (12 R254): in the lanes that meet it, each active lane with its address. -/
def Ctx.misaligned (c : Ctx) (u : State) (op : MemOp) (n : Nat) (tags : SMap Word) : State :=
  u.trapWeave c.w { cause := cMisalign, pc := c.pc, addrs := op.lanes.map fun x => (x.lane, x.addr), tags := tags
                    mask := maskOf (((op.lanes.filter fun x => x.addr.toNat % n != 0).map (·.lane)).eraseDups) }

/-- The state once an access has reached its places: translations kept, granules corrected (22 R398). -/
def State.reached (s : State) (p : Pour) (op : MemOp) : State :=
  (s.cacheAll p (op.lanes.map (·.addr))).touchLanes op (s.laneLocs p op false)

/-- The checked accesses of an access, recorded (08 R163). -/
def State.recorded (s : State) (p : Pour) (op : MemOp) (ls : List (LaneAcc × Loc)) : State :=
  s.recordAcc p op (checkedLanes op ls false)

/-- A source code that 09 R200 item 3 makes illegal on a fibre (R184 to R186, R190), of a window of `n` registers. -/
def SourceIllegal (n : Nat) (ls : List Latch) (k : SKind) (code : BitVec 8) : Prop :=
  let c := code.toNat
  (c < 240 ∧ (c % k.words ≠ 0 ∨ n < c + k.words)) ∨ (241 ≤ c ∧ c ≤ 244 ∧ k ≠ .s) ∨ (c = 245 ∧ (k = .xs ∨ k = .ap)) ∨
    c = 246 ∨ c = 247 ∨ (248 ≤ c ∧ ∃ e, ls[c - 248]? = some e ∧ e.dead = false ∧ e.size < k.words)

/-- A source code that names no entry that can be read (09 R190). -/
def SourceLost (ls : List Latch) (src : Option (SKind × BitVec 8)) : Prop :=
  ∃ k code, src = some (k, code) ∧ 248 ≤ code.toNat ∧ ∀ e, ls[code.toNat - 248]? = some e → e.dead = true

/-- What 09 R200 item 3 lists of a fibre's word, beside what its own entry adds (`badOp`). -/
def Form.OperandIllegal (h : Form) (n : Nat) (ls : List Latch) : Prop :=
  h.badOp = true ∨ (∃ d k, h.dst = some (d, k) ∧ ((d.toNat < 240 ∧ (d.toNat % k ≠ 0 ∨ n < d.toNat + k)) ∨ 240 < d.toNat)) ∨
    (∃ k code, (h.a = some (k, code) ∨ h.b = some (k, code)) ∧ SourceIllegal n ls k code) ∨
    ((∃ k, h.a = some (k, 245#8)) ∧ ∃ k, h.b = some (k, 245#8))

/-- The same of an engine's word, of `n` k registers (09 R187). -/
def Form.EngineIllegal (h : Form) (n : Nat) : Prop :=
  h.badOp = true ∨ (∃ d k, h.dst = some (d, k) ∧ d.toNat ≠ 240 ∧ (64 ≤ d.toNat ∨ d.toNat % k ≠ 0 ∨ n < d.toNat + k)) ∨
    (∃ k code, (h.a = some (k, code) ∨ h.b = some (k, code)) ∧ code.toNat ≠ 240 ∧
      if code.toNat = 245 then k = .xs ∨ k = .ap else 64 ≤ code.toNat ∨ code.toNat % k.words ≠ 0 ∨ n < code.toNat + k.words) ∨
    ((∃ k, h.a = some (k, 245#8)) ∧ ∃ k, h.b = some (k, 245#8))

/-- A weave's group word completes; `l0` is its lowest active lane's fibre. -/
structure GroupReady (s : State) (c : Ctx) (h : Form) (l0 : Nat × Fibre) : Prop where
  turn  : s.turn = .weave c.w
  ctx   : s.ctxOf c.w = some c
  lead  : c.acts.head? = some l0
  fate  : c.fate h true = none
  waits : s.groupWaits c h l0 = false
  token : s.tokenFree c.w (s.srcToken [l0.1] h.a || s.srcToken [l0.1] h.b)

/-- What l0 reads for a group word. -/
def State.leadIn (s : State) (c : Ctx) (h : Form) (l0 : Nat × Fibre) : LaneIn :=
  laneIn c h (((s.groupRead c h l0).fibre? l0.1).getD l0.2)

/-- Whether a kind of engine may execute a word (09 R199). -/
def Form.mayRun (h : Form) : EngKind → Bool
  | .ladle => h.ladle
  | .runner => h.runner

/-- Whether an engine's word waits for a register. -/
def State.engWaits (s : State) (e : Nat) (h : Form) : Bool :=
  s.engPending e h.a || s.engPending e h.b || (match h.dst with | some (c, k) => s.kCodePending e c k | none => false)

/-- An engine's word completes: the program has the turn and runs, the word meets no fate of 09 R187 and R199, and it waits
for no register and reads no completed token. -/
structure EngReady (s : State) (e : Nat) (v : Engine) (p : Pour) (h : Form) : Prop where
  turn  : s.turn = .engine e
  eng   : s.engine? e = some v
  pour  : s.pour? v.pour = some p
  runs  : v.running = true
  word  : (h.bad || h.nw == 1#1) = false
  kind  : h.mayRun v.kind = true
  ops   : h.engBad v.kind = false
  waits : s.engWaits e h = false
  token : v.srcToks h.a ++ v.srcToks h.b = []

/-- What an engine reads for a word. -/
def engIn (v : Engine) (p : Pour) (h : Form) : EngIn := { v := v, p := p, a := engOpt v h h.a, b := engOpt v h h.b }

/-- An engine's access of `n` bytes at an address leads to a place or a peer: no fault, no page to wait for, no open refresh
window (12 R254, R263; 04 R94). -/
structure EngReach (s : State) (x : EngIn) (a : BitVec 64) (n : Nat) (write : Bool) (l : Loc) : Prop where
  place  : s.locate x.p none a n write = l
  fault  : engFault s x.p a n write l = none
  page   : ∀ va, l ≠ .notPresent va
  window : s.locRefresh l = false

/-- A Crucible instance's word completes: the instance has the turn, and the word consumes no poison (14 R309). -/
structure CruReady (s : State) (k : Nat) (c : Crucible) (reads : List CReg) : Prop where
  turn  : s.turn = .crucible k
  inst  : s.crucible? k = some c
  clean : reads.any (·.poison) = false

/-- A Crucible word's addresses are aligned and lead to places (14 R309 items 4 and 5), and no refresh window is open over
what it reads (04 R94). -/
structure CruReach (s : State) (c : Crucible) (as : List (BitVec 64 × Nat)) (write : Bool) (ps : List Place) : Prop where
  aligned : ∀ a ∈ as, a.1.toNat % a.2 = 0
  places  : s.cruLocs c.part (as.map (·.1)) write = .ok ps
  window  : write = false → (ps.any fun pl => s.locRefresh (.mem pl)) = false

/-- The state once a Crucible word has translated its addresses. -/
def State.cruReached (s : State) (c : Crucible) (as : List (BitVec 64 × Nat)) : State :=
  as.foldl (fun s a => match aperture a.1 with | .global va => s.cached c.part va | _ => s) s

/-- The transposed elements of a CPAIR from the `i`th on, written, where each leads to a place (14 R313). -/
def State.cruWritten (s : State) (c : Crucible) (b d : BitVec 5) (fm : Nat) (cs : List Conv) : Nat → Nat → Option State
  | 0, _ => some s
  | n + 1, i =>
    match s.cruLoc c.part (c.transAt b i) true with
    | .mem pl => State.cruWritten ((s.cruReached c [(c.transAt b i, 1)]).cruStore pl c.here
        (leBytes (slotBits fm / 8) (cs.getD i { bits := 0 }).bits) fun _ => (c.ye d i).poison) c b d fm cs n (i + 1)
    | _ => none

/-! ## What stays as it was -/

/-- Everything but fibres, weaves, cores and the device is as it was: memory, pours with their shape registers, engines,
Crucible instances, tasks, partitions, the results under way, held accesses, copy commands, pairs, the order of accesses, the
clock. -/
structure Untouched (s t : State) : Prop where
  mem   : t.mem = s.mem
  pours : t.pours = s.pours
  engs  : t.engines = s.engines
  crus  : t.crucibles = s.crucibles
  tasks : t.tasks = s.tasks
  parts : t.parts = s.parts
  pend  : t.pend = s.pend
  held  : t.held = s.held
  cmds  : t.cmds = s.cmds
  pairs : t.pairs = s.pairs
  sync  : t.sync = s.sync
  hist  : t.hist = s.hist
  clk   : t.clk = s.clk
  turn  : t.turn = s.turn

/-- A fibre's registers but for `k` from `d` are as they were, and so is all else it holds but its pc and the completed
tokens of the registers written. -/
structure FibreFrame (d k : Nat) (f g : Fibre) : Prop where
  rest : g = { f with pc := g.pc, win := g.win, toks := g.toks }
  regs : ∀ r, ¬(d ≤ r ∧ r < d + k) → g.reg r = f.reg r

/-- Where memory's bytes read as before: at every key outside `n` bytes from `k`. -/
def SameBut (m m' : Memory) (k n : Nat) : Prop := ∀ a, a < k ∨ k + n ≤ a → m'.byte a = m.byte a

/-! ## Invariants -/

/-- Memory is in its canonical form: keys strictly rising, and no entry equal to what an unlisted key reads as. -/
def State.Canon (s : State) : Prop := s.mem.wf = true

end Sys2Proof.Machine
end

