-- ==== Sys2Proof/Certificates/Slice0/Obligations.lean ====
section
/-!
DEFINITION. Certificates/Slice0/Obligations.lean: the statements about this machine, each a Prop for the provers.
-/

open Sys2Proof Sys2Proof.Machine

/-- 10 R205: the op of each of the majors 0 to 4 and 6 to 15 over the operand words, with the tag of 06 R139 and the poison
of 10 R203. Every active lane's result goes to its latch and, unless `.NW`, to its register (`State.laneEnd`). -/
def Obligations.IntegerResultInEachLane : Prop :=
  ∀ e ∈ ([(.iadd, fun a b => a + b), (.isub, fun a b => a - b), (.imul, fun a b => a * b),
      (.imulhs, fun a b => BitVec.ofInt 32 (a.toInt * b.toInt / 2 ^ 32)),
      (.imulhz, fun a b => BitVec.ofNat 32 (a.toNat * b.toNat / 2 ^ 32)),
      (.imins, fun a b => BitVec.ofInt 32 (min a.toInt b.toInt)), (.imaxs, fun a b => BitVec.ofInt 32 (max a.toInt b.toInt)),
      (.iminz, fun a b => BitVec.ofNat 32 (min a.toNat b.toNat)), (.imaxz, fun a b => BitVec.ofNat 32 (max a.toNat b.toNat)),
      (.and, fun a b => a &&& b), (.or, fun a b => a ||| b), (.xor, fun a b => a ^^^ b),
      (.shl, fun a b => if b.toNat < 32 then BitVec.ofNat 32 (a.toNat * 2 ^ b.toNat) else 0#32),
      (.shr, fun a b => if b.toNat < 32 then BitVec.ofNat 32 (a.toNat / 2 ^ b.toNat) else 0#32),
      (.sar, fun a b => BitVec.ofInt 32 (a.toInt / 2 ^ min b.toNat 31))] :
      List ((BitVec 1 → BitVec 8 → BitVec 8 → BitVec 8 → Word → Instr) × (Word → Word → Word))),
    ∀ (s : State) (c : Ctx) (n : BitVec 1) (d a b : BitVec 8) (l : Word),
      let h := intForm (e.1 n d a b l) n d a b l
      LaneReady s c h [] →
        exec (e.1 n d a b l) s = .next (s.laneEnd c h false [] fun x =>
          [{ val := e.2 x.a0.val x.b0.val, tag := moveTag x.f.tagmode c.here x.d0.tag, poison := poi (x.a ++ x.b) }])

/-- 10 R206 and R208: the immediates and the one-operand integer functions. -/
def Obligations.IntegerUnaryResultInEachLane : Prop :=
  ∀ e ∈ ([(fun n d a i l => .iaddi n d a i l, fun i a => a + i.signExtend 32),
      (fun n d a i l => .shimShl n d a (i.extractLsb' 0 5) l, fun i a => BitVec.ofNat 32 (a.toNat * 2 ^ (i.extractLsb' 0 5).toNat)),
      (fun n d a i l => .shimShr n d a (i.extractLsb' 0 5) l, fun i a => BitVec.ofNat 32 (a.toNat / 2 ^ (i.extractLsb' 0 5).toNat)),
      (fun n d a i l => .shimSar n d a (i.extractLsb' 0 5) l, fun i a => BitVec.ofInt 32 (a.toInt / 2 ^ (i.extractLsb' 0 5).toNat)),
      (fun n d a _ l => .uniNot n d a l, fun _ a => BitVec.ofNat 32 (2 ^ 32 - 1 - a.toNat)),
      (fun n d a _ l => .uniNeg n d a l, fun _ a => BitVec.ofInt 32 (-a.toInt)),
      (fun n d a _ l => .uniAbs n d a l, fun _ a => BitVec.ofNat 32 a.toInt.natAbs),
      (fun n d a _ l => .uniPopc n d a l, fun _ a => BitVec.ofNat 32 ((List.range 32).filter fun i => a.getLsbD i).length),
      (fun n d a _ l => .uniClz n d a l, fun _ a => BitVec.ofNat 32 (if a = 0#32 then 32 else 31 - Nat.log2 a.toNat)),
      (fun n d a _ l => .uniBrev n d a l, fun _ a => a.reverse),
      (fun n d a _ l => .uniSext8 n d a l, fun _ a => (a.extractLsb' 0 8).signExtend 32),
      (fun n d a _ l => .uniSext16 n d a l, fun _ a => (a.extractLsb' 0 16).signExtend 32),
      (fun n d a _ l => .uniBswap n d a l, fun _ a =>
        a.extractLsb' 0 8 ++ a.extractLsb' 8 8 ++ a.extractLsb' 16 8 ++ a.extractLsb' 24 8)] :
      List ((BitVec 1 → BitVec 8 → BitVec 8 → BitVec 8 → Word → Instr) × (BitVec 8 → Word → Word))),
    ∀ (s : State) (c : Ctx) (n : BitVec 1) (d a i : BitVec 8) (l : Word),
      let h := uniForm (e.1 n d a i l) n d a l
      LaneReady s c h [] →
        exec (e.1 n d a i l) s = .next (s.laneEnd c h false [] fun x =>
          [{ val := e.2 i x.a0.val, tag := moveTag x.f.tagmode c.here x.d0.tag, poison := poi x.a }])

/-- 10 R205 (IMAD), R207, R208 (MOV) and R216. -/
def Obligations.AccumulateAddPairAndSelect : Prop :=
  (∀ (s : State) (c : Ctx) (n : BitVec 1) (d a b : BitVec 8) (l : Word),
    let h := intForm (.imad n d a b l) n d a b l
    LaneReady s c h [] →
      exec (.imad n d a b l) s = .next (s.laneEnd c h true [] fun x =>
        [{ val := x.a0.val * x.b0.val + x.d0.val, tag := moveTag x.f.tagmode c.here x.d0.tag,
           poison := poi (x.a ++ x.b ++ x.d) }])) ∧
  (∀ (s : State) (c : Ctx) (n : BitVec 1) (d a b : BitVec 8) (l : Word),
    let h : Form := { instr := .iadd64 n d a b l, nw := n, dst := some (d, 2), a := some (.ws, a), b := some (.ws, b), lit := l }
    LaneReady s c h [] →
      exec (.iadd64 n d a b l) s = .next (s.laneEnd c h false [] fun x =>
        let sum : BitVec 64 := pairAddr x.a + pairAddr x.b
        [{ val := sum.extractLsb' 0 32, tag := moveTag x.f.tagmode c.here (x.d.getD 0 {}).tag, poison := poi (x.a ++ x.b) },
         { val := sum.extractLsb' 32 32, tag := moveTag x.f.tagmode c.here (x.d.getD 1 {}).tag, poison := poi (x.a ++ x.b) }])) ∧
  (∀ (s : State) (c : Ctx) (n : BitVec 1) (d a : BitVec 8) (l : Word),
    let h := uniForm (.uniMov n d a l) n d a l
    LaneReady s c h [] →
      exec (.uniMov n d a l) s = .next (s.laneEnd c h false [] fun x =>
        [{ val := x.a0.val, tag := moveTag x.f.tagmode x.a0.tag x.d0.tag, poison := x.a0.poison }])) ∧
  (∀ (s : State) (c : Ctx) (n : BitVec 1) (d a : BitVec 8) (sense : BitVec 1) (k : BitVec 4) (l : Word),
    let h := { uniForm (.selp n d a sense k l) n d a l with reads := .pick k.toNat (sense == 1#1) }
    LaneReady s c h [] →
      exec (.selp n d a sense k l) s = .next (s.laneEnd c h true [] fun x =>
        let r := if x.f.p k.toNat = (sense == 1#1) then x.a0 else x.d0
        [{ val := r.val, tag := moveTag x.f.tagmode r.tag x.d0.tag, poison := r.poison }]))

/-- 10 R209 with the condition codes of 09 R193: every code from 0 to 12, over the signed and the unsigned values. -/
def Obligations.IntegerComparesWritePredicates : Prop :=
  ∀ e ∈ ([(0, fun a b => decide (a = b)), (1, fun a b => decide (a ≠ b)), (2, fun a b => decide (a < b)),
      (3, fun a b => decide (a ≤ b)), (4, fun a b => decide (a > b)), (5, fun a b => decide (a ≥ b)),
      (6, fun _ _ => false), (7, fun _ _ => true), (8, fun a b => decide (a = b)), (9, fun a b => decide (a < b)),
      (10, fun a b => decide (a ≤ b)), (11, fun a b => decide (a > b)), (12, fun a b => decide (a ≥ b))] :
      List (BitVec 4 × (Int → Int → Bool))),
    (∀ (s : State) (c : Ctx) (k : BitVec 4) (a b : BitVec 8) (l : Word),
      let h := cmpForm (.icmps e.1 k a b l) e.1 a b l
      LaneReady s c h [] → ((s.laneIns c h false []).any fun x => poi (x.2.a ++ x.2.b)) = false →
        exec (.icmps e.1 k a b l) s =
          .next (s.laneMod c h false [] fun x f => f.setP k.toNat (e.2 x.a0.val.toInt x.b0.val.toInt))) ∧
    (∀ (s : State) (c : Ctx) (k : BitVec 4) (a b : BitVec 8) (l : Word),
      let h := cmpForm (.icmpz e.1 k a b l) e.1 a b l
      LaneReady s c h [] → ((s.laneIns c h false []).any fun x => poi (x.2.a ++ x.2.b)) = false →
        exec (.icmpz e.1 k a b l) s =
          .next (s.laneMod c h false [] fun x f => f.setP k.toNat (e.2 x.a0.val.toNat x.b0.val.toNat)))

/-- 10 R204, R210 and R213: the rounding is that of the model's floating functions; D is read by the fused forms alone. -/
def Obligations.FloatingResultInEachLane : Prop :=
  ∀ e ∈ ([(.fadd, false, special32, fun m a b _ => fp32Of (faddR fFP32 m a.toNat b.toNat)),
      (.fsub, false, special32, fun m a b _ => fp32Of (fsubR fFP32 m a.toNat b.toNat)),
      (.fmul, false, special32, fun m a b _ => fp32Of (fmulR fFP32 m a.toNat b.toNat)),
      (.ffma, true, special32, fun m a b d => fp32Of (ffmaR fFP32 m a.toNat b.toNat d.toNat)),
      (.fmin, false, special32, fun m a b _ => fp32Of (fminmaxR false m a.toNat b.toNat)),
      (.fmax, false, special32, fun m a b _ => fp32Of (fminmaxR true m a.toNat b.toNat)),
      (.hadd2, false, specialPair fFP16, fun m a b _ => packed2 (fun x y _ => faddR fFP16 m x y) a b 0#32),
      (.hfma2, true, specialPair fFP16, fun m a b d => packed2 (ffmaR fFP16 m) a b d),
      (.badd2, false, specialPair fBF16, fun m a b _ => packed2 (fun x y _ => faddR fBF16 m x y) a b 0#32),
      (.bfma2, true, specialPair fBF16, fun m a b d => packed2 (ffmaR fBF16 m) a b d)] :
      List ((BitVec 1 → BitVec 8 → BitVec 8 → BitVec 8 → Word → Instr) × Bool × (Word → Bool)
        × (Word → Word → Word → Word → Word × Flags))),
    ∀ (s : State) (c : Ctx) (n : BitVec 1) (d a b : BitVec 8) (l : Word),
      let h := intForm (e.1 n d a b l) n d a b l
      let r (x : LaneIn) : Word × Flags := e.2.2.2 x.f.fpmode x.a0.val x.b0.val x.d0.val
      let read (x : LaneIn) : List Reg := if e.2.1 then [x.a0, x.b0, x.d0] else [x.a0, x.b0]
      LaneReady s c h [] → NoFpTrap (s.laneIns c h e.2.1 []) (fun x => (r x).2) →
        exec (e.1 n d a b l) s = .next (s.laneBoth c h e.2.1 []
          (fun x f => { f with fpmode := f.fpmode ||| (((r x).2.zeroExtend 32) <<< 8) })
          fun x => [{ val := (r x).1, poison := poi (read x),
                      tag := tagpick x.f.tagmode c.here (e.2.2.1 (r x).1) (tagOps e.2.2.1 (read x)) x.d0.tag }])

/-- 10 R212 under R204. -/
def Obligations.FloatingFunctionInEachLane : Prop :=
  ∀ e ∈ ([(.fabs, fun _ a => (a &&& 0x7FFFFFFF#32, 0#5)), (.fneg, fun _ a => (a ^^^ 0x80000000#32, 0#5)),
      (.frcp, fun m a => fp32Of (frcpR m a.toNat)), (.frsq, fun m a => fp32Of (frsqR m a.toNat)),
      (.fsqrt, fun m a => fp32Of (fsqrtR m a.toNat)), (.fexp2, fun m a => fp32Of (fexp2R m a.toNat)),
      (.flog2, fun m a => fp32Of (flog2R m a.toNat)), (.frint, fun m a => fp32Of (frintR none m a.toNat)),
      (.ffloor, fun m a => fp32Of (frintR (some mRDN) m a.toNat)), (.fceil, fun m a => fp32Of (frintR (some mRUP) m a.toNat))] :
      List ((BitVec 1 → BitVec 8 → BitVec 8 → Word → Instr) × (Word → Word → Word × Flags))),
    ∀ (s : State) (c : Ctx) (n : BitVec 1) (d a : BitVec 8) (l : Word),
      let h := uniForm (e.1 n d a l) n d a l
      let r (x : LaneIn) : Word × Flags := e.2 x.f.fpmode x.a0.val
      LaneReady s c h [] → NoFpTrap (s.laneIns c h false []) (fun x => (r x).2) →
        exec (e.1 n d a l) s = .next (s.laneBoth c h false []
          (fun x f => { f with fpmode := f.fpmode ||| (((r x).2.zeroExtend 32) <<< 8) })
          fun x => [{ val := (r x).1, poison := poi [x.a0],
                      tag := tagpick x.f.tagmode c.here (special32 (r x).1) (tagOps special32 [x.a0]) x.d0.tag }])

/-- 10 R211, R214 and R215. -/
def Obligations.FloatingCompareAndConversion : Prop :=
  (∀ (s : State) (c : Ctx) (cond k : BitVec 4) (a b : BitVec 8) (l : Word),
    let h := cmpForm (.fcmp cond k a b l) cond a b l
    let va (x : LaneIn) : FVal := decArith x.a0.val.toNat fFP32 x.f.fpmode
    let vb (x : LaneIn) : FVal := decArith x.b0.val.toNat fFP32 x.f.fpmode
    let fl (x : LaneIn) : Flags := if (va x).isSig || (vb x).isSig then flInvalid else 0#5
    LaneReady s c h [] → ((s.laneIns c h false []).any fun x => poi (x.2.a ++ x.2.b)) = false →
      NoFpTrap (s.laneIns c h false []) fl →
      exec (.fcmp cond k a b l) s = .next (c.finish h
        ((s.laneIns c h false []).foldl (fun t e => t.modFibre e.1 fun f =>
            f.setP k.toNat (condHolds cond (ordF (va e.2) (vb e.2))))
          (s.laneEach c h false [] fun x f => { f with fpmode := f.fpmode ||| (((fl x).zeroExtend 32) <<< 8) })) [])) ∧
  (∀ (s : State) (c : Ctx) (n : BitVec 1) (d a v : BitVec 8) (l : Word),
    let pair := v.toNat / 8
    let mode := v.toNat % 8
    let exact : Bool := decide (9 ≤ pair ∧ pair ≤ 13) || pair == 27 || pair == 28
    let dith : Bool := mode == mDITHER && !exact
    let h := { uniForm (.cvt n d a v l) n d a l with bad := pair == 0 || pair == 31 || decide (4 < mode) }
    let conv (x : LaneIn) : List Conv := cvtConvs pair mode x.a0.val x.d0.val
    LaneReady s c h [] →
      exec (.cvt n d a v l) s = .next (c.finish h
        ((s.laneRead c h dith []).countConv c.p.core ((s.laneIns c h dith []).flatMap fun e => conv e.2))
        ((s.laneIns c h dith []).map fun e =>
          let x := e.2
          (e.1, [{ val := cvtWord pair (conv x),
                   tag := tagpick x.f.tagmode c.here (cvtSpecial pair x.a0.val) [(cvtSpecial pair x.a0.val, x.a0.tag)] x.d0.tag,
                   poison := poi (if dith then [x.a0, x.d0] else [x.a0]) }]))))

/-- 10 R204, for every word that raises flags: the trap is taken on the state as the operands were read (`FpTrapTaken`). That a
poisoned word of a compare is consumed first is the model's choice (log 85). -/
def Obligations.EnabledFlagTraps : Prop :=
  (∀ e ∈ ([(.fadd, false, fun m a b _ => fp32Of (faddR fFP32 m a.toNat b.toNat)),
      (.fsub, false, fun m a b _ => fp32Of (fsubR fFP32 m a.toNat b.toNat)),
      (.fmul, false, fun m a b _ => fp32Of (fmulR fFP32 m a.toNat b.toNat)),
      (.ffma, true, fun m a b d => fp32Of (ffmaR fFP32 m a.toNat b.toNat d.toNat)),
      (.fmin, false, fun m a b _ => fp32Of (fminmaxR false m a.toNat b.toNat)),
      (.fmax, false, fun m a b _ => fp32Of (fminmaxR true m a.toNat b.toNat)),
      (.hadd2, false, fun m a b _ => packed2 (fun x y _ => faddR fFP16 m x y) a b 0#32),
      (.hfma2, true, fun m a b d => packed2 (ffmaR fFP16 m) a b d),
      (.badd2, false, fun m a b _ => packed2 (fun x y _ => faddR fBF16 m x y) a b 0#32),
      (.bfma2, true, fun m a b d => packed2 (ffmaR fBF16 m) a b d)] :
      List ((BitVec 1 → BitVec 8 → BitVec 8 → BitVec 8 → Word → Instr) × Bool × (Word → Word → Word → Word → Word × Flags))),
    ∀ (s : State) (c : Ctx) (n : BitVec 1) (d a b : BitVec 8) (l : Word),
      FpTrapTaken (e.1 n d a b l) s c (intForm (e.1 n d a b l) n d a b l) e.2.1 fun x =>
        (e.2.2 x.f.fpmode x.a0.val x.b0.val x.d0.val).2) ∧
  (∀ e ∈ ([(.frcp, frcpR), (.frsq, frsqR), (.fsqrt, fsqrtR), (.fexp2, fexp2R), (.flog2, flog2R), (.frint, frintR none),
      (.ffloor, frintR (some mRDN)), (.fceil, frintR (some mRUP))] :
      List ((BitVec 1 → BitVec 8 → BitVec 8 → Word → Instr) × (Word → Nat → FRes))),
    ∀ (s : State) (c : Ctx) (n : BitVec 1) (d a : BitVec 8) (l : Word),
      FpTrapTaken (e.1 n d a l) s c (uniForm (e.1 n d a l) n d a l) false fun x => (e.2 x.f.fpmode x.a0.val.toNat).2) ∧
  (∀ (s : State) (c : Ctx) (cond k : BitVec 4) (a b : BitVec 8) (l : Word),
    let h := cmpForm (.fcmp cond k a b l) cond a b l
    let value (m : Word) (r : Reg) : FVal := decArith r.val.toNat fFP32 m
    ((s.laneIns c h false []).any fun x => poi (x.2.a ++ x.2.b)) = false →
      FpTrapTaken (.fcmp cond k a b l) s c h false fun x =>
        if (value x.f.fpmode x.a0).isSig || (value x.f.fpmode x.b0).isSig then flInvalid else 0#5) ∧
  (∀ (s : State) (c : Ctx) (n : BitVec 1) (d a : BitVec 8) (k : BitVec 4) (l : Word),
    let code (x : LaneIn) : Nat := (x.f.qr k.toNat).code.toNat
    FpTrapTaken (.qblend n d a k l) s c { qgradForm (.qblend n d a k l) n d a k l with reads := .blend k.toNat } true fun x =>
      if code x = 0 ∨ code x = 65535 then 0#5 else (blendR (code x) x.a0.val.toNat x.d0.val.toNat).2) ∧
  (∀ e ∈ ([(.qgradRamp, true, false, gradRamp), (.qgradLogi, true, false, gradLogi), (.qgradAndp, false, false, gradAndp),
      (.qgradOrp, false, false, gradOrp), (.qgradNot, false, false, gradNot), (.qgradBlendq, false, true, gradBlendq)] :
      List ((BitVec 1 → BitVec 8 → BitVec 8 → BitVec 4 → Word → Instr) × Bool × Bool × (FVal → Nat → Nat → Nat → FRes))),
    ∀ (s : State) (c : Ctx) (n : BitVec 1) (d a : BitVec 8) (k : BitVec 4) (l : Word),
      let h := qgradForm (e.1 n d a k l) n d a k l
      (e.2.1 = true → ∀ x ∈ s.laneIns c h e.2.2.1 [], tempBad x.2.f.temp = false) →
        FpTrapTaken (e.1 n d a k l) s c h e.2.2.1 fun x =>
          (e.2.2.2 x.f.temp (x.f.qr k.toNat).code.toNat x.a0.val.toNat x.d0.val.toNat).2)

/-- 10 R203: a compare consumes poison. That an FCMP consumes it before an enabled invalid operand traps is the model's choice (log
85). -/
def Obligations.PoisonedCompareIsConsumed : Prop :=
  ∀ mk ∈ ([.icmps, .icmpz, .fcmp] : List (BitVec 4 → BitVec 4 → BitVec 8 → BitVec 8 → Word → Instr)),
    ∀ (s : State) (c : Ctx) (cond k : BitVec 4) (a b : BitVec 8) (l : Word),
      let h := cmpForm (mk cond k a b l) cond a b l
      LaneReady s c h [] → (∃ x ∈ s.laneIns c h false [], ∃ r ∈ x.2.a ++ x.2.b, r.poison = true) →
        exec (mk cond k a b l) s =
          .next ((s.laneRead c h false []).trapWeave c.w { cause := cPoison, mask := c.mask, pc := c.pc })

/-- 10 R217, R218 and R220. -/
def Obligations.CrossLaneResults : Prop :=
  (∀ e ∈ ([(.shfx, fun l b => ((l ^^^ b : Nat) : Int)), (.shfn, fun _ b => (b : Int)),
      (.shfup, fun l b => (l : Int) - b), (.shfdn, fun l b => (l : Int) + b)] :
      List ((BitVec 1 → BitVec 8 → BitVec 8 → BitVec 8 → Word → Instr) × (Nat → Nat → Int))),
    ∀ (s : State) (c : Ctx) (n : BitVec 1) (d a b : BitVec 8) (l : Word),
      let h := intForm (e.1 n d a b l) n d a b l
      let ins := s.laneIns c h false []
      LaneReady s c h [] →
        exec (e.1 n d a b l) s = .next (s.laneEnd c h false [] fun x =>
          let m := e.2 x.f.lane x.b0.val.toNat
          let r := if 0 ≤ m ∧ m ≤ 31 ∧ c.contributes m.toNat = true ∧ c.contributes x.f.lane = true then
              ((atLane ins m.toNat).map LaneIn.a0).getD x.a0
            else x.a0
          [{ val := r.val, tag := moveTag x.f.tagmode r.tag x.d0.tag, poison := r.poison }])) ∧
  (∀ e ∈ ([(.voteBallot, fun _ m => m), (.voteAny, fun _ m => if m = 0#32 then 0#32 else 1#32),
      (.voteAll, fun all m => if m = all then 1#32 else 0#32)] :
      List ((BitVec 1 → BitVec 8 → BitVec 4 → Instr) × (BitVec 32 → BitVec 32 → Word))),
    ∀ (s : State) (c : Ctx) (n : BitVec 1) (d : BitVec 8) (k : BitVec 4),
      let h : Form := { instr := e.1 n d k, nw := n, dst := some (d, 1) }
      let all := c.acts.filter fun f => c.contributes f.2.lane
      LaneReady s c h [] →
        exec (e.1 n d k) s = .next (s.laneEnd c h false [] fun x =>
          [{ val := e.2 (laneMask all) (laneMask (all.filter fun f => f.2.p k.toNat)),
             tag := moveTag x.f.tagmode c.here x.d0.tag, poison := false }]))

/-- 10 R219 and R221, with no injection armed: the words that a lane takes, where they land, and the word as a whole. -/
def Obligations.ButterflyAndRotation : Prop :=
  (∀ (c : Ctx) (n : BitVec 8) (k : Nat) (ins : SMap LaneIn), ∀ e ∈ ins, ∀ x, atLane ins (e.2.f.lane ^^^ 2 ^ k) = some x →
    c.contributes e.2.f.lane = true → c.contributes (e.2.f.lane ^^^ 2 ^ k) = true →
    (e.1, ((List.range 32).filter fun i => i.testBit k != e.2.f.lane.testBit k).map fun i => x.f.reg (n.toNat + (i ^^^ 2 ^ k)))
      ∈ c.exchanged n k ins) ∧
  (∀ (f x : Fibre) (k n : Nat), k < 5 → n + 32 ≤ f.win.length →
    let g := f.landWords k n (((List.range 32).filter fun i => i.testBit k != f.lane.testBit k).map fun i => x.reg (n + (i ^^^ 2 ^ k)))
    (∀ i < 32, g.reg (n + i) = if i.testBit k = f.lane.testBit k then f.reg (n + i) else x.reg (n + (i ^^^ 2 ^ k))) ∧
    ∀ r, r < n ∨ n + 32 ≤ r → g.reg r = f.reg r) ∧
  (∀ (s : State) (c : Ctx) (n : BitVec 8) (st : BitVec 3),
    let h : Form := { instr := .xchb n st, bad := decide (4 < st.toNat), reads := .exch n.toNat st.toNat
                      badOp := decide (240 ≤ n.toNat) || decide (c.p.hdr.regs < n.toNat + 32) }
    let block : List (BitVec 8 × Nat) := (List.range 32).map fun i => (n + BitVec.ofNat 8 i, 1)
    LaneReady s c h block → s.dev.injarm = false →
      exec (.xchb n st) s = .next (c.finish h ((c.exchanged n st.toNat (s.laneIns c h false block)).foldl (fun t e =>
        t.modFibre e.1 fun f => f.landWords st.toNat n.toNat e.2) (s.laneRead c h false block)) [])) ∧
  (∀ (s : State) (c : Ctx) (n : BitVec 1) (d a b : BitVec 8) (l : Word),
    let h := { intForm (.rhad n d a b l) n d a b l with reads := .member }
    let cs := (s.laneIns c h false []).filter fun e => c.contributes e.2.f.lane
    let xs := (List.range 32).map fun i => ((atLane cs i).map fun x => dec x.a0.val.toNat fFP32).getD (.fin false 0 0 false)
    let sg := laneMask ((cs.filter fun e => e.2.b0.val.getLsbD 0).map fun e => (e.1, e.2.f))
    LaneReady s c h [] →
      exec (.rhad n d a b l) s = .next (s.laneEnd c h false [] fun x =>
        let v := BitVec.ofNat 32 ((rht32 xs sg.toNat).getD x.f.lane 0)
        [{ val := v, poison := poi (cs.flatMap fun e => [e.2.a0, e.2.b0]),
           tag := tagpick x.f.tagmode c.here (special32 v) (cs.map fun e => (special32 e.2.a0.val, e.2.a0.tag)) x.d0.tag }]))

/-- 07 R149, R151, R152 and R156. -/
def Obligations.SoftPredicateResults : Prop :=
  (∀ (s : State) (c : Ctx) (cond k : BitVec 4) (a b : BitVec 8) (l : Word),
    let h : Form := { instr := .qcmp cond k a b l, a := some (.s, a), b := some (.s, b), lit := l,
                      bad := decide (cond.toNat < 2) || decide (5 < cond.toNat), badOp := decide (7 < k.toNat) }
    LaneReady s c h [] → (∀ x ∈ s.laneIns c h false [], tempBad x.2.f.temp = false) →
      exec (.qcmp cond k a b l) s = .next (s.laneMod c h false [] fun x f =>
        let va := dec x.a0.val.toNat fFP32
        let vb := dec x.b0.val.toNat fFP32
        f.setQ k.toNat { code := BitVec.ofNat 16 (softCode cond.toNat f.temp (f.qmode.getLsbD 0) va vb),
                         srcs := 1#8 <<< (c.here.toNat / 16 % 8), dep := false, poison := poi [x.a0, x.b0],
                         tag := qTag c f (va.special || vb.special) (tagOps special32 [x.a0, x.b0]) k.toNat })) ∧
  (∀ e ∈ ([(.qlogAnd, qAnd), (.qlogOr, qOr)] :
      List ((BitVec 4 → BitVec 4 → BitVec 4 → Instr) × (BitVec 16 → BitVec 16 → BitVec 16))),
    ∀ (s : State) (c : Ctx) (d a b : BitVec 4),
      let h : Form := { instr := e.1 d a b, badOp := decide (7 < d.toNat) || decide (7 < a.toNat) || decide (7 < b.toNat) }
      let meets (f : Fibre) : Bool := (f.qr a.toNat).srcs &&& (f.qr b.toNat).srcs != 0#8
      LaneReady s c h [] →
        (∀ x ∈ s.laneIns c h false [], (meets x.2.f && x.2.f.qmode.getLsbD 1) = false) →
        exec (e.1 d a b) s = .next (s.laneMod c h false [] fun _ f =>
          let x := f.qr a.toNat
          let y := f.qr b.toNat
          f.setQ d.toNat { code := e.2 x.code y.code, srcs := x.srcs ||| y.srcs, dep := x.dep || y.dep || meets f,
                           poison := x.poison || y.poison, tag := qTag c f false [] d.toNat })) ∧
  (∀ (s : State) (c : Ctx) (d a : BitVec 4),
    let h : Form := { instr := .qlogNot d a, badOp := decide (7 < d.toNat) || decide (7 < a.toNat) }
    LaneReady s c h [] →
      exec (.qlogNot d a) s = .next (s.laneMod c h false [] fun _ f =>
        f.setQ d.toNat { f.qr a.toNat with code := BitVec.ofNat 16 (65535 - (f.qr a.toNat).code.toNat),
                                           tag := qTag c f false [] d.toNat })) ∧
  (∀ (s : State) (c : Ctx) (p : BitVec 4) (a : BitVec 8) (k : BitVec 4) (l : Word),
    let h : Form := { instr := .qdraw p a k l, a := some (.s, a), lit := l, badOp := decide (7 < k.toNat) }
    LaneReady s c h [] →
      (∀ x ∈ s.laneIns c h false [], (x.2.a0.poison || (x.2.f.qr k.toNat).poison) = false) →
      exec (.qdraw p a k l) s = .next (s.laneMod c h false [] fun x f =>
        f.setP p.toNat (decide (x.a0.val.toNat / 65536 * 65535 < (f.qr k.toNat).code.toNat * 65536)))) ∧
  (∀ (s : State) (c : Ctx) (k : BitVec 4) (a : BitVec 8) (l : Word),
    let h : Form := { instr := .qxferIn k a l, a := some (.s, a), lit := l, badOp := decide (7 < k.toNat) }
    LaneReady s c h [] → (∀ x ∈ s.laneIns c h false [], x.2.a0.val.toNat < 2 ^ 25) →
      exec (.qxferIn k a l) s = .next (s.laneMod c h false [] fun x f =>
        f.setQ k.toNat { code := x.a0.val.extractLsb' 0 16, srcs := x.a0.val.extractLsb' 16 8, dep := x.a0.val.getLsbD 24,
                         poison := x.a0.poison, tag := moveTag f.tagmode x.a0.tag (f.qr k.toNat).tag }))

/-- 07 R154: the trap mask of the lanes concerned. -/
def Obligations.DependenceTrapIsPrecise : Prop :=
  ∀ mk ∈ ([.qlogAnd, .qlogOr] : List (BitVec 4 → BitVec 4 → BitVec 4 → Instr)),
    ∀ (s : State) (c : Ctx) (d a b : BitVec 4),
      let h : Form := { instr := mk d a b, badOp := decide (7 < d.toNat) || decide (7 < a.toNat) || decide (7 < b.toNat) }
      let ins := s.laneIns c h false []
      let met (x : Nat × LaneIn) : Bool :=
        (x.2.f.qr a.toNat).srcs &&& (x.2.f.qr b.toNat).srcs != 0#8 && x.2.f.qmode.getLsbD 1
      LaneReady s c h [] → (∃ x ∈ ins, met x = true) →
        exec (mk d a b) s = .next ((s.laneRead c h false []).trapWeave c.w
          { cause := cDepend, mask := maskOf ((ins.filter met).map (·.2.f.lane)), pc := c.pc, tags := laneTags h ins })

/-- 07 R155 and R157. -/
def Obligations.SoftBlendAndGradients : Prop :=
  (∀ (s : State) (c : Ctx) (n : BitVec 1) (d a : BitVec 8) (k : BitVec 4) (l : Word),
    let h := { qgradForm (.qblend n d a k l) n d a k l with reads := .blend k.toNat }
    let q (x : LaneIn) : QReg := x.f.qr k.toNat
    let r (x : LaneIn) : FRes := blendR (q x).code.toNat x.a0.val.toNat x.d0.val.toNat
    let fl (x : LaneIn) : Flags := if (q x).code = 0#16 ∨ (q x).code = 0xFFFF#16 then 0#5 else (r x).2
    LaneReady s c h [] → NoFpTrap (s.laneIns c h true []) fl →
      exec (.qblend n d a k l) s = .next (s.laneBoth c h true []
        (fun x f => { f with fpmode := f.fpmode ||| (((fl x).zeroExtend 32) <<< 8) })
        fun x =>
          if (q x).code = 0#16 then [{ val := x.d0.val, tag := x.d0.tag, poison := x.d0.poison || (q x).poison }]
          else if (q x).code = 0xFFFF#16 then
            [{ val := x.a0.val, tag := moveTag x.f.tagmode x.a0.tag x.d0.tag, poison := x.a0.poison || (q x).poison }]
          else
            let v := BitVec.ofNat 32 (r x).1
            [{ val := v, poison := poi [x.a0, x.d0] || (q x).poison,
               tag := tagpick x.f.tagmode c.here (special32 v) (tagOps special32 [x.a0, x.d0]) x.d0.tag }])) ∧
  (∀ e ∈ ([(.qgradRamp, true, false, gradRamp), (.qgradLogi, true, false, gradLogi), (.qgradAndp, false, false, gradAndp),
      (.qgradOrp, false, false, gradOrp), (.qgradNot, false, false, gradNot), (.qgradBlendq, false, true, gradBlendq)] :
      List ((BitVec 1 → BitVec 8 → BitVec 8 → BitVec 4 → Word → Instr) × Bool × Bool × (FVal → Nat → Nat → Nat → FRes))),
    ∀ (s : State) (c : Ctx) (n : BitVec 1) (d a : BitVec 8) (k : BitVec 4) (l : Word),
      let h := qgradForm (e.1 n d a k l) n d a k l
      let r (x : LaneIn) : FRes := e.2.2.2 x.f.temp (x.f.qr k.toNat).code.toNat x.a0.val.toNat x.d0.val.toNat
      let read (x : LaneIn) : List Reg := if e.2.2.1 then [x.a0, x.d0] else [x.a0]
      LaneReady s c h [] →
        (e.2.1 = true → ∀ x ∈ s.laneIns c h e.2.2.1 [], tempBad x.2.f.temp = false) →
        NoFpTrap (s.laneIns c h e.2.2.1 []) (fun x => (r x).2) →
        exec (e.1 n d a k l) s = .next (s.laneBoth c h e.2.2.1 []
          (fun x f => { f with fpmode := f.fpmode ||| (((r x).2.zeroExtend 32) <<< 8) })
          fun x =>
            let v := BitVec.ofNat 32 (r x).1
            [{ val := v, poison := poi (read x) || (x.f.qr k.toNat).poison,
               tag := tagpick x.f.tagmode c.here (special32 v) (tagOps special32 (read x)) x.d0.tag }]))

/-- 07 R149 and 13 R298. -/
def Obligations.SoftTransferAndTagResults : Prop :=
  (∀ (s : State) (c : Ctx) (d : BitVec 8) (k : BitVec 4),
    let h : Form := { instr := .qxferOut d k, dst := some (d, 1), badOp := decide (7 < k.toNat) }
    LaneReady s c h [] →
      exec (.qxferOut d k) s = .next (s.laneEnd c h false [] fun x =>
        let q := x.f.qr k.toNat
        [{ val := 0#7 ++ BitVec.ofBool q.dep ++ q.srcs ++ q.code, tag := moveTag x.f.tagmode q.tag x.d0.tag, poison := q.poison }])) ∧
  (∀ (s : State) (c : Ctx) (n : BitVec 1) (d a : BitVec 8) (l : Word),
    let h := uniForm (.tagRead n d a l) n d a l
    LaneReady s c h [] →
      exec (.tagRead n d a l) s = .next (s.laneEnd c h false [] fun x =>
        [{ val := x.a0.tag.zeroExtend 32, tag := moveTag x.f.tagmode c.here x.d0.tag, poison := false }])) ∧
  (∀ (s : State) (c : Ctx) (n : BitVec 1) (d a : BitVec 8) (l : Word),
    let h := uniForm (.tagWrite n d a l) n d a l
    LaneReady s c h [] → (∀ x ∈ s.laneIns c h true [], x.2.a0.val.toNat < 2 ^ 16) →
      exec (.tagWrite n d a l) s = .next (s.laneEnd c h true [] fun x =>
        [{ val := x.d0.val, tag := moveTag x.f.tagmode (x.a0.val.extractLsb' 0 16) x.d0.tag,
           poison := x.d0.poison || x.a0.poison }])) ∧
  (∀ (s : State) (c : Ctx) (n : BitVec 1) (d : BitVec 8),
    let h : Form := { instr := .tagMark n d, nw := n, dst := some (d, 1) }
    LaneReady s c h [] →
      exec (.tagMark n d) s = .next (s.laneEnd c h true [] fun x =>
        [{ val := x.d0.val, tag := moveTag x.f.tagmode c.here x.d0.tag, poison := x.d0.poison }])) ∧
  (∀ (s : State) (c : Ctx) (n : BitVec 1) (d a : BitVec 8) (l : Word),
    let h := uniForm (.tagCopy n d a l) n d a l
    LaneReady s c h [] →
      exec (.tagCopy n d a l) s = .next (s.laneEnd c h true [] fun x =>
        [{ val := x.d0.val, tag := moveTag x.f.tagmode x.a0.tag x.d0.tag, poison := x.d0.poison }]))

/-- 12 R258 for every width, with the scaled offsets of 09 R191; the result arrives with LOAD_RESULT_ARRIVAL. -/
def Obligations.LaneLoadsComplete : Prop :=
  ∀ e ∈ ([(.ld32, 4, 4, 1, false), (.ld64, 8, 8, 2, false), (.ld128, 16, 16, 4, false), (fun r d a _ => .ldnZ8 r d a, 0, 1, 1, false),
      (fun r d a _ => .ldnS8 r d a, 0, 1, 1, true), (fun r d a _ => .ldnZ16 r d a, 0, 2, 1, false),
      (fun r d a _ => .ldnS16 r d a, 0, 2, 1, true)] :
      List ((BitVec 1 → BitVec 8 → BitVec 8 → BitVec 8 → Instr) × Nat × Nat × Nat × Bool)),
    ∀ (s : State) (c : Ctx) (r : BitVec 1) (d a o : BitVec 8),
      let h : Form := { instr := e.1 r d a o, dst := some (d, e.2.2.2.1), a := some (.ap, a) }
      let u := s.laneRead c h false []
      let ins := s.laneIns c h false []
      let op := c.laneMem h (.load e.2.2.1 e.2.2.2.1 e.2.2.2.2) (r == 1#1) d.toNat ins (o.toNat * e.2.1) (fun _ => [])
        (fun _ => []) fun _ => {}
      let ls := u.laneLocs c.p op false
      let v := u.reached c.p op
      let peer := ls.any fun x => match x.2 with | .peer _ _ _ _ => true | _ => false
      LaneReady s c h [] → (ins.any fun x => poi x.2.a) = false → AccessReady u c op →
        exec (e.1 r d a o) s = .next (((State.recorded (if peer then { v with free := v.free + 1 } else v) c.p op ls).sendResult op
          (ls.map fun x => (x.1.fibre, v.loadLane op.kind x.2))).passAccess c.w op h.len true false)

/-- 12 R259 to R261: every width, and the two writes of STP in their order. -/
def Obligations.LaneStoresComplete : Prop :=
  (∀ e ∈ ([(.st32, .s, 4, 4), (.st64, .ws, 8, 8), (fun r d a o _ => .st128 r d a o, .xs, 16, 16),
      (fun r d a _ l => .stnB8 r d a l, .s, 0, 1), (fun r d a _ l => .stnB16 r d a l, .s, 0, 2)] :
      List ((BitVec 1 → BitVec 8 → BitVec 8 → BitVec 8 → Word → Instr) × SKind × Nat × Nat)),
    ∀ (s : State) (c : Ctx) (r : BitVec 1) (d a o : BitVec 8) (l : Word),
      let l := if e.2.1 = .xs then 0#32 else l
      let h : Form := { instr := e.1 r d a o l, a := some (.ap, a), b := some (e.2.1, d), lit := l }
      let u := s.laneRead c h false []
      let ins := s.laneIns c h false []
      let op := c.laneMem h (.store e.2.2.2) (r == 1#1) 240 ins (o.toNat * e.2.2.1) (·.b) (fun _ => []) fun _ => {}
      let ls := u.laneLocs c.p op false
      LaneReady s c h [] → (ins.any fun x => poi x.2.a || poi x.2.b) = false → AccessReady u c op →
        exec (e.1 r d a o l) s = .next ((ls.foldl (fun t x => t.putLane c.p op e.2.2.2 x)
          (State.recorded (u.reached c.p op) c.p op ls)).passAccess c.w op h.len true false)) ∧
  (∀ (s : State) (c : Ctx) (d a b : BitVec 8) (l : Word),
    let h : Form := { instr := .stp d a b l, a := some (.ap, a), b := some (.s, d), lit := l,
                      badOp := srcBad c.p.hdr.regs c.v.latches .ap b }
    let u := s.laneRead c h false [(b, 2)]
    let ins := s.laneIns c h false [(b, 2)]
    let second (x : LaneIn) : List Reg := readSrc x.f c.p.idx c.v.latches 2 b 0#32
    let op := c.laneMem h .stp false 240 ins 0 (·.b) second fun _ => {}
    let l1 := u.laneLocs c.p op false
    let l2 := u.laneLocs c.p op true
    let k1 := checkedLanes op l1 false
    let k2 := checkedLanes op l2 true
    let v := u.cacheAll c.p (op.lanes.map (·.addr) ++ op.lanes.map (·.addr2))
    let v1 := l1.foldl (fun t x => (t.touchLanes op [x]).putLane c.p op 4 x) (v.recordAcc c.p op k1)
    let v2 := l2.foldl (fun t x => (t.touchLanes op [x]).putLane c.p op 4 ({ x.1 with addr := x.1.addr2 }, x.2)) (v1.recordAcc c.p op k2)
    LaneReady s c h [(b, 2)] → latchLost c.v.latches b = false →
      (ins.any fun x => poi x.2.a || poi x.2.b || poi (second x.2)) = false →
      u.pairOf c.pid = none → u.logWait op = none → u.refreshWait c.p op = false →
      firstStop op (l1.map (fun x => (false, x)) ++ l2.map (fun x => (true, x))) = none → u.kindFaults c.p op l1 false = none →
      missing l1 = none → missing l2 = none → u.regionFaults (k1 ++ k2) = [] → u.conflictFaults c.p op k1 = [] →
      v1.kindFaults c.p op l2 true = none → v1.conflictFaults c.p op k2 = [] →
      exec (.stp d a b l) s = .next (v2.passAccess c.w op h.len true false))

/-- 12 R262: one lane after another, each by the model's `State.atomicLane`, which acquires, combines and releases. `ATCAS` reads
its destination as the compare value. -/
def Obligations.AtomicsComplete : Prop :=
  ∀ e ∈ ([(.atadd, .add), (.atmaxs, .maxs), (.atmaxz, .maxz), (.atexch, .exch), (.atcas, .cas)] :
      List ((BitVec 1 → BitVec 8 → BitVec 8 → BitVec 8 → Word → Instr) × AtomKind)),
    ∀ (s : State) (c : Ctx) (sc : BitVec 1) (d a b : BitVec 8) (l : Word),
      let h : Form := { instr := e.1 sc d a b l, dst := some (d, 1), a := some (.ap, a), b := some (.s, b), lit := l, bReg := true }
      let cas := e.2 == .cas
      let u := s.laneRead c h cas []
      let ins := s.laneIns c h cas []
      let op := c.laneMem h (.atomic e.2 (sc == 1#1)) false d.toNat ins 0 (·.b) (fun _ => []) fun x => if cas then x.d0 else {}
      let ls := u.laneLocs c.p op false
      let one (t : State × SMap (List Reg)) (x : LaneAcc × Loc) : State × SMap (List Reg) :=
        match x.2 with
        | .mem pl => ((t.1.atomicLane c.p op e.2 x.1 pl).2, t.2 ++ [(x.1.fibre, [(t.1.atomicLane c.p op e.2 x.1 pl).1])])
        | _ => t
      let done := ls.foldl one (u.reached c.p op, [])
      LaneReady s c h [] → (ins.any fun x => poi x.2.a || poi x.2.b || (cas && x.2.d0.poison)) = false → AccessReady u c op →
        (∀ x ∈ ls, ∃ pl, x.2 = .mem pl ∧ (e.2 = .exch ∨ (u.reached c.p op).mem.isPoison pl.key = false)) →
        exec (e.1 sc d a b l) s = .next ((done.1.sendResult op done.2).passAccess c.w op h.len true false)

/-- 12 R263, on a weave and on an engine. -/
def Obligations.UniformAccessesComplete : Prop :=
  (∀ (s : State) (c : Ctx) (l0 : Nat × Fibre) (r : BitVec 1) (d a o : BitVec 8),
    let h : Form := { instr := .gld r d a o, dst := some (d, 1), a := some (.ap, a) }
    let u := s.groupRead c h l0
    let x := s.leadIn c h l0
    let op := c.groupMem h .gld (r == 1#1) d.toNat x (o.toNat * 4) []
    let ls := u.laneLocs c.p op false
    let v := u.reached c.p op
    let peer := ls.any fun x => match x.2 with | .peer _ _ _ _ => true | _ => false
    GroupReady s c h l0 → poi x.a = false → AccessReady u c op →
      exec (.gld r d a o) s = .next (((State.recorded (if peer then { v with free := v.free + 1 } else v) c.p op ls).sendResult op
        (ls.map fun x => (x.1.fibre, v.loadLane op.kind x.2))).passAccess c.w op h.len false false)) ∧
  (∀ (s : State) (c : Ctx) (l0 : Nat × Fibre) (r : BitVec 1) (d a o : BitVec 8) (l : Word),
    let h : Form := { instr := .gst r d a o l, a := some (.ap, a), b := some (.s, d), lit := l }
    let u := s.groupRead c h l0
    let x := s.leadIn c h l0
    let op := c.groupMem h .gst (r == 1#1) 240 x (o.toNat * 4) x.b
    let ls := u.laneLocs c.p op false
    GroupReady s c h l0 → (poi x.a || poi x.b) = false → AccessReady u c op →
      exec (.gst r d a o l) s = .next ((ls.foldl (fun t x =>
          let t := t.sign c.p.part op.pour x.1.addr 4 (wordsBytes x.1.data)
          match x.2 with
          | .mem pl => { t with mem := storeAt t.mem pl 4 x.1.data }
          | .peer d w f g => t.remoteStore c.p op (t.rankOf x.1.fibre) d w f g 4 x.1.data
          | _ => t) (State.recorded (u.reached c.p op) c.p op ls)).passAccess c.w op h.len false false)) ∧
  (∀ (s : State) (e : Nat) (v : Engine) (p : Pour) (r : BitVec 1) (d a o : BitVec 8) (l : Loc),
    let h : Form := { instr := .gld r d a o, dst := some (d, 1), a := some (.ap, a) }
    let x := engIn v p h
    let at_ := pairAddr x.a + BitVec.ofNat 64 (o.toNat * 4)
    let t := (s.cacheAll p [at_]).touchLoc l 4 false
    let ws : List Reg := (t.loadLane .gld l).map fun w => { w with tag := 0xFFF0#16 }
    let u : State := match l with | .peer _ _ _ _ => { t with free := t.free + 1 } | _ => t
    EngReady s e v p h → poi x.a = false → EngReach s x at_ 4 false l →
      exec (.gld r d a o) s = .next (((u.addPend .load (.engine e d.toNat ws) v.pour v.pc).2).afterEngine e h.len)) ∧
  (∀ (s : State) (e : Nat) (v : Engine) (p : Pour) (r : BitVec 1) (d a o : BitVec 8) (w : Word) (l : Loc),
    let h : Form := { instr := .gst r d a o w, a := some (.ap, a), b := some (.s, d), lit := w }
    let x := engIn v p h
    let at_ := pairAddr x.a + BitVec.ofNat 64 (o.toNat * 4)
    let t := s.cacheAll p [at_]
    let op : MemOp := { kind := .gst, rlx := true, weave := 0, pour := v.pour, pc := v.pc, here := x.here, dest := 240, lanes := [],
                        word := h.word }
    EngReady s e v p h → poi x.a = false → EngReach s x at_ 4 true l →
      (∀ pl, l = .mem pl →
        let u := t.touchPart pl.key 4
        exec (.gst r d a o w) s = .next (State.afterEngine
          { u with mem := if poi x.b then (storeAt u.mem pl 4 x.b).setPoison pl.key true else storeAt u.mem pl 4 x.b } e h.len)) ∧
      (∀ dv wn of g, l = .peer dv wn of g → exec (.gst r d a o w) s =
        .next ((t.remoteStore p op (if v.kind = .ladle then 0xFFFF else 0xFFFE) dv wn of g 4 x.b).afterEngine e h.len)))

/-- 12 R254 item 3 over the widths of 04 R84: lane loads, lane stores, both addresses of STP, atomics, and GLD and GST on a weave
and on an engine; 12 R277 for SHLD and SHST and 11 R246 for TSPAWN on both, and 03 R74 item 1 for EPUSH and EPOP. -/
def Obligations.MisalignedAccessTraps : Prop :=
  (∀ e ∈ ([(.ld32, 4, 4, 1, false), (.ld64, 8, 8, 2, false), (.ld128, 16, 16, 4, false), (fun r d a _ => .ldnZ16 r d a, 0, 2, 1, false),
      (fun r d a _ => .ldnS16 r d a, 0, 2, 1, true)] :
      List ((BitVec 1 → BitVec 8 → BitVec 8 → BitVec 8 → Instr) × Nat × Nat × Nat × Bool)),
    ∀ (s : State) (c : Ctx) (r : BitVec 1) (d a o : BitVec 8),
      let h : Form := { instr := e.1 r d a o, dst := some (d, e.2.2.2.1), a := some (.ap, a) }
      let u := s.laneRead c h false []
      let ins := s.laneIns c h false []
      let op := c.laneMem h (.load e.2.2.1 e.2.2.2.1 e.2.2.2.2) (r == 1#1) d.toNat ins (o.toNat * e.2.1) (fun _ => [])
        (fun _ => []) fun _ => {}
      LaneReady s c h [] → (ins.any fun x => poi x.2.a) = false → Misaligned u c op e.2.2.1 →
        exec (e.1 r d a o) s = .next (c.misaligned u op e.2.2.1 (laneTags h ins))) ∧
  (∀ e ∈ ([(.st32, .s, 4, 4), (.st64, .ws, 8, 8), (fun r d a o _ => .st128 r d a o, .xs, 16, 16),
      (fun r d a _ l => .stnB16 r d a l, .s, 0, 2)] :
      List ((BitVec 1 → BitVec 8 → BitVec 8 → BitVec 8 → Word → Instr) × SKind × Nat × Nat)),
    ∀ (s : State) (c : Ctx) (r : BitVec 1) (d a o : BitVec 8) (l : Word),
      let l := if e.2.1 = .xs then 0#32 else l
      let h : Form := { instr := e.1 r d a o l, a := some (.ap, a), b := some (e.2.1, d), lit := l }
      let u := s.laneRead c h false []
      let ins := s.laneIns c h false []
      let op := c.laneMem h (.store e.2.2.2) (r == 1#1) 240 ins (o.toNat * e.2.2.1) (·.b) (fun _ => []) fun _ => {}
      LaneReady s c h [] → (ins.any fun x => poi x.2.a || poi x.2.b) = false → Misaligned u c op e.2.2.2 →
        exec (e.1 r d a o l) s = .next (c.misaligned u op e.2.2.2 (laneTags h ins))) ∧
  (∀ (s : State) (c : Ctx) (d a b : BitVec 8) (l : Word),
    let h : Form := { instr := .stp d a b l, a := some (.ap, a), b := some (.s, d), lit := l,
                      badOp := srcBad c.p.hdr.regs c.v.latches .ap b }
    let u := s.laneRead c h false [(b, 2)]
    let ins := s.laneIns c h false [(b, 2)]
    let second (x : LaneIn) : List Reg := readSrc x.f c.p.idx c.v.latches 2 b 0#32
    let op := c.laneMem h .stp false 240 ins 0 (·.b) second fun _ => {}
    let m1 := (op.lanes.filter fun x => x.addr.toNat % 4 != 0).map (·.lane)
    let m2 := (op.lanes.filter fun x => x.addr2.toNat % 4 != 0).map (·.lane)
    LaneReady s c h [(b, 2)] → latchLost c.v.latches b = false →
      (ins.any fun x => poi x.2.a || poi x.2.b || poi (second x.2)) = false → u.pairOf c.pid = none → u.logWait op = none →
      (∀ x ∈ u.laneLocs c.p op false ++ u.laneLocs c.p op true, x.2 ≠ .noncanon) → m1 ++ m2 ≠ [] →
      exec (.stp d a b l) s = .next (u.trapWeave c.w
        { cause := cMisalign, mask := maskOf ((m1 ++ m2).eraseDups), pc := c.pc, tags := laneTags h ins
          addrs := op.lanes.map fun x => (x.lane, if (m1 ++ m2).contains x.lane && !m1.contains x.lane then x.addr2 else x.addr) })) ∧
  (∀ e ∈ ([(.atadd, .add), (.atmaxs, .maxs), (.atmaxz, .maxz), (.atexch, .exch), (.atcas, .cas)] :
      List ((BitVec 1 → BitVec 8 → BitVec 8 → BitVec 8 → Word → Instr) × AtomKind)),
    ∀ (s : State) (c : Ctx) (sc : BitVec 1) (d a b : BitVec 8) (l : Word),
      let h : Form := { instr := e.1 sc d a b l, dst := some (d, 1), a := some (.ap, a), b := some (.s, b), lit := l, bReg := true }
      let cas := e.2 == .cas
      let u := s.laneRead c h cas []
      let ins := s.laneIns c h cas []
      let op := c.laneMem h (.atomic e.2 (sc == 1#1)) false d.toNat ins 0 (·.b) (fun _ => []) fun x => if cas then x.d0 else {}
      LaneReady s c h [] → (ins.any fun x => poi x.2.a || poi x.2.b || (cas && x.2.d0.poison)) = false → Misaligned u c op 4 →
        exec (e.1 sc d a b l) s = .next (c.misaligned u op 4 (laneTags h ins))) ∧
  (∀ (s : State) (c : Ctx) (l0 : Nat × Fibre) (r : BitVec 1) (d a o : BitVec 8) (w : Word),
    let trap (h : Form) (u : State) (x : LaneIn) : State :=
      let lanes := c.ids.filterMap fun f => (u.fibre? f).map (·.lane)
      u.trapWeave c.w { cause := cMisalign, mask := maskOf lanes, pc := c.pc, tags := c.groupTags h x
                        addrs := lanes.map fun n => (n, pairAddr x.a + BitVec.ofNat 64 (o.toNat * 4))
                        other := lanes.map fun n => (n, 0#32) }
    (let h : Form := { instr := .gld r d a o, dst := some (d, 1), a := some (.ap, a) }
     let x := s.leadIn c h l0
     let op := c.groupMem h .gld (r == 1#1) d.toNat x (o.toNat * 4) []
     GroupReady s c h l0 → poi x.a = false → Misaligned (s.groupRead c h l0) c op 4 →
       exec (.gld r d a o) s = .next (trap h (s.groupRead c h l0) x)) ∧
    (let h : Form := { instr := .gst r d a o w, a := some (.ap, a), b := some (.s, d), lit := w }
     let x := s.leadIn c h l0
     let op := c.groupMem h .gst (r == 1#1) 240 x (o.toNat * 4) x.b
     GroupReady s c h l0 → (poi x.a || poi x.b) = false → Misaligned (s.groupRead c h l0) c op 4 →
       exec (.gst r d a o w) s = .next (trap h (s.groupRead c h l0) x))) ∧
  (∀ (s : State) (e : Nat) (v : Engine) (p : Pour) (r : BitVec 1) (d a o : BitVec 8) (w : Word),
    let bad (h : Form) (write : Bool) : Prop :=
      let at_ := pairAddr (engIn v p h).a + BitVec.ofNat 64 (o.toNat * 4)
      EngReady s e v p h ∧ poi (engIn v p h).a = false ∧ at_.toNat % 4 ≠ 0 ∧ s.locate p none at_ 4 write ≠ .noncanon
    (bad { instr := .gld r d a o, dst := some (d, 1), a := some (.ap, a) } false →
      exec (.gld r d a o) s = .next (s.trapEngine e cMisalign)) ∧
    (bad { instr := .gst r d a o w, a := some (.ap, a), b := some (.s, d), lit := w } true →
      exec (.gst r d a o w) s = .next (s.trapEngine e cMisalign))) ∧
  (∀ (s : State) (c : Ctx) (l0 : Nat × Fibre) (n : BitVec 4) (d a b : BitVec 8),
    let trap (h : Form) (u : State) (x : LaneIn) (lanes : List Nat) : State := u.trapWeave c.w
      { cause := cMisalign, mask := maskOf lanes, pc := c.pc, addrs := lanes.map fun n => (n, pairAddr x.a)
        tags := c.groupTags h x, other := lanes.map fun n => (n, 0#32) }
    let now (u : State) : List Nat := c.ids.filterMap fun f => (u.fibre? f).map (·.lane)
    let all := c.acts.map (·.2.lane)
    (let h : Form := { instr := .shld n a, a := some (.ap, a) }
     let u := s.groupRead c h l0
     let x := s.leadIn c h l0
     GroupReady s c h l0 → poi x.a = false → u.shapeBusy c.pid n.toNat = false →
       Misaligned u c (shapePieces (c.groupMem h (.shld n.toNat) false 240 x 0 [])) 32 → exec (.shld n a) s = .next (trap h u x (now u))) ∧
    (let h : Form := { instr := .shst n a, a := some (.ap, a) }
     let u := s.groupRead c h l0
     let x := s.leadIn c h l0
     let whole := c.groupMem h (.shst 96) false 240 x 0 (shapeWords (c.p.shape n.toNat))
     let pieces := { shapePieces whole with kind := .shst 32 }
     GroupReady s c h l0 → poi x.a = false → u.shapeBusy c.pid n.toNat = false →
       Misaligned u c (if onePeer ((u.laneLocs c.p pieces false).map (·.2)) then whole else pieces) 32 →
         exec (.shst n a) s = .next (trap h u x (now u))) ∧
    (let h : Form := { instr := .tspawn d a, dst := some (d, 1), a := some (.ap, a) }
     let u := s.groupRead c h l0
     let x := s.leadIn c h l0
     GroupReady s c h l0 → poi x.a = false → Misaligned u c (c.groupMem h .tspawn false d.toNat x 0 []) 64 →
       exec (.tspawn d a) s = .next (trap h u x all)) ∧
    (let h := fibreOnly { instr := .epush a b, a := some (.ap, a), b := some (.xs, b), bReg := true }
     let u := s.groupRead c h l0
     let x := s.leadIn c h l0
     GroupReady s c h l0 → poi (x.a ++ x.b) = false → u.syncWait c.w = none → u.pairOf c.pid = none → (pairAddr x.a).toNat % 64 ≠ 0 →
       exec (.epush a b) s = .next (trap h u x all)) ∧
    (let h := fibreOnly { instr := .epop d a, dst := some (d, 4), a := some (.ap, a) }
     let u := s.groupRead c h l0
     let x := s.leadIn c h l0
     GroupReady s c h l0 → poi x.a = false → u.syncWait c.w = none → u.pairOf c.pid = none → (pairAddr x.a).toNat % 64 ≠ 0 →
       exec (.epop d a) s = .next (trap h u x all))) ∧
  (∀ (s : State) (e : Nat) (v : Engine) (p : Pour) (n : BitVec 4) (d a : BitVec 8),
    let bad (h : Form) (align bytes : Nat) (write : Bool) : Prop :=
      let at_ := pairAddr (engIn v p h).a
      EngReady s e v p h ∧ poi (engIn v p h).a = false ∧ at_.toNat % align ≠ 0 ∧ s.locate p none at_ bytes write ≠ .noncanon
    (s.shapeBusy v.pour n.toNat = false →
      (bad { instr := .shld n a, a := some (.ap, a) } 32 32 false → exec (.shld n a) s = .next (s.trapEngine e cMisalign)) ∧
      (bad { instr := .shst n a, a := some (.ap, a) } 32 32 true → exec (.shst n a) s = .next (s.trapEngine e cMisalign))) ∧
    (bad { instr := .tspawn d a, dst := some (d, 1), a := some (.ap, a) } 64 64 false →
      exec (.tspawn d a) s = .next (s.trapEngine e cMisalign)))

/-- The frame of the stores: the keys stored to are computed by `State.laneLocs`, which the meaning uses. -/
def Obligations.StoreTouchesItsBytesAlone : Prop :=
  ∀ e ∈ ([(.st32, .s, 4, 4), (.st64, .ws, 8, 8), (fun r d a o _ => .st128 r d a o, .xs, 16, 16),
      (fun r d a _ l => .stnB8 r d a l, .s, 0, 1), (fun r d a _ l => .stnB16 r d a l, .s, 0, 2)] :
      List ((BitVec 1 → BitVec 8 → BitVec 8 → BitVec 8 → Word → Instr) × SKind × Nat × Nat)),
    ∀ (s t : State) (c : Ctx) (r : BitVec 1) (d a o : BitVec 8) (l : Word),
      let l := if e.2.1 = .xs then 0#32 else l
      let h : Form := { instr := e.1 r d a o l, a := some (.ap, a), b := some (e.2.1, d), lit := l }
      let u := s.laneRead c h false []
      let ins := s.laneIns c h false []
      let op := c.laneMem h (.store e.2.2.2) (r == 1#1) 240 ins (o.toNat * e.2.2.1) (·.b) (fun _ => []) fun _ => {}
      LaneReady s c h [] → (ins.any fun x => poi x.2.a || poi x.2.b) = false → AccessReady u c op →
        exec (e.1 r d a o l) s = .next t →
        (∀ k, (∀ x ∈ u.laneLocs c.p op false, ∀ pl, x.2 = .mem pl → k < pl.key ∨ pl.key + e.2.2.2 ≤ k) →
          t.mem.read1 k = s.mem.read1 k) ∧
        (∀ f, (t.fibre? f).map (·.win) = (u.fibre? f).map (·.win)) ∧
        t.pours = s.pours ∧ t.engines = s.engines ∧ t.crucibles = s.crucibles ∧
        (∀ k, (t.core k).tiles = (s.core k).tiles)

/-- The laws of memory on which every statement about data rests. -/
def Obligations.MemoryKeepsWhatIsStored : Prop :=
  ∀ (m : Memory) (k : Nat) (bs : List Byte),
    (m.flips = [] →
      (∀ i b, bs[i]? = some b → (m.store k bs).read1 (k + i) = b) ∧
      (∀ a, a < k ∨ k + bs.length ≤ a → (m.store k bs).read1 a = m.read1 a)) ∧
    (m.wf = true → (m.store k bs).wf = true ∧ ∀ t, (m.setTag k t).wf = true) ∧
    (∀ t a, (m.setTag k t).tag a = if tagKey a = tagKey k then t else m.tag a)

/-- 11 R225 to R228, with the divergence of 02 R40. That targets are taken modulo 2^32 is the model's choice (log 92). -/
def Obligations.BranchesMoveTheWeave : Prop :=
  (∀ (s : State) (c : Ctx) (l0 : Nat × Fibre) (o : BitVec 25), GroupReady s c { instr := .br o } l0 →
    exec (.br o) s = .next (s.branchTo c.w (((c.pc : Int) + o.toInt) % 2 ^ 32).toNat)) ∧
  (∀ (s : State) (c : Ctx) (l0 : Nat × Fibre) (o : BitVec 25), GroupReady s c { instr := .call o } l0 →
    exec (.call o) s = .next ((s.modFibres c.ids fun f => { f with lk := BitVec.ofNat 32 (c.pc + 1) }).branchTo c.w
      (((c.pc : Int) + o.toInt) % 2 ^ 32).toNat)) ∧
  (∀ (s : State) (c : Ctx) (l0 : Nat × Fibre), GroupReady s c { instr := .ret } l0 →
    exec .ret s = .next (s.branchTo c.w (s.leadIn c { instr := .ret } l0).f.lk.toNat)) ∧
  (∀ (s : State) (c : Ctx) (l0 : Nat × Fibre) (a : BitVec 8) (l : Word),
    let h : Form := { instr := .brx a l, a := some (.s, a), lit := l }
    GroupReady s c h l0 → poi (s.leadIn c h l0).a = false →
      exec (.brx a l) s = .next ((s.groupRead c h l0).branchTo c.w (s.leadIn c h l0).a0.val.toNat)) ∧
  (∀ (s : State) (c : Ctx) (l0 : Nat × Fibre) (a : BitVec 8) (o : BitVec 17),
    let h : Form := { instr := .bru a o, a := some (.s, a), badOp := a == 245#8 }
    GroupReady s c h l0 → poi (s.leadIn c h l0).a = false →
      exec (.bru a o) s = .next (if (s.leadIn c h l0).a0.val = 0#32 then (s.groupRead c h l0).after c.w 1 false true
        else (s.groupRead c h l0).branchTo c.w (((c.pc : Int) + o.toInt) % 2 ^ 32).toNat)) ∧
  (∀ (s : State) (c : Ctx) (l0 : Nat × Fibre) (k : BitVec 4) (sense : BitVec 1) (o : BitVec 20),
    let target := (((c.pc : Int) + o.toInt) % 2 ^ 32).toNat
    let yes := c.acts.filter fun e => e.2.p k.toNat == (sense == 1#1)
    let no := c.acts.filter fun e => e.2.p k.toNat != (sense == 1#1)
    GroupReady s c { instr := .brp k sense o } l0 →
      (no = [] → exec (.brp k sense o) s = .next (s.branchTo c.w target)) ∧
      (no ≠ [] → yes = [] → exec (.brp k sense o) s = .next (s.after c.w 1 false true)) ∧
      (no ≠ [] → yes ≠ [] → s.unmatched c.w = false → exec (.brp k sense o) s = .next ((State.checkpoint
        (if no.length < yes.length then ((s.recast (no.map (·.1)) (c.pc + 1)).reMember c.w).branchTo c.w target
        else ((s.recastTo c.p.hdr (yes.map (·.1)) target).reMember c.w).after c.w 1 false true) c.w))))

/-- 11 R224, R249 to R252 and 09 R187 on the Ladle and the Runner. That targets are taken modulo 2^32 is the model's choice (log
92). -/
def Obligations.EngineControlCompletes : Prop :=
  (∀ (s : State) (e : Nat) (v : Engine) (p : Pour),
    (∀ o, EngReady s e v p { instr := .br o } →
      exec (.br o) s = .next (s.engineTo e (((v.pc : Int) + o.toInt) % 2 ^ 32).toNat)) ∧
    (∀ o, EngReady s e v p { instr := .call o } →
      exec (.call o) s = .next ((s.modEngine e fun v' => { v' with lk := BitVec.ofNat 32 (v.pc + 1) }).engineTo e
        (((v.pc : Int) + o.toInt) % 2 ^ 32).toNat)) ∧
    (EngReady s e v p { instr := .ret } → exec .ret s = .next (s.engineTo e v.lk.toNat)) ∧
    (∀ a l, let h : Form := { instr := .brx a l, a := some (.s, a), lit := l }
      EngReady s e v p h → poi (engIn v p h).a = false → exec (.brx a l) s = .next (s.engineTo e (engIn v p h).a0.val.toNat)) ∧
    (∀ a o, let h : Form := { instr := .bru a o, a := some (.s, a), badOp := a == 245#8 }
      EngReady s e v p h → poi (engIn v p h).a = false →
        exec (.bru a o) s = .next (s.engineTo e (if (engIn v p h).a0.val = 0#32 then v.pc + 1
          else (((v.pc : Int) + o.toInt) % 2 ^ 32).toNat))) ∧
    (∀ k sense o, EngReady s e v p { instr := .brp k sense o } →
      exec (.brp k sense o) s = .next (s.engineTo e (if (k.toNat == 0 || v.pred.getLsbD k.toNat) = (sense == 1#1) then
        (((v.pc : Int) + o.toInt) % 2 ^ 32).toNat else v.pc + 1))) ∧
    (EngReady s e v p { instr := .nop } → exec .nop s = .next (s.afterEngine e 1))) ∧
  (∀ g ∈ ([(.gadd, fun a b => a + b), (.gsub, fun a b => a - b), (.gmul, fun a b => a * b), (.gand, fun a b => a &&& b),
      (.gor, fun a b => a ||| b), (.gxor, fun a b => a ^^^ b), (.gshl, shlW), (.gshr, shrW), (.gsar, sarW)] :
      List ((BitVec 1 → BitVec 8 → BitVec 8 → BitVec 8 → Word → Instr) × (Word → Word → Word))),
    ∀ (s : State) (e : Nat) (v : Engine) (p : Pour) (n : BitVec 1) (d a b : BitVec 8) (l : Word),
      let h := intForm (g.1 n d a b l) n d a b l
      let x := engIn v p h
      EngReady s e v p h → exec (g.1 n d a b l) s =
        .next ((s.modEngine e fun w => w.setK d.toNat [{ val := g.2 x.a0.val x.b0.val, poison := poi (x.a ++ x.b) }]).afterEngine
          e h.len)) ∧
  (∀ (s : State) (e : Nat) (v : Engine) (p : Pour) (n : BitVec 1) (d a i : BitVec 8) (l : Word),
    let h := uniForm (.gaddi n d a i l) n d a l
    let x := engIn v p h
    EngReady s e v p h → exec (.gaddi n d a i l) s =
      .next ((s.modEngine e fun w => w.setK d.toNat [{ val := x.a0.val + i.signExtend 32, poison := poi x.a }]).afterEngine
        e h.len)) ∧
  (∀ (s : State) (e : Nat) (v : Engine) (p : Pour) (n : BitVec 1) (d a b : BitVec 8) (l : Word),
    let h : Form := { instr := .gadd64 n d a b l, nw := n, dst := some (d, 2), a := some (.ws, a), b := some (.ws, b), lit := l }
    let x := engIn v p h
    let sum : BitVec 64 := pairAddr x.a + pairAddr x.b
    EngReady s e v p h → exec (.gadd64 n d a b l) s =
      .next ((s.modEngine e fun w => w.setK d.toNat [{ val := sum.extractLsb' 0 32, poison := poi (x.a ++ x.b) },
        { val := sum.extractLsb' 32 32, poison := poi (x.a ++ x.b) }]).afterEngine e h.len)) ∧
  (∀ g ∈ ([(.gcmps, ordS), (.gcmpz, ordZ)] :
      List ((BitVec 4 → BitVec 4 → BitVec 8 → BitVec 8 → Word → Instr) × (Word → Word → Option Ordering))),
    ∀ (s : State) (e : Nat) (v : Engine) (p : Pour) (cond k : BitVec 4) (a b : BitVec 8) (l : Word),
      let h := cmpForm (g.1 cond k a b l) cond a b l
      let x := engIn v p h
      EngReady s e v p h → poi (x.a ++ x.b) = false → exec (g.1 cond k a b l) s =
        .next ((s.modEngine e fun w => { w with pred := setPred w.pred k.toNat (condHolds cond (g.2 x.a0.val x.b0.val)) }).afterEngine
          e h.len)) ∧
  (∀ (s : State) (e : Nat) (v : Engine) (p : Pour) (d r : BitVec 8),
    let h := { s.crForm (.get d r) r.toNat with dst := some (d, 1) }
    let core := s.core p.core
    let past := s.clk % 14080
    let val : Word := if r = 0x06#8 then core.cycOff + BitVec.ofNat 32 s.clk else if r = 0x07#8 then core.ufz
      else if r = 0x0E#8 then p.late
      else if r = 0x0F#8 then BitVec.ofNat 32 ((if core.mirror then 1 else 0) + core.fixed.toNat * 2 ^ 16)
      else BitVec.ofNat 32 (if past < 1760 then 1760 - past + s.clk % 56320 / 14080 * 2 ^ 16 + 2 ^ 18
        else 14080 - past + (s.clk % 56320 / 14080 + 1) % 4 * 2 ^ 16)
    EngReady s e v p h → exec (.get d r) s =
      .next ((s.modEngine e fun w => w.setK d.toNat [{ val := val }]).afterEngine e 1)) ∧
  (∀ (s : State) (e : Nat) (v : Engine) (p : Pour) (a : BitVec 8) (l : Word),
    let h := { s.crForm (.set a 0x0E#8 l) 0x0E with a := some (.s, a), lit := l }
    EngReady s e v p h → poi (engIn v p h).a = false → exec (.set a 0x0E#8 l) s =
      .next ((s.modPour v.pour fun q => { q with late := (engIn v p h).a0.val }).afterEngine e h.len))

/-- 11 R249 to R252 on a weave. -/
def Obligations.UniformArithmeticCompletes : Prop :=
  (∀ g ∈ ([(.gadd, fun a b => a + b), (.gsub, fun a b => a - b), (.gmul, fun a b => a * b), (.gand, fun a b => a &&& b),
      (.gor, fun a b => a ||| b), (.gxor, fun a b => a ^^^ b),
      (.gshl, fun a b => if b.toNat < 32 then BitVec.ofNat 32 (a.toNat * 2 ^ b.toNat) else 0#32),
      (.gshr, fun a b => if b.toNat < 32 then BitVec.ofNat 32 (a.toNat / 2 ^ b.toNat) else 0#32),
      (.gsar, fun a b => BitVec.ofInt 32 (a.toInt / 2 ^ min b.toNat 31))] :
      List ((BitVec 1 → BitVec 8 → BitVec 8 → BitVec 8 → Word → Instr) × (Word → Word → Word))),
    ∀ (s : State) (c : Ctx) (l0 : Nat × Fibre) (n : BitVec 1) (d a b : BitVec 8) (l : Word),
      let h := intForm (g.1 n d a b l) n d a b l
      let u := s.groupRead c h l0
      let x := s.leadIn c h l0
      GroupReady s c h l0 → exec (g.1 n d a b l) s = .next (c.finishG h u ((u.actives c.w).map fun e =>
        (e.1, [{ val := g.2 x.a0.val x.b0.val, poison := poi (x.a ++ x.b),
                 tag := moveTag e.2.tagmode c.here ((e.2.regsAt d.toNat 1).getD 0 {}).tag }])))) ∧
  (∀ (s : State) (c : Ctx) (l0 : Nat × Fibre) (n : BitVec 1) (d a i : BitVec 8) (l : Word),
    let h := uniForm (.gaddi n d a i l) n d a l
    let u := s.groupRead c h l0
    let x := s.leadIn c h l0
    GroupReady s c h l0 → exec (.gaddi n d a i l) s = .next (c.finishG h u ((u.actives c.w).map fun e =>
      (e.1, [{ val := x.a0.val + i.signExtend 32, poison := poi x.a,
               tag := moveTag e.2.tagmode c.here ((e.2.regsAt d.toNat 1).getD 0 {}).tag }])))) ∧
  (∀ (s : State) (c : Ctx) (l0 : Nat × Fibre) (n : BitVec 1) (d a b : BitVec 8) (l : Word),
    let h : Form := { instr := .gadd64 n d a b l, nw := n, dst := some (d, 2), a := some (.ws, a), b := some (.ws, b), lit := l }
    let u := s.groupRead c h l0
    let x := s.leadIn c h l0
    let sum : BitVec 64 := pairAddr x.a + pairAddr x.b
    GroupReady s c h l0 → exec (.gadd64 n d a b l) s = .next (c.finishG h u ((u.actives c.w).map fun e =>
      (e.1, [{ val := sum.extractLsb' 0 32, poison := poi (x.a ++ x.b),
               tag := moveTag e.2.tagmode c.here ((e.2.regsAt d.toNat 2).getD 0 {}).tag },
             { val := sum.extractLsb' 32 32, poison := poi (x.a ++ x.b),
               tag := moveTag e.2.tagmode c.here ((e.2.regsAt d.toNat 2).getD 1 {}).tag }])))) ∧
  (∀ g ∈ ([(.gcmps, ordS), (.gcmpz, ordZ)] :
      List ((BitVec 4 → BitVec 4 → BitVec 8 → BitVec 8 → Word → Instr) × (Word → Word → Option Ordering))),
    ∀ (s : State) (c : Ctx) (l0 : Nat × Fibre) (cond k : BitVec 4) (a b : BitVec 8) (l : Word),
      let h := cmpForm (g.1 cond k a b l) cond a b l
      let u := s.groupRead c h l0
      let x := s.leadIn c h l0
      GroupReady s c h l0 → poi (x.a ++ x.b) = false → exec (g.1 cond k a b l) s =
        .next ((u.modFibres c.ids fun f => f.setP k.toNat (condHolds cond (g.2 x.a0.val x.b0.val))).after c.w h.len false false))

/-- 11 R231 to R233 and 13 R304. -/
def Obligations.WindowsYieldsAndNothing : Prop :=
  (∀ (s : State) (c : Ctx) (l0 : Nat × Fibre), GroupReady s c (fibreOnly { instr := .yield }) l0 →
    exec .yield s = .next (s.after c.w 1 false true)) ∧
  (∀ (s : State) (c : Ctx) (l0 : Nat × Fibre) (sense : BitVec 1) (k : BitVec 4) (n : BitVec 8),
    let h := fibreOnly { instr := .guard sense k n, badOp := n == 0#8 || decide (8 < n.toNat) }
    GroupReady s c h l0 → exec (.guard sense k n) s = .next ((s.after c.w 1 false false).modWeave c.w fun v =>
      { v with guard := some { excl := laneMask (c.acts.filter fun e => e.2.p k.toNat != (sense == 1#1)), left := n.toNat } })) ∧
  (∀ (s : State) (c : Ctx) (l0 : Nat × Fibre) (a : BitVec 8) (l : Word),
    let h := fibreOnly { instr := .memb a l, a := some (.s, a), lit := l }
    let u := s.groupRead c h l0
    GroupReady s c h l0 → poi (s.leadIn c h l0).a = false → exec (.memb a l) s =
      .next ((u.modWeave c.w fun v => { v with member := (s.leadIn c h l0).a0.val &&& u.occupancy c.w }).after c.w h.len false false)) ∧
  (∀ (s : State) (c : Ctx) (l0 : Nat × Fibre), GroupReady s c { instr := .nop } l0 →
    exec .nop s = .next (s.after c.w 1 false false))

/-- 09 R196 and 13 R303, for every register of the table; `wsref` as 04 R94 and R95 say. -/
def Obligations.ControlRegistersReadAndWrite : Prop :=
  (∀ (s : State) (c : Ctx) (l0 : Nat × Fibre) (d r : BitVec 8),
    let h := { s.crForm (.get d r) r.toNat with dst := some (d, 1) }
    let core := s.core c.p.core
    let group := s.clk % 56320 / 14080
    let past := s.clk % 14080
    let wsref := if past < 1760 then 1760 - past + group * 2 ^ 16 + 2 ^ 18 else 14080 - past + (group + 1) % 4 * 2 ^ 16
    let reads (f : Fibre) : List Word := [f.fpmode, f.tagmode.zeroExtend 32, f.qtemp, f.qmode.zeroExtend 32, c.v.member, f.lk,
      core.cycOff + BitVec.ofNat 32 s.clk, core.ufz, f.tinfoAt 0, f.tinfoAt 1, f.tinfoAt 2, f.tinfoAt 3, f.tinfoAt 4, f.tinfoAt 5,
      c.p.late, BitVec.ofNat 32 ((if core.mirror then 1 else 0) + core.fixed.toNat * 2 ^ 16), BitVec.ofNat 32 wsref,
      BitVec.ofNat 32 f.foot.length]
    GroupReady s c h l0 → exec (.get d r) s = .next (c.finishIn h s ((s.actives c.w).map fun e =>
      (e.1, [{ val := (reads e.2).getD r.toNat 0#32, poison := false,
               tag := if e.2.tagmode = 0#2 then ((e.2.regsAt d.toNat 1).getD 0 {}).tag else 0xFFF0#16 }])))) ∧
  (∀ (s : State) (c : Ctx) (l0 : Nat × Fibre) (a r : BitVec 8) (l : Word),
    let h := { s.crForm (.set a r l) r.toNat with a := some (.s, a), lit := l }
    let u := s.groupRead c h l0
    let v := (s.leadIn c h l0).a0.val
    let reserved : Bool := (decide (r = 0x00#8) && decide (v.toNat ≥ 2 ^ 13))
      || ((decide (r = 0x01#8) || decide (r = 0x03#8)) && decide (v.toNat ≥ 4))
    GroupReady s c h l0 → poi (s.leadIn c h l0).a = false → reserved = false →
      exec (.set a r l) s = .next (State.after
        (if r = 0x0E#8 then u.modPour c.pid fun p => { p with late := v }
        else u.modFibres c.ids fun f =>
          if r = 0x00#8 then { f with fpmode := v } else if r = 0x01#8 then { f with tagmode := v.extractLsb' 0 2 }
          else if r = 0x02#8 then { f with qtemp := v } else if r = 0x03#8 then { f with qmode := v.extractLsb' 0 2 }
          else if r = 0x05#8 then { f with lk := v } else f) c.w h.len false false))

/-- 13 R301, with the engine's status of 09 R187 and the purge's cause of 22 R400. Whether a context's kernel debug is unlocked is the
partition's `active`. Pairs are left out for BKPT and for an engine's TRAP: a trailing member never breaks (the model's reading, log 31).
The status shows the pc modulo 2^27 (the model's choice, log 92). -/
def Obligations.TrapAndBreakpointInstructions : Prop :=
  (∀ (k : BitVec 8) (l : Word), decodeWord (0xD8000000#32 ||| k.zeroExtend 32) l = some (.trap k) ∧
    decodeWord (0xE0000000#32 ||| k.zeroExtend 32) l = some (.bkpt k)) ∧
  (∀ (s : State) (c : Ctx) (l0 : Nat × Fibre) (k : BitVec 8), GroupReady s c { instr := .trap k } l0 →
    let lanes : SMap (BitVec 64) := c.acts.map fun e => (e.2.lane, k.zeroExtend 64)
    exec (.trap k) s = .next (s.trapWeave c.w { cause := 2, mask := c.mask, pc := c.pc, addrs := lanes })) ∧
  (∀ (s : State) (c : Ctx) (l0 : Nat × Fibre) (k : BitVec 8), GroupReady s c { instr := .bkpt k } l0 → s.pairOf c.pid = none →
    ∀ p, s.pour? c.pid = some p →
      ((s.part p.part).active = true → exec (.bkpt k) s = .next ((s.after c.w 1 false true).stopPour c.pid
        { why := 1, code := k.toNat, at_ := some (c.pc + 1, (s.leadIn c { instr := .bkpt k } l0).f.rank) })) ∧
      ((s.part p.part).active = false → exec (.bkpt k) s = .next (s.after c.w 1 false false))) ∧
  (∀ (s : State) (e : Nat) (v : Engine) (p : Pour) (k : BitVec 8), EngReady s e v p { instr := .trap k } →
    s.pairOf v.pour = none →
    let status : Word := BitVec.ofNat 32 (2 * 2 ^ 27 + v.pc % 2 ^ 27)
    exec (.trap k) s = .next (((s.modCore v.core fun c =>
        if v.kind = .ladle then { c with lstatus := status } else { c with rstatus := status }).modEngine e fun w =>
        { w with running := false, status := status, stall := none }).purgePour v.pour 2)) ∧
  (∀ (s : State) (e : Nat) (v : Engine) (p : Pour) (k : BitVec 8), EngReady s e v p { instr := .bkpt k } →
    s.pairOf v.pour = none →
      ((s.part p.part).active = true → exec (.bkpt k) s = .next ((s.afterEngine e 1).stopPour v.pour
        { why := 1, code := k.toNat, at_ := some (v.pc + 1, if v.kind = .ladle then 0xFFFF else 0xFFFE) })) ∧
      ((s.part p.part).active = false → exec (.bkpt k) s = .next (s.afterEngine e 1)))

/-- 13 R299 and R300: `State.trapWeave` is what every trapping word of a weave answers with, and the fates of 09 R200, items 1 to 4,
with R187 and R199 for an engine. Where a guard window leaves no lane active, the lanes that it excludes take the trap (the model's
choice, log 42); the pc that tinfo1 shows is modulo 2^27 (log 92). Of an entry that can never be read latch-lost is raised whatever
its size (log 106), and field D counts as B (log 15). -/
def Obligations.TakingATrapEntersTheHandler : Prop :=
  (∀ (i : Instr) (s : State), (encodeWord i).isSome = true → i.isCrucible = false → (∀ core part, s.turn ≠ .firmware core part) →
    ∃ h : Form, h.instr = i ∧
      ((∃ acc extra body, exec i s = s.laneOp h acc extra body) ∨ (∃ fib eng, exec i s = s.groupOp h fib eng))) ∧
  (∀ (i : Instr) (s : State) (c : Ctx) (h : Form) (group : Bool), s.turn = .weave c.w → s.ctxOf c.w = some c → c.acts ≠ [] →
    h.instr = i → (if group then ∃ fib eng, exec i s = s.groupOp h fib eng else ∃ acc extra body, exec i s = s.laneOp h acc extra body) →
    let raises (cause : Nat) (detail : BitVec 64) (tags : SMap Word) : Prop := exec i s = .next (s.trapWeave c.w
      { cause := cause, mask := laneMask c.acts, pc := c.pc, addrs := c.acts.map fun e => (e.2.lane, detail), tags := tags })
    let word := ((encodeWord i).getD 0#32).zeroExtend 64
    let illegal := h.bad = true ∨ h.fibre = false ∨ (group = true ∧ c.v.guard ≠ none)
    let operand := h.OperandIllegal c.p.hdr.regs c.v.latches
    let lost (src : Option (SKind × BitVec 8)) := SourceLost c.v.latches src
    (illegal → raises 10 word []) ∧ (¬ illegal → h.only = true → raises 14 word []) ∧
    (¬ illegal → h.only = false → operand → raises 11 word []) ∧
    (¬ illegal → h.only = false → ¬ operand → lost h.a ∨ lost h.b → ∃ (detail : BitVec 64) (tags : SMap Word), raises 9 detail tags ∧
      (lost h.a → detail = 0#64) ∧ (¬ lost h.a → detail = 1#64) ∧ tags.map (·.1) = c.acts.map (·.2.lane) ∧
      ∀ t ∈ tags, (lost h.a → t.2.extractLsb' 0 16 = 0xFFF0#16) ∧
        (lost h.b → (∀ code, h.a ≠ some (.ap, code)) → t.2.extractLsb' 16 16 = 0xFFF0#16))) ∧
  (∀ (i : Instr) (s : State) (e : Nat) (v : Engine) (p : Pour) (h : Form), s.turn = .engine e → s.engine? e = some v →
    s.pour? v.pour = some p → v.running = true →
    ((∃ acc extra body, exec i s = s.laneOp h acc extra body) → exec i s = .next (s.trapEngine e 10)) ∧
    ((∃ fib eng, exec i s = s.groupOp h fib eng) →
      let illegal := h.bad = true ∨ h.nw = 1#1
      (illegal → exec i s = .next (s.trapEngine e 10)) ∧
      (¬ illegal → h.mayRun v.kind = false → exec i s = .next (s.trapEngine e (if h.only then 14 else 10))) ∧
      (¬ illegal → h.mayRun v.kind = true → h.EngineIllegal v.kind.regs → exec i s = .next (s.trapEngine e 11)))) ∧
  ∀ (s : State) (w : Nat) (v : Weave) (p : Pour) (hent : Nat) (i : TrapInfo),
    let acts := if s.actives w = [] then s.movers w else s.actives w
    s.weave? w = some v → s.pour? v.pour = some p → s.pairOf v.pour = none → p.hdr.hent = some hent →
    i.cause ≠ cPoison → (∀ e ∈ acts, e.2.saved = none) →
    let t := s.trapWeave w i
    (∀ e ∈ acts, ∀ f, s.fibre? e.1 = some f →
      t.fibre? e.1 = some { f with
        tinfo := [i.mask, BitVec.ofNat 32 (i.cause * 2 ^ 27 + i.pc % 2 ^ 27),
          ((SMap.get? i.addrs f.lane).getD 0#64).extractLsb' 0 32, ((SMap.get? i.addrs f.lane).getD 0#64).extractLsb' 32 32,
          (SMap.get? i.tags f.lane).getD 0xFFF0FFF0#32, (SMap.get? i.other f.lane).getD 0#32]
        saved := some f.tagmode, pc := hent }) ∧
    (∀ f, (∀ e ∈ acts, e.1 ≠ f) → t.fibre? f = s.fibre? f) ∧
    (∃ v', t.weave? w = some v' ∧ v'.guard = none ∧ v'.latches = [] ∧ v'.member = v.member ∧
      (∀ e ∈ acts, SMap.get? v'.susp e.2.lane = v.guard) ∧
      (∀ n, (∀ e ∈ acts, e.2.lane ≠ n) → SMap.get? v'.susp n = SMap.get? v.susp n)) ∧
    t.engines = s.engines ∧ t.pours = s.pours ∧ ((s.part p.part).tren = false → t.mem = s.mem)

/-- 13 R299's last paragraph, with the purges' causes in the order of 22 R400. Where a guard window leaves no lane active, the lanes
that it excludes take the trap (the model's choice, log 42). -/
def Obligations.SecondTrapEndsTheRequest : Prop :=
  ∀ (s : State) (w : Nat) (v : Weave) (p : Pour) (i : TrapInfo),
    let acts := if s.actives w = [] then s.movers w else s.actives w
    s.weave? w = some v → s.pour? v.pour = some p → s.pairOf v.pour = none →
    (i.cause = cPoison → s.trapWeave w i = s.purgePour v.pour 0) ∧
    (i.cause ≠ cPoison → (∃ e ∈ acts, e.2.saved ≠ none) → s.trapWeave w i = s.purgePour v.pour 1) ∧
    (i.cause ≠ cPoison → p.hdr.hent = none → s.trapWeave w i = s.purgePour v.pour 1)

/-- 13 R302: HRET inside the handler section. A serial mode's runner leaves alone, and what the weave's windows exclude goes on with
the last lane to leave (02 R53). -/
def Obligations.ReturnLeavesTheHandler : Prop :=
  ∀ (s : State) (c : Ctx) (l0 : Nat × Fibre),
    GroupReady s c (fibreOnly { instr := .hret, bad := !s.mayHret c.w }) l0 →
    ∃ t, exec .hret s = .next t ∧
      (let word := (l0.2.tinfoAt 1).toNat
       let pc := if word / 2 ^ 27 = 2 then word % 2 ^ 27 + 1 else word % 2 ^ 27
       let leaves (e : Nat × Fibre) : Prop := e ∈ s.movers c.w ∧ e.2.saved ≠ none
       let last : Prop := c.v.serial = [] ∨ ∀ e ∈ s.members c.w, e.2.saved ≠ none → ∃ o, leaves o ∧ o.1 = e.1
       let goes (e : Nat × Fibre) : Prop :=
         leaves e ∨ (last ∧ e ∈ s.byLane c.w ∧ e.2.status = .run ∧ c.v.hexcl.getLsbD e.2.lane = true)
       (∀ e, goes e →
         t.fibre? e.1 = (s.fibre? e.1).map fun f => { f with pc := pc, tagmode := f.saved.getD f.tagmode, saved := none }) ∧
       (∀ f, (∀ e, goes e → e.1 ≠ f) → t.fibre? f = s.fibre? f) ∧
       (∃ v', t.weave? c.w = some v' ∧ v'.guard = SMap.get? c.v.susp l0.2.lane ∧ v'.latches = [] ∧
         (last → v'.susp = [] ∧ v'.hexcl = 0#32) ∧ (¬ last → v'.hexcl = c.v.hexcl ∧
           v'.susp = c.v.susp.filter fun g => !(s.movers c.w).any fun o => o.2.saved.isSome && o.2.lane == g.1)) ∧
       t.mem = s.mem ∧ t.engines = s.engines ∧ t.pours = s.pours)

/-- 11 R229 and R230. -/
def Obligations.FibresEndAndSpawn : Prop :=
  (∀ (s : State) (c : Ctx) (l0 : Nat × Fibre), GroupReady s c (fibreOnly { instr := .fend }) l0 → s.heldOf c.w = [] →
    s.pairOf c.pid = none →
    exec .fend s = .next ((s.modWeave c.w fun v => { v with stall := none }).endFibres c.pid c.w c.ids)) ∧
  (∀ (s : State) (c : Ctx) (l0 : Nat × Fibre) (d a : BitVec 8) (l : Word),
    let h := fibreOnly { instr := .fspawn d a l, dst := some (d, 1), a := some (.s, a), lit := l }
    let u := s.groupRead c h l0
    let x := s.leadIn c h l0
    GroupReady s c h l0 → poi x.a = false → u.syncWait c.w = none →
      let sp := u.spawnAll c.pid c.p x.a0.val.toNat c.acts
      let t := (sp.2.modFibres c.ids Fibre.newRegion).mirrorCheck c.p.core
      let tag (f : Fibre) : Tag := if f.tagmode = 0#2 then ((f.regsAt d.toNat 1).getD 0 {}).tag else 0xFFF0#16
      let res : SMap (List Reg) := (t.actives c.w).map fun e => (e.1, [{ val := SMap.getD sp.1 e.1 0#32, tag := tag e.2 }])
      exec (.fspawn d a l) s = .next (((((t.addPend .load (.fibres d.toNat res) c.pid c.pc).2).pushLatch c.w d 1 res true).after
        c.w h.len false false).checkpoint c.w))

/-- 11 R234 and R237 with the fields of R236, outside serial mode and in it: there a runner arms a level for itself alone, and one
that would pass the limit adds a level to the weave's (02 R46, R53; the nesting is the model's reading, log 17). -/
def Obligations.RejoinRegistersArmAndRead : Prop :=
  (∀ (s : State) (c : Ctx) (l0 : Nat × Fibre) (n : BitVec 3),
    let r := c.v.j.getD n.toNat {}
    let ms := if c.v.serial.isEmpty then (s.byLane c.w).filter fun e => !e.2.status.isParked else s.movers c.w
    GroupReady s c (fibreOnly { instr := .jarm n }) l0 → r.state ≠ 1#2 → r.state ≠ 2#2 →
      ((∀ e ∈ ms, e.2.depth + 1 ≤ c.p.hdr.rejoin) →
        exec (.jarm n) s = .next (((s.modJ c.w n.toNat fun q =>
            { q with expect := laneMask ms, arrived := 0#32, state := 1#2, gen := r.gen + 1#8, limit := 0#16, elapsed := 0#32,
                     clock := [] }).modFibres (ms.map (·.1)) fun f =>
          { f with outer := f.link :: f.outer,
                   link := some { weave := c.w, jreg := n.toNat, gen := r.gen + 1#8, stale := false } }).after c.w 1 false false)) ∧
      ((∃ e ∈ ms, c.p.hdr.rejoin < e.2.depth + 1) →
        let level : Serial := { jreg := n.toNat, members := laneMask ms, depths := ms.map fun e => (e.1, e.2.depth) }
        (c.v.serial = [] → exec (.jarm n) s = .next (((s.after c.w 1 false false).modWeave c.w fun v =>
          { v with serial := level :: v.serial }).pickRunner c.w)) ∧
        (∀ sr rest, c.v.serial = sr :: rest → exec (.jarm n) s = .next ((s.after c.w 1 false false).modWeave c.w fun v =>
          { v with serial := { level with runner := sr.runner } :: v.serial })))) ∧
  (∀ (s : State) (c : Ctx) (l0 : Nat × Fibre) (d : BitVec 8) (n : BitVec 3) (w : BitVec 8),
    let h := fibreOnly { instr := .jget d n w, dst := some (d, 1), badOp := decide (3 < w.toNat) }
    let r := c.v.j.getD n.toNat {}
    let v := if w = 0#8 then r.expect else if w = 1#8 then r.arrived
      else if w = 2#8 then BitVec.ofNat 32 (r.state.toNat + 4 * r.gen.toNat + 1024 * r.limit.toNat) else r.elapsed
    GroupReady s c h l0 → exec (.jget d n w) s = .next (c.finishIn h s ((s.actives c.w).map fun e =>
      (e.1, [{ val := v, tag := if e.2.tagmode = 0#2 then ((e.2.regsAt d.toNat 1).getD 0 {}).tag else 0xFFF0#16 }]))))

/-- 11 R235: the levels' completion is `State.tryLevel`, and in serial mode `State.trySerial`. Which level a runner's JOIN meets where
levels are nested is the model's reading (log 17). -/
def Obligations.JoinResolvesEachFibre : Prop :=
  ∀ (s : State) (c : Ctx) (l0 : Nat × Fibre) (n : BitVec 3) (a : BitVec 8) (l : Word),
    let h := fibreOnly { instr := .join n a l, a := some (.s, a), lit := l }
    let u := s.groupRead c h l0
    let t := (s.leadIn c h l0).a0.val.toNat
    GroupReady s c h l0 → poi (s.leadIn c h l0).a = false → t < 2 ^ 16 → u.syncWait c.w = none →
      ((∀ sr, c.v.levelOf l0.2.lane = some sr → sr.meets l0.1 l0.2 = false) →
        (∀ e ∈ c.acts, ∃ k, e.2.link = some k ∧ k.jreg = n.toNat) →
        exec (.join n a l) s = .next (
          let levels := (c.acts.filterMap fun e => e.2.link).map fun k => (k.weave, k.jreg)
          let s1 := c.acts.foldl (fun t' e => t'.joinFibre c.pid e.1 n.toNat t (c.pc + h.len)) (u.after c.w h.len false true)
          let s2 := levels.eraseDups.foldl (fun t' k => t'.tryLevel k.1 k.2) ((s1.settleWeave c.w).pickRunner c.w)
          ((s2.pickRunner c.w).settleWeave c.w).checkpoint c.w)) ∧
      (∀ sr, c.v.levelOf l0.2.lane = some sr → sr.meets l0.1 l0.2 = true → sr.jreg = n.toNat →
        let t := u.after c.w h.len false true
        let level : Serial := { sr with arrived := sr.arrived ||| c.mask, clock := joinClock sr.clock (t.releasedBy c.ids)
                                        resume := some (sr.resume.getD (c.pc + h.len)) }
        exec (.join n a l) s = .next ((((((t.modFibres c.ids Fibre.newRegion).modWeave c.w fun v =>
          { v with serial := v.serial.set (v.serial.findIdx (·.has l0.2.lane)) level }).trySerial c.w).settleWeave c.w)).checkpoint
            c.w))

/-- 11 R238, R239 and R243. -/
def Obligations.CrewsBarriersAndMeetings : Prop :=
  (∀ (s : State) (c : Ctx) (l0 : Nat × Fibre) (a : BitVec 8) (l : Word),
    let h := fibreOnly { instr := .cjoin a l, a := some (.s, a), lit := l }
    let x := s.leadIn c h l0
    GroupReady s c h l0 → poi x.a = false → x.a0.val.toNat < 16 → exec (.cjoin a l) s =
      .next ((((s.groupRead c h l0).after c.w h.len false false).modFibres c.ids fun f =>
        { f with crew := x.a0.val.toNat }).tryBar c.pid)) ∧
  (∀ (s : State) (c : Ctx) (l0 : Nat × Fibre), GroupReady s c (fibreOnly { instr := .cleave }) l0 →
    exec .cleave s = .next (((s.after c.w 1 false false).modFibres c.ids fun f => { f with crew := 0 }).tryBar c.pid)) ∧
  (∀ (s : State) (c : Ctx) (l0 : Nat × Fibre), GroupReady s c (fibreOnly { instr := .bar }) l0 → s.syncWait c.w = none →
    exec .bar s = .next (State.checkpoint (State.tryBar (State.settleWeave (State.pickRunner
      (((c.acts.foldl (fun t e => t.release [e.1] (.bar c.pid e.2.crew)) s).after c.w 1 false true).modFibres c.ids fun f =>
        { f with status := .bar }) c.w) c.w) c.pid) c.w)) ∧
  (∀ (s : State) (c : Ctx) (l0 : Nat × Fibre), GroupReady s c { instr := .rdv } l0 → s.syncWait c.w = none →
    exec .rdv s = .next (State.checkpoint (State.tryRdv (State.settleWeave (State.pickRunner
      (((s.release c.ids (.rdv c.pid)).after c.w 1 false true).modFibres c.ids fun f => { f with status := .rdv }) c.w) c.w)
        c.pid) c.w)) ∧
  (∀ (s : State) (e : Nat) (v : Engine) (p : Pour), EngReady s e v p { instr := .rdv } →
    exec .rdv s = .next ((((s.releaseEngine e (.rdv v.pour)).afterEngine e 1).modEngine e fun w =>
      { w with atRdv := true }).tryRdv v.pour))

/-- 11 R240 to R242, R248 and 12 R264, with 03 R79's starts; the phase barriers and the fences on an engine too. That FORK starts
the engines that are free while it waits for the others is the model's choice (log 49), and so is that the lanes of one FENCE
acquire together and then release together (log 65). -/
def Obligations.PhaseBarriersForkAndFences : Prop :=
  (∀ (s : State) (c : Ctx) (l0 : Nat × Fibre) (a : BitVec 8) (key : Nat),
    let h : Form := { instr := .pbarr a, a := some (.ap, a) }
    let u := s.groupRead c h l0
    let x := s.leadIn c h l0
    GroupReady s c h l0 → poi x.a = false → barKey c.p (pairAddr x.a) = .ok key → u.syncWait c.w = none →
      exec (.pbarr a) s = .next ((((u.modFibres c.ids Fibre.newRegion).arriveBar key (u.releasedBy c.ids)).after c.w h.len false
        false).checkpoint c.w)) ∧
  (∀ (s : State) (c : Ctx) (l0 : Nat × Fibre) (a : BitVec 8) (ph : BitVec 1) (key : Nat),
    let h : Form := { instr := .pbwait a ph, a := some (.ap, a) }
    let u := s.groupRead c h l0
    let x := s.leadIn c h l0
    GroupReady s c h l0 → poi x.a = false → barKey c.p (pairAddr x.a) = .ok key → u.syncWait c.w = none →
      u.phaseAt key = (ph == 1#1) →
      exec (.pbwait a ph) s = .next (((u.acquire c.ids (.phaseDone key)).after c.w h.len false true).checkpoint c.w)) ∧
  (∀ (s : State) (c : Ctx) (l0 : Nat × Fibre) (a : BitVec 8) (l : Word),
    let h := fibreOnly { instr := .fork a l, a := some (.s, a), lit := l }
    let u := s.groupRead c h l0
    let x := s.leadIn c h l0
    let es := u.toStart c.pid c.p c.v.forked
    let go := es.filter fun e => u.engineFree c.p.core e.1
    let t := go.foldl (fun t e => t.startEngine c.pid c.p e.1 e.2 x.a0.val x.f.tagmode (u.releasedBy c.ids)) u
    let done := (c.p.hdr.forks.map (·.1)).filter fun k => !(es.filter fun e => !go.contains e).any fun e => e.1 == k
    GroupReady s c h l0 → (c.p.hdr.lent ≠ none ∨ c.p.hdr.rent ≠ none) → poi x.a = false → u.syncWait c.w = none →
      ((∀ e ∈ es, u.engineFree c.p.core e.1 = true) →
        exec (.fork a l) s = .next ((State.checkpoint (State.after (t.modFibres c.ids Fibre.newRegion) c.w h.len false true) c.w))) ∧
      ((∃ e ∈ es, u.engineFree c.p.core e.1 = false) →
        exec (.fork a l) s = .next (((if go = [] then t else t.modFibres c.ids Fibre.newRegion).modWeave c.w fun v =>
          { v with forked := done }).stallWeave c.w .fork))) ∧
  (∀ (s : State) (c : Ctx) (l0 : Nat × Fibre), GroupReady s c (fibreOnly { instr := .ckpt }) l0 → s.pairOf c.pid = none →
    exec .ckpt s = .next (s.after c.w 1 false false)) ∧
  (∀ e ∈ ([(.fencePour, false), (.fenceDev, true)] : List (Instr × Bool)),
    ∀ (s : State) (c : Ctx) (l0 : Nat × Fibre), GroupReady s c { instr := e.1 } l0 → s.syncWait c.w = none →
      exec e.1 s = .next (((s.fenceFibres c.pid c.ids e.2).after c.w 1 false false).checkpoint c.w)) ∧
  (∀ (s : State) (e : Nat) (v : Engine) (p : Pour) (a : BitVec 8) (ph : BitVec 1) (key : Nat),
    barKey p (pairAddr (engIn v p { instr := .pbarr a, a := some (.ap, a) }).a) = .ok key →
      (let h : Form := { instr := .pbarr a, a := some (.ap, a) }
       EngReady s e v p h → poi (engIn v p h).a = false → exec (.pbarr a) s =
         .next (((s.modEngine e fun w => { w with region := w.region + 1 }).arriveBar key (joinClock v.clock [(e, v.region)])).afterEngine
           e h.len)) ∧
      (let h : Form := { instr := .pbwait a ph, a := some (.ap, a) }
       EngReady s e v p h → poi (engIn v p h).a = false → s.phaseAt key = (ph == 1#1) → exec (.pbwait a ph) s =
         .next ((s.modEngine e fun w => { w with clock := joinClock w.clock (s.syncOf (.phaseDone key)), region := w.region + 1 }).afterEngine
           e h.len))) ∧
  (∀ e ∈ ([(.fencePour, false), (.fenceDev, true)] : List (Instr × Bool)),
    ∀ (s : State) (k : Nat) (v : Engine) (p : Pour), EngReady s k v p { instr := e.1 } →
      exec e.1 s = .next ((s.fenceEngine v.pour k e.2).afterEngine k 1))

/-- 11 R245 over 03 R74 and R75. -/
def Obligations.GraphEdgesPushAndPop : Prop :=
  (∀ (s : State) (c : Ctx) (l0 : Nat × Fibre) (a b : BitVec 8) (key : Nat) (e : Edge) (pl : Place),
    let h := fibreOnly { instr := .epush a b, a := some (.ap, a), b := some (.xs, b), bReg := true }
    let u := s.groupRead c h l0
    let x := s.leadIn c h l0
    let op := c.groupMem h .epush true 240 x 0 x.b
    let at_ := pairAddr x.a
    GroupReady s c h l0 → poi (x.a ++ x.b) = false → u.syncWait c.w = none → u.pairOf c.pid = none →
      u.edgeAt c.p.part at_ = .ok key e → 0 < e.free → u.edgeSlot c.p.part e e.tail true = .mem pl →
      let t := (u.cacheAll c.p [at_, e.slot e.tail]).touch key 64
      let t := State.sign { t with mem := storeAt t.mem pl 16 x.b } c.p.part op.pour at_ 16 (wordsBytes x.b)
      let t := t.putEdge key { e with free := e.free - 1, tail := (e.tail + 1) % 2 ^ 32, filled := e.filled + 1 }
      exec (.epush a b) s = .next (((t.release c.ids (.edge key e.tail))).passAccess c.w op h.len false true)) ∧
  (∀ (s : State) (c : Ctx) (l0 : Nat × Fibre) (d a : BitVec 8) (key : Nat) (e : Edge) (pl : Place),
    let h := fibreOnly { instr := .epop d a, dst := some (d, 4), a := some (.ap, a) }
    let u := s.groupRead c h l0
    let x := s.leadIn c h l0
    let op := c.groupMem h .epop true d.toNat x 0 []
    let at_ := pairAddr x.a
    GroupReady s c h l0 → poi x.a = false → u.syncWait c.w = none → u.pairOf c.pid = none →
      u.edgeAt c.p.part at_ = .ok key e → 0 < e.filled → u.edgeSlot c.p.part e e.head false = .mem pl →
      u.locRefresh (.mem pl) = false →
      let t := ((u.cacheAll c.p [at_, e.slot e.head]).touch key 64).touchLoc (.mem pl) 16
      let ws := loadWords t.mem pl pl.key 4
      let t := (t.putEdge key { e with filled := e.filled - 1, head := (e.head + 1) % 2 ^ 32, free := e.free + 1 })
      exec (.epop d a) s = .next (((((t.acquire c.ids (.edge key e.head)).setSync (.edge key e.head) []).sendResult op
        (c.ids.map fun f => (f, ws)))).passAccess c.w op h.len false true))

/-- 11 R244, R246 and R247, over the chunk rule of 03 R78; TSPAWN and TSIG on an engine too. -/
def Obligations.WorkIsDrawnSpawnedAndSignalled : Prop :=
  (∀ (s : State) (c : Ctx) (l0 : Nat × Fibre) (d : BitVec 8),
    let h := fibreOnly { instr := .rnext d, dst := some (d, 2) }
    let x := s.leadIn c h l0
    let op := c.groupMem h .rnext true d.toNat x 0 []
    GroupReady s c h l0 →
      (s.rangeOf c.p = none → exec (.rnext d) s = .next (c.trapG s h x cOperand c.mask (h.word.zeroExtend 64))) ∧
      (∀ r u, s.rangeOf c.p = some (r, u) → s.pairOf c.pid = none →
        let len : Word := BitVec.ofNat 32 (min u.left.toNat (max (max u.minc.toNat 1)
          ((u.left.toNat + 2 * u.pours - 1) / (2 * u.pours))))
        exec (.rnext d) s = .next (((s.modPart c.p.part fun q =>
            { q with ranges := SMap.put q.ranges r { u with left := u.left - len } }).sendResult op
          (c.ids.map fun f => (f, [{ val := u.start + (u.total - u.left), tag := 0xFFF0#16 },
            { val := len, tag := 0xFFF0#16 }]))).passAccess c.w op 1 false false))) ∧
  (∀ (s t : State) (c : Ctx) (l0 : Nat × Fibre) (d a : BitVec 8) (hd : Word) (va : Nat),
    let h : Form := { instr := .tspawn d a, dst := some (d, 1), a := some (.ap, a) }
    let u := s.groupRead c h l0
    let x := s.leadIn c h l0
    let op := c.groupMem h .tspawn false d.toNat x 0 []
    let v := u.reached c.p op
    let loc := match v.laneLocs c.p op false with | e :: _ => e.2 | [] => .fatal
    GroupReady s c h l0 → poi x.a = false → AccessReady u c op → aperture (pairAddr x.a + 0#64) = .global va →
      (v.placeBytes loc 64).2 = false → u.locRefresh loc = false →
      ({ v with free := v.free + 1 } : State).spawnRecord c.p (v.placeBytes loc 64).1 = some (hd, t) →
      exec (.tspawn d a) s = .next (((t.recordAcc c.p op (checkedLanes op (v.laneLocs c.p op false) false)).sendResult op
        (c.ids.map fun f => (f, [{ val := hd }]))).passAccess c.w op h.len false false)) ∧
  (∀ (s : State) (c : Ctx) (l0 : Nat × Fibre) (a b : BitVec 8) (l : Word),
    let h : Form := { instr := .tsig a b l, a := some (.s, a), b := some (.s, b), lit := l }
    let u := s.groupRead c h l0
    let x := s.leadIn c h l0
    let op := c.groupMem h .tsig true 240 { x with a := [] } 0 [x.a0, x.b0]
    GroupReady s c h l0 → poi (x.a ++ x.b) = false → u.syncWait c.w = none → u.pairOf c.pid = none →
      let clock := u.releasedBy c.ids
      let t := (u.modFibres c.ids Fibre.newRegion).sign c.p.part op.pour (x.a0.val.zeroExtend 64) 8
        (bytesOfWord x.b0.val ++ bytesOfWord x.a0.val)
      exec (.tsig a b l) s = .next ((t.signal c.p.part x.a0.val x.b0.val clock).passAccess c.w op h.len false false)) ∧
  (∀ (s t : State) (e : Nat) (v : Engine) (p : Pour) (d a : BitVec 8) (l : Loc) (hd : Word) (va : Nat),
    let h : Form := { instr := .tspawn d a, dst := some (d, 1), a := some (.ap, a) }
    let x := engIn v p h
    let u := s.touchLoc l 64 false
    EngReady s e v p h → poi x.a = false → aperture (pairAddr x.a) = .global va → EngReach s x (pairAddr x.a) 64 false l →
      (u.placeBytes l 64).2 = false → u.pairOf v.pour = none →
      ({ u.cacheAll p [pairAddr x.a] with free := u.free + 1 } : State).spawnRecord p (u.placeBytes l 64).1 = some (hd, t) →
      t.engine? e = some v →
      exec (.tspawn d a) s =
        .next (((t.addPend .load (.engine e d.toNat [{ val := hd }]) v.pour v.pc).2).afterEngine e h.len)) ∧
  (∀ (s : State) (e : Nat) (v : Engine) (p : Pour) (a b : BitVec 8) (l : Word),
    let h : Form := { instr := .tsig a b l, a := some (.s, a), b := some (.s, b), lit := l }
    let x := engIn v p h
    EngReady s e v p h → poi (x.a ++ x.b) = false → s.pairOf v.pour = none →
      exec (.tsig a b l) s = .next (((s.signal p.part x.a0.val x.b0.val (joinClock v.clock [(e, v.region)])).modEngine e fun w =>
        { w with region := w.region + 1 }).afterEngine e h.len))

/-- 12 R265, R268, R274 and R276, on a weave and on an engine. -/
def Obligations.CopyCommandsQueueAndCountersAreAwaited : Prop :=
  (∀ e ∈ ([(.rcopy, .rcopy), (.rpat, .rpat), (.put, .put)] : List ((BitVec 8 → BitVec 8 → Instr) × CmdKind)),
    ∀ (s : State) (c : Ctx) (l0 : Nat × Fibre) (d a : BitVec 8),
      let h : Form := { instr := e.1 d a, dst := some (d, 1), a := some (.ap, a) }
      let u := s.groupRead c h l0
      let x := s.leadIn c h l0
      let lanes := c.supply h u fun _ => [0#32]
      let pd := u.addPend .token (.fibres d.toNat lanes) c.pid c.pc none false
      let cmd : Cmd := { id := 0, core := c.p.core, pour := c.pid, kind := e.2, addr := pairAddr x.a, here := c.here, pc := c.pc,
                         rank := x.f.rank, pend := some pd.1, owner := c.p, rtag := pd.2.rtagOf c.p }
      GroupReady s c h l0 → poi x.a = false → u.syncWait c.w = none → (u.cmds.filter fun q => q.core == c.p.core && q.state == .queued).length < 32 →
        exec (e.1 d a) s = .next (((pd.2.enqueue cmd).pushLatch c.w d 1 lanes true).after c.w h.len false false)) ∧
  (∀ (s : State) (c : Ctx) (l0 : Nat × Fibre) (a b : BitVec 8) (l n : Word) (k : SyncKey),
    let h : Form := { instr := .wwait a b l, a := some (.ap, a), b := some (.s, b), lit := l, bReg := true }
    let u := s.groupRead c h l0
    let x := s.leadIn c h l0
    GroupReady s c h l0 → poi (x.a ++ x.b) = false → u.unmatched c.w = false → u.heldFor c.w = [] →
      u.counterAt c.p.part (pairAddr x.a) = .ok (n, k) → (n - x.b0.val).toNat < 2 ^ 31 →
      exec (.wwait a b l) s = .next (((u.acquire c.ids k).after c.w h.len false false).checkpoint c.w)) ∧
  (∀ g ∈ ([(.rcopy, .rcopy), (.rpat, .rpat), (.put, .put)] : List ((BitVec 8 → BitVec 8 → Instr) × CmdKind)),
    ∀ (s : State) (e : Nat) (v : Engine) (p : Pour) (d a : BitVec 8),
      let h : Form := { instr := g.1 d a, dst := some (d, 1), a := some (.ap, a) }
      let x := engIn v p h
      let pd := s.addPend .token (.engine e d.toNat [{}]) v.pour v.pc none false
      let cmd : Cmd := { id := 0, core := v.core, pour := v.pour, kind := g.2, addr := pairAddr x.a, here := x.here, pc := v.pc,
                         rank := 0, pend := some pd.1, owner := p, rtag := pd.2.rtagOf p, eng := some v.kind,
                         clock := joinClock v.clock [(e, v.region)] }
      EngReady s e v p h → poi x.a = false → (s.cmds.filter fun q => q.core == v.core && q.state == .queued).length < 32 →
        exec (g.1 d a) s = .next ((pd.2.enqueue cmd).afterEngine e h.len)) ∧
  (∀ (s : State) (e : Nat) (v : Engine) (p : Pour) (a b : BitVec 8) (l n : Word) (k : SyncKey),
    let h : Form := { instr := .wwait a b l, a := some (.ap, a), b := some (.s, b), lit := l, bReg := true }
    let x := engIn v p h
    EngReady s e v p h → poi (x.a ++ x.b) = false → s.counterAt p.part (pairAddr x.a) = .ok (n, k) →
      (n - x.b0.val).toNat < 2 ^ 31 →
      exec (.wwait a b l) s = .next ((s.modEngine e fun w =>
        { w with clock := joinClock w.clock (s.syncOf k), region := w.region + 1 }).afterEngine e h.len))

/-- 12 R277 and R278, on a weave and on an engine. That an access of 96 bytes is made in three pieces of 32, and one to a peer's
window is one put of 96, is the model's choice (log 44), and so is what counts as a register in use (log 45). -/
def Obligations.ShapeRegistersMove : Prop :=
  (∀ (v : BitVec 768) (w i : Nat) (x : Word), w < 24 → i < 24 →
    (setShapeWord v w x).extractLsb' (32 * i) 32 = if i = w then x else v.extractLsb' (32 * i) 32) ∧
  (∀ (s : State) (c : Ctx) (l0 : Nat × Fibre) (n : BitVec 4) (a b : BitVec 8) (l : Word),
    let h : Form := { instr := .shset n a b l, a := some (.s, a), b := some (.s, b), lit := l }
    let u := s.groupRead c h l0
    let x := s.leadIn c h l0
    GroupReady s c h l0 → poi (x.a ++ x.b) = false → x.b0.val.toNat < 24 → u.shapeBusy c.pid n.toNat = false →
      exec (.shset n a b l) s = .next ((u.modPour c.pid fun p =>
        { p with shapes := p.shapes.set n.toNat (setShapeWord (p.shape n.toNat) x.b0.val.toNat x.a0.val)
                 shapesOld := some (u.clk, p.shapesAt u.clk) }).after c.w h.len false false)) ∧
  (∀ (s : State) (c : Ctx) (l0 : Nat × Fibre) (d : BitVec 8) (n : BitVec 4) (b : BitVec 8) (l : Word),
    let h : Form := { instr := .shget d n b l, dst := some (d, 1), b := some (.s, b), lit := l }
    let u := s.groupRead c h l0
    let x := s.leadIn c h l0
    GroupReady s c h l0 → poi x.b = false → x.b0.val.toNat < 24 → u.shapeHeld c.pid n.toNat = false →
      exec (.shget d n b l) s = .next (c.finishIn h u (c.supply h u fun _ =>
        [((c.p.shapesAt s.clk).getD n.toNat 0#768).extractLsb' (32 * x.b0.val.toNat) 32]))) ∧
  (∀ (s : State) (c : Ctx) (l0 : Nat × Fibre) (n : BitVec 4) (a : BitVec 8),
    let h : Form := { instr := .shld n a, a := some (.ap, a) }
    let u := s.groupRead c h l0
    let x := s.leadIn c h l0
    let op := shapePieces (c.groupMem h (.shld n.toNat) false 240 x 0 [])
    let v := State.recorded (u.reached c.p op) c.p op (u.laneLocs c.p op false)
    let bs := v.shapeBytes ((v.laneLocs c.p op false).map (·.2))
    GroupReady s c h l0 → poi x.a = false → u.shapeBusy c.pid n.toNat = false → AccessReady u c op → bs.2 = false →
      let t := v.modPour c.pid fun p => { p with shapes := p.shapes.set n.toNat (BitVec.ofNat 768 (leNat bs.1))
                                                 shapesOld := some (v.clk, p.shapesAt v.clk) }
      exec (.shld n a) s = .next (({ t with free := v.free + 1 } : State).after c.w h.len false false)) ∧
  (∀ (s : State) (c : Ctx) (l0 : Nat × Fibre) (n : BitVec 4) (a : BitVec 8),
    let h : Form := { instr := .shst n a, a := some (.ap, a) }
    let u := s.groupRead c h l0
    let x := s.leadIn c h l0
    let whole := c.groupMem h (.shst 96) false 240 x 0 (shapeWords (c.p.shape n.toNat))
    let pieces := { shapePieces whole with kind := .shst 32 }
    let remote := onePeer ((u.laneLocs c.p pieces false).map (·.2))
    let bytes := if remote then 96 else 32
    let op := if remote then whole else pieces
    let ls := u.laneLocs c.p op false
    GroupReady s c h l0 → poi x.a = false → u.shapeBusy c.pid n.toNat = false → AccessReady u c op →
      exec (.shst n a) s = .next ((ls.foldl (fun t e => match e.2 with
          | .mem pl => { t with mem := storeAt t.mem pl bytes e.1.data }
          | .peer d w o g => t.remoteStore c.p op (t.rankOf e.1.fibre) d w o g bytes e.1.data
          | _ => t) (State.recorded (u.reached c.p op) c.p op ls)).passAccess c.w op h.len false false)) ∧
  (∀ (s : State) (e : Nat) (v : Engine) (p : Pour) (n : BitVec 4) (a b : BitVec 8) (l : Word),
    let h : Form := { instr := .shset n a b l, a := some (.s, a), b := some (.s, b), lit := l }
    let x := engIn v p h
    EngReady s e v p h → poi (x.a ++ x.b) = false → x.b0.val.toNat < 24 → s.shapeBusy v.pour n.toNat = false →
      exec (.shset n a b l) s = .next ((s.modPour v.pour fun q =>
        { q with shapes := q.shapes.set n.toNat (setShapeWord (q.shape n.toNat) x.b0.val.toNat x.a0.val)
                 shapesOld := some (s.clk, q.shapesAt s.clk) }).afterEngine e h.len)) ∧
  (∀ (s : State) (e : Nat) (v : Engine) (p : Pour) (d : BitVec 8) (n : BitVec 4) (b : BitVec 8) (l : Word),
    let h : Form := { instr := .shget d n b l, dst := some (d, 1), b := some (.s, b), lit := l }
    let x := engIn v p h
    EngReady s e v p h → poi x.b = false → x.b0.val.toNat < 24 → s.shapeHeld v.pour n.toNat = false →
      exec (.shget d n b l) s = .next ((s.modEngine e fun w => w.setK d.toNat
        [{ val := ((p.shapesAt s.clk).getD n.toNat 0#768).extractLsb' (32 * x.b0.val.toNat) 32 }]).afterEngine e h.len)) ∧
  (∀ (s : State) (e : Nat) (v : Engine) (p : Pour) (n : BitVec 4) (a : BitVec 8) (l0 l1 l2 : Loc),
    let h : Form := { instr := .shld n a, a := some (.ap, a) }
    let x := engIn v p h
    let t := ((s.touchLoc l0 32 false).touchLoc l1 32 false).touchLoc l2 32 false
    let bs := t.shapeBytes [l0, l1, l2]
    EngReady s e v p h → poi x.a = false → s.shapeBusy v.pour n.toNat = false → EngReach s x (pairAddr x.a + 0#64) 32 false l0 →
      EngReach s x (pairAddr x.a + 32#64) 32 false l1 → EngReach s x (pairAddr x.a + 64#64) 32 false l2 → bs.2 = false →
      let q := t.modPour v.pour fun q => { q with shapes := q.shapes.set n.toNat (BitVec.ofNat 768 (leNat bs.1))
                                                  shapesOld := some (t.clk, q.shapesAt t.clk) }
      exec (.shld n a) s = .next (({ q with free := t.free + 1 } : State).afterEngine e h.len)) ∧
  (∀ (s : State) (e : Nat) (v : Engine) (p : Pour) (n : BitVec 4) (a : BitVec 8) (l0 l1 l2 : Loc),
    let h : Form := { instr := .shst n a, a := some (.ap, a) }
    let x := engIn v p h
    let ws := shapeWords (p.shape n.toNat)
    let rank := if v.kind = .ladle then 0xFFFF else 0xFFFE
    let op : MemOp := { kind := .shst 32, rlx := true, weave := 0, pour := v.pour, pc := v.pc, here := x.here, dest := 240,
                        lanes := [], word := h.word }
    let put (t : State) (y : Loc × List Reg) : State := match y.1 with
      | .mem pl => { t with mem := storeAt t.mem pl 32 y.2 }
      | .peer d w o g => t.remoteStore p op rank d w o g 32 y.2
      | _ => t
    EngReady s e v p h → poi x.a = false → s.shapeBusy v.pour n.toNat = false → EngReach s x (pairAddr x.a + 0#64) 32 true l0 →
      EngReach s x (pairAddr x.a + 32#64) 32 true l1 → EngReach s x (pairAddr x.a + 64#64) 32 true l2 →
      (onePeer [l0, l1, l2] = false → exec (.shst n a) s = .next (State.afterEngine
        (put (put (put s (l0, ws.take 8)) (l1, (ws.drop 8).take 8)) (l2, ws.drop 16)) e h.len)) ∧
      (∀ d w o g, l0 = .peer d w o g → onePeer [l0, l1, l2] = true → exec (.shst n a) s =
        .next ((s.remoteStore p op rank d w o g 96 ws).afterEngine e h.len)))

/-- 13 R283, R284, R287 to R289, R295 and R304. That a resumed MMUL tags with the site of the MMUL whose error completion its engine
remembers for the barrier word, or with its own where there was none, is the model's reading of 06 R142 (log 74). -/
def Obligations.MatrixInstructionsIssue : Prop :=
  (∀ (s : State) (e : Nat) (v : Engine) (p : Pour) (a b : BitVec 8) (l : Word),
    let h := ladleOnly { instr := .mldw a b l, a := some (.ap, a), b := some (.s, b), lit := l }
    let x := engIn v p h
    EngReady s e v p h → (s.core v.core).mat = none → poi (x.a ++ x.b) = false →
      (∀ k, mldwFault p (pairAddr x.a) (decodeDesc x.b0.val) = some k → exec (.mldw a b l) s = .next (s.trapEngine e k)) ∧
      (mldwFault p (pairAddr x.a) (decodeDesc x.b0.val) = none → exec (.mldw a b l) s = .next (s.sendMat v.core e h.len
        { kind := .mldw, pour := v.pour, eng := e, tile := 0, regs := x.a.map (·.val), desc := x.b0.val, here := x.here,
          mode := v.tagmode, pc := v.pc }))) ∧
  (∀ g ∈ ([(.mmul, false), (.mmulResume, true)] : List ((BitVec 3 → BitVec 8 → BitVec 8 → Word → Instr) × Bool)),
    ∀ (s : State) (e : Nat) (v : Engine) (p : Pour) (d : BitVec 3) (a b : BitVec 8) (l : Word),
      let h := ladleOnly { instr := g.1 d a b l, a := some (.xs, a), b := some (.s, b), lit := l }
      let x := engIn v p h
      let m := decodeMmul (x.a.map (·.val))
      let key := offKey p m.bar
      let r := if g.2 then s.touch key 8 else s
      let bar := decodePBar (r.mem.readNat key 8)
      EngReady s e v p h → (s.core v.core).mat = none → poi (x.a ++ x.b) = false →
        (∀ k, mmulFault p v.wtile d.toNat m (decodeDesc x.b0.val) = some k → exec (g.1 d a b l) s = .next (s.trapEngine e k)) ∧
        (∀ w, v.wtile = some w → mmulFault p v.wtile d.toNat m (decodeDesc x.b0.val) = none →
          (g.2 = true → bar.err = true ∧ bar.pend ≤ 3) →
          exec (g.1 d a b l) s = .next (((if g.2 then r.modBar key (fun q => PBar.settle { q with pend := 0 }) else r).ownTiles p.part v.core
            d.toNat (w.n / 128)).sendMat v.core e h.len
            { kind := .mmul, pour := v.pour, eng := e, tile := d.toNat, regs := x.a.map (·.val), desc := x.b0.val
              here := if g.2 then SMap.getD v.failed m.bar x.here else x.here
              mode := v.tagmode, pc := v.pc, chunk := if g.2 then bar.pend else 0 }))) ∧
  (∀ (s : State) (e : Nat) (v : Engine) (p : Pour) (d : BitVec 3) (a : BitVec 8) (key : Nat) (ed : Edge),
    let h := ladleOnly { instr := .mdrain d a, a := some (.ap, a) }
    let x := engIn v p h
    let bs := (s.touch key 64).mem.readBytes key 64
    let b := decodeDrain bs
    let u := (s.touch key 64).ownTiles p.part v.core d.toNat (2 ^ b.ntile)
    let blank : List Reg := List.replicate (stripWords b.ofmt) {}
    let fs := (u.drainFibres v.pour b).map fun f => (f.1, blank)
    let t := if b.dkind = 2 then (u.addPend .drain (.fibres (bits b.dst 0 8) fs) v.pour v.pc none false).2 else u
    EngReady s e v p h → (s.core v.core).mat = none → poi x.a = false → s.drainBlock p (pairAddr x.a) = .ok key ed →
      b.bad p d.toNat = false → s.pairOf v.pour = none →
      exec (.mdrain d a) s = .next (t.sendMat v.core e h.len
        { kind := .mdrain, pour := v.pour, eng := e, tile := d.toNat, regs := x.a.map (·.val), desc := 0#32, here := x.here,
          mode := v.tagmode, pc := v.pc, block := bs, blkAt := pairAddr x.a })) ∧
  (∀ (s : State) (e : Nat) (v : Engine) (p : Pour), EngReady s e v p { instr := .halt, fibre := false } →
    (v.kind = .ladle → (s.core v.core).mat = none) → s.engAlone v = none →
    let t := s.releaseEngine e (.task p.task)
    exec .halt s = .next (((({ t with engines := SMap.erase t.engines e } : State).tryRdv v.pour).endIfDone v.pour)))

/-- 13 R293: the tiles are read through `AccTile.at`. -/
def Obligations.MzeroClearsTheTiles : Prop :=
  decodeWord 0xD2000300#32 0#32 = some (.mzero 0#3 3#3) ∧ encodeWord (.mzero 0#3 3#3) = some 0xD2000300#32 ∧
  ∀ (s : State) (e : Nat) (v : Engine) (p : Pour) (d l : BitVec 3),
    EngReady s e v p (ladleOnly { instr := .mzero d l }) → (s.core v.core).mat = none →
      (l.toNat < d.toNat → exec (.mzero d l) s = .next (s.trapEngine e cOperand)) ∧
      (d.toNat ≤ l.toNat →
        let u := s.ownTiles p.part v.core d.toNat (l.toNat - d.toNat + 1)
        ∃ t, exec (.mzero d l) s = .next t ∧ ∀ n,
          (n < d.toNat ∨ l.toNat < n → (t.core v.core).tile n = (u.core v.core).tile n) ∧
          (d.toNat ≤ n → n ≤ l.toNat → ((t.core v.core).tile n).sticky = false ∧
            ∀ i j, let tag := if v.tagmode = 0#2 then (((u.core v.core).tile n).at i j).tag else p.here v.pc
              ((t.core v.core).tile n).at i j = { val := 0#32, tag := tag, poison := false }))

/-- 13 R294 with 09 R199: firmware alone runs them; on a weave with an active lane and on a kernel's Ladle and Runner they are
illegal. The two faults are the model's (log 29, log 20). -/
def Obligations.TilesSpillAndFill : Prop :=
  (∀ (s : State) (core part : Nat) (d : BitVec 3) (a : BitVec 8), s.turn = .firmware core part →
    let pa := s.imageAddr core a
    (pa % 64 ≠ 0 → exec (.mspill d a) s = .fault (.badImage pa) ∧ exec (.mfill d a) s = .fault (.badImage pa)) ∧
    (pa % 64 = 0 → dramBytes < pa + 100480 →
      exec (.mspill d a) s = .fault (.noMemory pa) ∧ exec (.mfill d a) s = .fault (.noMemory pa)) ∧
    (pa % 64 = 0 → pa + 100480 ≤ dramBytes →
      exec (.mspill d a) s = .next { s with mem := s.mem.store (dramKey pa) ((s.core core).tile d.toNat).image } ∧
      let u := s.touch (dramKey pa) 100480
      exec (.mfill d a) s = .next (u.modTile core d.toNat fun _ => u.imageTile (dramKey pa) (u.owner part)))) ∧
  (∀ i, (∃ d a, i = .mspill d a ∨ i = .mfill d a) → ∀ (s : State) (c : Ctx) (l0 : Nat × Fibre), s.turn = .weave c.w →
    s.ctxOf c.w = some c → c.acts.head? = some l0 →
    let shown := c.acts.map fun e => (e.2.lane, ((encodeWord i).getD 0#32).zeroExtend 64)
    exec i s = .next (s.trapWeave c.w { cause := cIllegal, mask := laneMask c.acts, pc := c.pc, addrs := shown })) ∧
  (∀ i, (∃ d a, i = .mspill d a ∨ i = .mfill d a) → ∀ (s : State) (e : Nat) (v : Engine) (p : Pour), s.turn = .engine e →
    s.engine? e = some v → s.pour? v.pour = some p → v.running = true → exec i s = .next (s.trapEngine e cIllegal))

/-- 14 R310 with the fates of R309, and R314 to R316. Which cause of 22 R400 a poisoned word's purge has is the model's choice (log 54),
and so is the cause that it shows (log 77), and that targets are taken modulo 2^32 (log 92). -/
def Obligations.CrucibleScalarsEdgesAndEnd : Prop :=
  ∀ (s : State) (k : Nat) (c : Crucible),
    (CruReady s k c [] →
      (∀ d a u, exec (.cmovc d a u) s = .next (s.cruNext k fun q =>
        q.setC d { val := (c.cr a).val * 65536#64 + u.zeroExtend 64, poison := (c.cr a).poison })) ∧
      (∀ d a b x, exec (.caddc d a b x) s = .next (s.cruNext k fun q =>
        q.setC d { val := (c.cr a).val + (c.cr b).val + x.signExtend 64, poison := (c.cr a).poison || (c.cr b).poison })) ∧
      (∀ d a b, exec (.csubc d a b) s = .next (s.cruNext k fun q =>
        q.setC d { val := (c.cr a).val - (c.cr b).val, poison := (c.cr a).poison || (c.cr b).poison })) ∧
      (∀ d a b, exec (.cmulc d a b) s = .next (s.cruNext k fun q =>
        q.setC d { val := (c.cr a).val * (c.cr b).val, poison := (c.cr a).poison || (c.cr b).poison })) ∧
      (∀ o, exec (.cjmp o) s = .next (s.modCrucible k fun q =>
        { q with pc := (((q.pc : Int) + o.toInt) % 2 ^ 32).toNat, stall := none, prog := 0 }))) ∧
    (∀ a o, CruReady s k c [c.cr a] → exec (.cbnz a o) s = .next (if (c.cr a).val = 0#64 then s.cruNext k id
      else s.modCrucible k fun q => { q with pc := (((q.pc : Int) + o.toInt) % 2 ^ 32).toNat, stall := none, prog := 0 })) ∧
    (∀ d a i pl, CruReady s k c [c.cr a] →
      let as := [((c.cr a).val + i.signExtend 64 * 8#64, 8)]
      CruReach s c as false [pl] →
      let t := (s.cruReached c as).touch pl.key 8
      exec (.cldc d a i) s = .next (t.cruNext k fun q =>
        q.setC d { val := BitVec.ofNat 64 (t.mem.readNat pl.key 8), poison := t.mem.isPoison pl.key })) ∧
    (∀ i, (∃ d a x, i = .cldc d a x ∧ (c.cr a).poison = true) ∨ (∃ a o, i = .cbnz a o ∧ (c.cr a).poison = true) →
      s.turn = .crucible k → s.crucible? k = some c → exec i s = .next ((({ s with free := s.free + 1 } : State).modCore c.chan fun q =>
        { q with cstatus := tinfo1Of ((Config.freeWord s.free).toNat % 32) c.pc }).purge c.part (State.cruTag s c) 0)) ∧
    (∀ d a, CruReady s k c [c.cr a] → d.getLsbD 0 = false → (∃ u ws, s.edgeTake c.asPour (c.cr a).val = .done u ws) →
      s.popsHost c.part (c.cr a).val = true → exec (.cepop d a) s = .next ((s.modCore c.chan fun q =>
        { q with cstatus := tinfo1Of cAccess c.pc }).purge c.part (State.cruTag s c) 2)) ∧
    (∀ d a u ws, CruReady s k c [c.cr a] → d.getLsbD 0 = false → s.edgeTake c.asPour (c.cr a).val = .done u ws →
      s.popsHost c.part (c.cr a).val = false →
      let key := s.edgeKey c.part (c.cr a).val
      let word (i : Nat) : CReg := { val := (ws.getD (2 * i + 1) {}).val ++ (ws.getD (2 * i) {}).val,
                                     poison := (ws.getD (2 * i) {}).poison }
      exec (.cepop d a) s = .next ((u.setSync key []).cruNext k fun q => { (q.setC d (word 0)).setC (d + 1#5) (word 1) with
        clock := joinClock q.clock (u.syncOf key), region := q.region + 1 })) ∧
    (∀ a b, CruReady s k c [c.cr a, c.cr b] →
      exec (.ctsig a b) s = .next ((s.signal c.part ((c.cr a).val.truncate 32) ((c.cr b).val.truncate 32) c.released).cruNext k
        fun q => { q with region := q.region + 1 })) ∧
    (CruReady s k c [] →
      let seen := joinClock c.clock (s.syncOf (.fence none))
      let all := joinClock (s.syncOf (.fence none)) (joinClock seen [(c.uid, c.region)])
      exec .cfence s = .next ((s.setSync (.fence none) all).cruNext k fun q => { q with clock := seen, region := q.region + 1 })) ∧
    (CruReady s k c [] →
      let u := s.setSync (.task c.task) (joinClock (s.syncOf (.task c.task)) c.released)
      let v := ({ u with crucibles := SMap.erase u.crucibles k } : State).modTask c.task fun t => { t with live := t.live - 1 }
      ∀ t, v.task? c.task = some t →
        exec .chalt s = .next (if t.live = 0 ∧ t.placed = t.total then v.endTask c.task 0 else v))

/-- 14 R311 to R313. -/
def Obligations.CrucibleRowsCompute : Prop :=
  ∀ (s : State) (k : Nat) (c : Crucible),
    (∀ e ∈ ([(.cmul, fmulR fFP32 0#32), (.cadd, faddR fFP32 0#32), (.csub, fsubR fFP32 0#32), (.cmax, fminmaxR true 0#32),
        (.cmin, fminmaxR false 0#32)] : List ((BitVec 5 → BitVec 5 → BitVec 5 → Instr) × (Nat → Nat → FRes))), ∀ d a b,
      CruReady s k c [] → d.toNat < 16 → a.toNat < 16 → b.toNat < 16 →
        exec (e.1 d a b) s = .next (s.cruNext k fun q => q.setY d fun i =>
          { val := BitVec.ofNat 32 (e.2 (c.ye a i).val.toNat (c.ye b i).val.toNat).1,
            poison := (c.ye a i).poison || (c.ye b i).poison })) ∧
    (∀ d a b, CruReady s k c [] → d.toNat < 16 → a.toNat < 16 → b.toNat < 16 →
      exec (.cfma d a b) s = .next (s.cruNext k fun q => q.setY d fun i =>
        { val := BitVec.ofNat 32 (ffmaR fFP32 0#32 (c.ye a i).val.toNat (c.ye b i).val.toNat (c.ye d i).val.toNat).1,
          poison := (c.ye a i).poison || (c.ye b i).poison || (c.ye d i).poison })) ∧
    (∀ e ∈ ([(.crsq, frsqR 0#32), (.csqrt, fsqrtR 0#32)] : List ((BitVec 5 → BitVec 5 → Instr) × (Nat → FRes))), ∀ d a,
      CruReady s k c [] → d.toNat < 16 → a.toNat < 16 →
        exec (e.1 d a) s = .next (s.cruNext k fun q => q.setY d fun i =>
          { val := BitVec.ofNat 32 (e.2 (c.ye a i).val.toNat).1, poison := (c.ye a i).poison })) ∧
    (∀ d a, CruReady s k c [] → d.toNat < 16 → exec (.csplat d a) s = .next (s.cruNext k fun q => q.setY d fun _ =>
      { val := (c.cr a).val.truncate 32, poison := (c.cr a).poison })) ∧
    (∀ d a b m f, CruReady s k c [] → d.toNat < 16 → a.toNat < 16 → b.toNat < 16 → f.toNat ≤ 6 → f.toNat ≠ fFP32 → m.toNat ≤ 4 →
      (m.toNat ≠ 4 → b = 0#5) →
      let n (i : Nat) : Nat := if m.toNat = 4 then (c.ye b i).val.toNat % 65536 else 0
      let r (i : Nat) : Conv := rnd (dec (c.ye a i).val.toNat fFP32) f.toNat m.toNat (n i)
      exec (.ccvt d a b m f) s = .next ((s.countConv c.chan ((List.range 64).map r)).cruNext k fun q => q.setY d fun i =>
        { val := BitVec.ofNat 32 (rne32 (dec (r i).bits f.toNat)),
          poison := (c.ye a i).poison || (decide (m.toNat = 4) && (c.ye b i).poison) })) ∧
    (∀ d a b (sv : BitVec 1) f pl rest, CruReady s k c (if sv == 1#1 then [c.cr a, c.cr b] else [c.cr a]) → d.toNat < 16 →
      f.toNat ≤ 6 → (sv = 1#1 → scaled f.toNat = true) → (sv = 0#1 → b = 0#5) →
      let as := ((c.cr a).val, rowBytes f.toNat) :: (if sv == 1#1 then [((c.cr b).val, 2)] else [])
      CruReach s c as false (pl :: rest) →
      let t := rest.foldl (fun s p => s.touch p.key 2) ((s.cruReached c as).touch pl.key (rowBytes f.toNat))
      let e (q : Nat) : Nat := match rest with | p :: _ => (t.mem.read1 (p.key + q)).toNat | [] => 127
      let v (i : Nat) : Nat := if e (i / 32) = 255 then canonNaN fFP32 else
        rne32 ((dec (rowEl (t.mem.readNat pl.key (rowBytes f.toNat)) f.toNat i) f.toNat).scale ((e (i / 32) : Int) - 127))
      exec (.cldy d a b sv f) s = .next (t.cruNext k fun q => q.setY d fun i =>
        { val := BitVec.ofNat 32 (v i), poison := t.mem.isPoison (pl.key + slotBits f.toNat * i / 8) })) ∧
    (∀ d a b m (sv : BitVec 1) f pl rest, CruReady s k c (if sv == 1#1 then [c.cr a, c.cr b] else [c.cr a]) → d.toNat < 16 →
      f.toNat ≤ 6 → m.toNat ≤ 3 → (sv = 1#1 → scaled f.toNat = true) → (sv = 0#1 → b = 0#5) →
      let as := ((c.cr a).val, rowBytes f.toNat) :: (if sv == 1#1 then [((c.cr b).val, 2)] else [])
      CruReach s c as true (pl :: rest) →
      let x := c.stored d f.toNat m.toNat (sv == 1#1)
      let t := rest.foldl (fun s p => s.cruStore p c.here (x.1.map fun e => BitVec.ofNat 8 e) fun q =>
        (List.range 32).any fun i => (c.ye d (32 * q + i)).poison) (s.cruReached c as)
      exec (.csty d a b m sv f) s = .next (((t.cruStore pl c.here (packRow f.toNat x.2) (c.rowPoison d f.toNat)).countConv c.chan
        x.2).cruNext k id)) ∧
    (∀ d a b m f pl t, CruReady s k c [c.cr a, c.cr b, c.cr (b + 1#5)] → d.toNat < 16 → b ≠ 31#5 → f.toNat ≤ 4 → m.toNat ≤ 3 →
      c.prog = 0 → (∀ i < 64, (c.transAt b i).toNat % (slotBits f.toNat / 8) = 0) →
      let as := [((c.cr a).val, rowBytes f.toNat)]
      let x := c.stored d f.toNat m.toNat false
      CruReach s c as true [pl] →
      (((s.cruReached c as).cruStore pl c.here (packRow f.toNat x.2) (c.rowPoison d f.toNat)).countConv c.chan x.2).cruWritten c b d
        f.toNat x.2 64 0 = some t →
      exec (.cpair d a b m f) s = .next (t.cruNext k id))

/-- 02 R43, R44 and R50; 03 R65 to R71; 04 R94. That a dispatch keeps the record it chose and tries that one again is the model's
choice (log 78), and so is that a record with a bad header fails before any fit is sought (log 53) and is no placement (log 100). -/
def Obligations.WeavesFormAndPoursPlace : Prop :=
  (∀ (s u : State) (core quad k : Nat) (e : Nat × Fibre), s.candidateDue (s.candidate core quad) = true →
    s.waiting core quad = [] → (s.candidate core quad).head? = some e → s.takeSlot core quad = some (k, u) →
    exec (.recastIssue core quad) s =
      .next ((u.formWeave e.2.pour core quad (some k) (s.candidate core quad)).2)) ∧
  (∀ (s u : State) (core quad k : Nat) (e : Nat × Weave), (s.waiting core quad).head? = some e →
    s.takeSlot core quad = some (k, u) →
    exec (.weaveSlotGrant core quad) s = .next (u.modWeave e.1 fun v => { v with slot := some k, yielded := true, readyAt := u.clk })) ∧
  (∀ (s : State) (w j : Nat) (v : Weave) (p : Pour) (r : JReg), s.weave? w = some v → s.pour? v.pour = some p →
    p.dbg.runs = true → s.jreg w j = some r → r.state = 2#2 → r.limit ≠ 0#16 → r.arrived ≠ r.expect →
    r.limit.toNat * 1024 ≤ r.elapsed.toNat →
      let t := s.resumeLevel w j true
      (s.levelBusy w j = [] → exec (.rejoinTimeout w j) s =
        .next { t with fibres := t.fibres.map fun e => (e.1, e.2.stale w j r.gen) }) ∧
      (s.levelBusy w j ≠ [] → exec (.rejoinTimeout w j) s =
        .next ((s.levelBusy w j).foldl (fun u q => u.modWeave q fun v => { v with owes := true }) s))) ∧
  (∀ (s : State) (part tid : Nat) (c : Choice) (t : Task), s.mayPlace part = true → (s.part part).choice = some c →
    (c.blocked = true → exec (.placement part) s = .next s) ∧
    (c.blocked = false → c.task = tid → s.task? tid = some t → s.chosen part = some (tid, t))) ∧
  (∀ (s : State) (part lvl tid : Nat) (t : Task), (s.part part).choice = none → s.levelOf part = some lvl →
    (s.readyAt part lvl).head? = some (tid, t) → s.chosen part = some (tid, t)) ∧
  (∀ (s : State) (part tid : Nat) (t : Task), s.mayPlace part = true → s.chosen part = some (tid, t) →
    ((∃ r ∈ s.headReads tid t, s.ctxShut part r.1 r.2 = true) → exec (.placement part) s = .next s) ∧
    ((∀ r ∈ s.headReads tid t, s.ctxShut part r.1 r.2 = false) →
      let q := (s.headReads tid t).foldl (fun q r => q.ctxTouch part r.1 r.2) s
      (t.placed = 0 → q.rangeBusy tid t = true → exec (.placement part) s = .next (q.block t.part tid)) ∧
      ((t.placed = 0 → q.rangeBusy tid t = false) →
      (t.hdr = none → q.readHeader t = none → exec (.placement part) s = .next (q.failPlacement tid t)) ∧
      (∀ h u, (t.hdr = some h ∨ (t.hdr = none ∧ q.readHeader t = some h)) →
        ((q.rangeUnit t = none ∧ u = none) ∨
          (∃ r g, q.rangeUnit t = some r ∧ t.placed = 0 ∧ q.readRange tid t = some g ∧ u = some (r, g)) ∨
          (∃ r, q.rangeUnit t = some r ∧ t.placed ≠ 0 ∧ u = some (r, SMap.getD (q.part t.part).ranges r {}))) →
        (t.tier = true → exec (.placement part) s =
          .next (((q.placeInstance tid t h).notePlaced tid t h u).placedAt t.part t.queue)) ∧
        (t.tier = false → q.placePour tid t h = none → exec (.placement part) s = .next (q.block t.part tid)) ∧
        (∀ v, t.tier = false → q.placePour tid t h = some v → exec (.placement part) s =
          .next (((v.notePlaced tid t h u).placedAt t.part t.queue)))))))

/-- 12 R266 and R275, 08 R174, 20 R353, 22 R390 and R401, 24 R428. That a running copy's writes land together, with its release and
its token, is the model's choice (log 8), and the cause noted for a purge message is a free value (log 51). -/
def Obligations.CopiesPutsAndResultsArrive : Prop :=
  (∀ (s : State) (core : Nat) (c : Cmd), s.cmds.find? (fun q => q.core == core && q.state == .queued) = some c →
    s.slotsUsed core < Config.runnerSlots → s.shldHeld c.pour = false →
    let shapes := match s.pour? c.pour with | some p => p.shapes | none => c.owner.shapes
    let read := s.blockRead c.owner c.addr
    (∀ k, (c.kind = .put → s.checkPut c = .fail k) → (c.kind ≠ .put → s.checkCopy c shapes = .fail k) →
      exec (.runnerCommandStart core) s = .next ({ read.failCmd c k with free := (read.failCmd c k).free + 1 })) ∧
    (∀ va wr, (c.kind = .put → s.checkPut c = .wait (.page va wr)) → (c.kind ≠ .put → s.checkCopy c shapes = .wait (.page va wr)) →
      let r := s.reportFault c.owner.part va .copy wr c.core c.rtag
      exec (.runnerCommandStart core) s = .next (r.2.modCmd c.id fun x => { x with state := .starting, wait := some r.1 })) ∧
    (∀ bs pl, c.kind ≠ .put → s.pairOf c.pour = none → s.checkCopy c shapes = .ok (bs, pl) →
      let q : Cmd := { c with block := bs ++ pl.code, shapes := shapes, state := .running, wait := none }
      let t := ((read.touchRead c.owner pl.blk.pat pl.code.length).modCmd c.id fun _ => q).beginWalk q q.plan
      exec (.runnerCommandStart core) s = .next { t with free := t.free + 1 }) ∧
    (∀ bs x b d w o, c.kind = .put → s.pairOf c.pour = none → s.checkPut c = .ok (bs, x) →
      let q : Cmd := { c with block := bs, state := .running, wait := none }
      let u := read.modCmd c.id fun _ => q
      u.putFields q bs = .ok (b, d, w, o) →
      let q := { q with clock := if b.acq then joinClock c.clock (u.fenceClock c.pour (b.scope == 1)) else c.clock }
      (∀ data ts ps, u.putData q b (b.len / 8) 0 = .ok (data, ts, ps) →
        let t := (u.touchRead c.owner b.src b.len (b.tmode == 0)).modCmd c.id fun x =>
          { x with state := .sent, remote := some (d, w), clock := q.clock, wait := none }
        let t := t.modDev fun v =>
          { v with fabric := v.fabric ++ [.put c.id d w o (putOf w o true { bytes := data, tags := ts, poison := ps } c.rtag)] }
        exec (.runnerCommandStart core) s = .next { t with free := t.free + 1 }) ∧
      (∀ k, u.putData q b (b.len / 8) 0 = .fail k →
        exec (.runnerCommandStart core) s = .next { u.endCmd q k with free := (u.endCmd q k).free + 1 }))) ∧
  (∀ (s : State) (id : Nat) (c : Cmd) (w : Walked),
    s.cmds.find? (fun q => q.id == id && (q.state == .running || q.state == .starting)) = some c → c.state = .running →
    s.unanswered c.owner.part c.wait = false → c.kind ≠ .put →
    let b := c.plan.blk
    let at_ := planOf c.plan.src c.plan.ops
    (s.touchSource c.owner c.plan.src ((at_.indices c.plan.src).map (at_.at c.plan.src))).walkCmd c c.plan = .ok w →
    let u := w.s.countConv c.core w.cs
    let v : State := { u with free := u.free + 1 }
    let put (x : State) (k : SyncKey) : State := x.setSync k (joinClock (x.syncOf k) c.clock)
    let own := put v (.fence (some c.pour))
    let r := if b.rel then (if b.scope = 1 then put own (.fence none) else own) else v
    let n := min c.counted ((w.d.bits + 7) / 8)
    (w.code = 0 → exec (.copyCompletion id) s = .next (r.endCmd c 0)) ∧
    (w.code ≠ 0 → exec (.copyCompletion id) s = .next ((r.landBytes c n).endCmd { c with counted := c.counted - n } w.code))) ∧
  (∀ (s : State) (part : Nat) (p : FabricPut) (w : Window) (b : Payload) (ps : List Place),
    SMap.get? (s.part part).wins p.win = some w → w.w = true → payloadOf p = some b → p.off + p.len ≤ w.len →
    s.winPlaces part (w.base.toNat + p.off) true (spanGranules (w.base.toNat + p.off) p.len) = .ok ps →
    let u := s.touchPut p.len ps
    let t : State := { u with mem := landGranules u.mem b 0 0 ps }
    let t := t.modPart part fun q => { q with wins := SMap.modify q.wins p.win fun x => { x with count := x.count + 1#32 } }
    exec (.putArrival part p) s = .next ((t.send (.ack part p.win)))) ∧
  (∀ (s : State) (part : Nat) (p : FabricPut), payloadOf p = none →
    exec (.putArrival part p) s = .next (s.send (.putFailed part p.win))) ∧
  (∀ (s : State) (id d w : Nat) (c : Cmd), s.cmds.find? (fun q => q.id == id && q.state == .sent) = some c →
    c.remote = some (d, w) → c.block ≠ [] →
    let k : SyncKey := .window c.owner.part (senderKey d w)
    let t := s.modPart c.owner.part fun p => { p with senders := SMap.modify p.senders (d * 1024 + w) (· + 1#32) }
    exec (.putAcknowledgement id true) s = .next ((t.setSync k (joinClock (t.syncOf k) c.clock)).endCmd c 0) ∧
    exec (.putAcknowledgement id false) s = .next (s.endCmd c 6)) ∧
  (∀ e ∈ ([(.loadResultArrival, .load), (.atomicResultArrival, .atomic)] : List ((Nat → Instr) × PendKind)),
    ∀ (s : State) (id : Nat) (p : Pending), s.pend.find? (fun q => q.id == id && q.kind == e.2 && q.ready) = some p →
    exec (e.1 id) s = .next (s.deliver p true)) ∧
  (∀ (s : State) (part win off len : Nat) (w : Window) (ps : List Place), SMap.get? (s.part part).wins win = some w →
    off + len ≤ w.len → s.winPlaces part (w.base.toNat + off) false (spanGranules (w.base.toNat + off) len) = .ok ps →
    let t := ps.foldl (fun u pl => u.touchLoc (.mem pl) 1) s
    let bs := (ps.flatMap fun pl => (List.range (8 - pl.key % 8)).map fun i => t.mem.read1 (pl.key + i)).take len
    exec (.fabricReadRequest part win off len) s = .next (t.send (.readData bs.length (fluxCode true
      { bytes := bs, tags := ps.map fun pl => t.mem.wordTag pl pl.key, poison := ps.map fun pl => t.mem.isPoison pl.key })))) ∧
  (∀ (s : State) (port part : Nat) (rtag : BitVec 16), port < 32 →
    (List.range 24).find? (fun p => (s.dev.ports.getD p 0#32).getLsbD port) = some part →
    exec (.purgeMessageReceived port rtag) s = .next ((s.notePurge part rtag none).purgeHere part rtag))

/-- 13 R283, R285, R286, R290 and R292; 04 R94; 20 R350; 21 R367. That a plain MMUL which meets a page already reported waits, its
chunk kept, as R287 says of a resumed one, is the model's choice (log 22). A window's end changes nothing by itself: whether a
window is open is a function of the cycle, and what stalled for one is tried again each cycle. -/
def Obligations.MatrixAndStoreCompletions : Prop :=
  (∀ (s : State) (core : Nat) (m : MatOp) (p : Pour),
    (∀ o, s.matReady core .mldw = some (m, p) → aperture (m.regs.getD 1 0#32 ++ m.regs.getD 0 0#32) = .scratch o →
      let d := decodeDesc m.desc
      let t := s.touch (scratchKey p.core (p.scratch + o)) (16 * fmtBits d.fmt * tileCols d.fmt)
      let t := if d.sv then t.touch (scratchKey p.core (p.scratch + d.soff)) (4 * tileCols d.fmt) else t
      exec (.mldwCompletion core) s = .next ((t.modEngine m.eng fun v =>
        { v with wtile := some (t.readTile p o d) }).matDone core)) ∧
    (∀ t, s.matReady core .mmul = some (m, p) → s.runMmul core m p = some (.done t) →
      exec (.mmulCompletion core) s = .next (State.matDone (State.arriveBar { t with free := t.free + 1 }
        (offKey p (decodeMmul m.regs).bar) (t.ladleClock m)) core)) ∧
    (∀ t why k, s.matReady core .mmul = some (m, p) → s.runMmul core m p = some (.stop t why k) →
      let bar := (decodeMmul m.regs).bar
      let fail (u : State) (code : Nat) : State := State.matDone ((State.modBar { u with free := u.free + 1 } (offKey p bar) fun b =>
        b.error code (some k)).modEngine m.eng fun v => { v with failed := SMap.put v.failed bar m.here }) core
      (∀ code, why = .error code → exec (.mmulErrorCompletion core) s = .next (fail t code)) ∧
      (∀ va, why = .page va → s.reported p.part va = none →
        exec (.mmulErrorCompletion core) s = .next (fail (t.reportFault p.part va .mmul false core (s.rtagOf p)).2 1)) ∧
      (∀ va f, why = .page va → s.reported p.part va = some f →
        exec (.mmulCompletion core) s = .next (t.matWait core m k (some f))) ∧
      (why = .refresh → exec (.mmulCompletion core) s = .next (t.matWait core m k none))) ∧
    (s.matReady core .mdrain = some (m, p) → m.twin = false → (s.runDrain core p m).page = none →
      let d := s.runDrain core p m
      let u := d.s.countConv core d.cs
      (d.code = 0 → exec (.mdrainCompletion core) s = .next (u.endDrain core p m 0 0)) ∧
      (d.code ≠ 0 → exec (.mdrainErrorCompletion core) s = .next (u.endDrain core p m d.code d.rows)))) ∧
  (∀ (s : State) (g : Nat), exec (.refreshWindowOpen g) s = .next s) ∧
  (∀ (s : State) (g : Nat), s.clk % 56320 = (g % 4 * 14080 + 1760) % 56320 → exec (.refreshWindowClose g) s = .next s) ∧
  (∀ (s : State) (core : Nat), (s.core core).copying = true →
    exec (.mirrorCopyDone core) s = .next (s.modCore core fun c => { c with copying := false, mirror := true })) ∧
  (∀ (s : State) (part : Nat) (v : Word), v.getLsbD 0 = true → (s.part part).wsst ≠ 1 →
    let p := s.part part
    let dst := p.wsdst.toNat
    let len := p.wslen.toNat
    (s.hasPours part = true → exec (.weightStoreCopy part v) s = .next (s.modPart part fun q => { q with wsst := 3 })) ∧
    (s.hasPours part = false → (dst % 64 ≠ 0 ∨ len % 64 ≠ 0 ∨ len = 0 ∨ 100663296 < dst + len) →
      exec (.weightStoreCopy part v) s = .next (s.modPart part fun q => { q with wsst := 4 })) ∧
    (s.hasPours part = false → dst % 64 = 0 → len % 64 = 0 → len ≠ 0 → dst + len ≤ 100663296 →
      exec (.weightStoreCopy part v) s = .next (s.modPart part fun q =>
        { q with wsst := 1, wsjob := (q.wssrc.toNat, q.wsdst.toNat, q.wslen.toNat) }))) ∧
  (∀ (s : State) (part : Nat), (s.part part).wsst = 1 → s.walkerHalted part = false →
    let j := (s.part part).wsjob
    let r := s.wsCopy part (BitVec.ofNat 64 j.1) (wsKey (part * 2 ^ 27 + j.2.1)) (j.2.2 / 8)
    exec (.weightStoreCopyDone part) s = .next ((r.1.modPart part fun q => { q with wsst := if r.2 then 2 else 5 })))

/-- 21 R361 to R366 and R368, and 03 R59's buffer, which a commit clears. The model's choices here: a record enters its port's queue
whatever its `prio`, and a reset leaves the old records of a ring adrift (log 50); the cause noted for the purges of a function level
reset is free (log 51); a binding clears the buffers of the partition's ports (log 97). -/
def Obligations.HostQueuesBindingsAndResets : Prop :=
  (∀ (s : State) (part k off : Nat) (pf : Bool) (data : List Byte), k < 4 → (pf = true ∨ (s.vfOf part).isSome = true) →
    let q := (s.part part).queues.getD k {}
    let buf := putBytes (if pf then q.bufPf else q.bufVf) off 64 data
    let setQ (u : State) (g : Queue → Queue) : State :=
      u.modPart part fun p => { p with queues := p.queues.set k (g (p.queues.getD k {})) }
    (¬(off ≤ 63 ∧ 63 < off + data.length) → exec (.appendPortCommit part pf k off data) s =
      .next (setQ s fun u => if pf then { u with bufPf := buf } else { u with bufVf := buf })) ∧
    (off ≤ 63 → 63 < off + data.length →
      let u := setQ s fun u => if pf then { u with bufPf := [] } else { u with bufVf := [] }
      let rec? := parseRecord part (leNat ((List.range 64).map fun i => SMap.getD buf i 0#8))
      let last (u : State) (v : Word) : State := setQ u fun u => if pf then { u with lastPf := v } else { u with lastVf := v }
      (∀ t hd v, rec? = some t → u.enter { t with queue := k } = (some hd, v) →
        exec (.appendPortCommit part pf k off data) s = .next (last v hd)) ∧
      (∀ w, (rec? = none ∧ w = u) ∨ (∃ t, rec? = some t ∧ u.enter { t with queue := k } = (none, w)) →
        exec (.appendPortCommit part pf k off data) s =
        let r := setQ (last w 0xFFFFFFFF#32) fun q => { q with rej := satAdd q.rej 1 }
        .next (match r.vfOf part with | some v => r.msix v 0 | none => r)))) ∧
  (∀ (s : State) (part k : Nat) (v : Word), k < 4 →
    let q := (s.part part).queues.getD k {}
    let lcap := v.toNat % 32
    let setQ (g : Queue) : State := s.modPart part fun p => { p with queues := p.queues.set k g }
    (q.en = true → v.getLsbD 31 = false → s.queueLoad part k = 0 →
      exec (.qcfgWrite part k v) s = .next (setQ { q with en := false })) ∧
    (q.en = false → v.getLsbD 31 = true → 8 ≤ lcap → lcap ≤ 20 → q.base.toNat % 64 = 0 → q.base.toNat < 2 ^ 57 →
      exec (.qcfgWrite part k v) s = .next ((setQ { q with lcap := lcap, en := true, gens := [], next := 0 }).emptyRing part k))) ∧
  (∀ (s : State) (part k : Nat) (e : Nat × Task), e ∈ (s.emptyRing part k).tasks →
    ∃ t, (e.1, t) ∈ s.tasks ∧ e.2 = if t.part = part ∧ t.queue = k then { t with adrift := true } else t) ∧
  (∀ (s : State) (part : Nat) (v : BitVec 64),
    exec (.hostSignal part v) s = .next (s.signal part (v.truncate 32) ((v >>> 32).truncate 32) [])) ∧
  (∀ (s : State) (vf : Nat) (v : Word), 1 ≤ vf → vf ≤ 24 →
    let old := (s.dev.bind.getD (vf - 1) 0#32).toNat
    let new := v.toNat % 64
    let err := if v.getLsbD 31 then 0 else old / 2 ^ 31
    let put (n e : Nat) : State := s.modDev fun d => { d with bind := d.bind.set (vf - 1) (BitVec.ofNat 32 (n + e * 2 ^ 31)) }
    let may (n : Nat) : Prop := 32 ≤ n → n - 32 < 24 ∧ s.idle (n - 32) = true
    let taken : Prop := 32 ≤ new ∧ ∃ u < 24, u ≠ vf - 1 ∧ (s.dev.bind.getD u 0#32).toNat % 64 = new
    (new = old % 64 → exec (.bindWrite vf v) s = .next (put new err)) ∧
    (new ≠ old % 64 → may (old % 64) → may new → ¬taken →
      let u := if 32 ≤ new then s.modPart (new % 32) fun p =>
        { p with queues := p.queues.map fun q => { q with bufVf := [], lastVf := 0#32 } } else s
      exec (.bindWrite vf v) s =
        .next (u.modDev fun d => { d with bind := d.bind.set (vf - 1) (BitVec.ofNat 32 (new + err * 2 ^ 31)) })) ∧
    (new ≠ old % 64 → (¬may (old % 64) ∨ ¬may new ∨ taken) → exec (.bindWrite vf v) s = .next (put (old % 64) 1))) ∧
  (∀ (s : State) (part : Nat) (v : Word), part < 24 → s.idle part = true →
    (∀ p < 24, p ≠ part → s.dev.ports.getD p 0#32 &&& v = 0#32) →
    exec (.portsWrite part v) s = .next (s.modDev fun d => { d with ports := d.ports.set part v })) ∧
  (∀ (s : State) (vf : Nat), 1 ≤ vf → vf ≤ 24 → (s.dev.bind.getD (vf - 1) 0#32).getLsbD 5 = true →
    let part := (s.dev.bind.getD (vf - 1) 0#32).toNat % 32
    let tags := (s.tasks.filterMap fun e => if e.2.part = part then some e.2.rtag else none).eraseDups
    let t := tags.foldl (fun u r => (u.notePurge part r none).purgeTag part r) s
    exec (.functionLevelReset vf) s =
      .next ((t.modPart part fun p => { p with queues := p.queues.map fun q => { q with en := false } })))

/-- 22 R388 to R392, 21 R363 and R369, 24 R423, 23 R413 for the register that commits a debug command. The model's choices here: a
fatal answer purges the tag of every task that waits for the page (log 32), and a read of a queue register that is wider than it
returns zero (log 98). -/
def Obligations.AddressSpaceAndRegisters : Prop :=
  (∀ (s : State) (v : BitVec 64), exec (.keysetWrite v) s = .next (s.modDev fun d =>
    { d with keys := SMap.putD 0#6 d.keys (v.toNat % 2 ^ 25) (BitVec.ofNat 6 (v.toNat / 2 ^ 25)) })) ∧
  (∀ (s : State) (part : Nat) (v : BitVec 256), s.idle part = true →
    let w := v.toNat % 1024
    let base := v.toNat / 2 ^ 64 % 2 ^ 64
    let len := v.toNat / 2 ^ 128 % 2 ^ 64
    (v.getLsbD 11 = false → exec (.winregWrite part v) s = .next (s.modPart part fun p => { p with wins := SMap.erase p.wins w })) ∧
    (v.getLsbD 11 = true → base % 65536 = 0 → base < 2 ^ 57 → len % 65536 = 0 → len ≤ 2 ^ 36 →
      let r : Window := { w := v.getLsbD 10, base := BitVec.ofNat 64 base, len := len }
      exec (.winregWrite part v) s =
        .next ((s.modPart part fun p => { p with wins := SMap.put p.wins w r }).setSync (.window part w) []))) ∧
  (∀ (s : State) (part : Nat) (v : BitVec 64), s.idle part = true →
    let k := v.toNat % 1024 * 1024 + v.toNat / 1024 % 1024
    (v.getLsbD 20 = false →
      exec (.sndregWrite part v) s = .next (s.modPart part fun p => { p with senders := SMap.erase p.senders k })) ∧
    (v.getLsbD 20 = true → SMap.get? (s.part part).senders k = none → (s.part part).senders.length < 1024 →
      exec (.sndregWrite part v) s = .next (s.modPart part fun p => { p with senders := SMap.put p.senders k 0#32 }))) ∧
  (∀ (s : State) (part : Nat) (v : Word), v.toNat % 8 < 6 → (s.part part).inv = none →
    exec (.invalidation part v) s = .next (s.modPart part fun p => { p with inv := some (v.toNat % 8, p.invva.toNat) })) ∧
  (∀ (s : State) (part k va : Nat), (s.part part).inv = some (k, va) → k < 6 →
    ∃ t, exec (.invalidationDone part) s = .next t ∧ (t.part part).inv = none ∧
      ∀ e, e ∈ (t.part part).tlb ↔ e ∈ (s.part part).tlb ∧ k ≠ 5 ∧ e.1 * 65536 / 2 ^ invBits k ≠ va / 2 ^ invBits k) ∧
  (∀ (s : State) (part : Nat) (v : BitVec 64) (f : PageFault),
    (s.part part).faults.find? (fun f => f.entered && f.seq == v.truncate 32) = some f →
    exec (.faultAnswer part v) s = .next (s.answer part f (v.getLsbD 32))) ∧
  (∀ (s : State) (t : RegTarget) (off : Nat) (data : List Byte),
    (t = .pf → exec (.registerWrite t off data) s = .next (writeRegs pfRegs off data s)) ∧
    (∀ p, t = .ctl p → exec (.registerWrite t off data) s = .next ((writeRegs (ctlRegs p) off data s).flushFaults p)) ∧
    (∀ p pf, t = .block p pf → (pf = false → (s.vfOf p).isSome = true) →
      let u := writeRegs [dbgcmdReg p] off data (writeRegs (blockRegs p) off data s)
      let v := if off ≤ 0x63F ∧ 0x63F < off + data.length then u.debug p (u.part p).dbgcmd else u
      exec (.registerWrite t off data) s = .next (v.flushFaults p)) ∧
    (∀ p, t = .block p false → (s.vfOf p).isSome = false → exec (.registerWrite t off data) s = .next s)) ∧
  (∀ (s : State),
    let ans (u : State) (bs : List Byte) : State := u.modDev fun d => { d with readout := { data := bs } }
    (∀ n, n ≠ 16 → exec (.escpopRead n) s = .next (ans s (List.replicate n 0#8))) ∧
    (s.dev.esc = [] → exec (.escpopRead 16) s = .next (ans s (List.replicate 16 0xFF#8))) ∧
    (∀ e es, s.dev.esc = e :: es →
      exec (.escpopRead 16) s = .next (ans (s.modDev fun d => { d with esc := es }) (leBytes 16 e.toNat))) ∧
    (∀ n, n ≠ 32 → exec (.suspopRead n) s = .next (ans s (List.replicate n 0#8))) ∧
    (s.dev.sus = [] → exec (.suspopRead 32) s = .next (ans s (List.replicate 32 0xFF#8))) ∧
    (∀ e es, s.dev.sus = e :: es →
      exec (.suspopRead 32) s = .next (ans (s.modDev fun d => { d with sus := es }) (leBytes 32 e.toNat))))

/-- 22 R393, R395, R396 and R405; 21 R371 to R374; 23 R406. The model's choices here: the image of a saved context and what of it a
restore reads from the area (log 55), the places that a restored context takes (logs 5, 19), and that kinds 2 and 3 of an injection
fire once, at the arming (log 36). The model's readings: that resync and probation wait in a unit whose core is halted (log 29), and that
a context's run empties the translations kept for it (log 21). -/
def Obligations.ContextsAndTheVotedPlane : Prop :=
  (∀ (s : State) (part : Nat), s.up = true →
    let p := s.part part
    let d := decodeCtx (s.mem.readNat (dramKey p.ctxd.toNat) 64)
    ownDram part p.ctxd.toNat 64 = true →
      let u := s.fresh.2.modPart part fun q => { q.latch with desc := d, tlb := [] }
      (p.ctx = .idle → exec (.contextRun part) s =
        .next ((u.modPart part fun q => { q with ctx := .running, ctxNum := s.fresh.1 }))) ∧
      (p.ctx = .saved → exec (.contextRun part) s =
        .next (u.modPart part fun q => { q with ctx := .restoring, ctxNum := s.fresh.1 }))) ∧
  (∀ (s : State) (part : Nat), (s.part part).ctx = .running →
    exec (.contextPreempt part) s = .next (s.modPart part fun p => { p with ctx := .saving, choice := none })) ∧
  (∀ (s : State) (part : Nat), (s.part part).ctx = .saving → s.allTaken part = true →
    let save := (s.part part).desc.save.toNat
    ∃ t, exec (.contextSaved part) s = .next t ∧ (t.part part).ctx = .saved ∧ (t.part part).active = false ∧
      SMap.get? (t.part part).saved save = some ((s.imageOf part).barrier (s.knownBy (s.imageOf part))) ∧ t.pours.all (fun e => e.2.part != part) = true) ∧
  (∀ (s : State) (part : Nat), (s.part part).ctx = .restoring → (s.part part).wsst = 1 →
    exec (.contextRestoreDone part) s = .next s) ∧
  (∀ (s : State) (part : Nat), (s.part part).ctx = .restoring → (s.part part).wsst ≠ 1 →
    let save := (s.part part).desc.save.toNat
    (SMap.get? (s.part part).saved save = none →
      exec (.contextRestoreDone part) s = .next ((s.modPart part fun p => { p with ctx := .running }))) ∧
    (∀ g, SMap.get? (s.part part).saved save = some g → exec (.contextRestoreDone part) s =
      let u := (((s.putBack part (g.moved part (s.part part))).readImage part).modPart part fun p =>
        { p with ctx := .running, ctxNum := g.ctxNum, faults := g.faults, saved := SMap.erase p.saved save }).flushFaults part
      let u := g.answers.foldl (fun t a => match (t.part part).faults.find? fun f => f.id == a.1 with
        | some f => t.answer part f a.2
        | none => t) u
      .next (((g.purges.foldl (fun t r => t.purgeKept g r) u).walkOn part).dispatchOn part))) ∧
  (∀ (s : State) (unit : Nat), unit ≤ 17 → s.dev.starting = none → s.dev.fwHalted.contains unit = false →
    let u := s.dev.units.getD unit {}
    u.state = 0#2 →
      (∀ k, k < 3 →
        let n := [2048, 4096, 1024].getD (unit % 3) 0
        let t : CtlUnit := { u with state := 1#2, who := BitVec.ofNat 2 k, resync := n, probing := false }
        exec (.voteDissent unit (1#3 <<< k)) s =
          .next ((s.modDev fun d => { d with units := d.units.set unit (t.count k) }).msix 0 1)) ∧
      (∀ c ∈ ([3#3, 5#3, 6#3, 7#3] : List (BitVec 3)), exec (.voteDissent unit c) s =
        .next (s.endContexts.trigger false 2 false))) ∧
  (∀ (s : State) (unit : Nat), let u := s.dev.units.getD unit {}
    u.state = 1#2 → s.dev.fwHalted.contains unit = false →
      (u.probing = false → exec (.resyncComplete unit) s = .next (s.modDev fun d =>
        { d with units := d.units.set unit { u with probing := true, resync := 64 } })) ∧
      (u.probing = true → u.resync = 0 → exec (.probationEnd unit) s = .next (s.modDev fun d =>
        { d with units := d.units.set unit { u with state := 0#2, probing := false } }))) ∧
  (∀ (s : State) (v : Word), v.getLsbD 0 = true → s.dev.injsel.toNat / 2 ^ 48 % 256 ≠ 0 →
    let kind := s.dev.injsel.toNat % 16
    let a := s.dev.injaddr.toNat
    let fired (u : State) : State := u.injFire.modDev fun d => { d with injarm := false }
    (kind = 1 ∨ kind = 4 → exec (.injectionArm v) s = .next (s.modDev fun d => { d with injarm := true })) ∧
    (kind = 2 → exec (.injectionArm v) s = .next (fired { s with mem := s.mem.setPoison a true })) ∧
    (kind = 3 →
      let flips := SMap.getD s.mem.flips (granOf a) 0#64 ^^^ (1#64 <<< (s.dev.injsel.toNat / 2 ^ 42 % 64))
      exec (.injectionArm v) s = .next (fired { s with mem := s.mem.setFlips a flips })) ∧
    (kind = 5 → a % 32 ≤ 17 → a / 32 % 4 ≠ 3 →
      (s.dev.fwHalted.contains (a % 32) = true → exec (.injectionArm v) s = .next (s.modDev fun d => { d with injarm := true })) ∧
      (s.dev.fwHalted.contains (a % 32) = false →
        exec (.injectionArm v) s = .next ((fired s).dissent (a % 32) (1#3 <<< (a / 32 % 4)))))) ∧
  (∀ (s : State) (unit : Nat), s.dev.fwHalted.contains unit = true →
    (∀ cs, exec (.voteDissent unit cs) s = .next s) ∧ exec (.resyncComplete unit) s = .next s ∧
      exec (.probationEnd unit) s = .next s)

/-- 21 R375 to R383, 24 R434 and 23 R406. The model's choices here: the sensors' numbers and the form of an answer (log 11), that the
throttle moves at each poll and drops to 0 (log 58), which bytes a firmware image's signature covers and where the keys stand (log 80),
that memory which nothing has written reads zero (log 4), and which measurements a failing start has fixed (log 81). The model's
reading: that a recovery drops the triggers held (log 57). -/
def Obligations.StartsFirmwareAndSensors : Prop :=
  (∀ (s : State), ∃ t, exec .powerOn s = .next t ∧ t.pours = [] ∧ t.dev.starting = State.reset.dev.starting ∧ t.clk = State.reset.clk ∧
    t.dev.slots = s.dev.slots ∧ t.dev.rollback = s.dev.rollback ∧ ∀ a < 2 ^ 64, t.mem.read1 a = 0#8) ∧
  (∀ (s : State), exec .conventionalReset s = .next (s.trigger false 1 false)) ∧
  (∀ (s : State), s.dev.starting = none → s.dev.therm = false → s.dev.dead = false → ∃ t,
    exec .conventionalReset s = .next t ∧ t.dev.starting = some (if s.dev.forced then (true, 3) else (false, 1)) ∧
      t.dev.pickSlot = s.dev.nextSlot ∧ t.dev.unlocked = false ∧ t.dev.fwHalted = [] ∧ t.pours = [] ∧ t.tasks = []) ∧
  (∀ (s : State) (v : Word), let u := s.modDev fun d => { d with ctlKind := v.getLsbD 1 }
    exec (.startctlWrite v) s = .next (if v.getLsbD 0 then u.trigger (v.getLsbD 1) 0 true else u)) ∧
  (∀ (s : State) (cold : Bool), s.dev.dead = true → exec (.managementPortStartRequest cold) s = .next (s.trigger cold 0 true)) ∧
  (∀ (s : State) (cold : Bool) (cause k : Nat), s.dev.starting = some (cold, cause) → s.dev.startSlot = some k →
    s.dev.queued = [] → ∃ t, exec (.startComplete 0) s = .next t ∧ t.dev.starting = none ∧ t.dev.active = k ∧
      t.dev.startst = startStatus true cold 0 cause 0 k s.dev.therm ∧ t.dev.therm = false ∧ t.dev.nonce = s.dev.nonce ∧
      t.fibres = [] ∧ t.weaves = [] ∧ t.pours = [] ∧ t.engines = [] ∧ t.crucibles = [] ∧ t.tasks = [] ∧ t.clk = 0 ∧
      ∀ a < 2 ^ 64, t.mem.read1 a = 0#8) ∧
  (∀ (s : State) (cold : Bool) (cause failed : Nat), s.dev.starting = some (cold, cause) → s.dev.queued = [] → failed ≤ 8 →
    (cold = true ∨ failed = 0 ∨ 3 < failed) → ∃ t, exec (.startComplete failed) s = .next t ∧ t.dev.starting = none ∧
      t.dev.measures = [sha256 Config.bootRom, sha256 (t.dev.slots.getD t.dev.active {}).bytes,
        Config.fuses ++ leBytes 4 t.dev.rollback.toNat]) ∧
  (∀ (s : State), 115 ≤ hottest s.dev.readings →
    exec .thermalFatal s = .next (s.endContexts.modDev fun d => { d with therm := true, starting := none })) ∧
  (∀ (s : State) (h : Nat), s.dev.therm = true → s.dev.starting = none → h < 95 →
    exec (.thermalRecoveryStart h) s = .next ((s.modDev fun d => { d with queued := [], forced := false }).beginStart true 0)) ∧
  (∀ (s : State) (r : Readings),
    let crit : Prop := 2400 ≤ r.power ∨ 105 ≤ hottest r ∨ 50 ≤ r.inlet ∨ 70 ≤ r.outlet
    (crit → exec (.sensorPoll r) s = .next (s.modDev fun d => { d with readings := r, throttle := min 15 (d.throttle + 1) })) ∧
    (¬crit → exec (.sensorPoll r) s = .next (s.modDev fun d => { d with readings := r, throttle := 0 }))) ∧
  (∀ (s : State) (n v st : Nat),
    let r := s.dev.readings
    let level (warn crit : Nat) : Nat := if crit ≤ v then 2 else if warn ≤ v then 1 else 0
    (n = 0 ∧ v = r.power ∧ st = level 2300 2400) ∨ (n = 1 ∧ v = r.inlet ∧ st = level 40 50) ∨
      (n = 2 ∧ v = r.outlet ∧ st = level 60 70) ∨ (n = 3 ∧ v = hottest r ∧ st = if 115 ≤ v then 3 else level 95 105) ∨
      (n = 10 ∧ v = s.dev.throttle ∧ st = 0) ∨ (n = 11 ∧ v = s.dev.startst.toNat ∧ st = 0) →
    exec (.pldmSensorRead n) s = .next (s.modDev fun d => { d with readout := { data := leBytes 8 v ++ leBytes 1 st } })) ∧
  (∀ (s : State) (n : Nat), 12 ≤ n → s.dev.starting.isSome = true →
    exec (.pldmSensorRead n) s = .next (s.modDev fun d => { d with readout := { code := 4 } })) ∧
  (∀ (s : State), ∃ tail,
    let m := s.dev.measures.flatten ++ (s.dev.bind ++ s.dev.ports).flatMap fun w => leBytes 4 w.toNat
    exec .getMeasurements s = .next (s.modDev fun d => { d with readout := { data := m ++ tail } })) ∧
  (∀ (s : State) (n : BitVec 256), exec (.getChallenge n) s = .next (s.modDev fun d =>
    { d with nonce := some n, readout := { data := leBytes 32 n.toNat } })) ∧
  (∀ (s : State) (sig : List Byte),
    (8 ≤ s.dev.failures → exec (.unlock sig) s = .next (s.modDev fun d => { d with readout := { code := 1 } })) ∧
    (s.dev.failures < 8 →
      let key (n : BitVec 256) : Bool := fusedVerifies 1 unlockLevels (leBytes 32 n.toNat ++ Config.serial ++ [1#8]) sig
      exec (.unlock sig) s = .next (s.modDev fun d => if s.dev.nonce.any key = true
        then { d with nonce := none, unlocked := true, readout := {} }
        else { d with nonce := none, failures := d.failures + 1, readout := { code := 1 } }))) ∧
  (∀ (s : State) (m : FwImage), s.dev.active ≤ 1 → s.dev.slots.length = 2 →
    ∃ t, exec (.firmwareUpdate m) s = .next t ∧ t.dev.active = s.dev.active ∧
      t.dev.slots.getD s.dev.active {} = s.dev.slots.getD s.dev.active {} ∧
      (t.dev.slots.getD (1 - s.dev.active) {}).body = m.body ∧
      (t.dev.slots.getD (1 - s.dev.active) {}).valid = (fusedVerifies 0 firmwareLevels (leBytes 4 m.version.toNat
        ++ leBytes 4 m.rollback.toNat ++ m.body) m.sig && decide (s.dev.rollback.toNat ≤ m.rollback.toNat)) ∧
      t.dev.readout.code = if (t.dev.slots.getD (1 - s.dev.active) {}).valid then 0 else 1) ∧
  (∀ (s : State), s.dev.slotOk (1 - s.dev.active) = true →
    exec .activateFirmware s = .next (s.modDev fun d => { d with nextSlot := some (1 - s.dev.active) })) ∧
  (∀ (s : State) (k : Nat), s.dev.unlocked = true →
    let ok (u : State) : State := u.modDev fun d => { d with readout := { data := [], code := 0 } }
    exec (.firmwareDebugCommand (.halt k)) s =
      .next (ok (s.modDev fun d => { d with fwHalted := k :: d.fwHalted.filter (· != k) })) ∧
    exec (.firmwareDebugCommand (.go k)) s = .next (ok (((List.range 24).foldl State.walkOn
      (s.modDev fun d => { d with fwHalted := d.fwHalted.filter (· != k) })).fireVote k)))

/-- 23 R408 to R418 and 24 R421 to R424. That STOP shows status 1 until it is done, while STEP and RUN show 0 at once, is the model's
reading (log 31); the records of the log, and that a replay runs from them in one step, are the model's choice (log 33). -/
def Obligations.DebuggingProfilingAndAssay : Prop :=
  (∀ (s : State) (part pid : Nat) (cmd : BitVec 256) (p : Pour), (s.part part).active = true → s.dbgBusy part = false →
    let c := decodeDbg cmd
    let d := s.modPart part fun q => { q with dbgcmd := cmd }
    let ok := d.dbgAnswer part { status := 0 }
    c.illegal = false → d.dbgPour part c = some (pid, p) →
      (c.op = 0 → p.dbg.runs = true →
        exec (.dbgStop part cmd) s = .next ((d.dbgAnswer part { status := 1 }).stopPour pid { why := 0, cmd := true })) ∧
      (∀ a, p.dbg = .stopped a →
        (c.op = 0 → exec (.dbgStop part cmd) s = .next ok) ∧
        (c.op = 1 → exec (.dbgStep part cmd) s = .next (ok.runPour pid (.stepping c.limit 0))) ∧
        (c.op = 2 → exec (.dbgRun part cmd) s = .next (ok.runPour pid .free)) ∧
        (∀ r, d.dbgReg pid p c = some r →
          let rs := (d.together pid).filterMap fun q =>
            match d.pour? q with
            | some v => (d.dbgReg q v c).map fun r => (q, r)
            | none => none
          let written (t : State) (e : Nat × DbgReg) : State := t.dbgWrite e.1 e.2 c.data c.tag
          (c.op = 3 → exec (.dbgRegrd part cmd) s = .next (d.dbgAnswer part (d.dbgRead p r))) ∧
          (c.op = 4 → rs.any (fun e => d.dbgPending e.2) = false →
            exec (.dbgRegwr part cmd) s = .next ((rs.foldl written d).dbgAnswer part { status := 0 })) ∧
          (c.op = 5 → exec (.dbgRegwrf part cmd) s =
            .next ((rs.foldl (fun t e => written (t.dbgDiscard e.2) e) d).dbgAnswer part { status := 0 }))))) ∧
  (∀ (s : State) (part : Nat) (cmd : BitVec 256), (s.part part).active = true → s.dbgBusy part = false →
    (decodeDbg cmd).illegal = true → exec (.dbgIllegal part cmd) s =
      .next ((s.modPart part fun q => { q with dbgcmd := cmd }).dbgAnswer part { status := 5 })) ∧
  (∀ (s : State) (pid : Nat) (p : Pour), s.pour? pid = some p →
    (∀ r, p.dbg = .stopping r → s.allYielded (s.together pid) = true → exec (.stepEnd pid) s = .next (s.finishStop pid r)) ∧
    (∀ l e, p.dbg = .stepping l e →
      (s.stepDone (s.together pid) = true → exec (.stepEnd pid) s = .next (s.stopPour pid { why := 3 })) ∧
      (l ≠ 0 → l * 1024 ≤ e → exec (.stepLimitExpiry pid) s = .next (s.stopPour pid { why := 4 })))) ∧
  (∀ (s : State) (core : Nat) (seen : BitVec 6) (served : BitVec 2) (queued : List (BitVec 16)) (r : ProfReq) (rest : List ProfReq),
    (s.core core).profs = r :: rest →
      let u := s.modCore core fun c => { c with profs := rest }
      let e := u.ringPut (partOf core) (u.part (partOf core)).prof (leBytes 32 (profImage core r seen served queued))
      exec (.profileSample core seen served queued) s = .next (e.2.modPart (partOf core) fun p => { p with prof := e.1 })) ∧
  (∀ (s : State) (part rcore : Nat) (sigr : BitVec 64) (m : Sample), (s.part part).sample = some m → m.ended = true →
    ((s.part part).ctx = .running → m.replay = none →
      (s.donates m rcore = false → exec (.assayReplay part rcore sigr) s = .next s) ∧
      (∀ pid u, s.donates m rcore = true → s.fresh.2.tryCore s.fresh.1 { m.record with part := partOf rcore }
          { m.hdr with scratch := 0, stack := 0 } m.idx none rcore = some (pid, u) →
        exec (.assayReplay part rcore sigr) s = .next (u.modPart part fun p =>
          { p with sample := some { m with replay := some (rcore, pid) } }))) ∧
    (∀ pid p, (s.part part).ctx = .running → m.replay = some (rcore, pid) → s.pour? pid = some p →
      let r := (readLog m.logged (s.logBytes part m)).foldl Replay.row (s.replayFrom part m pid p)
      let u := (({ s with free := r.st.free } : State).dropReplay m).modPart part fun p =>
        { p with asysamp := satAdd p.asysamp 1, sample := none }
      exec (.assayReplay part rcore sigr) s = .next (if m.sig = r.sig then u else u.suspect m r.sig rcore part)) ∧
    (m.replay = none → 2 ^ 28 ≤ m.waited →
      ((∀ c < 288, s.donates m c = false) → exec (.assayAbandon part) s = .next (s.abandon part)) ∧
      ((∃ c < 288, s.donates m c = true) → exec (.assayAbandon part) s = .next s)))

/-- 09 R181 and R185 with 02 R33: the word at the place of its party, fetched whole and decoded, is what the step executes. The agenda,
the passing of a cycle and the order within it are the model's choice (log 2), a unit that stalls too (log 29), and that an event whose
units do not exist does nothing (log 3); when samples are logged is log 33. A word that decodes to nothing meets 09 R200 items 1 and 3. -/
def Obligations.StepRunsTheDecodedInstruction : Prop :=
  (∀ (s : State) (rest : List Turn) (w : Nat) (c : Ctx) (x l : Word) (i : Instr), s.agenda = .run (.weave w) :: rest →
    let u : State := State.cued { s with agenda := rest } (.run (.weave w))
    u.ctxOf w = some c → u.canIssue w = true → u.quadPick c.v.core c.v.quad = some w → u.compares c.pid c.pc = false →
    c.v.owes = false → u.fetch c.p.part c.p.code c.p.hdr.nwords c.pc = (.word x l, some i) →
    decodeWord x l = some i ∧
      step s = u.follow (exec i { u.touchCode c.p.part c.p.code c.pc (if i.hasLiteral then 2 else 1) with turn := .weave w })) ∧
  (∀ (s : State) (rest : List Turn) (w : Nat) (c : Ctx) (x l : Word), s.agenda = .run (.weave w) :: rest →
    let u : State := State.cued { s with agenda := rest } (.run (.weave w))
    u.ctxOf w = some c → u.canIssue w = true → u.quadPick c.v.core c.v.quad = some w → u.compares c.pid c.pc = false →
    c.v.owes = false → c.acts ≠ [] → u.fetch c.p.part c.p.code c.p.hdr.nwords c.pc = (.word x l, none) →
    step s = u.follow (.next ((u.touchCode c.p.part c.p.code c.pc 1).trapWeave w
      { cause := if x.extractLsb' 25 7 = 63#7 ∧ x.extractLsb' 0 8 = 2#8 then 11 else 10, mask := laneMask c.acts, pc := c.pc
        addrs := c.acts.map fun e => (e.2.lane, x.zeroExtend 64) }))) ∧
  (∀ (s : State) (rest : List Turn) (w : Nat) (c : Ctx), s.agenda = .run (.weave w) :: rest →
    let u : State := State.cued { s with agenda := rest } (.run (.weave w))
    u.ctxOf w = some c → u.canIssue w = true → u.quadPick c.v.core c.v.quad = some w → u.compares c.pid c.pc = false →
    c.v.owes = true → step s = u.follow (.next (u.payOwed w))) ∧
  (∀ (s : State) (rest : List Turn) (e : Nat) (v : Engine) (p : Pour) (x l : Word) (i : Instr),
    s.agenda = .run (.engine e) :: rest →
    let u : State := State.cued { s with agenda := rest } (.run (.engine e))
    u.engine? e = some v → u.pour? v.pour = some p → u.engineReady v = true →
    (u.fetch p.part p.code p.hdr.nwords v.pc = (.word x l, some i) → decodeWord x l = some i ∧
      step s = u.follow (exec i { u.touchCode p.part p.code v.pc (if i.hasLiteral then 2 else 1) with turn := .engine e })) ∧
    (u.fetch p.part p.code p.hdr.nwords v.pc = (.word x l, none) →
      step s = u.follow (.next ((u.touchCode p.part p.code v.pc 1).trapEngine e 10)))) ∧
  (∀ (s : State) (rest : List Turn) (k : Nat) (c : Crucible) (x l : Word) (i : Instr), s.agenda = .run (.crucible k) :: rest →
    let u : State := State.cued { s with agenda := rest } (.run (.crucible k))
    u.crucible? k = some c → u.crucibleReady k c = true → u.fetchCru c = .word x l →
    (decodeCrucible x = some i → step s = u.follow (exec i { u.touchCode c.part c.code c.pc 1 with turn := .crucible k })) ∧
    (decodeCrucible x = none → step s = u.follow (.next ((u.touchCode c.part c.code c.pc 1).cruHalt k 10)))) ∧
  (∀ (s : State) (rest : List Turn) (i : Instr), s.agenda = .event i :: rest →
    let u : State := State.cued { s with agenda := rest } (.event i)
    (i.unitsWf = true → u.unitStalls i = false → step s = u.follow (exec i { u with turn := .none })) ∧
    (i.unitsWf = false ∨ u.unitStalls i = true → step s = u.follow (.next u))) ∧
  (∀ (s : State) (rest : List Turn) (core part : Nat) (w : Word) (i : Instr), s.agenda = .firmware core part w :: rest →
    decodeWord w 0#32 = some i → (∃ d a, i = .mspill d a ∨ i = .mfill d a) →
    step s = State.follow { s with agenda := rest } (exec i { s with agenda := rest, turn := .firmware core part })) ∧
  (∀ (s : State), s.agenda = [] → step s = (s.cued s.pickTurn).follow (thenCycle s.pickTurn ((s.cued s.pickTurn).turnStep s.pickTurn))) ∧
  (∀ (s : State) (t : Turn), (s.place t = none → s.cue t = s) ∧
    (∀ n once, s.place t = some (n, once) → s.beat ≤ n → (once = false ∨ n / 16 ≠ s.beat / 16) →
      s.cue t = { s.retryHeld (fun m => decide (s.beat < m) && decide (m ≤ n)) with beat := n }) ∧
    (∀ n once, s.place t = some (n, once) → n < s.beat ∨ (once = true ∧ n / 16 = s.beat / 16) →
      let u := s.passCycle.lookAgain
      s.cue t = { u.retryHeld (fun m => decide (u.beat < m) && decide (m ≤ n)) with beat := n }) ∧
    (s.place t = none → s.cued t = s) ∧
    (∀ x, s.place t = some x → ((s.cue t).parts.all fun e => e.2.sample.isNone) = true → s.cued t = { s.cue t with turn := .none })) ∧
  (∀ (s t : State), (∀ f, s.follow (.fault f) = .fault f) ∧ (∀ r, s.follow (.refused r) = .refused r) ∧
    ((t.weaves.all fun e => e.2.stall.isNone) = true → (t.engines.all fun e => e.2.stall.isNone) = true →
      (t.crucibles.all fun e => e.2.stall.isNone) = true → (t.parts.all fun e => e.2.sample.isNone) = true →
      s.follow (.next t) = .next { t with turn := .none })) ∧
  (∀ (s : State) (part nwords pc va : Nat) (code : BitVec 64) (lf : Leaf) (pl : Place), pc < nwords →
    aperture (codeAddr code pc) = .global va → s.walk part va = .leaf lf → lf.x = true → s.globalLoc part va false = .mem pl →
    sortOfKey pl.key ≠ .ws → s.fetch1 part code nwords pc = .word (BitVec.ofNat 32 (s.mem.readNat pl.key 4)) 0#32) ∧
  (∀ (s : State) (part nwords pc : Nat) (code : BitVec 64) (x y z l : Word), s.fetch1 part code nwords pc = .word x y →
    (takesLiteral x = false → s.fetch part code nwords pc = (.word x 0#32, decodeWord x 0#32)) ∧
    (takesLiteral x = true → s.fetch1 part code nwords (pc + 1) = .word l z →
      s.fetch part code nwords pc = (.word x l, decodeWord x l)))

/-- Words of the listings of 09, 10, 11, 12, 13 and 14. -/
def Obligations.EncodedWordsDecode : Prop :=
  (∀ e ∈ ([(0x2D140102#32, 0#32, .fadd 1#1 20#8 1#8 2#8 0#32), (0x3015F803#32, 0#32, .fmul 0#1 21#8 248#8 3#8 0#32),
      (0x0017F9F5#32, 1#32, .iadd 0#1 23#8 249#8 245#8 1#32), (0x80000001#32, 0#32, .br 1#25),
      (0x56040202#32, 0#32, .ld32 0#1 4#8 2#8 2#8), (0x5E050203#32, 0#32, .st32 0#1 5#8 2#8 3#8 0#32),
      (0x66050204#32, 0#32, .stp 5#8 2#8 4#8 0#32), (0x69060207#32, 0#32, .atadd 1#1 6#8 2#8 7#8 0#32),
      (0xB6060201#32, 0#32, .gld 0#1 6#8 2#8 1#8), (0xB9060200#32, 0#32, .gst 1#1 6#8 2#8 0#8 0#32),
      (0xBA000001#32, 0#32, .fenceDev), (0xBC090A00#32, 0#32, .rcopy 9#8 10#8), (0xBE090A00#32, 0#32, .rpat 9#8 10#8),
      (0xC0090A00#32, 0#32, .put 9#8 10#8), (0xC2000C03#32, 0#32, .wwait 12#8 3#8 0#32),
      (0xC4030200#32, 0#32, .shld 3#4 2#8), (0xC80102F5#32, 1#32, .shset 1#4 2#8 245#8 1#32),
      (0x2A02F500#32, 0x40#32, .uniMov 0#1 2#8 245#8 0x40#32), (0xD2000300#32, 0#32, .mzero 0#3 3#3),
      (0x90000000#32, 0#32, .yield), (0xE2000000#32, 0#32, .nop)] : List (Word × Word × Instr)),
    decodeWord e.1 e.2.1 = some e.2.2 ∧ encodeWord e.2.2 = some e.1 ∧ e.2.2.literal = e.2.1) ∧
  (∀ e ∈ ([(0x11020000#32, .cldc 4#5 1#5 0#17), (0xB0000000#32, .chalt), (0x48440000#32, .cfma 1#5 2#5 0#5),
      (0xA80AD000#32, .ctsig 5#5 13#5)] : List (Word × Instr)), decodeCrucible e.1 = some e.2)

/-- 21 R379 and R380; the bytes' value is the model's choice (log 4), and so is the idle start of a reset machine (log 1). -/
def Obligations.ResetIsAStartInProgress : Prop :=
  State.reset.dev.starting = some (true, 0) ∧ State.reset.fibres = [] ∧ State.reset.weaves = [] ∧ State.reset.pours = [] ∧
    State.reset.engines = [] ∧ State.reset.crucibles = [] ∧ State.reset.tasks = [] ∧ State.reset.pend = [] ∧
    State.reset.held = [] ∧ State.reset.cmds = [] ∧ State.reset.pairs = [] ∧
    (∀ p, (State.reset.part p).ctx = .idle ∧ ((State.reset.part p).queues.all fun q => !q.en) = true) ∧
    (∀ a, State.reset.mem.read1 a = 0#8) ∧ State.reset.Canon ∧
    (∀ p rest, step { State.reset with agenda := .run p :: rest } = .next { State.reset with agenda := rest })

/-- 09 R189: `Ctx.finish` ends every lane word that writes a vector register. -/
def Obligations.ResultsReachLatchAndRegister : Prop :=
  ∀ (t : State) (c : Ctx) (v : Weave) (h : Form) (d : BitVec 8) (k : Nat) (res : SMap (List Reg)), h.dst = some (d, k) →
    t.dev.injarm = false → t.weave? c.w = some v → (res.map (·.1)).Nodup → (∀ e ∈ res, e.2.length = k) →
    let u := c.finish h t res
    (∃ v' e rest, u.weave? c.w = some v' ∧ v'.latches = e :: rest ∧ e.size = k ∧ e.dead = false ∧
      ∀ x ∈ t.byLane c.w, ∀ ws, SMap.get? res x.1 = some ws → (x.2.lane, ws) ∈ e.words) ∧
    (h.nw = 1#1 → ∀ f g, t.fibre? f = some g → ∃ g', u.fibre? f = some g' ∧ ∀ r, g'.reg r = g.reg r) ∧
    (h.nw = 0#1 → d.toNat < 240 → ∀ f g ws, t.fibre? f = some g → SMap.get? res f = some ws → d.toNat + k ≤ g.win.length →
      ∃ g', u.fibre? f = some g' ∧ ∀ i < k, some (g'.reg (d.toNat + i)) = ws[i]?)

/-- The frame of the two parts that every lane word with a vector result shares: reading its operands and writing its result. What a
word does between them, the sticky flags of 10 R204 and the counts of R215, the statements of their results say. -/
def Obligations.LaneWordsChangeOnlyTheirDestination : Prop :=
  (∀ (s : State) (c : Ctx) (h : Form) (acc : Bool) (extra : List (BitVec 8 × Nat)),
    Untouched s (s.laneRead c h acc extra) ∧
    ∀ f g, s.fibre? f = some g → ∃ g', (s.laneRead c h acc extra).fibre? f = some g' ∧
      ∀ r, (g'.reg r).val = (g.reg r).val ∧ (g'.reg r).tag = (g.reg r).tag) ∧
  (∀ (t : State) (c : Ctx) (h : Form) (d : BitVec 8) (k : Nat) (res : SMap (List Reg)), h.dst = some (d, k) →
    t.dev.injarm = false → (∀ e ∈ res, e.2.length = k) →
    Untouched t (c.finish h t res) ∧
    ∀ f g, t.fibre? f = some g → ∃ g', (c.finish h t res).fibre? f = some g' ∧ FibreFrame d.toNat k g g' ∧
      (SMap.get? res f = none → ∀ r, g'.reg r = g.reg r))

/-- The round trip over every constructor, each by its lemma of the family RoundTrip. -/
def Obligations.EveryEncodedInstructionDecodes : Prop :=
  ∀ (i : Instr) (w : Word), i.wf = true → encodeWord i = some w →
    if i.isCrucible then decodeCrucible w = some i
    else decodeWord w i.literal = some i ∧ (decodeWord w 0#32).map Instr.hasLiteral = some i.hasLiteral

/-- The canonical form is the model's own (log 4): equal memories are equal data, so that what reads alike is alike. -/
def Obligations.MemoryStaysCanonical : Prop :=
  ∀ s t : State, s.Canon → step s = .next t → t.Canon
end

