-- ==== Sys2Proof/Laws/Map.lean ====
section
/-!
SUPPORT. Laws/Map.lean: finite maps: what is read after a write, and that every operation keeps the canonical form. Reading
needs no canonical form.
-/

namespace Sys2Proof.Laws

open Sys2Proof.Machine

variable {α : Type}

/-! ## Reading after writing -/

theorem get?_put_same (m : SMap α) (k : Nat) (v : α) : SMap.get? (SMap.put m k v) k = some v := by
  induction m with
  | nil => simp [SMap.put, SMap.get?]
  | cons e m ih =>
    obtain ⟨j, w⟩ := e
    by_cases h : k < j
    · simp [SMap.put, SMap.get?, h]
    · by_cases hj : j = k <;> simp [SMap.put, SMap.get?, h, hj, ih]

theorem get?_put_other (m : SMap α) (v : α) {k j : Nat} (hn : j ≠ k) : SMap.get? (SMap.put m k v) j = SMap.get? m j := by
  induction m with
  | nil => simp [SMap.put, SMap.get?, hn.symm]
  | cons e m ih =>
    obtain ⟨i, w⟩ := e
    by_cases h : k < i
    · simp [SMap.put, SMap.get?, h, hn.symm]
    · by_cases hi : i = k
      · subst hi; simp [SMap.put, SMap.get?, hn.symm]
      · simp [SMap.put, SMap.get?, h, hi, ih]

theorem get?_erase_same (m : SMap α) (k : Nat) : SMap.get? (SMap.erase m k) k = none := by
  induction m with
  | nil => rfl
  | cons e m ih =>
    obtain ⟨j, w⟩ := e
    by_cases hj : j = k <;> simp [SMap.erase, SMap.get?, hj, ih]

theorem get?_erase_other (m : SMap α) {k j : Nat} (hn : j ≠ k) : SMap.get? (SMap.erase m k) j = SMap.get? m j := by
  induction m with
  | nil => rfl
  | cons e m ih =>
    obtain ⟨i, w⟩ := e
    by_cases hi : i = k
    · subst hi; simp [SMap.erase, SMap.get?, hn.symm, ih]
    · simp [SMap.erase, SMap.get?, hi, ih]

theorem get?_modify_same (m : SMap α) (k : Nat) (f : α → α) : SMap.get? (SMap.modify m k f) k = (SMap.get? m k).map f := by
  unfold SMap.modify
  cases h : SMap.get? m k with
  | none => simp [h]
  | some v => simp [get?_put_same]

theorem get?_modify_other (m : SMap α) (k : Nat) (f : α → α) {j : Nat} (hn : j ≠ k) :
    SMap.get? (SMap.modify m k f) j = SMap.get? m j := by
  unfold SMap.modify
  cases h : SMap.get? m k with
  | none => rfl
  | some v => exact get?_put_other m _ hn

theorem getD_putD_same [DecidableEq α] (d : α) (m : SMap α) (k : Nat) (v : α) : SMap.getD (SMap.putD d m k v) k d = v := by
  unfold SMap.putD SMap.getD
  by_cases h : v = d
  · simp [h, get?_erase_same]
  · simp [h, get?_put_same]

theorem getD_putD_other [DecidableEq α] (d : α) (m : SMap α) (v : α) {k j : Nat} (hn : j ≠ k) :
    SMap.getD (SMap.putD d m k v) j d = SMap.getD m j d := by
  unfold SMap.putD SMap.getD
  by_cases h : v = d
  · simp [h, get?_erase_other m hn]
  · simp [h, get?_put_other m v hn]

/-! ## The canonical form -/

theorem rising_le {lo hi : Nat} {m : SMap α} (h : SMap.rising hi m = true) (hl : lo ≤ hi) : SMap.rising lo m = true := by
  cases m with
  | nil => rfl
  | cons e m =>
    simp only [SMap.rising, Bool.and_eq_true, decide_eq_true_eq] at h ⊢
    exact ⟨by omega, h.2⟩

theorem rising_put {lo : Nat} {m : SMap α} (h : SMap.rising lo m = true) {k : Nat} (hk : lo ≤ k) (v : α) :
    SMap.rising lo (SMap.put m k v) = true := by
  induction m generalizing lo with
  | nil => simp [SMap.put, SMap.rising, hk]
  | cons e m ih =>
    obtain ⟨j, w⟩ := e
    simp only [SMap.rising, Bool.and_eq_true, decide_eq_true_eq] at h
    unfold SMap.put
    split
    · simp only [SMap.rising, Bool.and_eq_true, decide_eq_true_eq]
      exact ⟨hk, by omega, h.2⟩
    · split
      · rename_i hj
        simp only [SMap.rising, Bool.and_eq_true, decide_eq_true_eq]
        exact ⟨hk, hj ▸ h.2⟩
      · simp only [SMap.rising, Bool.and_eq_true, decide_eq_true_eq]
        exact ⟨h.1, ih h.2 (by omega)⟩

theorem rising_erase {lo : Nat} {m : SMap α} (h : SMap.rising lo m = true) (k : Nat) : SMap.rising lo (SMap.erase m k) = true := by
  induction m generalizing lo with
  | nil => rfl
  | cons e m ih =>
    obtain ⟨j, w⟩ := e
    simp only [SMap.rising, Bool.and_eq_true, decide_eq_true_eq] at h
    unfold SMap.erase
    split
    · exact rising_le (ih h.2) (by omega)
    · simp only [SMap.rising, Bool.and_eq_true, decide_eq_true_eq]
      exact ⟨h.1, ih h.2⟩

theorem rising_filter {lo : Nat} {m : SMap α} (h : SMap.rising lo m = true) (p : Nat × α → Bool) :
    SMap.rising lo (m.filter p) = true := by
  induction m generalizing lo with
  | nil => rfl
  | cons e m ih =>
    obtain ⟨j, w⟩ := e
    simp only [SMap.rising, Bool.and_eq_true, decide_eq_true_eq] at h
    by_cases hp : p (j, w) = true
    · simp only [List.filter_cons_of_pos hp, SMap.rising, Bool.and_eq_true, decide_eq_true_eq]
      exact ⟨h.1, ih h.2⟩
    · rw [List.filter_cons_of_neg hp]
      exact rising_le (ih h.2) (by omega)

theorem all_put {m : SMap α} {q : Nat × α → Bool} (h : m.all q = true) {k : Nat} {v : α} (hv : q (k, v) = true) :
    (SMap.put m k v).all q = true := by
  induction m with
  | nil => simp [SMap.put, hv]
  | cons e m ih =>
    obtain ⟨j, w⟩ := e
    simp only [List.all_cons, Bool.and_eq_true] at h
    unfold SMap.put
    split
    · simp [hv, h.1, h.2]
    · split
      · simp [hv, h.2]
      · simp [h.1, ih h.2]

theorem all_erase {m : SMap α} {q : Nat × α → Bool} (h : m.all q = true) (k : Nat) : (SMap.erase m k).all q = true := by
  induction m with
  | nil => rfl
  | cons e m ih =>
    obtain ⟨j, w⟩ := e
    simp only [List.all_cons, Bool.and_eq_true] at h
    unfold SMap.erase
    split
    · exact ih h.2
    · simp [h.1, ih h.2]

/-- Writing where a default is not listed keeps the canonical form. -/
theorem wfD_putD [DecidableEq α] {d : α} {m : SMap α} (h : SMap.wfD d m = true) (k : Nat) (v : α) :
    SMap.wfD d (SMap.putD d m k v) = true := by
  unfold SMap.wfD at h ⊢
  simp only [Bool.and_eq_true] at h ⊢
  unfold SMap.putD
  split
  · exact ⟨rising_erase h.1 k, all_erase h.2 k⟩
  · rename_i hv
    exact ⟨rising_put h.1 (Nat.zero_le k) v, all_put h.2 (decide_eq_true hv)⟩

theorem wfD_filter [DecidableEq α] {d : α} {m : SMap α} (h : SMap.wfD d m = true) (p : Nat × α → Bool) :
    SMap.wfD d (m.filter p) = true := by
  unfold SMap.wfD at h ⊢
  simp only [Bool.and_eq_true] at h ⊢
  refine ⟨rising_filter h.1 p, List.all_eq_true.mpr fun e he => ?_⟩
  exact List.all_eq_true.mp h.2 e (List.mem_filter.mp he).1

theorem wf_put {m : SMap α} (h : m.wf = true) (k : Nat) (v : α) : SMap.wf (SMap.put m k v) = true :=
  rising_put h (Nat.zero_le k) v

theorem wf_erase {m : SMap α} (h : m.wf = true) (k : Nat) : SMap.wf (SMap.erase m k) = true := rising_erase h k

theorem wf_modify {m : SMap α} (h : m.wf = true) (k : Nat) (f : α → α) : SMap.wf (SMap.modify m k f) = true := by
  unfold SMap.modify
  split
  · exact h
  · exact wf_put h k _

/-- In a map of the canonical form a listed pair is what is read. -/
theorem get?_of_mem {lo : Nat} {m : SMap α} (h : SMap.rising lo m = true) {k : Nat} {v : α} (hm : (k, v) ∈ m) :
    lo ≤ k ∧ SMap.get? m k = some v := by
  induction m generalizing lo with
  | nil => cases hm
  | cons e m ih =>
    obtain ⟨j, w⟩ := e
    simp only [SMap.rising, Bool.and_eq_true, decide_eq_true_eq] at h
    rcases List.mem_cons.mp hm with hm | hm
    · cases hm
      exact ⟨h.1, by simp [SMap.get?]⟩
    · obtain ⟨hk, hg⟩ := ih h.2 hm
      exact ⟨by omega, by simp [SMap.get?, show j ≠ k by omega, hg]⟩

end Sys2Proof.Laws
end

