-- ==== Sys2Proof/Laws/State.lean ====
section
/-!
SUPPORT. Laws/State.lean: the accessors of the state: what each update leaves as it was, one lemma a field, and what is read
after an update.
-/

namespace Sys2Proof.Laws

open Sys2Proof.Machine

/-! ### setCore -/

@[simp] theorem setCore_mem (s : State) (c : Nat) (v : CoreSt) : (s.setCore c v).mem = s.mem := rfl
@[simp] theorem setCore_fibres (s : State) (c : Nat) (v : CoreSt) : (s.setCore c v).fibres = s.fibres := rfl
@[simp] theorem setCore_weaves (s : State) (c : Nat) (v : CoreSt) : (s.setCore c v).weaves = s.weaves := rfl
@[simp] theorem setCore_pours (s : State) (c : Nat) (v : CoreSt) : (s.setCore c v).pours = s.pours := rfl
@[simp] theorem setCore_engines (s : State) (c : Nat) (v : CoreSt) : (s.setCore c v).engines = s.engines := rfl
@[simp] theorem setCore_crucibles (s : State) (c : Nat) (v : CoreSt) : (s.setCore c v).crucibles = s.crucibles := rfl
@[simp] theorem setCore_tasks (s : State) (c : Nat) (v : CoreSt) : (s.setCore c v).tasks = s.tasks := rfl
@[simp] theorem setCore_parts (s : State) (c : Nat) (v : CoreSt) : (s.setCore c v).parts = s.parts := rfl
@[simp] theorem setCore_pend (s : State) (c : Nat) (v : CoreSt) : (s.setCore c v).pend = s.pend := rfl
@[simp] theorem setCore_held (s : State) (c : Nat) (v : CoreSt) : (s.setCore c v).held = s.held := rfl
@[simp] theorem setCore_cmds (s : State) (c : Nat) (v : CoreSt) : (s.setCore c v).cmds = s.cmds := rfl
@[simp] theorem setCore_pairs (s : State) (c : Nat) (v : CoreSt) : (s.setCore c v).pairs = s.pairs := rfl
@[simp] theorem setCore_sync (s : State) (c : Nat) (v : CoreSt) : (s.setCore c v).sync = s.sync := rfl
@[simp] theorem setCore_hist (s : State) (c : Nat) (v : CoreSt) : (s.setCore c v).hist = s.hist := rfl
@[simp] theorem setCore_dev (s : State) (c : Nat) (v : CoreSt) : (s.setCore c v).dev = s.dev := rfl
@[simp] theorem setCore_clk (s : State) (c : Nat) (v : CoreSt) : (s.setCore c v).clk = s.clk := rfl
@[simp] theorem setCore_nextId (s : State) (c : Nat) (v : CoreSt) : (s.setCore c v).nextId = s.nextId := rfl
@[simp] theorem setCore_free (s : State) (c : Nat) (v : CoreSt) : (s.setCore c v).free = s.free := rfl
@[simp] theorem setCore_turn (s : State) (c : Nat) (v : CoreSt) : (s.setCore c v).turn = s.turn := rfl
@[simp] theorem setCore_beat (s : State) (c : Nat) (v : CoreSt) : (s.setCore c v).beat = s.beat := rfl
@[simp] theorem setCore_agenda (s : State) (c : Nat) (v : CoreSt) : (s.setCore c v).agenda = s.agenda := rfl

/-! ### setPart -/

@[simp] theorem setPart_mem (s : State) (p : Nat) (v : Part) : (s.setPart p v).mem = s.mem := rfl
@[simp] theorem setPart_fibres (s : State) (p : Nat) (v : Part) : (s.setPart p v).fibres = s.fibres := rfl
@[simp] theorem setPart_weaves (s : State) (p : Nat) (v : Part) : (s.setPart p v).weaves = s.weaves := rfl
@[simp] theorem setPart_pours (s : State) (p : Nat) (v : Part) : (s.setPart p v).pours = s.pours := rfl
@[simp] theorem setPart_engines (s : State) (p : Nat) (v : Part) : (s.setPart p v).engines = s.engines := rfl
@[simp] theorem setPart_crucibles (s : State) (p : Nat) (v : Part) : (s.setPart p v).crucibles = s.crucibles := rfl
@[simp] theorem setPart_tasks (s : State) (p : Nat) (v : Part) : (s.setPart p v).tasks = s.tasks := rfl
@[simp] theorem setPart_cores (s : State) (p : Nat) (v : Part) : (s.setPart p v).cores = s.cores := rfl
@[simp] theorem setPart_pend (s : State) (p : Nat) (v : Part) : (s.setPart p v).pend = s.pend := rfl
@[simp] theorem setPart_held (s : State) (p : Nat) (v : Part) : (s.setPart p v).held = s.held := rfl
@[simp] theorem setPart_cmds (s : State) (p : Nat) (v : Part) : (s.setPart p v).cmds = s.cmds := rfl
@[simp] theorem setPart_pairs (s : State) (p : Nat) (v : Part) : (s.setPart p v).pairs = s.pairs := rfl
@[simp] theorem setPart_sync (s : State) (p : Nat) (v : Part) : (s.setPart p v).sync = s.sync := rfl
@[simp] theorem setPart_hist (s : State) (p : Nat) (v : Part) : (s.setPart p v).hist = s.hist := rfl
@[simp] theorem setPart_dev (s : State) (p : Nat) (v : Part) : (s.setPart p v).dev = s.dev := rfl
@[simp] theorem setPart_clk (s : State) (p : Nat) (v : Part) : (s.setPart p v).clk = s.clk := rfl
@[simp] theorem setPart_nextId (s : State) (p : Nat) (v : Part) : (s.setPart p v).nextId = s.nextId := rfl
@[simp] theorem setPart_free (s : State) (p : Nat) (v : Part) : (s.setPart p v).free = s.free := rfl
@[simp] theorem setPart_turn (s : State) (p : Nat) (v : Part) : (s.setPart p v).turn = s.turn := rfl
@[simp] theorem setPart_beat (s : State) (p : Nat) (v : Part) : (s.setPart p v).beat = s.beat := rfl
@[simp] theorem setPart_agenda (s : State) (p : Nat) (v : Part) : (s.setPart p v).agenda = s.agenda := rfl

/-! ### modCore -/

@[simp] theorem modCore_mem (s : State) (c : Nat) (g : CoreSt → CoreSt) : (s.modCore c g).mem = s.mem := rfl
@[simp] theorem modCore_fibres (s : State) (c : Nat) (g : CoreSt → CoreSt) : (s.modCore c g).fibres = s.fibres := rfl
@[simp] theorem modCore_weaves (s : State) (c : Nat) (g : CoreSt → CoreSt) : (s.modCore c g).weaves = s.weaves := rfl
@[simp] theorem modCore_pours (s : State) (c : Nat) (g : CoreSt → CoreSt) : (s.modCore c g).pours = s.pours := rfl
@[simp] theorem modCore_engines (s : State) (c : Nat) (g : CoreSt → CoreSt) : (s.modCore c g).engines = s.engines := rfl
@[simp] theorem modCore_crucibles (s : State) (c : Nat) (g : CoreSt → CoreSt) : (s.modCore c g).crucibles = s.crucibles := rfl
@[simp] theorem modCore_tasks (s : State) (c : Nat) (g : CoreSt → CoreSt) : (s.modCore c g).tasks = s.tasks := rfl
@[simp] theorem modCore_parts (s : State) (c : Nat) (g : CoreSt → CoreSt) : (s.modCore c g).parts = s.parts := rfl
@[simp] theorem modCore_pend (s : State) (c : Nat) (g : CoreSt → CoreSt) : (s.modCore c g).pend = s.pend := rfl
@[simp] theorem modCore_held (s : State) (c : Nat) (g : CoreSt → CoreSt) : (s.modCore c g).held = s.held := rfl
@[simp] theorem modCore_cmds (s : State) (c : Nat) (g : CoreSt → CoreSt) : (s.modCore c g).cmds = s.cmds := rfl
@[simp] theorem modCore_pairs (s : State) (c : Nat) (g : CoreSt → CoreSt) : (s.modCore c g).pairs = s.pairs := rfl
@[simp] theorem modCore_sync (s : State) (c : Nat) (g : CoreSt → CoreSt) : (s.modCore c g).sync = s.sync := rfl
@[simp] theorem modCore_hist (s : State) (c : Nat) (g : CoreSt → CoreSt) : (s.modCore c g).hist = s.hist := rfl
@[simp] theorem modCore_dev (s : State) (c : Nat) (g : CoreSt → CoreSt) : (s.modCore c g).dev = s.dev := rfl
@[simp] theorem modCore_clk (s : State) (c : Nat) (g : CoreSt → CoreSt) : (s.modCore c g).clk = s.clk := rfl
@[simp] theorem modCore_nextId (s : State) (c : Nat) (g : CoreSt → CoreSt) : (s.modCore c g).nextId = s.nextId := rfl
@[simp] theorem modCore_free (s : State) (c : Nat) (g : CoreSt → CoreSt) : (s.modCore c g).free = s.free := rfl
@[simp] theorem modCore_turn (s : State) (c : Nat) (g : CoreSt → CoreSt) : (s.modCore c g).turn = s.turn := rfl
@[simp] theorem modCore_beat (s : State) (c : Nat) (g : CoreSt → CoreSt) : (s.modCore c g).beat = s.beat := rfl
@[simp] theorem modCore_agenda (s : State) (c : Nat) (g : CoreSt → CoreSt) : (s.modCore c g).agenda = s.agenda := rfl

/-! ### modPart -/

@[simp] theorem modPart_mem (s : State) (p : Nat) (g : Part → Part) : (s.modPart p g).mem = s.mem := rfl
@[simp] theorem modPart_fibres (s : State) (p : Nat) (g : Part → Part) : (s.modPart p g).fibres = s.fibres := rfl
@[simp] theorem modPart_weaves (s : State) (p : Nat) (g : Part → Part) : (s.modPart p g).weaves = s.weaves := rfl
@[simp] theorem modPart_pours (s : State) (p : Nat) (g : Part → Part) : (s.modPart p g).pours = s.pours := rfl
@[simp] theorem modPart_engines (s : State) (p : Nat) (g : Part → Part) : (s.modPart p g).engines = s.engines := rfl
@[simp] theorem modPart_crucibles (s : State) (p : Nat) (g : Part → Part) : (s.modPart p g).crucibles = s.crucibles := rfl
@[simp] theorem modPart_tasks (s : State) (p : Nat) (g : Part → Part) : (s.modPart p g).tasks = s.tasks := rfl
@[simp] theorem modPart_cores (s : State) (p : Nat) (g : Part → Part) : (s.modPart p g).cores = s.cores := rfl
@[simp] theorem modPart_pend (s : State) (p : Nat) (g : Part → Part) : (s.modPart p g).pend = s.pend := rfl
@[simp] theorem modPart_held (s : State) (p : Nat) (g : Part → Part) : (s.modPart p g).held = s.held := rfl
@[simp] theorem modPart_cmds (s : State) (p : Nat) (g : Part → Part) : (s.modPart p g).cmds = s.cmds := rfl
@[simp] theorem modPart_pairs (s : State) (p : Nat) (g : Part → Part) : (s.modPart p g).pairs = s.pairs := rfl
@[simp] theorem modPart_sync (s : State) (p : Nat) (g : Part → Part) : (s.modPart p g).sync = s.sync := rfl
@[simp] theorem modPart_hist (s : State) (p : Nat) (g : Part → Part) : (s.modPart p g).hist = s.hist := rfl
@[simp] theorem modPart_dev (s : State) (p : Nat) (g : Part → Part) : (s.modPart p g).dev = s.dev := rfl
@[simp] theorem modPart_clk (s : State) (p : Nat) (g : Part → Part) : (s.modPart p g).clk = s.clk := rfl
@[simp] theorem modPart_nextId (s : State) (p : Nat) (g : Part → Part) : (s.modPart p g).nextId = s.nextId := rfl
@[simp] theorem modPart_free (s : State) (p : Nat) (g : Part → Part) : (s.modPart p g).free = s.free := rfl
@[simp] theorem modPart_turn (s : State) (p : Nat) (g : Part → Part) : (s.modPart p g).turn = s.turn := rfl
@[simp] theorem modPart_beat (s : State) (p : Nat) (g : Part → Part) : (s.modPart p g).beat = s.beat := rfl
@[simp] theorem modPart_agenda (s : State) (p : Nat) (g : Part → Part) : (s.modPart p g).agenda = s.agenda := rfl

/-! ### modFibre -/

@[simp] theorem modFibre_mem (s : State) (f : Nat) (g : Fibre → Fibre) : (s.modFibre f g).mem = s.mem := rfl
@[simp] theorem modFibre_weaves (s : State) (f : Nat) (g : Fibre → Fibre) : (s.modFibre f g).weaves = s.weaves := rfl
@[simp] theorem modFibre_pours (s : State) (f : Nat) (g : Fibre → Fibre) : (s.modFibre f g).pours = s.pours := rfl
@[simp] theorem modFibre_engines (s : State) (f : Nat) (g : Fibre → Fibre) : (s.modFibre f g).engines = s.engines := rfl
@[simp] theorem modFibre_crucibles (s : State) (f : Nat) (g : Fibre → Fibre) : (s.modFibre f g).crucibles = s.crucibles := rfl
@[simp] theorem modFibre_tasks (s : State) (f : Nat) (g : Fibre → Fibre) : (s.modFibre f g).tasks = s.tasks := rfl
@[simp] theorem modFibre_cores (s : State) (f : Nat) (g : Fibre → Fibre) : (s.modFibre f g).cores = s.cores := rfl
@[simp] theorem modFibre_parts (s : State) (f : Nat) (g : Fibre → Fibre) : (s.modFibre f g).parts = s.parts := rfl
@[simp] theorem modFibre_pend (s : State) (f : Nat) (g : Fibre → Fibre) : (s.modFibre f g).pend = s.pend := rfl
@[simp] theorem modFibre_held (s : State) (f : Nat) (g : Fibre → Fibre) : (s.modFibre f g).held = s.held := rfl
@[simp] theorem modFibre_cmds (s : State) (f : Nat) (g : Fibre → Fibre) : (s.modFibre f g).cmds = s.cmds := rfl
@[simp] theorem modFibre_pairs (s : State) (f : Nat) (g : Fibre → Fibre) : (s.modFibre f g).pairs = s.pairs := rfl
@[simp] theorem modFibre_sync (s : State) (f : Nat) (g : Fibre → Fibre) : (s.modFibre f g).sync = s.sync := rfl
@[simp] theorem modFibre_hist (s : State) (f : Nat) (g : Fibre → Fibre) : (s.modFibre f g).hist = s.hist := rfl
@[simp] theorem modFibre_dev (s : State) (f : Nat) (g : Fibre → Fibre) : (s.modFibre f g).dev = s.dev := rfl
@[simp] theorem modFibre_clk (s : State) (f : Nat) (g : Fibre → Fibre) : (s.modFibre f g).clk = s.clk := rfl
@[simp] theorem modFibre_nextId (s : State) (f : Nat) (g : Fibre → Fibre) : (s.modFibre f g).nextId = s.nextId := rfl
@[simp] theorem modFibre_free (s : State) (f : Nat) (g : Fibre → Fibre) : (s.modFibre f g).free = s.free := rfl
@[simp] theorem modFibre_turn (s : State) (f : Nat) (g : Fibre → Fibre) : (s.modFibre f g).turn = s.turn := rfl
@[simp] theorem modFibre_beat (s : State) (f : Nat) (g : Fibre → Fibre) : (s.modFibre f g).beat = s.beat := rfl
@[simp] theorem modFibre_agenda (s : State) (f : Nat) (g : Fibre → Fibre) : (s.modFibre f g).agenda = s.agenda := rfl

/-! ### modFibres -/

@[simp] theorem modFibres_mem (s : State) (fs : List Nat) (g : Fibre → Fibre) : (s.modFibres fs g).mem = s.mem := rfl
@[simp] theorem modFibres_weaves (s : State) (fs : List Nat) (g : Fibre → Fibre) : (s.modFibres fs g).weaves = s.weaves := rfl
@[simp] theorem modFibres_pours (s : State) (fs : List Nat) (g : Fibre → Fibre) : (s.modFibres fs g).pours = s.pours := rfl
@[simp] theorem modFibres_engines (s : State) (fs : List Nat) (g : Fibre → Fibre) : (s.modFibres fs g).engines = s.engines := rfl
@[simp] theorem modFibres_crucibles (s : State) (fs : List Nat) (g : Fibre → Fibre) : (s.modFibres fs g).crucibles = s.crucibles := rfl
@[simp] theorem modFibres_tasks (s : State) (fs : List Nat) (g : Fibre → Fibre) : (s.modFibres fs g).tasks = s.tasks := rfl
@[simp] theorem modFibres_cores (s : State) (fs : List Nat) (g : Fibre → Fibre) : (s.modFibres fs g).cores = s.cores := rfl
@[simp] theorem modFibres_parts (s : State) (fs : List Nat) (g : Fibre → Fibre) : (s.modFibres fs g).parts = s.parts := rfl
@[simp] theorem modFibres_pend (s : State) (fs : List Nat) (g : Fibre → Fibre) : (s.modFibres fs g).pend = s.pend := rfl
@[simp] theorem modFibres_held (s : State) (fs : List Nat) (g : Fibre → Fibre) : (s.modFibres fs g).held = s.held := rfl
@[simp] theorem modFibres_cmds (s : State) (fs : List Nat) (g : Fibre → Fibre) : (s.modFibres fs g).cmds = s.cmds := rfl
@[simp] theorem modFibres_pairs (s : State) (fs : List Nat) (g : Fibre → Fibre) : (s.modFibres fs g).pairs = s.pairs := rfl
@[simp] theorem modFibres_sync (s : State) (fs : List Nat) (g : Fibre → Fibre) : (s.modFibres fs g).sync = s.sync := rfl
@[simp] theorem modFibres_hist (s : State) (fs : List Nat) (g : Fibre → Fibre) : (s.modFibres fs g).hist = s.hist := rfl
@[simp] theorem modFibres_dev (s : State) (fs : List Nat) (g : Fibre → Fibre) : (s.modFibres fs g).dev = s.dev := rfl
@[simp] theorem modFibres_clk (s : State) (fs : List Nat) (g : Fibre → Fibre) : (s.modFibres fs g).clk = s.clk := rfl
@[simp] theorem modFibres_nextId (s : State) (fs : List Nat) (g : Fibre → Fibre) : (s.modFibres fs g).nextId = s.nextId := rfl
@[simp] theorem modFibres_free (s : State) (fs : List Nat) (g : Fibre → Fibre) : (s.modFibres fs g).free = s.free := rfl
@[simp] theorem modFibres_turn (s : State) (fs : List Nat) (g : Fibre → Fibre) : (s.modFibres fs g).turn = s.turn := rfl
@[simp] theorem modFibres_beat (s : State) (fs : List Nat) (g : Fibre → Fibre) : (s.modFibres fs g).beat = s.beat := rfl
@[simp] theorem modFibres_agenda (s : State) (fs : List Nat) (g : Fibre → Fibre) : (s.modFibres fs g).agenda = s.agenda := rfl

/-! ### modWeave -/

@[simp] theorem modWeave_mem (s : State) (w : Nat) (g : Weave → Weave) : (s.modWeave w g).mem = s.mem := rfl
@[simp] theorem modWeave_fibres (s : State) (w : Nat) (g : Weave → Weave) : (s.modWeave w g).fibres = s.fibres := rfl
@[simp] theorem modWeave_pours (s : State) (w : Nat) (g : Weave → Weave) : (s.modWeave w g).pours = s.pours := rfl
@[simp] theorem modWeave_engines (s : State) (w : Nat) (g : Weave → Weave) : (s.modWeave w g).engines = s.engines := rfl
@[simp] theorem modWeave_crucibles (s : State) (w : Nat) (g : Weave → Weave) : (s.modWeave w g).crucibles = s.crucibles := rfl
@[simp] theorem modWeave_tasks (s : State) (w : Nat) (g : Weave → Weave) : (s.modWeave w g).tasks = s.tasks := rfl
@[simp] theorem modWeave_cores (s : State) (w : Nat) (g : Weave → Weave) : (s.modWeave w g).cores = s.cores := rfl
@[simp] theorem modWeave_parts (s : State) (w : Nat) (g : Weave → Weave) : (s.modWeave w g).parts = s.parts := rfl
@[simp] theorem modWeave_pend (s : State) (w : Nat) (g : Weave → Weave) : (s.modWeave w g).pend = s.pend := rfl
@[simp] theorem modWeave_held (s : State) (w : Nat) (g : Weave → Weave) : (s.modWeave w g).held = s.held := rfl
@[simp] theorem modWeave_cmds (s : State) (w : Nat) (g : Weave → Weave) : (s.modWeave w g).cmds = s.cmds := rfl
@[simp] theorem modWeave_pairs (s : State) (w : Nat) (g : Weave → Weave) : (s.modWeave w g).pairs = s.pairs := rfl
@[simp] theorem modWeave_sync (s : State) (w : Nat) (g : Weave → Weave) : (s.modWeave w g).sync = s.sync := rfl
@[simp] theorem modWeave_hist (s : State) (w : Nat) (g : Weave → Weave) : (s.modWeave w g).hist = s.hist := rfl
@[simp] theorem modWeave_dev (s : State) (w : Nat) (g : Weave → Weave) : (s.modWeave w g).dev = s.dev := rfl
@[simp] theorem modWeave_clk (s : State) (w : Nat) (g : Weave → Weave) : (s.modWeave w g).clk = s.clk := rfl
@[simp] theorem modWeave_nextId (s : State) (w : Nat) (g : Weave → Weave) : (s.modWeave w g).nextId = s.nextId := rfl
@[simp] theorem modWeave_free (s : State) (w : Nat) (g : Weave → Weave) : (s.modWeave w g).free = s.free := rfl
@[simp] theorem modWeave_turn (s : State) (w : Nat) (g : Weave → Weave) : (s.modWeave w g).turn = s.turn := rfl
@[simp] theorem modWeave_beat (s : State) (w : Nat) (g : Weave → Weave) : (s.modWeave w g).beat = s.beat := rfl
@[simp] theorem modWeave_agenda (s : State) (w : Nat) (g : Weave → Weave) : (s.modWeave w g).agenda = s.agenda := rfl

/-! ### modPour -/

@[simp] theorem modPour_mem (s : State) (p : Nat) (g : Pour → Pour) : (s.modPour p g).mem = s.mem := rfl
@[simp] theorem modPour_fibres (s : State) (p : Nat) (g : Pour → Pour) : (s.modPour p g).fibres = s.fibres := rfl
@[simp] theorem modPour_weaves (s : State) (p : Nat) (g : Pour → Pour) : (s.modPour p g).weaves = s.weaves := rfl
@[simp] theorem modPour_engines (s : State) (p : Nat) (g : Pour → Pour) : (s.modPour p g).engines = s.engines := rfl
@[simp] theorem modPour_crucibles (s : State) (p : Nat) (g : Pour → Pour) : (s.modPour p g).crucibles = s.crucibles := rfl
@[simp] theorem modPour_tasks (s : State) (p : Nat) (g : Pour → Pour) : (s.modPour p g).tasks = s.tasks := rfl
@[simp] theorem modPour_cores (s : State) (p : Nat) (g : Pour → Pour) : (s.modPour p g).cores = s.cores := rfl
@[simp] theorem modPour_parts (s : State) (p : Nat) (g : Pour → Pour) : (s.modPour p g).parts = s.parts := rfl
@[simp] theorem modPour_pend (s : State) (p : Nat) (g : Pour → Pour) : (s.modPour p g).pend = s.pend := rfl
@[simp] theorem modPour_held (s : State) (p : Nat) (g : Pour → Pour) : (s.modPour p g).held = s.held := rfl
@[simp] theorem modPour_cmds (s : State) (p : Nat) (g : Pour → Pour) : (s.modPour p g).cmds = s.cmds := rfl
@[simp] theorem modPour_pairs (s : State) (p : Nat) (g : Pour → Pour) : (s.modPour p g).pairs = s.pairs := rfl
@[simp] theorem modPour_sync (s : State) (p : Nat) (g : Pour → Pour) : (s.modPour p g).sync = s.sync := rfl
@[simp] theorem modPour_hist (s : State) (p : Nat) (g : Pour → Pour) : (s.modPour p g).hist = s.hist := rfl
@[simp] theorem modPour_dev (s : State) (p : Nat) (g : Pour → Pour) : (s.modPour p g).dev = s.dev := rfl
@[simp] theorem modPour_clk (s : State) (p : Nat) (g : Pour → Pour) : (s.modPour p g).clk = s.clk := rfl
@[simp] theorem modPour_nextId (s : State) (p : Nat) (g : Pour → Pour) : (s.modPour p g).nextId = s.nextId := rfl
@[simp] theorem modPour_free (s : State) (p : Nat) (g : Pour → Pour) : (s.modPour p g).free = s.free := rfl
@[simp] theorem modPour_turn (s : State) (p : Nat) (g : Pour → Pour) : (s.modPour p g).turn = s.turn := rfl
@[simp] theorem modPour_beat (s : State) (p : Nat) (g : Pour → Pour) : (s.modPour p g).beat = s.beat := rfl
@[simp] theorem modPour_agenda (s : State) (p : Nat) (g : Pour → Pour) : (s.modPour p g).agenda = s.agenda := rfl

/-! ### modEngine -/

@[simp] theorem modEngine_mem (s : State) (e : Nat) (g : Engine → Engine) : (s.modEngine e g).mem = s.mem := rfl
@[simp] theorem modEngine_fibres (s : State) (e : Nat) (g : Engine → Engine) : (s.modEngine e g).fibres = s.fibres := rfl
@[simp] theorem modEngine_weaves (s : State) (e : Nat) (g : Engine → Engine) : (s.modEngine e g).weaves = s.weaves := rfl
@[simp] theorem modEngine_pours (s : State) (e : Nat) (g : Engine → Engine) : (s.modEngine e g).pours = s.pours := rfl
@[simp] theorem modEngine_crucibles (s : State) (e : Nat) (g : Engine → Engine) : (s.modEngine e g).crucibles = s.crucibles := rfl
@[simp] theorem modEngine_tasks (s : State) (e : Nat) (g : Engine → Engine) : (s.modEngine e g).tasks = s.tasks := rfl
@[simp] theorem modEngine_cores (s : State) (e : Nat) (g : Engine → Engine) : (s.modEngine e g).cores = s.cores := rfl
@[simp] theorem modEngine_parts (s : State) (e : Nat) (g : Engine → Engine) : (s.modEngine e g).parts = s.parts := rfl
@[simp] theorem modEngine_pend (s : State) (e : Nat) (g : Engine → Engine) : (s.modEngine e g).pend = s.pend := rfl
@[simp] theorem modEngine_held (s : State) (e : Nat) (g : Engine → Engine) : (s.modEngine e g).held = s.held := rfl
@[simp] theorem modEngine_cmds (s : State) (e : Nat) (g : Engine → Engine) : (s.modEngine e g).cmds = s.cmds := rfl
@[simp] theorem modEngine_pairs (s : State) (e : Nat) (g : Engine → Engine) : (s.modEngine e g).pairs = s.pairs := rfl
@[simp] theorem modEngine_sync (s : State) (e : Nat) (g : Engine → Engine) : (s.modEngine e g).sync = s.sync := rfl
@[simp] theorem modEngine_hist (s : State) (e : Nat) (g : Engine → Engine) : (s.modEngine e g).hist = s.hist := rfl
@[simp] theorem modEngine_dev (s : State) (e : Nat) (g : Engine → Engine) : (s.modEngine e g).dev = s.dev := rfl
@[simp] theorem modEngine_clk (s : State) (e : Nat) (g : Engine → Engine) : (s.modEngine e g).clk = s.clk := rfl
@[simp] theorem modEngine_nextId (s : State) (e : Nat) (g : Engine → Engine) : (s.modEngine e g).nextId = s.nextId := rfl
@[simp] theorem modEngine_free (s : State) (e : Nat) (g : Engine → Engine) : (s.modEngine e g).free = s.free := rfl
@[simp] theorem modEngine_turn (s : State) (e : Nat) (g : Engine → Engine) : (s.modEngine e g).turn = s.turn := rfl
@[simp] theorem modEngine_beat (s : State) (e : Nat) (g : Engine → Engine) : (s.modEngine e g).beat = s.beat := rfl
@[simp] theorem modEngine_agenda (s : State) (e : Nat) (g : Engine → Engine) : (s.modEngine e g).agenda = s.agenda := rfl

/-! ### modTask -/

@[simp] theorem modTask_mem (s : State) (t : Nat) (g : Task → Task) : (s.modTask t g).mem = s.mem := rfl
@[simp] theorem modTask_fibres (s : State) (t : Nat) (g : Task → Task) : (s.modTask t g).fibres = s.fibres := rfl
@[simp] theorem modTask_weaves (s : State) (t : Nat) (g : Task → Task) : (s.modTask t g).weaves = s.weaves := rfl
@[simp] theorem modTask_pours (s : State) (t : Nat) (g : Task → Task) : (s.modTask t g).pours = s.pours := rfl
@[simp] theorem modTask_engines (s : State) (t : Nat) (g : Task → Task) : (s.modTask t g).engines = s.engines := rfl
@[simp] theorem modTask_crucibles (s : State) (t : Nat) (g : Task → Task) : (s.modTask t g).crucibles = s.crucibles := rfl
@[simp] theorem modTask_cores (s : State) (t : Nat) (g : Task → Task) : (s.modTask t g).cores = s.cores := rfl
@[simp] theorem modTask_parts (s : State) (t : Nat) (g : Task → Task) : (s.modTask t g).parts = s.parts := rfl
@[simp] theorem modTask_pend (s : State) (t : Nat) (g : Task → Task) : (s.modTask t g).pend = s.pend := rfl
@[simp] theorem modTask_held (s : State) (t : Nat) (g : Task → Task) : (s.modTask t g).held = s.held := rfl
@[simp] theorem modTask_cmds (s : State) (t : Nat) (g : Task → Task) : (s.modTask t g).cmds = s.cmds := rfl
@[simp] theorem modTask_pairs (s : State) (t : Nat) (g : Task → Task) : (s.modTask t g).pairs = s.pairs := rfl
@[simp] theorem modTask_sync (s : State) (t : Nat) (g : Task → Task) : (s.modTask t g).sync = s.sync := rfl
@[simp] theorem modTask_hist (s : State) (t : Nat) (g : Task → Task) : (s.modTask t g).hist = s.hist := rfl
@[simp] theorem modTask_dev (s : State) (t : Nat) (g : Task → Task) : (s.modTask t g).dev = s.dev := rfl
@[simp] theorem modTask_clk (s : State) (t : Nat) (g : Task → Task) : (s.modTask t g).clk = s.clk := rfl
@[simp] theorem modTask_nextId (s : State) (t : Nat) (g : Task → Task) : (s.modTask t g).nextId = s.nextId := rfl
@[simp] theorem modTask_free (s : State) (t : Nat) (g : Task → Task) : (s.modTask t g).free = s.free := rfl
@[simp] theorem modTask_turn (s : State) (t : Nat) (g : Task → Task) : (s.modTask t g).turn = s.turn := rfl
@[simp] theorem modTask_beat (s : State) (t : Nat) (g : Task → Task) : (s.modTask t g).beat = s.beat := rfl
@[simp] theorem modTask_agenda (s : State) (t : Nat) (g : Task → Task) : (s.modTask t g).agenda = s.agenda := rfl

/-! ### modCrucible -/

@[simp] theorem modCrucible_mem (s : State) (k : Nat) (g : Crucible → Crucible) : (s.modCrucible k g).mem = s.mem := rfl
@[simp] theorem modCrucible_fibres (s : State) (k : Nat) (g : Crucible → Crucible) : (s.modCrucible k g).fibres = s.fibres := rfl
@[simp] theorem modCrucible_weaves (s : State) (k : Nat) (g : Crucible → Crucible) : (s.modCrucible k g).weaves = s.weaves := rfl
@[simp] theorem modCrucible_pours (s : State) (k : Nat) (g : Crucible → Crucible) : (s.modCrucible k g).pours = s.pours := rfl
@[simp] theorem modCrucible_engines (s : State) (k : Nat) (g : Crucible → Crucible) : (s.modCrucible k g).engines = s.engines := rfl
@[simp] theorem modCrucible_tasks (s : State) (k : Nat) (g : Crucible → Crucible) : (s.modCrucible k g).tasks = s.tasks := rfl
@[simp] theorem modCrucible_cores (s : State) (k : Nat) (g : Crucible → Crucible) : (s.modCrucible k g).cores = s.cores := rfl
@[simp] theorem modCrucible_parts (s : State) (k : Nat) (g : Crucible → Crucible) : (s.modCrucible k g).parts = s.parts := rfl
@[simp] theorem modCrucible_pend (s : State) (k : Nat) (g : Crucible → Crucible) : (s.modCrucible k g).pend = s.pend := rfl
@[simp] theorem modCrucible_held (s : State) (k : Nat) (g : Crucible → Crucible) : (s.modCrucible k g).held = s.held := rfl
@[simp] theorem modCrucible_cmds (s : State) (k : Nat) (g : Crucible → Crucible) : (s.modCrucible k g).cmds = s.cmds := rfl
@[simp] theorem modCrucible_pairs (s : State) (k : Nat) (g : Crucible → Crucible) : (s.modCrucible k g).pairs = s.pairs := rfl
@[simp] theorem modCrucible_sync (s : State) (k : Nat) (g : Crucible → Crucible) : (s.modCrucible k g).sync = s.sync := rfl
@[simp] theorem modCrucible_hist (s : State) (k : Nat) (g : Crucible → Crucible) : (s.modCrucible k g).hist = s.hist := rfl
@[simp] theorem modCrucible_dev (s : State) (k : Nat) (g : Crucible → Crucible) : (s.modCrucible k g).dev = s.dev := rfl
@[simp] theorem modCrucible_clk (s : State) (k : Nat) (g : Crucible → Crucible) : (s.modCrucible k g).clk = s.clk := rfl
@[simp] theorem modCrucible_nextId (s : State) (k : Nat) (g : Crucible → Crucible) : (s.modCrucible k g).nextId = s.nextId := rfl
@[simp] theorem modCrucible_free (s : State) (k : Nat) (g : Crucible → Crucible) : (s.modCrucible k g).free = s.free := rfl
@[simp] theorem modCrucible_turn (s : State) (k : Nat) (g : Crucible → Crucible) : (s.modCrucible k g).turn = s.turn := rfl
@[simp] theorem modCrucible_beat (s : State) (k : Nat) (g : Crucible → Crucible) : (s.modCrucible k g).beat = s.beat := rfl
@[simp] theorem modCrucible_agenda (s : State) (k : Nat) (g : Crucible → Crucible) : (s.modCrucible k g).agenda = s.agenda := rfl

/-! ### modDev -/

@[simp] theorem modDev_mem (s : State) (g : Dev → Dev) : (s.modDev g).mem = s.mem := rfl
@[simp] theorem modDev_fibres (s : State) (g : Dev → Dev) : (s.modDev g).fibres = s.fibres := rfl
@[simp] theorem modDev_weaves (s : State) (g : Dev → Dev) : (s.modDev g).weaves = s.weaves := rfl
@[simp] theorem modDev_pours (s : State) (g : Dev → Dev) : (s.modDev g).pours = s.pours := rfl
@[simp] theorem modDev_engines (s : State) (g : Dev → Dev) : (s.modDev g).engines = s.engines := rfl
@[simp] theorem modDev_crucibles (s : State) (g : Dev → Dev) : (s.modDev g).crucibles = s.crucibles := rfl
@[simp] theorem modDev_tasks (s : State) (g : Dev → Dev) : (s.modDev g).tasks = s.tasks := rfl
@[simp] theorem modDev_cores (s : State) (g : Dev → Dev) : (s.modDev g).cores = s.cores := rfl
@[simp] theorem modDev_parts (s : State) (g : Dev → Dev) : (s.modDev g).parts = s.parts := rfl
@[simp] theorem modDev_pend (s : State) (g : Dev → Dev) : (s.modDev g).pend = s.pend := rfl
@[simp] theorem modDev_held (s : State) (g : Dev → Dev) : (s.modDev g).held = s.held := rfl
@[simp] theorem modDev_cmds (s : State) (g : Dev → Dev) : (s.modDev g).cmds = s.cmds := rfl
@[simp] theorem modDev_pairs (s : State) (g : Dev → Dev) : (s.modDev g).pairs = s.pairs := rfl
@[simp] theorem modDev_sync (s : State) (g : Dev → Dev) : (s.modDev g).sync = s.sync := rfl
@[simp] theorem modDev_hist (s : State) (g : Dev → Dev) : (s.modDev g).hist = s.hist := rfl
@[simp] theorem modDev_clk (s : State) (g : Dev → Dev) : (s.modDev g).clk = s.clk := rfl
@[simp] theorem modDev_nextId (s : State) (g : Dev → Dev) : (s.modDev g).nextId = s.nextId := rfl
@[simp] theorem modDev_free (s : State) (g : Dev → Dev) : (s.modDev g).free = s.free := rfl
@[simp] theorem modDev_turn (s : State) (g : Dev → Dev) : (s.modDev g).turn = s.turn := rfl
@[simp] theorem modDev_beat (s : State) (g : Dev → Dev) : (s.modDev g).beat = s.beat := rfl
@[simp] theorem modDev_agenda (s : State) (g : Dev → Dev) : (s.modDev g).agenda = s.agenda := rfl

/-! ### setSync -/

@[simp] theorem setSync_mem (s : State) (k : SyncKey) (c : Clock) : (s.setSync k c).mem = s.mem := rfl
@[simp] theorem setSync_fibres (s : State) (k : SyncKey) (c : Clock) : (s.setSync k c).fibres = s.fibres := rfl
@[simp] theorem setSync_weaves (s : State) (k : SyncKey) (c : Clock) : (s.setSync k c).weaves = s.weaves := rfl
@[simp] theorem setSync_pours (s : State) (k : SyncKey) (c : Clock) : (s.setSync k c).pours = s.pours := rfl
@[simp] theorem setSync_engines (s : State) (k : SyncKey) (c : Clock) : (s.setSync k c).engines = s.engines := rfl
@[simp] theorem setSync_crucibles (s : State) (k : SyncKey) (c : Clock) : (s.setSync k c).crucibles = s.crucibles := rfl
@[simp] theorem setSync_tasks (s : State) (k : SyncKey) (c : Clock) : (s.setSync k c).tasks = s.tasks := rfl
@[simp] theorem setSync_cores (s : State) (k : SyncKey) (c : Clock) : (s.setSync k c).cores = s.cores := rfl
@[simp] theorem setSync_parts (s : State) (k : SyncKey) (c : Clock) : (s.setSync k c).parts = s.parts := rfl
@[simp] theorem setSync_pend (s : State) (k : SyncKey) (c : Clock) : (s.setSync k c).pend = s.pend := rfl
@[simp] theorem setSync_held (s : State) (k : SyncKey) (c : Clock) : (s.setSync k c).held = s.held := rfl
@[simp] theorem setSync_cmds (s : State) (k : SyncKey) (c : Clock) : (s.setSync k c).cmds = s.cmds := rfl
@[simp] theorem setSync_pairs (s : State) (k : SyncKey) (c : Clock) : (s.setSync k c).pairs = s.pairs := rfl
@[simp] theorem setSync_hist (s : State) (k : SyncKey) (c : Clock) : (s.setSync k c).hist = s.hist := rfl
@[simp] theorem setSync_dev (s : State) (k : SyncKey) (c : Clock) : (s.setSync k c).dev = s.dev := rfl
@[simp] theorem setSync_clk (s : State) (k : SyncKey) (c : Clock) : (s.setSync k c).clk = s.clk := rfl
@[simp] theorem setSync_nextId (s : State) (k : SyncKey) (c : Clock) : (s.setSync k c).nextId = s.nextId := rfl
@[simp] theorem setSync_free (s : State) (k : SyncKey) (c : Clock) : (s.setSync k c).free = s.free := rfl
@[simp] theorem setSync_turn (s : State) (k : SyncKey) (c : Clock) : (s.setSync k c).turn = s.turn := rfl
@[simp] theorem setSync_beat (s : State) (k : SyncKey) (c : Clock) : (s.setSync k c).beat = s.beat := rfl
@[simp] theorem setSync_agenda (s : State) (k : SyncKey) (c : Clock) : (s.setSync k c).agenda = s.agenda := rfl

/-! ### fresh -/

@[simp] theorem fresh_mem (s : State) : s.fresh.2.mem = s.mem := rfl
@[simp] theorem fresh_fibres (s : State) : s.fresh.2.fibres = s.fibres := rfl
@[simp] theorem fresh_weaves (s : State) : s.fresh.2.weaves = s.weaves := rfl
@[simp] theorem fresh_pours (s : State) : s.fresh.2.pours = s.pours := rfl
@[simp] theorem fresh_engines (s : State) : s.fresh.2.engines = s.engines := rfl
@[simp] theorem fresh_crucibles (s : State) : s.fresh.2.crucibles = s.crucibles := rfl
@[simp] theorem fresh_tasks (s : State) : s.fresh.2.tasks = s.tasks := rfl
@[simp] theorem fresh_cores (s : State) : s.fresh.2.cores = s.cores := rfl
@[simp] theorem fresh_parts (s : State) : s.fresh.2.parts = s.parts := rfl
@[simp] theorem fresh_pend (s : State) : s.fresh.2.pend = s.pend := rfl
@[simp] theorem fresh_held (s : State) : s.fresh.2.held = s.held := rfl
@[simp] theorem fresh_cmds (s : State) : s.fresh.2.cmds = s.cmds := rfl
@[simp] theorem fresh_pairs (s : State) : s.fresh.2.pairs = s.pairs := rfl
@[simp] theorem fresh_sync (s : State) : s.fresh.2.sync = s.sync := rfl
@[simp] theorem fresh_hist (s : State) : s.fresh.2.hist = s.hist := rfl
@[simp] theorem fresh_dev (s : State) : s.fresh.2.dev = s.dev := rfl
@[simp] theorem fresh_clk (s : State) : s.fresh.2.clk = s.clk := rfl
@[simp] theorem fresh_free (s : State) : s.fresh.2.free = s.free := rfl
@[simp] theorem fresh_turn (s : State) : s.fresh.2.turn = s.turn := rfl
@[simp] theorem fresh_beat (s : State) : s.fresh.2.beat = s.beat := rfl
@[simp] theorem fresh_agenda (s : State) : s.fresh.2.agenda = s.agenda := rfl

/-! ### What is read after an update -/

theorem modFibre_same (s : State) (k : Nat) (g : Fibre → Fibre) : (s.modFibre k g).fibre? k = (s.fibre? k).map g :=
  get?_modify_same s.fibres k g

theorem modFibre_other (s : State) (k : Nat) (g : Fibre → Fibre) {j : Nat} (h : j ≠ k) : (s.modFibre k g).fibre? j = s.fibre? j :=
  get?_modify_other s.fibres k g h

theorem modWeave_same (s : State) (k : Nat) (g : Weave → Weave) : (s.modWeave k g).weave? k = (s.weave? k).map g :=
  get?_modify_same s.weaves k g

theorem modWeave_other (s : State) (k : Nat) (g : Weave → Weave) {j : Nat} (h : j ≠ k) : (s.modWeave k g).weave? j = s.weave? j :=
  get?_modify_other s.weaves k g h

theorem modPour_same (s : State) (k : Nat) (g : Pour → Pour) : (s.modPour k g).pour? k = (s.pour? k).map g :=
  get?_modify_same s.pours k g

theorem modPour_other (s : State) (k : Nat) (g : Pour → Pour) {j : Nat} (h : j ≠ k) : (s.modPour k g).pour? j = s.pour? j :=
  get?_modify_other s.pours k g h

theorem modEngine_same (s : State) (k : Nat) (g : Engine → Engine) : (s.modEngine k g).engine? k = (s.engine? k).map g :=
  get?_modify_same s.engines k g

theorem modEngine_other (s : State) (k : Nat) (g : Engine → Engine) {j : Nat} (h : j ≠ k) : (s.modEngine k g).engine? j = s.engine? j :=
  get?_modify_other s.engines k g h

theorem modTask_same (s : State) (k : Nat) (g : Task → Task) : (s.modTask k g).task? k = (s.task? k).map g :=
  get?_modify_same s.tasks k g

theorem modTask_other (s : State) (k : Nat) (g : Task → Task) {j : Nat} (h : j ≠ k) : (s.modTask k g).task? j = s.task? j :=
  get?_modify_other s.tasks k g h

theorem modCrucible_same (s : State) (k : Nat) (g : Crucible → Crucible) : (s.modCrucible k g).crucible? k = (s.crucible? k).map g :=
  get?_modify_same s.crucibles k g

theorem modCrucible_other (s : State) (k : Nat) (g : Crucible → Crucible) {j : Nat} (h : j ≠ k) : (s.modCrucible k g).crucible? j = s.crucible? j :=
  get?_modify_other s.crucibles k g h

theorem setCore_same (s : State) (k : Nat) (v : CoreSt) : (s.setCore k v).core k = v :=
  getD_putD_same ({} : CoreSt) s.cores k v

theorem setCore_other (s : State) (k : Nat) (v : CoreSt) {j : Nat} (h : j ≠ k) : (s.setCore k v).core j = s.core j :=
  getD_putD_other ({} : CoreSt) s.cores v h

theorem modCore_same (s : State) (k : Nat) (g : CoreSt → CoreSt) : (s.modCore k g).core k = g (s.core k) := setCore_same s k _

theorem modCore_other (s : State) (k : Nat) (g : CoreSt → CoreSt) {j : Nat} (h : j ≠ k) : (s.modCore k g).core j = s.core j :=
  setCore_other s k _ h

theorem setPart_same (s : State) (k : Nat) (v : Part) : (s.setPart k v).part k = v :=
  getD_putD_same ({} : Part) s.parts k v

theorem setPart_other (s : State) (k : Nat) (v : Part) {j : Nat} (h : j ≠ k) : (s.setPart k v).part j = s.part j :=
  getD_putD_other ({} : Part) s.parts v h

theorem modPart_same (s : State) (k : Nat) (g : Part → Part) : (s.modPart k g).part k = g (s.part k) := setPart_same s k _

theorem modPart_other (s : State) (k : Nat) (g : Part → Part) {j : Nat} (h : j ≠ k) : (s.modPart k g).part j = s.part j :=
  setPart_other s k _ h

/-- Updating each fibre of a list changes those alone. -/
theorem modFibres_fibre? (s : State) (fs : List Nat) (g : Fibre → Fibre) (k : Nat) :
    (s.modFibres fs g).fibre? k = if fs.contains k then (s.fibre? k).map g else s.fibre? k := by
  unfold State.fibre? State.modFibres
  generalize s.fibres = m
  show SMap.get? (m.map fun e => if fs.contains e.1 then (e.1, g e.2) else e) k = _
  induction m with
  | nil => by_cases h : fs.contains k = true <;> simp [SMap.get?]
  | cons e m ih =>
    obtain ⟨j, v⟩ := e
    by_cases hj : j = k
    · subst hj
      by_cases h : fs.contains j = true <;> simp_all [SMap.get?]
    · by_cases h : fs.contains j = true <;> simp_all [SMap.get?]

end Sys2Proof.Laws
end

