-- ==== Sys2Proof/Laws/Access.lean ====
section
/-!
SUPPORT. Laws/Access.lean: what an access of a weave does once nothing stops it, once for each kind of access.
-/

namespace Sys2Proof.Laws

open Sys2Proof.Machine

variable {s : State} {c : Ctx} {op : MemOp} {n : Nat}

/-- A store that nothing stops writes each lane's bytes at its place, in order, after its checks are recorded. -/
theorem perform_store (r : AccessReady s c op) (k : op.kind = .store n) :
    s.perform c.p op = .done ((s.laneLocs c.p op false).foldl (fun t e => t.putLane c.p op n e)
      (State.recorded (s.reached c.p op) c.p op (s.laneLocs c.p op false))) [] := by
  unfold State.perform
  dsimp only
  rw [r.addr]; dsimp only
  rw [r.kind]; dsimp only
  rw [r.page]; dsimp only
  rw [r.order]; dsimp only
  rw [k]
  unfold State.reached State.recorded State.putLane
  all_goals rfl

/-- A store of a shape register that nothing stops. -/
theorem perform_shst (r : AccessReady s c op) (k : op.kind = .shst n) :
    s.perform c.p op = .done ((s.laneLocs c.p op false).foldl (fun t e => match e.2 with
        | .mem pl => { t with mem := storeAt t.mem pl n e.1.data }
        | .peer d w o g => t.remoteStore c.p op (t.rankOf e.1.fibre) d w o g n e.1.data
        | _ => t) (State.recorded (s.reached c.p op) c.p op (s.laneLocs c.p op false))) [] := by
  unfold State.perform
  dsimp only
  rw [r.addr]; dsimp only
  rw [r.kind]; dsimp only
  rw [r.page]; dsimp only
  rw [r.order]; dsimp only
  rw [k]
  unfold State.reached State.recorded
  all_goals rfl

/-- A load that nothing stops reads each lane's words at its place; a read of a peer takes a free value. -/
theorem perform_load {b w : Nat} {g : Bool} (r : AccessReady s c op) (k : op.kind = .load b w g) :
    s.perform c.p op = .done (State.recorded (if (s.laneLocs c.p op false).any fun x => match x.2 with
          | .peer _ _ _ _ => true
          | _ => false then { s.reached c.p op with free := (s.reached c.p op).free + 1 } else s.reached c.p op)
        c.p op (s.laneLocs c.p op false))
      ((s.laneLocs c.p op false).map fun x => (x.1.fibre, (s.reached c.p op).loadLane op.kind x.2)) := by
  unfold State.perform
  dsimp only
  rw [r.addr]; dsimp only
  rw [r.kind]; dsimp only
  rw [r.page]; dsimp only
  rw [r.order]; dsimp only
  rw [k]
  unfold State.reached State.recorded
  all_goals rfl

/-- A load of a shape register that nothing stops. -/
theorem perform_shld (r : AccessReady s c op) (k : op.kind = .shld n) :
    s.perform c.p op = .done (State.recorded (s.reached c.p op) c.p op (s.laneLocs c.p op false)) [] := by
  unfold State.perform
  dsimp only
  rw [r.addr]; dsimp only
  rw [r.kind]; dsimp only
  rw [r.page]; dsimp only
  rw [r.order]; dsimp only
  rw [k]
  unfold State.reached State.recorded
  all_goals rfl

/-- The read of a record that nothing stops. -/
theorem perform_tspawn (r : AccessReady s c op) (k : op.kind = .tspawn) : s.perform c.p op = .done (s.reached c.p op) [] := by
  unfold State.perform
  dsimp only
  rw [r.addr]; dsimp only
  rw [r.kind]; dsimp only
  rw [r.page]; dsimp only
  rw [r.order]; dsimp only
  rw [k]
  unfold State.reached
  all_goals rfl

/-- An access outside a pair that is performed at its issue: its result goes to the scoreboard, and the weave goes on. -/
theorem issue_done {t : State} {res : SMap (List Reg)} {len : Nat} {tags : SMap Word} {group : Bool} (r : AccessReady s c op)
    (k : op.kind ≠ .stp) (d : s.perform c.p op = .done t res) :
    c.issue s op len tags group = (t.sendResult op res).passAccess c.w op len (!group) false := by
  have a : s.performAny c.p op = (.done t res, none) := by
    unfold State.performAny
    split
    · contradiction
    · rw [d]
  unfold Ctx.issue
  rw [r.solo]
  show c.issueSolo s op len tags group = _
  unfold Ctx.issueSolo
  rw [r.log, a]
  dsimp only
  rw [r.window]
  rfl

end Sys2Proof.Laws
end

