-- ==== Sys2Proof/Laws/Crucible.lean ====
section
/-!
SUPPORT. Laws/Crucible.lean: what a word of a Crucible instance does once it meets no fate, and its accesses once nothing stops
them.
-/

namespace Sys2Proof.Laws

open Sys2Proof.Machine

/-- A well-formed word that consumes no poison runs its body. -/
theorem cruOp_ready {s : State} {k : Nat} {c : Crucible} {bad badOp : Bool} {reads : Crucible → List CReg}
    (body : State → Nat → Crucible → State) (r : CruReady s k c (reads c)) (hb : bad = false) (ho : badOp = false) :
    s.cruOp bad badOp reads body = .next (body s k c) := by
  unfold State.cruOp
  rw [r.turn]; dsimp only
  rw [r.inst]; dsimp only
  rw [if_neg (by simp [hb]), if_neg (by simp [ho]), if_neg (by rw [r.clean]; exact Bool.noConfusion)]

/-- A well-formed word that consumes poison halts the instance. -/
theorem cruOp_poisoned {s : State} {k : Nat} {c : Crucible} {bad badOp : Bool} {reads : Crucible → List CReg}
    (body : State → Nat → Crucible → State) (turn : s.turn = .crucible k) (inst : s.crucible? k = some c) (hb : bad = false)
    (ho : badOp = false) (hp : (reads c).any (·.poison) = true) :
    s.cruOp bad badOp reads body = .next (s.cruHalt k cPoison) := by
  unfold State.cruOp
  rw [turn]; dsimp only
  rw [inst]; dsimp only
  rw [if_neg (by simp [hb]), if_neg (by simp [ho]), if_pos hp]

/-- An access whose addresses are aligned and lead to places. -/
theorem cruAccess_reach {s : State} {k : Nat} {c : Crucible} {as : List (BitVec 64 × Nat)} {write : Bool} {ps : List Place}
    (body : State → List Place → State) (r : CruReach s c as write ps) :
    s.cruAccess k c as write body = body (s.cruReached c as) ps := by
  unfold State.cruAccess
  rw [if_neg (by simpa using fun a b m => r.aligned (a, b) m), r.places]
  refine (if_neg fun k => ?_).trans rfl
  obtain ⟨w, p⟩ := Bool.and_eq_true_iff.mp k
  rw [r.window (by simpa using w)] at p
  exact Bool.noConfusion p

end Sys2Proof.Laws
end

