-- ==== Sys2Proof/Laws/Exec.lean ====
section
/-!
SUPPORT. Laws/Exec.lean: exec of each instruction is its meaning.
-/

namespace Sys2Proof.Laws

open Sys2Proof.Machine

@[simp] theorem exec_iadd {n d a b l} (s : State) : exec (.iadd n d a b l) s = execIadd n d a b l s := rfl
@[simp] theorem exec_isub {n d a b l} (s : State) : exec (.isub n d a b l) s = execIsub n d a b l s := rfl
@[simp] theorem exec_imul {n d a b l} (s : State) : exec (.imul n d a b l) s = execImul n d a b l s := rfl
@[simp] theorem exec_imulhs {n d a b l} (s : State) : exec (.imulhs n d a b l) s = execImulhs n d a b l s := rfl
@[simp] theorem exec_imulhz {n d a b l} (s : State) : exec (.imulhz n d a b l) s = execImulhz n d a b l s := rfl
@[simp] theorem exec_imad {n d a b l} (s : State) : exec (.imad n d a b l) s = execImad n d a b l s := rfl
@[simp] theorem exec_imins {n d a b l} (s : State) : exec (.imins n d a b l) s = execImins n d a b l s := rfl
@[simp] theorem exec_imaxs {n d a b l} (s : State) : exec (.imaxs n d a b l) s = execImaxs n d a b l s := rfl
@[simp] theorem exec_iminz {n d a b l} (s : State) : exec (.iminz n d a b l) s = execIminz n d a b l s := rfl
@[simp] theorem exec_imaxz {n d a b l} (s : State) : exec (.imaxz n d a b l) s = execImaxz n d a b l s := rfl
@[simp] theorem exec_and {n d a b l} (s : State) : exec (.and n d a b l) s = execAnd n d a b l s := rfl
@[simp] theorem exec_or {n d a b l} (s : State) : exec (.or n d a b l) s = execOr n d a b l s := rfl
@[simp] theorem exec_xor {n d a b l} (s : State) : exec (.xor n d a b l) s = execXor n d a b l s := rfl
@[simp] theorem exec_shl {n d a b l} (s : State) : exec (.shl n d a b l) s = execShl n d a b l s := rfl
@[simp] theorem exec_shr {n d a b l} (s : State) : exec (.shr n d a b l) s = execShr n d a b l s := rfl
@[simp] theorem exec_sar {n d a b l} (s : State) : exec (.sar n d a b l) s = execSar n d a b l s := rfl
@[simp] theorem exec_iaddi {n d a i l} (s : State) : exec (.iaddi n d a i l) s = execIaddi n d a i l s := rfl
@[simp] theorem exec_shimShl {n d a s1 l} (s : State) : exec (.shimShl n d a s1 l) s = execShimShl n d a s1 l s := rfl
@[simp] theorem exec_shimShr {n d a s1 l} (s : State) : exec (.shimShr n d a s1 l) s = execShimShr n d a s1 l s := rfl
@[simp] theorem exec_shimSar {n d a s1 l} (s : State) : exec (.shimSar n d a s1 l) s = execShimSar n d a s1 l s := rfl
@[simp] theorem exec_icmps {c k a b l} (s : State) : exec (.icmps c k a b l) s = execIcmps c k a b l s := rfl
@[simp] theorem exec_icmpz {c k a b l} (s : State) : exec (.icmpz c k a b l) s = execIcmpz c k a b l s := rfl
@[simp] theorem exec_iadd64 {n d a b l} (s : State) : exec (.iadd64 n d a b l) s = execIadd64 n d a b l s := rfl
@[simp] theorem exec_uniMov {n d a l} (s : State) : exec (.uniMov n d a l) s = execUniMov n d a l s := rfl
@[simp] theorem exec_uniNot {n d a l} (s : State) : exec (.uniNot n d a l) s = execUniNot n d a l s := rfl
@[simp] theorem exec_uniNeg {n d a l} (s : State) : exec (.uniNeg n d a l) s = execUniNeg n d a l s := rfl
@[simp] theorem exec_uniAbs {n d a l} (s : State) : exec (.uniAbs n d a l) s = execUniAbs n d a l s := rfl
@[simp] theorem exec_uniPopc {n d a l} (s : State) : exec (.uniPopc n d a l) s = execUniPopc n d a l s := rfl
@[simp] theorem exec_uniClz {n d a l} (s : State) : exec (.uniClz n d a l) s = execUniClz n d a l s := rfl
@[simp] theorem exec_uniBrev {n d a l} (s : State) : exec (.uniBrev n d a l) s = execUniBrev n d a l s := rfl
@[simp] theorem exec_uniSext8 {n d a l} (s : State) : exec (.uniSext8 n d a l) s = execUniSext8 n d a l s := rfl
@[simp] theorem exec_uniSext16 {n d a l} (s : State) : exec (.uniSext16 n d a l) s = execUniSext16 n d a l s := rfl
@[simp] theorem exec_uniBswap {n d a l} (s : State) : exec (.uniBswap n d a l) s = execUniBswap n d a l s := rfl
@[simp] theorem exec_fadd {n d a b l} (s : State) : exec (.fadd n d a b l) s = execFadd n d a b l s := rfl
@[simp] theorem exec_fsub {n d a b l} (s : State) : exec (.fsub n d a b l) s = execFsub n d a b l s := rfl
@[simp] theorem exec_fmul {n d a b l} (s : State) : exec (.fmul n d a b l) s = execFmul n d a b l s := rfl
@[simp] theorem exec_ffma {n d a b l} (s : State) : exec (.ffma n d a b l) s = execFfma n d a b l s := rfl
@[simp] theorem exec_fmin {n d a b l} (s : State) : exec (.fmin n d a b l) s = execFmin n d a b l s := rfl
@[simp] theorem exec_fmax {n d a b l} (s : State) : exec (.fmax n d a b l) s = execFmax n d a b l s := rfl
@[simp] theorem exec_fcmp {c k a b l} (s : State) : exec (.fcmp c k a b l) s = execFcmp c k a b l s := rfl
@[simp] theorem exec_fabs {n d a l} (s : State) : exec (.fabs n d a l) s = execFabs n d a l s := rfl
@[simp] theorem exec_fneg {n d a l} (s : State) : exec (.fneg n d a l) s = execFneg n d a l s := rfl
@[simp] theorem exec_frcp {n d a l} (s : State) : exec (.frcp n d a l) s = execFrcp n d a l s := rfl
@[simp] theorem exec_frsq {n d a l} (s : State) : exec (.frsq n d a l) s = execFrsq n d a l s := rfl
@[simp] theorem exec_fsqrt {n d a l} (s : State) : exec (.fsqrt n d a l) s = execFsqrt n d a l s := rfl
@[simp] theorem exec_fexp2 {n d a l} (s : State) : exec (.fexp2 n d a l) s = execFexp2 n d a l s := rfl
@[simp] theorem exec_flog2 {n d a l} (s : State) : exec (.flog2 n d a l) s = execFlog2 n d a l s := rfl
@[simp] theorem exec_frint {n d a l} (s : State) : exec (.frint n d a l) s = execFrint n d a l s := rfl
@[simp] theorem exec_ffloor {n d a l} (s : State) : exec (.ffloor n d a l) s = execFfloor n d a l s := rfl
@[simp] theorem exec_fceil {n d a l} (s : State) : exec (.fceil n d a l) s = execFceil n d a l s := rfl
@[simp] theorem exec_hadd2 {n d a b l} (s : State) : exec (.hadd2 n d a b l) s = execHadd2 n d a b l s := rfl
@[simp] theorem exec_hfma2 {n d a b l} (s : State) : exec (.hfma2 n d a b l) s = execHfma2 n d a b l s := rfl
@[simp] theorem exec_badd2 {n d a b l} (s : State) : exec (.badd2 n d a b l) s = execBadd2 n d a b l s := rfl
@[simp] theorem exec_bfma2 {n d a b l} (s : State) : exec (.bfma2 n d a b l) s = execBfma2 n d a b l s := rfl
@[simp] theorem exec_cvt {n d a v l} (s : State) : exec (.cvt n d a v l) s = execCvt n d a v l s := rfl
@[simp] theorem exec_selp {n d a s1 k l} (s : State) : exec (.selp n d a s1 k l) s = execSelp n d a s1 k l s := rfl
@[simp] theorem exec_shfx {n d a b l} (s : State) : exec (.shfx n d a b l) s = execShfx n d a b l s := rfl
@[simp] theorem exec_shfn {n d a b l} (s : State) : exec (.shfn n d a b l) s = execShfn n d a b l s := rfl
@[simp] theorem exec_shfup {n d a b l} (s : State) : exec (.shfup n d a b l) s = execShfup n d a b l s := rfl
@[simp] theorem exec_shfdn {n d a b l} (s : State) : exec (.shfdn n d a b l) s = execShfdn n d a b l s := rfl
@[simp] theorem exec_xchb {n s1} (s : State) : exec (.xchb n s1) s = execXchb n s1 s := rfl
@[simp] theorem exec_voteBallot {n d k} (s : State) : exec (.voteBallot n d k) s = execVoteBallot n d k s := rfl
@[simp] theorem exec_voteAny {n d k} (s : State) : exec (.voteAny n d k) s = execVoteAny n d k s := rfl
@[simp] theorem exec_voteAll {n d k} (s : State) : exec (.voteAll n d k) s = execVoteAll n d k s := rfl
@[simp] theorem exec_rhad {n d a b l} (s : State) : exec (.rhad n d a b l) s = execRhad n d a b l s := rfl
@[simp] theorem exec_ld32 {r d a o} (s : State) : exec (.ld32 r d a o) s = execLd32 r d a o s := rfl
@[simp] theorem exec_ld64 {r d a o} (s : State) : exec (.ld64 r d a o) s = execLd64 r d a o s := rfl
@[simp] theorem exec_ld128 {r d a o} (s : State) : exec (.ld128 r d a o) s = execLd128 r d a o s := rfl
@[simp] theorem exec_ldnZ8 {r d a} (s : State) : exec (.ldnZ8 r d a) s = execLdnZ8 r d a s := rfl
@[simp] theorem exec_ldnS8 {r d a} (s : State) : exec (.ldnS8 r d a) s = execLdnS8 r d a s := rfl
@[simp] theorem exec_ldnZ16 {r d a} (s : State) : exec (.ldnZ16 r d a) s = execLdnZ16 r d a s := rfl
@[simp] theorem exec_ldnS16 {r d a} (s : State) : exec (.ldnS16 r d a) s = execLdnS16 r d a s := rfl
@[simp] theorem exec_st32 {r s1 a o l} (s : State) : exec (.st32 r s1 a o l) s = execSt32 r s1 a o l s := rfl
@[simp] theorem exec_st64 {r s1 a o l} (s : State) : exec (.st64 r s1 a o l) s = execSt64 r s1 a o l s := rfl
@[simp] theorem exec_st128 {r s1 a o} (s : State) : exec (.st128 r s1 a o) s = execSt128 r s1 a o s := rfl
@[simp] theorem exec_stnB8 {r s1 a l} (s : State) : exec (.stnB8 r s1 a l) s = execStnB8 r s1 a l s := rfl
@[simp] theorem exec_stnB16 {r s1 a l} (s : State) : exec (.stnB16 r s1 a l) s = execStnB16 r s1 a l s := rfl
@[simp] theorem exec_stp {s1 a b l} (s : State) : exec (.stp s1 a b l) s = execStp s1 a b l s := rfl
@[simp] theorem exec_atadd {c d a b l} (s : State) : exec (.atadd c d a b l) s = execAtadd c d a b l s := rfl
@[simp] theorem exec_atmaxs {c d a b l} (s : State) : exec (.atmaxs c d a b l) s = execAtmaxs c d a b l s := rfl
@[simp] theorem exec_atmaxz {c d a b l} (s : State) : exec (.atmaxz c d a b l) s = execAtmaxz c d a b l s := rfl
@[simp] theorem exec_atexch {c d a b l} (s : State) : exec (.atexch c d a b l) s = execAtexch c d a b l s := rfl
@[simp] theorem exec_atcas {c d a b l} (s : State) : exec (.atcas c d a b l) s = execAtcas c d a b l s := rfl
@[simp] theorem exec_qcmp {c k a b l} (s : State) : exec (.qcmp c k a b l) s = execQcmp c k a b l s := rfl
@[simp] theorem exec_qlogAnd {d a b} (s : State) : exec (.qlogAnd d a b) s = execQlogAnd d a b s := rfl
@[simp] theorem exec_qlogOr {d a b} (s : State) : exec (.qlogOr d a b) s = execQlogOr d a b s := rfl
@[simp] theorem exec_qlogNot {d a} (s : State) : exec (.qlogNot d a) s = execQlogNot d a s := rfl
@[simp] theorem exec_qblend {n d a k l} (s : State) : exec (.qblend n d a k l) s = execQblend n d a k l s := rfl
@[simp] theorem exec_qdraw {p a k l} (s : State) : exec (.qdraw p a k l) s = execQdraw p a k l s := rfl
@[simp] theorem exec_qgradRamp {n d a k l} (s : State) : exec (.qgradRamp n d a k l) s = execQgradRamp n d a k l s := rfl
@[simp] theorem exec_qgradLogi {n d a k l} (s : State) : exec (.qgradLogi n d a k l) s = execQgradLogi n d a k l s := rfl
@[simp] theorem exec_qgradAndp {n d a k l} (s : State) : exec (.qgradAndp n d a k l) s = execQgradAndp n d a k l s := rfl
@[simp] theorem exec_qgradOrp {n d a k l} (s : State) : exec (.qgradOrp n d a k l) s = execQgradOrp n d a k l s := rfl
@[simp] theorem exec_qgradNot {n d a k l} (s : State) : exec (.qgradNot n d a k l) s = execQgradNot n d a k l s := rfl
@[simp] theorem exec_qgradBlendq {n d a k l} (s : State) : exec (.qgradBlendq n d a k l) s = execQgradBlendq n d a k l s := rfl
@[simp] theorem exec_qxferOut {d k} (s : State) : exec (.qxferOut d k) s = execQxferOut d k s := rfl
@[simp] theorem exec_qxferIn {k a l} (s : State) : exec (.qxferIn k a l) s = execQxferIn k a l s := rfl
@[simp] theorem exec_tagRead {n d a l} (s : State) : exec (.tagRead n d a l) s = execTagRead n d a l s := rfl
@[simp] theorem exec_tagWrite {n d a l} (s : State) : exec (.tagWrite n d a l) s = execTagWrite n d a l s := rfl
@[simp] theorem exec_tagMark {n d} (s : State) : exec (.tagMark n d) s = execTagMark n d s := rfl
@[simp] theorem exec_tagCopy {n d a l} (s : State) : exec (.tagCopy n d a l) s = execTagCopy n d a l s := rfl
@[simp] theorem exec_br {o} (s : State) : exec (.br o) s = execBr o s := rfl
@[simp] theorem exec_brp {k s1 o} (s : State) : exec (.brp k s1 o) s = execBrp k s1 o s := rfl
@[simp] theorem exec_bru {a o} (s : State) : exec (.bru a o) s = execBru a o s := rfl
@[simp] theorem exec_call {o} (s : State) : exec (.call o) s = execCall o s := rfl
@[simp] theorem exec_ret (s : State) : exec .ret s = execRet s := rfl
@[simp] theorem exec_brx {a l} (s : State) : exec (.brx a l) s = execBrx a l s := rfl
@[simp] theorem exec_fend (s : State) : exec .fend s = execFend s := rfl
@[simp] theorem exec_fspawn {d a l} (s : State) : exec (.fspawn d a l) s = execFspawn d a l s := rfl
@[simp] theorem exec_yield (s : State) : exec .yield s = execYield s := rfl
@[simp] theorem exec_guard {s1 k n} (s : State) : exec (.guard s1 k n) s = execGuard s1 k n s := rfl
@[simp] theorem exec_memb {a l} (s : State) : exec (.memb a l) s = execMemb a l s := rfl
@[simp] theorem exec_jarm {n} (s : State) : exec (.jarm n) s = execJarm n s := rfl
@[simp] theorem exec_join {n a l} (s : State) : exec (.join n a l) s = execJoin n a l s := rfl
@[simp] theorem exec_jget {d n w} (s : State) : exec (.jget d n w) s = execJget d n w s := rfl
@[simp] theorem exec_cjoin {a l} (s : State) : exec (.cjoin a l) s = execCjoin a l s := rfl
@[simp] theorem exec_cleave (s : State) : exec .cleave s = execCleave s := rfl
@[simp] theorem exec_bar (s : State) : exec .bar s = execBar s := rfl
@[simp] theorem exec_pbarr {a} (s : State) : exec (.pbarr a) s = execPbarr a s := rfl
@[simp] theorem exec_pbwait {a p} (s : State) : exec (.pbwait a p) s = execPbwait a p s := rfl
@[simp] theorem exec_fork {a l} (s : State) : exec (.fork a l) s = execFork a l s := rfl
@[simp] theorem exec_rdv (s : State) : exec .rdv s = execRdv s := rfl
@[simp] theorem exec_rnext {d} (s : State) : exec (.rnext d) s = execRnext d s := rfl
@[simp] theorem exec_epush {a b} (s : State) : exec (.epush a b) s = execEpush a b s := rfl
@[simp] theorem exec_epop {d a} (s : State) : exec (.epop d a) s = execEpop d a s := rfl
@[simp] theorem exec_tspawn {d a} (s : State) : exec (.tspawn d a) s = execTspawn d a s := rfl
@[simp] theorem exec_tsig {a b l} (s : State) : exec (.tsig a b l) s = execTsig a b l s := rfl
@[simp] theorem exec_ckpt (s : State) : exec .ckpt s = execCkpt s := rfl
@[simp] theorem exec_gld {r d a o} (s : State) : exec (.gld r d a o) s = execGld r d a o s := rfl
@[simp] theorem exec_gst {r s1 a o l} (s : State) : exec (.gst r s1 a o l) s = execGst r s1 a o l s := rfl
@[simp] theorem exec_fencePour (s : State) : exec .fencePour s = execFencePour s := rfl
@[simp] theorem exec_fenceDev (s : State) : exec .fenceDev s = execFenceDev s := rfl
@[simp] theorem exec_rcopy {d a} (s : State) : exec (.rcopy d a) s = execRcopy d a s := rfl
@[simp] theorem exec_rpat {d a} (s : State) : exec (.rpat d a) s = execRpat d a s := rfl
@[simp] theorem exec_put {d a} (s : State) : exec (.put d a) s = execPut d a s := rfl
@[simp] theorem exec_wwait {a b l} (s : State) : exec (.wwait a b l) s = execWwait a b l s := rfl
@[simp] theorem exec_shld {n a} (s : State) : exec (.shld n a) s = execShld n a s := rfl
@[simp] theorem exec_shst {n a} (s : State) : exec (.shst n a) s = execShst n a s := rfl
@[simp] theorem exec_shset {n a b l} (s : State) : exec (.shset n a b l) s = execShset n a b l s := rfl
@[simp] theorem exec_shget {d n b l} (s : State) : exec (.shget d n b l) s = execShget d n b l s := rfl
@[simp] theorem exec_mldw {a b l} (s : State) : exec (.mldw a b l) s = execMldw a b l s := rfl
@[simp] theorem exec_mmul {d a b l} (s : State) : exec (.mmul d a b l) s = execMmul d a b l s := rfl
@[simp] theorem exec_mmulResume {d a b l} (s : State) : exec (.mmulResume d a b l) s = execMmulResume d a b l s := rfl
@[simp] theorem exec_mdrain {d a} (s : State) : exec (.mdrain d a) s = execMdrain d a s := rfl
@[simp] theorem exec_mzero {d l} (s : State) : exec (.mzero d l) s = execMzero d l s := rfl
@[simp] theorem exec_mspill {d a} (s : State) : exec (.mspill d a) s = execMspill d a s := rfl
@[simp] theorem exec_mfill {d a} (s : State) : exec (.mfill d a) s = execMfill d a s := rfl
@[simp] theorem exec_trap {c} (s : State) : exec (.trap c) s = execTrap c s := rfl
@[simp] theorem exec_hret (s : State) : exec .hret s = execHret s := rfl
@[simp] theorem exec_get {d r} (s : State) : exec (.get d r) s = execGet d r s := rfl
@[simp] theorem exec_set {a r l} (s : State) : exec (.set a r l) s = execSet a r l s := rfl
@[simp] theorem exec_bkpt {c} (s : State) : exec (.bkpt c) s = execBkpt c s := rfl
@[simp] theorem exec_nop (s : State) : exec .nop s = execNop s := rfl
@[simp] theorem exec_halt (s : State) : exec .halt s = execHalt s := rfl
@[simp] theorem exec_gadd {n d a b l} (s : State) : exec (.gadd n d a b l) s = execGadd n d a b l s := rfl
@[simp] theorem exec_gsub {n d a b l} (s : State) : exec (.gsub n d a b l) s = execGsub n d a b l s := rfl
@[simp] theorem exec_gmul {n d a b l} (s : State) : exec (.gmul n d a b l) s = execGmul n d a b l s := rfl
@[simp] theorem exec_gand {n d a b l} (s : State) : exec (.gand n d a b l) s = execGand n d a b l s := rfl
@[simp] theorem exec_gor {n d a b l} (s : State) : exec (.gor n d a b l) s = execGor n d a b l s := rfl
@[simp] theorem exec_gxor {n d a b l} (s : State) : exec (.gxor n d a b l) s = execGxor n d a b l s := rfl
@[simp] theorem exec_gshl {n d a b l} (s : State) : exec (.gshl n d a b l) s = execGshl n d a b l s := rfl
@[simp] theorem exec_gshr {n d a b l} (s : State) : exec (.gshr n d a b l) s = execGshr n d a b l s := rfl
@[simp] theorem exec_gsar {n d a b l} (s : State) : exec (.gsar n d a b l) s = execGsar n d a b l s := rfl
@[simp] theorem exec_gaddi {n d a i l} (s : State) : exec (.gaddi n d a i l) s = execGaddi n d a i l s := rfl
@[simp] theorem exec_gcmps {c k a b l} (s : State) : exec (.gcmps c k a b l) s = execGcmps c k a b l s := rfl
@[simp] theorem exec_gcmpz {c k a b l} (s : State) : exec (.gcmpz c k a b l) s = execGcmpz c k a b l s := rfl
@[simp] theorem exec_gadd64 {n d a b l} (s : State) : exec (.gadd64 n d a b l) s = execGadd64 n d a b l s := rfl
@[simp] theorem exec_cldy {d a b s1 f} (s : State) : exec (.cldy d a b s1 f) s = execCldy d a b s1 f s := rfl
@[simp] theorem exec_csty {d a b m s1 f} (s : State) : exec (.csty d a b m s1 f) s = execCsty d a b m s1 f s := rfl
@[simp] theorem exec_cldc {d a i} (s : State) : exec (.cldc d a i) s = execCldc d a i s := rfl
@[simp] theorem exec_cmovc {d a u} (s : State) : exec (.cmovc d a u) s = execCmovc d a u s := rfl
@[simp] theorem exec_caddc {d a b s1} (s : State) : exec (.caddc d a b s1) s = execCaddc d a b s1 s := rfl
@[simp] theorem exec_csubc {d a b} (s : State) : exec (.csubc d a b) s = execCsubc d a b s := rfl
@[simp] theorem exec_cmulc {d a b} (s : State) : exec (.cmulc d a b) s = execCmulc d a b s := rfl
@[simp] theorem exec_cbnz {a o} (s : State) : exec (.cbnz a o) s = execCbnz a o s := rfl
@[simp] theorem exec_cjmp {o} (s : State) : exec (.cjmp o) s = execCjmp o s := rfl
@[simp] theorem exec_cfma {d a b} (s : State) : exec (.cfma d a b) s = execCfma d a b s := rfl
@[simp] theorem exec_cmul {d a b} (s : State) : exec (.cmul d a b) s = execCmul d a b s := rfl
@[simp] theorem exec_cadd {d a b} (s : State) : exec (.cadd d a b) s = execCadd d a b s := rfl
@[simp] theorem exec_csub {d a b} (s : State) : exec (.csub d a b) s = execCsub d a b s := rfl
@[simp] theorem exec_cmax {d a b} (s : State) : exec (.cmax d a b) s = execCmax d a b s := rfl
@[simp] theorem exec_cmin {d a b} (s : State) : exec (.cmin d a b) s = execCmin d a b s := rfl
@[simp] theorem exec_crsq {d a} (s : State) : exec (.crsq d a) s = execCrsq d a s := rfl
@[simp] theorem exec_csqrt {d a} (s : State) : exec (.csqrt d a) s = execCsqrt d a s := rfl
@[simp] theorem exec_csplat {d a} (s : State) : exec (.csplat d a) s = execCsplat d a s := rfl
@[simp] theorem exec_ccvt {d a b m f} (s : State) : exec (.ccvt d a b m f) s = execCcvt d a b m f s := rfl
@[simp] theorem exec_cpair {d a b m f} (s : State) : exec (.cpair d a b m f) s = execCpair d a b m f s := rfl
@[simp] theorem exec_cepop {d a} (s : State) : exec (.cepop d a) s = execCepop d a s := rfl
@[simp] theorem exec_ctsig {a b} (s : State) : exec (.ctsig a b) s = execCtsig a b s := rfl
@[simp] theorem exec_chalt (s : State) : exec .chalt s = execChalt s := rfl
@[simp] theorem exec_cfence (s : State) : exec .cfence s = execCfence s := rfl
@[simp] theorem exec_recastIssue {core quad} (s : State) : exec (.recastIssue core quad) s = execRecastIssue core quad s := rfl
@[simp] theorem exec_weaveSlotGrant {core quad} (s : State) : exec (.weaveSlotGrant core quad) s = execWeaveSlotGrant core quad s := rfl
@[simp] theorem exec_rejoinTimeout {weave j} (s : State) : exec (.rejoinTimeout weave j) s = execRejoinTimeout weave j s := rfl
@[simp] theorem exec_placement {part} (s : State) : exec (.placement part) s = execPlacement part s := rfl
@[simp] theorem exec_runnerCommandStart {core} (s : State) : exec (.runnerCommandStart core) s = execRunnerCommandStart core s := rfl
@[simp] theorem exec_copyCompletion {cmd} (s : State) : exec (.copyCompletion cmd) s = execCopyCompletion cmd s := rfl
@[simp] theorem exec_putArrival {part p} (s : State) : exec (.putArrival part p) s = execPutArrival part p s := rfl
@[simp] theorem exec_putAcknowledgement {cmd ok} (s : State) : exec (.putAcknowledgement cmd ok) s = execPutAcknowledgement cmd ok s := rfl
@[simp] theorem exec_loadResultArrival {id} (s : State) : exec (.loadResultArrival id) s = execLoadResultArrival id s := rfl
@[simp] theorem exec_mldwCompletion {core} (s : State) : exec (.mldwCompletion core) s = execMldwCompletion core s := rfl
@[simp] theorem exec_mmulCompletion {core} (s : State) : exec (.mmulCompletion core) s = execMmulCompletion core s := rfl
@[simp] theorem exec_mmulErrorCompletion {core} (s : State) : exec (.mmulErrorCompletion core) s = execMmulErrorCompletion core s := rfl
@[simp] theorem exec_mdrainCompletion {core} (s : State) : exec (.mdrainCompletion core) s = execMdrainCompletion core s := rfl
@[simp] theorem exec_mdrainErrorCompletion {core} (s : State) : exec (.mdrainErrorCompletion core) s = execMdrainErrorCompletion core s := rfl
@[simp] theorem exec_refreshWindowOpen {group} (s : State) : exec (.refreshWindowOpen group) s = execRefreshWindowOpen group s := rfl
@[simp] theorem exec_refreshWindowClose {group} (s : State) : exec (.refreshWindowClose group) s = execRefreshWindowClose group s := rfl
@[simp] theorem exec_appendPortCommit {part pf queue off data} (s : State) : exec (.appendPortCommit part pf queue off data) s = execAppendPortCommit part pf queue off data s := rfl
@[simp] theorem exec_qcfgWrite {part queue v} (s : State) : exec (.qcfgWrite part queue v) s = execQcfgWrite part queue v s := rfl
@[simp] theorem exec_hostSignal {part v} (s : State) : exec (.hostSignal part v) s = execHostSignal part v s := rfl
@[simp] theorem exec_weightStoreCopy {part v} (s : State) : exec (.weightStoreCopy part v) s = execWeightStoreCopy part v s := rfl
@[simp] theorem exec_weightStoreCopyDone {part} (s : State) : exec (.weightStoreCopyDone part) s = execWeightStoreCopyDone part s := rfl
@[simp] theorem exec_bindWrite {vf v} (s : State) : exec (.bindWrite vf v) s = execBindWrite vf v s := rfl
@[simp] theorem exec_functionLevelReset {vf} (s : State) : exec (.functionLevelReset vf) s = execFunctionLevelReset vf s := rfl
@[simp] theorem exec_invalidation {part v} (s : State) : exec (.invalidation part v) s = execInvalidation part v s := rfl
@[simp] theorem exec_invalidationDone {part} (s : State) : exec (.invalidationDone part) s = execInvalidationDone part s := rfl
@[simp] theorem exec_winregWrite {part v} (s : State) : exec (.winregWrite part v) s = execWinregWrite part v s := rfl
@[simp] theorem exec_sndregWrite {part v} (s : State) : exec (.sndregWrite part v) s = execSndregWrite part v s := rfl
@[simp] theorem exec_faultAnswer {part v} (s : State) : exec (.faultAnswer part v) s = execFaultAnswer part v s := rfl
@[simp] theorem exec_purgeMessageReceived {port rtag} (s : State) : exec (.purgeMessageReceived port rtag) s = execPurgeMessageReceived port rtag s := rfl
@[simp] theorem exec_contextRun {part} (s : State) : exec (.contextRun part) s = execContextRun part s := rfl
@[simp] theorem exec_contextRestoreDone {part} (s : State) : exec (.contextRestoreDone part) s = execContextRestoreDone part s := rfl
@[simp] theorem exec_contextPreempt {part} (s : State) : exec (.contextPreempt part) s = execContextPreempt part s := rfl
@[simp] theorem exec_contextSaved {part} (s : State) : exec (.contextSaved part) s = execContextSaved part s := rfl
@[simp] theorem exec_injectionArm {v} (s : State) : exec (.injectionArm v) s = execInjectionArm v s := rfl
@[simp] theorem exec_resyncComplete {unit} (s : State) : exec (.resyncComplete unit) s = execResyncComplete unit s := rfl
@[simp] theorem exec_powerOn (s : State) : exec .powerOn s = execPowerOn s := rfl
@[simp] theorem exec_conventionalReset (s : State) : exec .conventionalReset s = execConventionalReset s := rfl
@[simp] theorem exec_startctlWrite {v} (s : State) : exec (.startctlWrite v) s = execStartctlWrite v s := rfl
@[simp] theorem exec_startComplete {failed} (s : State) : exec (.startComplete failed) s = execStartComplete failed s := rfl
@[simp] theorem exec_dbgStop {part cmd} (s : State) : exec (.dbgStop part cmd) s = execDbgStop part cmd s := rfl
@[simp] theorem exec_dbgStep {part cmd} (s : State) : exec (.dbgStep part cmd) s = execDbgStep part cmd s := rfl
@[simp] theorem exec_stepEnd {pour} (s : State) : exec (.stepEnd pour) s = execStepEnd pour s := rfl
@[simp] theorem exec_stepLimitExpiry {pour} (s : State) : exec (.stepLimitExpiry pour) s = execStepLimitExpiry pour s := rfl
@[simp] theorem exec_dbgRun {part cmd} (s : State) : exec (.dbgRun part cmd) s = execDbgRun part cmd s := rfl
@[simp] theorem exec_dbgRegrd {part cmd} (s : State) : exec (.dbgRegrd part cmd) s = execDbgRegrd part cmd s := rfl
@[simp] theorem exec_dbgRegwr {part cmd} (s : State) : exec (.dbgRegwr part cmd) s = execDbgRegwr part cmd s := rfl
@[simp] theorem exec_dbgRegwrf {part cmd} (s : State) : exec (.dbgRegwrf part cmd) s = execDbgRegwrf part cmd s := rfl
@[simp] theorem exec_dbgIllegal {part cmd} (s : State) : exec (.dbgIllegal part cmd) s = execDbgIllegal part cmd s := rfl
@[simp] theorem exec_assayAbandon {part} (s : State) : exec (.assayAbandon part) s = execAssayAbandon part s := rfl
@[simp] theorem exec_registerWrite {t off data} (s : State) : exec (.registerWrite t off data) s = execRegisterWrite t off data s := rfl
@[simp] theorem exec_mirrorCopyDone {core} (s : State) : exec (.mirrorCopyDone core) s = execMirrorCopyDone core s := rfl
@[simp] theorem exec_atomicResultArrival {id} (s : State) : exec (.atomicResultArrival id) s = execAtomicResultArrival id s := rfl
@[simp] theorem exec_getMeasurements (s : State) : exec .getMeasurements s = execGetMeasurements s := rfl
@[simp] theorem exec_getChallenge {nonce} (s : State) : exec (.getChallenge nonce) s = execGetChallenge nonce s := rfl
@[simp] theorem exec_unlock {sig} (s : State) : exec (.unlock sig) s = execUnlock sig s := rfl
@[simp] theorem exec_firmwareUpdate {img} (s : State) : exec (.firmwareUpdate img) s = execFirmwareUpdate img s := rfl
@[simp] theorem exec_activateFirmware (s : State) : exec .activateFirmware s = execActivateFirmware s := rfl
@[simp] theorem exec_pldmSensorRead {sensor} (s : State) : exec (.pldmSensorRead sensor) s = execPldmSensorRead sensor s := rfl
@[simp] theorem exec_sensorPoll {r} (s : State) : exec (.sensorPoll r) s = execSensorPoll r s := rfl
@[simp] theorem exec_thermalRecoveryStart {hottest} (s : State) : exec (.thermalRecoveryStart hottest) s = execThermalRecoveryStart hottest s := rfl
@[simp] theorem exec_thermalFatal (s : State) : exec .thermalFatal s = execThermalFatal s := rfl
@[simp] theorem exec_managementPortStartRequest {cold} (s : State) : exec (.managementPortStartRequest cold) s = execManagementPortStartRequest cold s := rfl
@[simp] theorem exec_firmwareDebugCommand {c} (s : State) : exec (.firmwareDebugCommand c) s = execFirmwareDebugCommand c s := rfl
@[simp] theorem exec_suspopRead {width} (s : State) : exec (.suspopRead width) s = execSuspopRead width s := rfl
@[simp] theorem exec_escpopRead {width} (s : State) : exec (.escpopRead width) s = execEscpopRead width s := rfl
@[simp] theorem exec_portsWrite {part v} (s : State) : exec (.portsWrite part v) s = execPortsWrite part v s := rfl
@[simp] theorem exec_keysetWrite {v} (s : State) : exec (.keysetWrite v) s = execKeysetWrite v s := rfl
@[simp] theorem exec_assayReplay {part rcore sigr} (s : State) : exec (.assayReplay part rcore sigr) s = execAssayReplay part rcore sigr s := rfl
@[simp] theorem exec_profileSample {core seen served queued} (s : State) : exec (.profileSample core seen served queued) s = execProfileSample core seen served queued s := rfl
@[simp] theorem exec_fabricReadRequest {part win off len} (s : State) : exec (.fabricReadRequest part win off len) s = execFabricReadRequest part win off len s := rfl
@[simp] theorem exec_voteDissent {unit copies} (s : State) : exec (.voteDissent unit copies) s = execVoteDissent unit copies s := rfl
@[simp] theorem exec_probationEnd {unit} (s : State) : exec (.probationEnd unit) s = execProbationEnd unit s := rfl

end Sys2Proof.Laws
end

