-- ==== Sys2Proof/Laws/Flow.lean ====
section
/-!
SUPPORT. Laws/Flow.lean: what a word does once it meets no fate and waits for nothing, once for every shape of word.
-/

namespace Sys2Proof.Laws

open Sys2Proof.Machine

variable {s : State} {c : Ctx} {h : Form}

/-- A word that has nothing to wait for runs its body at once. -/
theorem tokenGate_free {w : Nat} {token : Bool} {body : State → State} (k : s.tokenFree w token) :
    s.tokenGate w token body = body s := by
  unfold State.tokenGate
  cases token
  · rfl
  · rw [if_neg (by simp), (k rfl).1, (k rfl).2]
    rfl

/-- Whether D is read or not, a word that reads no token where it is reads none. -/
theorem tokenFree_acc {acc : Bool} {extra : List (BitVec 8 × Nat)} {w : Nat} (k : s.tokenFree w (s.laneToken c h true extra)) :
    s.tokenFree w (s.laneToken c h acc extra) := by
  cases acc
  · refine fun t => k ?_
    unfold State.laneToken at t ⊢
    rcases hd : h.dst with - | ⟨d, n⟩
    · rw [hd] at t
      exact t
    · rw [hd] at t
      simp only [Bool.or_eq_true, Bool.false_and, Bool.false_eq_true, or_false] at t ⊢
      tauto
  · exact k

/-- Whether D is read or not, a word that waits for no register where it is waits for none. -/
theorem laneWaits_acc {acc : Bool} {extra : List (BitVec 8 × Nat)} (k : s.laneWaits c h true extra = false) :
    s.laneWaits c h acc extra = false := by
  unfold State.laneWaits at k ⊢
  cases acc
  · simp only [Bool.or_eq_false_iff, Bool.false_and] at k ⊢
    tauto
  · exact k

/-- A ready lane word runs its body over the operands read. -/
theorem laneOp_ready {extra : List (BitVec 8 × Nat)} (acc : Bool) (body : State → Ctx → SMap LaneIn → State)
    (r : LaneReady s c h extra) :
    s.laneOp h acc extra body =
      .next (body (s.laneRead c h acc extra) c ((s.laneRead c h acc extra).inputs c h)) := by
  have hw : s.laneWaits c h acc extra = false := laneWaits_acc r.waits
  unfold State.laneOp
  rw [r.turn]
  show Host.Outcome.next (s.laneWeave c.w h acc extra body) = _
  unfold State.laneWeave
  rw [r.ctx]
  simp only [r.some, r.fate, hw, Bool.false_eq_true, if_false]
  rw [tokenGate_free (tokenFree_acc r.token)]

/-- A lane word that meets a fate traps with it. -/
theorem laneOp_fate {extra : List (BitVec 8 × Nat)} {acc : Bool} {body : State → Ctx → SMap LaneIn → State} {i : TrapInfo}
    (turn : s.turn = .weave c.w) (ctx : s.ctxOf c.w = some c) (some : c.acts.isEmpty = false) (fate : c.fate h false = Option.some i) :
    s.laneOp h acc extra body = .next (s.trapWeave c.w i) := by
  unfold State.laneOp
  rw [turn]
  show Host.Outcome.next (s.laneWeave c.w h acc extra body) = _
  unfold State.laneWeave
  rw [ctx]
  simp only [some, fate, Bool.false_eq_true, if_false]

/-- A lane word on an engine is an illegal instruction. -/
theorem laneOp_engine {extra : List (BitVec 8 × Nat)} {acc : Bool} {body : State → Ctx → SMap LaneIn → State} {e : Nat}
    (turn : s.turn = .engine e) : s.laneOp h acc extra body = .next (s.trapEngine e cIllegal) := by
  unfold State.laneOp
  rw [turn]

/-- A ready group word runs its body over what the lowest active lane reads. -/
theorem groupOp_ready {l0 : Nat × Fibre} (fib : State → Ctx → LaneIn → State) (eng : State → Nat → EngIn → State)
    (r : GroupReady s c h l0) :
    s.groupOp h fib eng = .next (fib (s.groupRead c h l0) c (s.leadIn c h l0)) := by
  unfold State.groupOp
  rw [r.turn]
  show Host.Outcome.next (s.groupWeave c.w h fib) = _
  unfold State.groupWeave
  rw [r.ctx]
  simp only [r.lead, r.fate, r.waits, Bool.false_eq_true, if_false]
  rw [tokenGate_free r.token]
  rfl

/-- A ready engine word runs its body. -/
theorem groupOp_eng {e : Nat} {v : Engine} {p : Pour} (fib : State → Ctx → LaneIn → State)
    (eng : State → Nat → EngIn → State) (r : EngReady s e v p h) :
    s.groupOp h fib eng = .next (eng s e (engIn v p h)) := by
  have hb := Bool.or_eq_false_iff.mp r.word
  have hn : ¬ h.nw = 1#1 := of_decide_eq_false hb.2
  unfold State.groupOp
  rw [r.turn]
  show Host.Outcome.next (s.groupEngine e h _) = _
  unfold State.groupEngine
  rw [r.eng]
  simp only [r.pour, r.runs, hb.1, hn, r.ops, Bool.not_true, Bool.or_false, Bool.false_eq_true, if_false, decide_false]
  refine congrArg Host.Outcome.next ((if_neg fun k => ?_).trans ((if_neg fun k => ?_).trans ?_))
  · exact Bool.noConfusion ((congrArg Bool.not r.kind).symm.trans k)
  · exact Bool.noConfusion (r.waits.symm.trans k)
  · rw [r.token]
    rfl

end Sys2Proof.Laws
end

