-- ==== Sys2Proof/Laws/Lane.lean ====
section
/-!
SUPPORT. Laws/Lane.lean: what the shared operations of the lane words do once a word completes: the integer and floating results,
the compares, their traps and the poison that they consume.
-/

namespace Sys2Proof.Laws

open Sys2Proof.Machine

variable {s : State} {c : Ctx} {h : Form}

/-- The operands of a lane are those that its fibre reads. -/
theorem inputs_of_mem {e : Nat × LaneIn} (m : e ∈ s.inputs c h) : e.2 = laneIn c h e.2.f := by
  obtain ⟨f, -, rfl⟩ := List.mem_map.mp m
  rfl

/-- The prior tag of a one-word destination is that of the word read from it. -/
theorem oldTags_one {f : Fibre} {d : BitVec 8} (hd : h.dst = some (d, 1)) :
    (oldTags f h).getD 0 Config.noTag = (laneIn c h f).d0.tag := by
  simp only [oldTags, laneIn, hd, LaneIn.d0, Fibre.regsAt, List.range_one, List.map_cons, List.map_nil, head1]
  split <;> rfl

/-- An integer result's tag: `here`, or the prior one under OFF. -/
theorem tagpick_plain (m : BitVec 2) (t o : Tag) : tagpick m t false [] o = moveTag m t o := by
  unfold tagpick moveTag
  split
  · rfl
  · simp

/-- Results of the lanes agree where they agree on what fibres read. -/
theorem laneEnd_congr {acc : Bool} {extra : List (BitVec 8 × Nat)} {f g : LaneIn → List Reg}
    (k : ∀ x : Fibre, f (laneIn c h x) = g (laneIn c h x)) : s.laneEnd c h acc extra f = s.laneEnd c h acc extra g := by
  unfold State.laneEnd State.laneIns
  refine congrArg (c.finish h _) (List.map_congr_left fun e m => ?_)
  rw [inputs_of_mem m, k]

/-- A ready integer word of two operands. -/
theorem intOp_ready {d : BitVec 8} (hd : h.dst = some (d, 1)) (f : Word → Word → Word) (r : LaneReady s c h []) :
    s.intOp h f = .next (s.laneEnd c h false [] fun x =>
      [{ val := f x.a0.val x.b0.val, tag := moveTag x.f.tagmode c.here x.d0.tag, poison := poi (x.a ++ x.b) }]) := by
  refine (laneOp_ready false _ r).trans (congrArg Host.Outcome.next ?_)
  refine congrArg (c.finish h _) (List.map_congr_left fun e m => ?_)
  rw [inputs_of_mem m]
  unfold intWord
  rw [oldTags_one hd (c := c), tagpick_plain]
  rfl

/-- A ready integer word of one operand. -/
theorem intUni_ready {d : BitVec 8} (hd : h.dst = some (d, 1)) (f : Word → Word) (r : LaneReady s c h []) :
    s.intUni h f = .next (s.laneEnd c h false [] fun x =>
      [{ val := f x.a0.val, tag := moveTag x.f.tagmode c.here x.d0.tag, poison := poi x.a }]) := by
  refine (laneOp_ready false _ r).trans (congrArg Host.Outcome.next ?_)
  refine congrArg (c.finish h _) (List.map_congr_left fun e m => ?_)
  rw [inputs_of_mem m]
  unfold intWord
  rw [oldTags_one hd (c := c), tagpick_plain]
  rfl

/-- A ready compare of clean words writes its predicate in every active lane. -/
theorem cmpOp_ready (k : BitVec 4) (g : Word → Word → Bool) (r : LaneReady s c h [])
    (clean : ((s.laneIns c h false []).any fun x => poi (x.2.a ++ x.2.b)) = false) :
    s.cmpOp h k g = .next (s.laneMod c h false [] fun x f => f.setP k.toNat (g x.a0.val x.b0.val)) := by
  refine (laneOp_ready false _ r).trans (congrArg Host.Outcome.next ?_)
  refine (if_neg ?_).trans rfl
  exact fun t => Bool.noConfusion (clean.symm.trans t)

/-- A ready compare of a poisoned word is consumed. -/
theorem cmpOp_poisoned (k : BitVec 4) (g : Word → Word → Bool) (r : LaneReady s c h [])
    (bad : ((s.laneIns c h false []).any fun x => poi (x.2.a ++ x.2.b)) = true) :
    s.cmpOp h k g = .next (c.consume (s.laneRead c h false [])) :=
  (laneOp_ready false _ r).trans (congrArg Host.Outcome.next (if_pos bad))

/-- No lane meets a flag that traps. -/
theorem fpGate_clear {u : State} {ins : SMap LaneIn} {fl : LaneIn → Flags} {k : State → State} (n : NoFpTrap ins fl) :
    c.fpGate h u ins fl k =
      k (ins.foldl (fun t e => t.modFibre e.1 fun f => { f with fpmode := f.fpmode ||| (((fl e.2).zeroExtend 32) <<< 8) }) u) := by
  unfold Ctx.fpGate
  refine (if_pos ?_).trans rfl
  rw [List.isEmpty_iff, List.filter_eq_nil_iff]
  intro e m t
  exact bne_iff_ne.mp t (n e m)

/-- Some lane meets a flag that traps. -/
theorem fpGate_trap {u : State} {ins : SMap LaneIn} {fl : LaneIn → Flags} {k : State → State}
    (n : ∃ x ∈ ins, fl x.2 &&& x.2.f.fpmode.extractLsb' 3 5 ≠ 0#5) :
    c.fpGate h u ins fl k = c.trap u h ins cFp ((ins.filter fun e => fl e.2 &&& e.2.f.fpmode.extractLsb' 3 5 != 0#5).map (·.2.f.lane))
      (ins.map fun e => (e.2.f.lane, (fl e.2 &&& e.2.f.fpmode.extractLsb' 3 5).zeroExtend 64)) := by
  unfold Ctx.fpGate
  refine (if_neg ?_).trans rfl
  rw [List.isEmpty_iff, List.filter_eq_nil_iff]
  obtain ⟨e, m, t⟩ := n
  exact fun k => k e m (bne_iff_ne.mpr t)

/-- A ready floating word whose lanes meet no trap. -/
theorem fpOp_ready {d : BitVec 8} (hd : h.dst = some (d, 1)) (acc : Bool) (sp : Word → Bool) (g : LaneIn → Word × Flags)
    (read : LaneIn → List Reg) (r : LaneReady s c h []) (n : NoFpTrap (s.laneIns c h acc []) fun x => (g x).2) :
    s.fpOp h acc sp g read = .next (s.laneBoth c h acc []
      (fun x f => { f with fpmode := f.fpmode ||| (((g x).2.zeroExtend 32) <<< 8) })
      fun x => [{ val := (g x).1, poison := poi (read x),
                  tag := tagpick x.f.tagmode c.here (sp (g x).1) (tagOps sp (read x)) x.d0.tag }]) := by
  refine (laneOp_ready acc _ r).trans (congrArg Host.Outcome.next ((fpGate_clear n).trans ?_))
  refine congrArg (c.finish h _) (List.map_congr_left fun e m => ?_)
  rw [inputs_of_mem m]
  unfold fpWord
  rw [oldTags_one hd (c := c)]
  rfl

/-- A ready floating word that meets an enabled flag. -/
theorem fpOp_trap {acc : Bool} {sp : Word → Bool} {g : LaneIn → Word × Flags} {read : LaneIn → List Reg} (r : LaneReady s c h [])
    (n : ∃ x ∈ s.laneIns c h acc [], (g x.2).2 &&& x.2.f.fpmode.extractLsb' 3 5 ≠ 0#5) :
    s.fpOp h acc sp g read = .next (c.trap (s.laneRead c h acc []) h (s.laneIns c h acc []) cFp
      (((s.laneIns c h acc []).filter fun e => (g e.2).2 &&& e.2.f.fpmode.extractLsb' 3 5 != 0#5).map (·.2.f.lane))
      ((s.laneIns c h acc []).map fun e => (e.2.f.lane, ((g e.2).2 &&& e.2.f.fpmode.extractLsb' 3 5).zeroExtend 64))) :=
  (laneOp_ready acc _ r).trans (congrArg Host.Outcome.next (fpGate_trap n))

end Sys2Proof.Laws
end

