-- ==== Sys2Proof/Laws/Memory.lean ====
section
/-!
SUPPORT. Laws/Memory.lean: memory: what is read after a write, and that every memory operation keeps the canonical form.
-/

namespace Sys2Proof.Laws

open Sys2Proof.Machine

/-! ## Reading after writing -/

theorem byte_setByte_same (m : Memory) (k : Nat) (b : Byte) : (m.setByte k b).byte k = b := getD_putD_same 0#8 m.bytes k b

theorem byte_setByte_other (m : Memory) (b : Byte) {k j : Nat} (h : j ≠ k) : (m.setByte k b).byte j = m.byte j :=
  getD_putD_other 0#8 m.bytes b h

/-- Bytes written from a key read back, and every other byte reads as before. -/
theorem byte_setBytes (m : Memory) (k : Nat) (bs : List Byte) (j : Nat) :
    (m.setBytes k bs).byte j = if k ≤ j ∧ j < k + bs.length then bs.getD (j - k) 0#8 else m.byte j := by
  induction bs generalizing m k with
  | nil => rw [if_neg (by simp)]; rfl
  | cons b bs ih =>
    unfold Memory.setBytes
    rw [ih, List.length_cons]
    by_cases h1 : k + 1 ≤ j ∧ j < k + 1 + bs.length
    · rw [if_pos h1, if_pos (by omega), show j - k = (j - (k + 1)) + 1 by omega, List.getD_cons_succ]
    · rw [if_neg h1]
      by_cases h2 : j = k
      · subst h2
        rw [byte_setByte_same, if_pos (by omega), Nat.sub_self, List.getD_cons_zero]
      · rw [byte_setByte_other m b h2, if_neg (by omega)]

@[simp] theorem setTag_bytes (m : Memory) (k : Nat) (t : Tag) : (m.setTag k t).bytes = m.bytes := rfl
@[simp] theorem setPoison_bytes (m : Memory) (k : Nat) : (m.setPoison k false).bytes = m.bytes := rfl
@[simp] theorem setFlips_bytes (m : Memory) (k : Nat) (f : BitVec 64) : (m.setFlips k f).bytes = m.bytes := rfl
@[simp] theorem setByte_tags (m : Memory) (k : Nat) (b : Byte) : (m.setByte k b).tags = m.tags := rfl
@[simp] theorem setByte_poison (m : Memory) (k : Nat) (b : Byte) : (m.setByte k b).poison = m.poison := rfl
@[simp] theorem setByte_flips (m : Memory) (k : Nat) (b : Byte) : (m.setByte k b).flips = m.flips := rfl

/-! ## The canonical form -/

/-- The canonical form, part by part. -/
theorem wf_iff (m : Memory) : m.wf = true ↔ SMap.wfD 0#8 m.bytes = true ∧ SMap.wfD Config.noTag m.tags = true ∧
    SMap.wfD false m.poison = true ∧ SMap.wfD 0#64 m.flips = true ∧ SMap.wfD false m.badTag = true := by
  unfold Memory.wf
  simp only [Bool.and_eq_true, and_assoc]

variable {m : Memory}

theorem wf_setByte (h : m.wf = true) (k : Nat) (b : Byte) : (m.setByte k b).wf = true := by
  rw [wf_iff] at h ⊢
  exact ⟨wfD_putD h.1 k b, h.2⟩

theorem wf_setTag (h : m.wf = true) (k : Nat) (t : Tag) : (m.setTag k t).wf = true := by
  rw [wf_iff] at h ⊢
  exact ⟨h.1, wfD_putD h.2.1 _ t, h.2.2.1, h.2.2.2.1, wfD_putD h.2.2.2.2 _ false⟩

theorem wf_setFlips (h : m.wf = true) (k : Nat) (f : BitVec 64) : (m.setFlips k f).wf = true := by
  rw [wf_iff] at h ⊢
  exact ⟨h.1, h.2.1, h.2.2.1, wfD_putD h.2.2.2.1 _ f, h.2.2.2.2⟩

theorem wf_spoilTag (h : m.wf = true) (k : Nat) : (m.spoilTag k).wf = true := by
  have g : ({ m with badTag := SMap.putD false m.badTag (tagKey k) true } : Memory).wf = true := by
    rw [wf_iff] at h ⊢
    exact ⟨h.1, h.2.1, h.2.2.1, h.2.2.2.1, wfD_putD h.2.2.2.2 _ true⟩
  unfold Memory.spoilTag
  split <;> assumption

theorem wf_setBytes (h : m.wf = true) (k : Nat) (bs : List Byte) : (m.setBytes k bs).wf = true := by
  induction bs generalizing m k with
  | nil => exact h
  | cons b bs ih => exact ih (wf_setByte h k b) (k + 1)

theorem wf_settleFlips (h : m.wf = true) (k : Nat) : (m.settleFlips k).wf = true := by
  unfold Memory.settleFlips
  split
  · exact h
  · exact wf_setFlips (wf_setBytes h _ _) _ _

theorem wf_setPoison (h : m.wf = true) (k : Nat) (p : Bool) : (m.setPoison k p).wf = true := by
  have g : ∀ m : Memory, m.wf = true → ({ m with poison := SMap.putD false m.poison (granOf k) p } : Memory).wf = true := by
    intro m h
    rw [wf_iff] at h ⊢
    exact ⟨h.1, h.2.1, wfD_putD h.2.2.1 _ p, h.2.2.2⟩
  unfold Memory.setPoison
  cases p
  · exact g m h
  · exact g _ (wf_settleFlips h k)

/-- A fold of changes, each of which keeps the form, keeps it. -/
theorem wf_foldl {β : Type} {f : Memory → β → Memory} (hf : ∀ m b, m.wf = true → (f m b).wf = true) (l : List β)
    (h : m.wf = true) : (l.foldl f m).wf = true := by
  induction l generalizing m with
  | nil => exact h
  | cons b l ih => exact ih (hf m b h)

theorem wf_scrub (h : m.wf = true) (k : Nat) : (m.scrub k).1.wf = true := by
  unfold Memory.scrub
  split
  · exact h
  · split
    · exact wf_setBytes (wf_setPoison (wf_setFlips h k _) k _) _ _
    · exact h

theorem wf_store (h : m.wf = true) (k : Nat) (bs : List Byte) : (m.store k bs).wf = true := by
  refine wf_setBytes (wf_foldl (fun m i hm => ?_) _ h) k bs
  show (if (k + i) % 8 = 0 ∧ i + 8 ≤ bs.length then _ else _ : Memory).wf = true
  split
  · exact wf_setFlips (wf_setPoison hm _ _) _ _
  · split
    · exact wf_scrub hm _
    · exact hm

theorem wf_storePoison (h : m.wf = true) (k : Nat) (bs : List Byte) (p : Bool) : (m.storePoison k bs p).wf = true := by
  unfold Memory.storePoison
  dsimp only
  split
  · exact wf_foldl (fun m i hm => wf_setPoison hm _ _) _ (wf_store h k bs)
  · exact wf_store h k bs

theorem wf_storeTags (h : m.wf = true) (pl : Place) (ws : List Reg) : (storeTags m pl ws).wf = true := by
  unfold storeTags
  split
  · exact h
  · split
    · exact wf_foldl (fun m e hm => wf_setTag hm _ _) _ h
    · refine wf_foldl (fun m i hm => ?_) _ h
      dsimp only
      split
      · exact wf_setTag hm _ _
      · exact hm

theorem wf_storeAt (h : m.wf = true) (pl : Place) (n : Nat) (ws : List Reg) : (storeAt m pl n ws).wf = true :=
  wf_storeTags (wf_store h _ _) pl ws

theorem wf_putEl (h : m.wf = true) (e : Emit) (ls : List Loc) : (m.putEl e ls).wf = true := by
  unfold Memory.putEl
  split
  · split
    · exact wf_setBytes h _ _
    · exact h
  · split
    · exact wf_setByte h _ _
    · exact h
  · refine wf_foldl (fun m x hm => ?_) _ h
    dsimp only
    split
    · exact wf_setByte hm _ _
    · exact hm

theorem wf_landGranules (h : m.wf = true) (p : Payload) (i n : Nat) (ps : List Place) : (landGranules m p i n ps).wf = true := by
  induction ps generalizing m i n with
  | nil => exact h
  | cons pl ps ih =>
    unfold landGranules
    refine ih ?_ _ _
    have h1 := wf_store h pl.key ((p.bytes.drop n).take (min (8 - pl.key % 8) (p.bytes.length - n)))
    split <;> split
    · exact wf_setTag (wf_setPoison h1 _ _) _ _
    · exact wf_setTag h1 _ _
    · exact wf_setPoison h1 _ _
    · exact h1

/-- What a start leaves of memory (21 R380). -/
theorem wf_started (h : m.wf = true) (step : Nat) : (m.started step).wf = true := by
  rw [wf_iff] at h ⊢
  exact ⟨wfD_filter h.1 _, wfD_filter h.2.1 _, wfD_filter h.2.2.1 _, wfD_filter h.2.2.2.1 _, wfD_filter h.2.2.2.2 _⟩

/-- What power on leaves of memory (21 R379). -/
theorem wf_filterBytes (h : m.wf = true) (p : Nat × Byte → Bool) : ({ bytes := m.bytes.filter p } : Memory).wf = true := by
  rw [wf_iff] at h ⊢
  exact ⟨wfD_filter h.1 p, rfl, rfl, rfl, rfl⟩

/-- Memory at reset has the canonical form. -/
theorem wf_reset : State.reset.mem.wf = true := rfl

end Sys2Proof.Laws
end

