-- ==== Sys2Proof/Laws/Weave.lean ====
section
/-!
SUPPORT. Laws/Weave.lean: what yield points, trace records and synchronizing words leave as it was, and when such a word does not
wait.
-/

namespace Sys2Proof.Laws

open Sys2Proof.Machine

/-- A group word that names no register reads nothing. -/
theorem groupRead_none {s : State} {c : Ctx} {h : Form} {l0 : Nat × Fibre} (ha : h.a = none) (hb : h.b = none) :
    s.groupRead c h l0 = s := by
  unfold State.groupRead
  rw [ha, hb]
  rfl

/-- A synchronizing word that does not wait runs its body and ends with the checkpoint. -/
theorem syncOp_none {s : State} {c : Ctx} {body : State → State} (h : s.syncWait c.w = none) :
    c.syncOp s body = (body s).checkpoint c.w := by
  unfold Ctx.syncOp
  rw [h]

/-- Choosing a runner changes the weave's serial level alone. -/
theorem pickRunner_keeps (s : State) (w : Nat) :
    (s.pickRunner w).fibres = s.fibres ∧ (s.pickRunner w).mem = s.mem ∧ (s.pickRunner w).engines = s.engines ∧
    (s.pickRunner w).pours = s.pours ∧
    ∀ v, s.weave? w = some v → ∃ v', (s.pickRunner w).weave? w = some v' ∧ v' = { v with serial := v'.serial } := by
  unfold State.pickRunner
  split
  · simp_all
  · split
    · simp_all
    · refine ⟨rfl, rfl, rfl, rfl, fun v h => ?_⟩
      rw [modWeave_same, h]
      exact ⟨_, rfl, rfl⟩

/-- A yield point changes the weave's latches, its serial level and its place in its quadrant alone. -/
theorem yieldWeave_keeps (s : State) (w : Nat) :
    (s.yieldWeave w).fibres = s.fibres ∧ (s.yieldWeave w).mem = s.mem ∧ (s.yieldWeave w).engines = s.engines ∧
    (s.yieldWeave w).pours = s.pours ∧
    ∀ v, s.weave? w = some v → ∃ v', (s.yieldWeave w).weave? w = some v' ∧
      v' = { v with serial := v'.serial, latches := [], yielded := true, readyAt := s.clk } := by
  unfold State.yieldWeave
  split
  · simp_all
  · next v hv =>
    dsimp only
    obtain ⟨a, b, c, d, e⟩ := pickRunner_keeps
      ((s.modWeave w fun v => { v with latches := [], yielded := true, readyAt := s.clk }).modCore v.core fun c =>
        { c with turn := c.turn.set v.quad none }) w
    refine ⟨a, b, c, d, fun u hu => ?_⟩
    have k : (s.modWeave w fun v => { v with latches := [], yielded := true, readyAt := s.clk }).weave? w =
        some { u with latches := [], yielded := true, readyAt := s.clk } := by
      rw [modWeave_same, hu]
      rfl
    exact e _ k

/-- What memory work keeps: two states that differ in memory and in counts alone. -/
structure Kept (s t : State) : Prop where
  fibres  : t.fibres = s.fibres
  weaves  : t.weaves = s.weaves
  engines : t.engines = s.engines
  pours   : t.pours = s.pours
  clk     : t.clk = s.clk

theorem Kept.refl (s : State) : Kept s s := ⟨rfl, rfl, rfl, rfl, rfl⟩

theorem Kept.trans {s t u : State} (a : Kept s t) (b : Kept t u) : Kept s u :=
  ⟨b.fibres.trans a.fibres, b.weaves.trans a.weaves, b.engines.trans a.engines, b.pours.trans a.pours, b.clk.trans a.clk⟩

/-- A fold of steps that each keep the rest keeps it. -/
theorem Kept.foldl {α : Type} {f : State → α → State} (h : ∀ t x, Kept t (f t x)) (l : List α) (s : State) : Kept s (l.foldl f s) := by
  induction l generalizing s with
  | nil => exact Kept.refl s
  | cons x l ih => exact (h s x).trans (ih _)

/-- Correcting and counting changes memory and counts alone. -/
theorem touch_kept (s : State) (k n : Nat) : Kept s (s.touch k n) := by
  unfold State.touch
  split
  · exact Kept.refl s
  · refine Kept.foldl (fun t i => ?_) _ s
    dsimp only
    split
    · split <;> exact ⟨rfl, rfl, rfl, rfl, rfl⟩
    · exact Kept.refl t

theorem touchPart_kept (s : State) (k n : Nat) : Kept s (s.touchPart k n) := by
  unfold State.touchPart
  split
  · exact Kept.refl s
  · have a : Kept s (if k % 8 ≠ 0 ∨ n < 8 then s.touch k 1 else s) := by
      split
      · exact touch_kept _ _ _
      · exact Kept.refl s
    dsimp only
    generalize (if k % 8 ≠ 0 ∨ n < 8 then s.touch k 1 else s) = u at a ⊢
    split
    · exact a.trans (touch_kept _ _ _)
    · exact a

/-- A write at a physical address changes memory and counts alone. -/
theorem writePhys_kept (s : State) (part pa : Nat) (bs : List Byte) : Kept s (s.writePhys part pa bs) := by
  unfold State.writePhys
  split
  · exact (touchPart_kept s _ _).trans ⟨rfl, rfl, rfl, rfl, rfl⟩
  · exact Kept.refl s

/-- A write under a key changes memory and counts alone. -/
theorem writeUnder_kept (s : State) (part : Nat) (k : BitVec 6) (pa : Nat) (bs : List Byte) :
    Kept s (s.writeUnder part k pa bs) := by
  unfold State.writeUnder
  split
  · exact writePhys_kept s part pa bs
  · exact Kept.refl s

/-- A trace record changes memory, counts and the partition's ring alone. -/
theorem trace_keeps (s : State) (p : Nat) (r : TraceRec) : Kept s (s.trace p r) := by
  unfold State.trace State.writeCtx
  dsimp only
  generalize leBytes 32 _ = bs
  split
  · exact (writeUnder_kept s _ _ _ bs).trans ⟨rfl, rfl, rfl, rfl, rfl⟩
  · exact ⟨rfl, rfl, rfl, rfl, rfl⟩

/-- What the traps of some lanes leave of the suspended windows: theirs is the window given, and every other lane keeps its own. -/
theorem get?_suspend (g : Option Guard) (m : SMap Guard) (ls : List Nat) (k : Nat) :
    SMap.get? (suspend g m ls) k = if k ∈ ls then g else SMap.get? m k := by
  induction ls generalizing m with
  | nil => simp [suspend]
  | cons l ls ih =>
    have e : suspend g m (l :: ls) = suspend g (suspend g m [l]) ls := rfl
    rw [e, ih]
    by_cases h : k ∈ ls
    · simp [h]
    · by_cases hk : k = l
      · subst hk
        cases g <;> simp [suspend, h, get?_put_same, get?_erase_same]
      · cases g <;> simp [suspend, h, hk, get?_put_other, get?_erase_other]

/-- Some lane is in the handler. -/
theorem any_saved {l : SMap Fibre} : (l.any fun e => e.2.saved.isSome) = true ↔ ∃ e ∈ l, e.2.saved ≠ none := by
  simp [Option.isSome_iff_ne_none]

end Sys2Proof.Laws
end

