-- ==== Sys2Proof/Tests/Slice0.lean ====
section
/-!
SUPPORT. Tests/Slice0.lean: words written out from the encodings of the spec, ill-formed instructions, single steps checked
against the spec's own examples, and for each statement a state and operands that meet its hypotheses.
-/

open Sys2Proof Sys2Proof.Machine

namespace Sys2Proof.Tests

set_option Elab.async false

/-! ## Words of the spec's listings, family by family -/

/-- 10: `IADD v23, b1, #1` and `ICMPS.LT p2, v4, v5` (09 R186's listing), `XCHB v0, 0` and `VOTE.BALLOT v9, p3` (10). -/
theorem test_decode_lane :
    decodeWord 0x0017F9F5#32 1#32 = some (.iadd 0#1 23#8 249#8 245#8 1#32) ∧
    decodeWord 0x24220405#32 0#32 = some (.icmps 2#4 2#4 4#8 5#8 0#32) ∧
    decodeWord 0x50000000#32 0#32 = some (.xchb 0#8 0#3) ∧
    decodeWord 0x52090300#32 0#32 = some (.voteBallot 0#1 9#8 3#4) ∧
    decodeWord 0x4E0201F5#32 1#32 = some (.shfdn 0#1 2#8 1#8 245#8 1#32) := by decide

/-- 09's listing, 10 R213 (`HFMA2 v6, v4, v5`) and R215 (`CVT.F32_BF16_DITHER v7, v3`). -/
theorem test_decode_float :
    decodeWord 0x2D140102#32 0#32 = some (.fadd 1#1 20#8 1#8 2#8 0#32) ∧
    decodeWord 0x3015F803#32 0#32 = some (.fmul 0#1 21#8 248#8 3#8 0#32) ∧
    decodeWord 0x2C18F801#32 0#32 = some (.fadd 0#1 24#8 248#8 1#8 0#32) ∧
    decodeWord 0x3E060405#32 0#32 = some (.hfma2 0#1 6#8 4#8 5#8 0#32) ∧
    decodeWord 0x4407030C#32 0#32 = some (.cvt 0#1 7#8 3#8 0x0C#8 0#32) := by decide

/-- 13 R297 and R298. -/
theorem test_decode_soft :
    decodeWord 0x72410102#32 0#32 = some (.qcmp 4#4 1#4 1#8 2#8 0#32) ∧
    decodeWord 0x74020101#32 0#32 = some (.qlogAnd 2#4 1#4 1#4) ∧
    decodeWord 0x74230100#32 0#32 = some (.qlogNot 3#4 1#4) ∧
    decodeWord 0x76030401#32 0#32 = some (.qblend 0#1 3#8 4#8 1#4 0#32) ∧
    decodeWord 0x78020501#32 0#32 = some (.qdraw 2#4 5#8 1#4 0#32) ∧
    decodeWord 0x7A060701#32 0#32 = some (.qgradRamp 0#1 6#8 7#8 1#4 0#32) ∧
    decodeWord 0x7C080100#32 0#32 = some (.qxferOut 8#8 1#4) ∧
    decodeWord 0x7D030800#32 0#32 = some (.qxferIn 3#4 8#8 0#32) ∧
    decodeWord 0x7E030400#32 0#32 = some (.tagRead 0#1 3#8 4#8 0#32) ∧
    decodeWord 0x7E030401#32 0#32 = some (.tagWrite 0#1 3#8 4#8 0#32) ∧
    decodeWord 0x7E03F002#32 0#32 = some (.tagMark 0#1 3#8) ∧
    decodeWord 0x7E030403#32 0#32 = some (.tagCopy 0#1 3#8 4#8 0#32) := by decide

/-- 12 R258 to R263. -/
theorem test_decode_memory :
    decodeWord 0x56040202#32 0#32 = some (.ld32 0#1 4#8 2#8 2#8) ∧
    decodeWord 0x5C030403#32 0#32 = some (.ldnS16 0#1 3#8 4#8) ∧
    decodeWord 0x5E050203#32 0#32 = some (.st32 0#1 5#8 2#8 3#8 0#32) ∧
    decodeWord 0x64050202#32 0#32 = some (.stnB16 0#1 5#8 2#8 0#32) ∧
    decodeWord 0x66050204#32 0#32 = some (.stp 5#8 2#8 4#8 0#32) ∧
    decodeWord 0x69060207#32 0#32 = some (.atadd 1#1 6#8 2#8 7#8 0#32) ∧
    decodeWord 0xB6060201#32 0#32 = some (.gld 0#1 6#8 2#8 1#8) ∧
    decodeWord 0xB9060200#32 0#32 = some (.gst 1#1 6#8 2#8 0#8 0#32) ∧
    decodeWord 0xBA000001#32 0#32 = some .fenceDev := by decide

/-- 11 R225 to R230: `BR .-2`, `CALL .+100`, `BRP p1, 1, .+5`, `BRP p1, 0, .-3`, `BRU v7, .+4`, `BRX v3`, `FSPAWN v8, v9`. -/
theorem test_decode_branches :
    decodeWord 0x81FFFFFE#32 0#32 = some (.br (-2)) ∧
    decodeWord 0x86000064#32 0#32 = some (.call 100#25) ∧
    decodeWord 0x82300005#32 0#32 = some (.brp 1#4 1#1 5#20) ∧
    decodeWord 0x822FFFFD#32 0#32 = some (.brp 1#4 0#1 (-3)) ∧
    decodeWord 0x840E0004#32 0#32 = some (.bru 7#8 4#17) ∧
    decodeWord 0x8A000300#32 0#32 = some (.brx 3#8 0#32) ∧
    decodeWord 0x88000000#32 0#32 = some .ret ∧
    decodeWord 0x8C000000#32 0#32 = some .fend ∧
    decodeWord 0x8E080900#32 0#32 = some (.fspawn 8#8 9#8 0#32) := by decide

/-- 11 R231 to R248. -/
theorem test_decode_sync :
    decodeWord 0x90000000#32 0#32 = some .yield ∧
    decodeWord 0x92110100#32 0#32 = some (.guard 1#1 1#4 1#8) ∧
    decodeWord 0x9400F500#32 0x7F#32 = some (.memb 245#8 0x7F#32) ∧
    decodeWord 0x96010000#32 0#32 = some (.jarm 1#3) ∧
    decodeWord 0x9801F500#32 4#32 = some (.join 1#3 245#8 4#32) ∧
    decodeWord 0x9A060202#32 0#32 = some (.jget 6#8 2#3 2#8) ∧
    decodeWord 0xA0000000#32 0#32 = some .bar ∧
    decodeWord 0xA4000A01#32 0#32 = some (.pbwait 10#8 1#1) ∧
    decodeWord 0xA600F000#32 0#32 = some (.fork 240#8 0#32) ∧
    decodeWord 0xA8000000#32 0#32 = some .rdv ∧
    decodeWord 0xAA040000#32 0#32 = some (.rnext 4#8) ∧
    decodeWord 0xAC000208#32 0#32 = some (.epush 2#8 8#8) ∧
    decodeWord 0xAE080200#32 0#32 = some (.epop 8#8 2#8) ∧
    decodeWord 0xB20005F5#32 1#32 = some (.tsig 5#8 245#8 1#32) ∧
    decodeWord 0xB4000000#32 0#32 = some .ckpt := by decide

/-- 11 R249 to R252. -/
theorem test_decode_uniform :
    decodeWord 0xE6030102#32 0#32 = some (.gadd 0#1 3#8 1#8 2#8 0#32) ∧
    decodeWord 0xF80201FD#32 0#32 = some (.gaddi 0#1 2#8 1#8 (-3) 0#32) ∧
    decodeWord 0xFB220102#32 0#32 = some (.gcmpz 2#4 2#4 1#8 2#8 0#32) ∧
    decodeWord 0xFC0404F5#32 0xFFFFFFC0#32 = some (.gadd64 0#1 4#8 4#8 245#8 0xFFFFFFC0#32) := by decide

/-- 12 R265 to R278. -/
theorem test_decode_copies :
    decodeWord 0xBC090A00#32 0#32 = some (.rcopy 9#8 10#8) ∧
    decodeWord 0xBE090A00#32 0#32 = some (.rpat 9#8 10#8) ∧
    decodeWord 0xC0090A00#32 0#32 = some (.put 9#8 10#8) ∧
    decodeWord 0xC2000C03#32 0#32 = some (.wwait 12#8 3#8 0#32) ∧
    decodeWord 0xC4030200#32 0#32 = some (.shld 3#4 2#8) ∧
    decodeWord 0xC80102F5#32 1#32 = some (.shset 1#4 2#8 245#8 1#32) := by decide

/-- 13 R283, R287, R288, R293, R301 to R304. -/
theorem test_decode_matrix_system :
    decodeWord 0xCC000406#32 0#32 = some (.mldw 4#8 6#8 0#32) ∧
    decodeWord 0xCE00080C#32 0#32 = some (.mmul 0#3 8#8 12#8 0#32) ∧
    decodeWord 0xCF00080C#32 0#32 = some (.mmulResume 0#3 8#8 12#8 0#32) ∧
    decodeWord 0xD0000400#32 0#32 = some (.mdrain 0#3 4#8) ∧
    decodeWord 0xD2000300#32 0#32 = some (.mzero 0#3 3#3) ∧
    decodeWord 0xD8000007#32 0#32 = some (.trap 7#8) ∧
    decodeWord 0xDA000000#32 0#32 = some .hret ∧
    decodeWord 0xDC040009#32 0#32 = some (.get 4#8 9#8) ∧
    decodeWord 0xDE000102#32 0#32 = some (.set 1#8 2#8 0#32) ∧
    decodeWord 0xE0000007#32 0#32 = some (.bkpt 7#8) ∧
    decodeWord 0xE2000000#32 0#32 = some .nop ∧
    decodeWord 0xE4000000#32 0#32 = some .halt := by decide

/-- The listing of 14's worked example, s03 to s17. -/
theorem test_decode_crucible :
    decodeCrucible 0x11020000#32 = some (.cldc 4#5 1#5 0#17) ∧
    decodeCrucible 0x11420001#32 = some (.cldc 5#5 1#5 1#17) ∧
    decodeCrucible 0xA2880000#32 = some (.cepop 10#5 4#5) ∧
    decodeCrucible 0x23140040#32 = some (.caddc 12#5 10#5 0#5 64#12) ∧
    decodeCrucible 0x0014C103#32 = some (.cldy 0#5 10#5 12#5 1#1 3#8) ∧
    decodeCrucible 0x48440000#32 = some (.cfma 1#5 2#5 0#5) ∧
    decodeCrucible 0x98568001#32 = some (.cpair 1#5 11#5 8#5 0#3 1#8) ∧
    decodeCrucible 0xA80AD000#32 = some (.ctsig 5#5 13#5) ∧
    decodeCrucible 0xB0000000#32 = some .chalt := by decide

/-- Reserved words decode to nothing: the reserved lane major 5 with bit 24 (09 R194), a nonzero reserved field of `NOP` (09
R183), Crucible operations 24 to 31 (14 R307), `TAG` function 4 (13 R298). -/
theorem test_reserved_words :
    decodeWord 0xE2000001#32 0#32 = none ∧ decodeCrucible 0xC0000000#32 = none ∧ decodeCrucible 0xF8000000#32 = none ∧
    decodeWord 0x7E030404#32 0#32 = none ∧ decodeWord 0xE5000000#32 0#32 = none := by decide

/-- The table's words through `decodeTableWord`: `YIELD`, and `CHALT` among the Crucible words. -/
theorem test_table_word : decodeTableWord 32 0x90000000 = some .yield ∧ decodeTableWord 32 0xE2000000 = some .nop := by decide

/-! ## Ill-formed instructions are refused -/

/-- 09 R185: a literal without a field that names it. -/
theorem test_wf_literal :
    (Instr.iadd 0#1 1#8 2#8 3#8 5#32).wf = false ∧ (Instr.iadd 0#1 1#8 2#8 245#8 5#32).wf = true ∧
    (Instr.st32 0#1 5#8 2#8 3#8 1#32).wf = false ∧ (Instr.tsig 5#8 245#8 1#32).wf = true := by decide

/-- 00 R2 and R4: units that do not exist (288 cores, 24 partitions, 4 quadrants, 32 ports, 18 control units). -/
theorem test_wf_units :
    ([.recastIssue 288 0, .recastIssue 0 4, .weaveSlotGrant 288 0, .weaveSlotGrant 0 4, .rejoinTimeout 0 8, .placement 24,
      .runnerCommandStart 288, .putArrival 24 ⟨0, 0, 0, false, [], 0#16⟩, .mldwCompletion 288, .mmulCompletion 288,
      .mmulErrorCompletion 288, .mdrainCompletion 288, .mdrainErrorCompletion 288, .refreshWindowOpen 4, .refreshWindowClose 4,
      .appendPortCommit 24 true 0 0 [], .appendPortCommit 0 true 4 0 [], .qcfgWrite 24 0 0#32, .qcfgWrite 0 4 0#32,
      .hostSignal 24 0#64, .weightStoreCopy 24 0#32, .weightStoreCopyDone 24, .bindWrite 0 0#32, .bindWrite 25 0#32,
      .functionLevelReset 0, .functionLevelReset 25, .invalidation 24 0#32, .invalidationDone 24, .winregWrite 24 0#256,
      .sndregWrite 24 0#64, .faultAnswer 24 0#64, .purgeMessageReceived 32 0#16, .contextRun 24, .contextRestoreDone 24,
      .contextPreempt 24, .contextSaved 24, .resyncComplete 18, .dbgStop 24 0#256, .dbgStep 24 0#256, .dbgRun 24 0#256,
      .dbgRegrd 24 0#256, .dbgRegwr 24 0#256, .dbgRegwrf 24 0#256, .dbgIllegal 24 0#256, .assayAbandon 24,
      .registerWrite (.ctl 24) 0 [], .registerWrite (.block 24 true) 0 [], .mirrorCopyDone 288, .portsWrite 24 0#32,
      .assayReplay 24 0 0#64, .assayReplay 0 288 0#64, .profileSample 288 0#6 0#2 [], .fabricReadRequest 24 0 0 0,
      .fabricReadRequest 0 1024 0 0, .voteDissent 18 0#3, .probationEnd 18] : List Instr).all (fun i => !i.wf) = true ∧
    ([.recastIssue 287 3, .placement 23, .refreshWindowOpen 3, .qcfgWrite 23 3 0#32, .bindWrite 24 0#32, .bindWrite 1 0#32,
      .resyncComplete 17, .purgeMessageReceived 31 0#16, .registerWrite .pf 0 [], .rejoinTimeout 0 7,
      .fabricReadRequest 23 1023 0 0] : List Instr).all Instr.wf = true := by decide

/-! ## Small states -/

/-- One fibre of one pour: pour 2, weave 3, fibre 4, on core 0; page 0 is DRAM; 4,096 bytes of scratchpad; a handler at
word 1. -/
def weave1 : State :=
  let s := { State.reset.withFetchWord 32 0xE2000000 with turn := .weave 3, agenda := [] }
  s.modPour 2 fun p => { p with hdr := { p.hdr with scratch := 4096, hent := some 1, nwords := 100 } }

/-- With register values of fibre 4. -/
def withRegs (s : State) (rs : List (Nat × Word)) : State :=
  s.modFibre 4 fun f => rs.foldl (fun (f : Fibre) (e : Nat × Word) => f.setReg e.1 { val := e.2 }) f

/-- With one more fibre, in a lane of the weave. -/
def addLane (s : State) (f l : Nat) (rs : List (Nat × Word)) : State :=
  let g : Fibre := { pour := 2, num := BitVec.ofNat 32 l, rank := l, quad := 0, lane := l, weave := some 3,
                     win := List.replicate 64 {}, wbase := 64 * l }
  let s := { s with fibres := SMap.put s.fibres f (rs.foldl (fun (f : Fibre) (e : Nat × Word) => f.setReg e.1 { val := e.2 }) g) }
  s.modWeave 3 fun v => { v with member := v.member ||| laneBit l }

/-- An engine of the pour, with register values. -/
def engine1 (k : EngKind) (rs : List (Nat × Word)) : State :=
  let e : Engine := { core := 0, kind := k, pour := 2 }
  { weave1 with
    engines := SMap.put [] 5 (rs.foldl (fun (v : Engine) (r : Nat × Word) => v.setK r.1 [{ val := r.2 }]) e)
    turn := .engine 5 }

/-- A Crucible instance on channel 0, with scalars. -/
def crucible1 (cs : List (BitVec 5 × BitVec 64)) : State :=
  let c : Crucible := { chan := 0, part := 0, task := 1, inst := 0, hdr := codeHdr, code := 0#64 }
  { weave1 with
    crucibles := SMap.put [] 6 (cs.foldl (fun (q : Crucible) (r : BitVec 5 × BitVec 64) => q.setC r.1 { val := r.2 }) c)
    turn := .crucible 6 }

/-- The context of weave 3. -/
def ctx (s : State) : Ctx :=
  match s.ctxOf 3 with
  | some c => c
  | none => { w := 0, v := { pour := 0, core := 0, quad := 0, slot := none, occ := 0#32, member := 0#32 }
              p := { part := 0, core := 0, slot := 0, task := 0, idx := 0, first := 0#32, hdr := {}, code := 0#64, scratch := 0 }
              pc := 0, acts := [] }

/-- Its lowest active lane. -/
def lead (s : State) : Nat × Fibre :=
  match (ctx s).acts.head? with
  | some e => e
  | none => (0, { pour := 0, num := 0#32, rank := 0, quad := 0, lane := 0, weave := none, win := [] })

/-- Whether weave 3 has nothing to wait for at the read of a completed token. -/
def free (s : State) (token : Bool) : Bool := !token || (s.syncWait (ctx s).w).isNone && !s.inPair (ctx s).w

theorem free_ok {s : State} {b : Bool} (e : free s b = true) : s.tokenFree (ctx s).w b := by
  rintro rfl
  simpa [free] using e

/-- Whether lane words of a shape complete for weave 3. -/
def laneOk (s : State) (h : Form) (x : List (BitVec 8 × Nat)) : Bool :=
  decide (s.turn = .weave 3) && (s.ctxOf 3).isSome && !(ctx s).acts.isEmpty && ((ctx s).fate h false).isNone
    && !s.laneWaits (ctx s) h true x && free s (s.laneToken (ctx s) h true x)

theorem ctx_of {s : State} (e : (s.ctxOf 3).isSome = true) : s.ctxOf 3 = some (ctx s) ∧ (ctx s).w = 3 := by
  cases h : s.ctxOf 3 with
  | none => simp [h] at e
  | some c =>
    have hc : ctx s = c := by simp [ctx, h]
    refine ⟨by rw [hc], ?_⟩
    rw [hc]
    unfold State.ctxOf at h
    split at h
    · cases h
    · split at h
      · cases h
      · split at h
        · cases h
        · cases h; rfl

theorem lane_ok {s : State} {h : Form} {x : List (BitVec 8 × Nat)} (e : laneOk s h x = true) : LaneReady s (ctx s) h x := by
  simp only [laneOk, Bool.and_eq_true, decide_eq_true_eq, Bool.not_eq_true', Option.isNone_iff_eq_none] at e
  obtain ⟨⟨⟨⟨⟨h1, h2⟩, h3⟩, h4⟩, h5⟩, h8⟩ := e
  have ⟨h6, h7⟩ := ctx_of h2
  exact ⟨h1.trans (by rw [h7]), by rw [h7]; exact h6, h3, h4, h5, free_ok h8⟩

/-- A ready shape of word is ready whichever instruction has it. -/
theorem lane_instr {s : State} {c : Ctx} {h : Form} {x : List (BitVec 8 × Nat)} (i : Instr) (r : LaneReady s c h x) :
    LaneReady s c { h with instr := i } x := by
  refine ⟨r.turn, r.ctx, r.some, ?_, r.waits, r.token⟩
  have k := r.fate
  unfold Ctx.fate at k ⊢
  split at k
  · cases k
  · split at k
    · cases k
    · split at k
      · cases k
      · split at k
        · cases k
        · rename_i h1 h2 h3 h4
          exact (if_neg h1).trans ((if_neg h2).trans ((if_neg h3).trans (if_neg h4)))

/-- Whether group words of a shape complete for weave 3. -/
def groupOk (s : State) (h : Form) : Bool :=
  decide (s.turn = .weave 3) && (s.ctxOf 3).isSome && (ctx s).acts.head?.isSome && ((ctx s).fate h true).isNone
    && !s.groupWaits (ctx s) h (lead s)
    && free s (s.srcToken [(lead s).1] h.a || s.srcToken [(lead s).1] h.b)

theorem group_ok {s : State} {h : Form} (e : groupOk s h = true) : GroupReady s (ctx s) h (lead s) := by
  simp only [groupOk, Bool.and_eq_true, decide_eq_true_eq, Bool.not_eq_true', Option.isNone_iff_eq_none] at e
  obtain ⟨⟨⟨⟨⟨h1, h2⟩, h3⟩, h4⟩, h5⟩, h8⟩ := e
  have ⟨h6, h7⟩ := ctx_of h2
  refine ⟨h1.trans (by rw [h7]), by rw [h7]; exact h6, ?_, h4, h5, free_ok h8⟩
  unfold lead
  cases k : (ctx s).acts.head? with
  | none => simp [k] at h3
  | some e => rfl

theorem group_instr {s : State} {c : Ctx} {h : Form} {l0 : Nat × Fibre} (i : Instr) (r : GroupReady s c h l0) :
    GroupReady s c { h with instr := i } l0 := by
  refine ⟨r.turn, r.ctx, r.lead, ?_, r.waits, r.token⟩
  have k := r.fate
  unfold Ctx.fate at k ⊢
  split at k
  · cases k
  · split at k
    · cases k
    · split at k
      · cases k
      · split at k
        · cases k
        · rename_i h1 h2 h3 h4
          exact (if_neg h1).trans ((if_neg h2).trans ((if_neg h3).trans (if_neg h4)))

/-- Engine 5, and its pour. -/
def eng (s : State) : Engine := (s.engine? 5).getD { core := 0, kind := .ladle, pour := 0 }
def engPour (s : State) : Pour := (s.pour? (eng s).pour).getD (ctx s).p

/-- Whether engine 5 completes words of a shape. -/
def engOk (s : State) (h : Form) : Bool :=
  decide (s.turn = .engine 5) && (s.engine? 5).isSome && (s.pour? (eng s).pour).isSome && (eng s).running && !(h.bad || h.nw == 1#1)
    && h.mayRun (eng s).kind && !h.engBad (eng s).kind && !s.engWaits 5 h && ((eng s).srcToks h.a ++ (eng s).srcToks h.b).isEmpty

theorem eng_ok {s : State} {h : Form} (e : engOk s h = true) : EngReady s 5 (eng s) (engPour s) h := by
  simp only [engOk, Bool.and_eq_true, decide_eq_true_eq, Bool.not_eq_true'] at e
  obtain ⟨⟨⟨⟨⟨⟨⟨⟨h1, h2⟩, h3⟩, h4⟩, h5⟩, h6⟩, h7⟩, h8⟩, h9⟩ := e
  refine ⟨h1, ?_, ?_, h4, h5, h6, h7, h8, List.isEmpty_iff.mp h9⟩
  · unfold eng
    cases k : s.engine? 5 with
    | none => simp [k] at h2
    | some v => rfl
  · unfold engPour
    cases k : s.pour? (eng s).pour with
    | none => simp [k] at h3
    | some v => rfl

/-- The instance of channel 0. -/
def cru (s : State) : Crucible :=
  (s.crucible? 6).getD { chan := 0, part := 0, task := 0, inst := 0, hdr := {}, code := 0#64 }

theorem cru_ok {s : State} {reads : List CReg}
    (e : (decide (s.turn = .crucible 6) && (s.crucible? 6).isSome && !reads.any (·.poison)) = true) : CruReady s 6 (cru s) reads := by
  simp only [Bool.and_eq_true, decide_eq_true_eq, Bool.not_eq_true'] at e
  obtain ⟨⟨h1, h2⟩, h3⟩ := e
  refine ⟨h1, ?_, h3⟩
  unfold cru
  cases k : s.crucible? 6 with
  | none => simp [k] at h2
  | some v => rfl

/-- Whether an access is performed at its issue. -/
def accOk (s : State) (c : Ctx) (op : MemOp) : Bool :=
  let ls := s.laneLocs c.p op false
  (s.pairOf c.pid).isNone && (s.logWait op).isNone && (addrFaults op ls).isNone && (s.kindFaults c.p op ls false).isNone
    && (missing ls).isNone && (s.orderFaults c.p op (checkedLanes op ls false)).isNone && !s.refreshWait c.p op

theorem acc_ok {s : State} {c : Ctx} {op : MemOp} (e : accOk s c op = true) : AccessReady s c op := by
  simp only [accOk, Bool.and_eq_true, Bool.not_eq_true', Option.isNone_iff_eq_none] at e
  obtain ⟨⟨⟨⟨⟨⟨h1, h2⟩, h3⟩, h4⟩, h5⟩, h6⟩, h7⟩ := e
  exact ⟨h1, h2, h3, h4, h5, h6, h7⟩

theorem bar_ok {p : Pour} {a : BitVec 64} {key : Nat} (e : (barKey p a).toOption = some key) : barKey p a = .ok key := by
  cases h : barKey p a with
  | error k => simp [h, Except.toOption] at e
  | ok k => simpa [h, Except.toOption] using e

theorem any_of {α : Type} {o : Option α} {q : α → Bool} (e : o.any q = true) : ∃ x, o = some x ∧ q x = true := by
  cases o with
  | some x => exact ⟨x, rfl, e⟩
  | none => cases e

theorem none_of {α : Type} {o : Option α} (e : o.isNone = true) : o = none := Option.isNone_iff_eq_none.mp e

/-! ## What meets the hypotheses of the statements about lane words -/

/-- Fibre 4 with v1 = 7 and v2 = 9. -/
def lane79 : State := withRegs weave1 [(1, 7#32), (2, 9#32), (4, 0x3F800000#32), (5, 0x7F800000#32), (6, 0xFF800000#32)]

/-- Every two-operand lane word, with registers, with a literal, and with `.NW`, at the last register of the window. -/
theorem meets_IntegerResultInEachLane : ∃ s c, ∀ i : Instr,
    LaneReady s c (intForm i 0#1 63#8 1#8 2#8 0#32) [] ∧ LaneReady s c (intForm i 1#1 0#8 240#8 245#8 0xFFFFFFFF#32) [] :=
  ⟨lane79, ctx lane79, fun i => ⟨lane_instr i (lane_ok (h := intForm .nop 0#1 63#8 1#8 2#8 0#32) (by decide +kernel)),
    lane_instr i (lane_ok (h := intForm .nop 1#1 0#8 240#8 245#8 0xFFFFFFFF#32) (by decide +kernel))⟩⟩

theorem meets_IntegerUnaryResultInEachLane : ∃ s c, ∀ i : Instr, LaneReady s c (uniForm i 0#1 63#8 1#8 0#32) [] :=
  ⟨lane79, ctx lane79, fun i => lane_instr i (lane_ok (h := uniForm .nop 0#1 63#8 1#8 0#32) (by decide +kernel))⟩

theorem meets_AccumulateAddPairAndSelect : ∃ s c,
    LaneReady s c (intForm (.imad 0#1 3#8 1#8 2#8 0#32) 0#1 3#8 1#8 2#8 0#32) [] ∧
    LaneReady s c { instr := .iadd64 0#1 62#8 2#8 2#8 0#32, nw := 0#1, dst := some (62#8, 2), a := some (.ws, 2#8),
                    b := some (.ws, 2#8), lit := 0#32 } [] ∧
    LaneReady s c (uniForm (.uniMov 0#1 3#8 1#8 0#32) 0#1 3#8 1#8 0#32) [] ∧
    LaneReady s c { uniForm (.selp 0#1 3#8 1#8 1#1 0#4 0#32) 0#1 3#8 1#8 0#32 with reads := .pick (0#4).toNat (1#1 == 1#1) } [] :=
  ⟨lane79, ctx lane79, lane_ok (by decide +kernel), lane_ok (by decide +kernel), lane_ok (by decide +kernel), lane_ok (by decide +kernel)⟩

/-- For each code from 0 to 12. -/
theorem meets_IntegerComparesWritePredicates : ∃ s c, ∀ k ∈ List.range 13, ∀ i : Instr,
    LaneReady s c (cmpForm i (BitVec.ofNat 4 k) 1#8 2#8 0#32) [] ∧
    ((s.laneIns c (cmpForm i (BitVec.ofNat 4 k) 1#8 2#8 0#32) false []).any fun x => poi (x.2.a ++ x.2.b)) = false := by
  refine ⟨lane79, ctx lane79, fun k hk i => ?_⟩
  have h : (List.range 13).all (fun k => laneOk lane79 (cmpForm .nop (BitVec.ofNat 4 k) 1#8 2#8 0#32) []
      && !((lane79.laneIns (ctx lane79) (cmpForm .nop (BitVec.ofNat 4 k) 1#8 2#8 0#32) false []).any
        fun x => poi (x.2.a ++ x.2.b))) = true := by decide +kernel
  have e := List.all_eq_true.mp h k hk
  rw [Bool.and_eq_true, Bool.not_eq_true'] at e
  exact ⟨lane_instr i (lane_ok e.1), e.2⟩

theorem meets_FloatingResultInEachLane : ∃ s c,
    let h := intForm (.fadd 0#1 3#8 1#8 2#8 0#32) 0#1 3#8 1#8 2#8 0#32
    LaneReady s c h [] ∧
    NoFpTrap (s.laneIns c h false []) (fun x => (fp32Of (faddR fFP32 x.f.fpmode x.a0.val.toNat x.b0.val.toNat)).2) ∧
    (let h := intForm (.hfma2 0#1 3#8 1#8 2#8 0#32) 0#1 3#8 1#8 2#8 0#32
     LaneReady s c h [] ∧ NoFpTrap (s.laneIns c h true [])
       (fun x => (packed2 (ffmaR fFP16 x.f.fpmode) x.a0.val x.b0.val x.d0.val).2)) :=
  ⟨lane79, ctx lane79, lane_ok (by decide +kernel), by unfold NoFpTrap; decide +kernel, lane_ok (by decide +kernel),
    by unfold NoFpTrap; decide +kernel⟩

theorem meets_FloatingFunctionInEachLane : ∃ s c,
    let h := uniForm (.fsqrt 0#1 3#8 4#8 0#32) 0#1 3#8 4#8 0#32
    LaneReady s c h [] ∧ NoFpTrap (s.laneIns c h false []) (fun x => (fp32Of (fsqrtR x.f.fpmode x.a0.val.toNat)).2) :=
  ⟨lane79, ctx lane79, lane_ok (by decide +kernel), by unfold NoFpTrap; decide +kernel⟩

theorem meets_FloatingCompareAndConversion : ∃ s c,
    (let h := cmpForm (.fcmp 2#4 1#4 4#8 5#8 0#32) 2#4 4#8 5#8 0#32
     let fl (x : LaneIn) : Flags :=
       if (decArith x.a0.val.toNat fFP32 x.f.fpmode).isSig || (decArith x.b0.val.toNat fFP32 x.f.fpmode).isSig then flInvalid else 0#5
     LaneReady s c h [] ∧ ((s.laneIns c h false []).any fun x => poi (x.2.a ++ x.2.b)) = false ∧
       NoFpTrap (s.laneIns c h false []) fl) ∧
    LaneReady s c { uniForm (.cvt 0#1 7#8 4#8 0x0C#8 0#32) 0#1 7#8 4#8 0#32 with
      bad := (0x0C#8).toNat / 8 == 0 || (0x0C#8).toNat / 8 == 31 || decide (4 < (0x0C#8).toNat % 8) } [] :=
  ⟨lane79, ctx lane79, ⟨lane_ok (by decide +kernel), by decide +kernel, by unfold NoFpTrap; decide +kernel⟩,
    lane_ok (by decide +kernel)⟩

/-- Fibre 4 traps every flag at temperature 1, and holds +∞, −∞, a signaling NaN and 1.0 + 2^-23; q7 is 1 / 65535. -/
def trapping : State :=
  (withRegs lane79 [(10, 0x7F800001#32), (11, 0x3F800001#32)]).modFibre 4 fun f =>
    { f.setQ 7 { code := 1#16 } with fpmode := 0xF8#32, qtemp := 0x3F800000#32 }

/-- Whether some active lane raises a flag whose trap it enables. -/
def raises (s : State) (h : Form) (acc : Bool) (fl : LaneIn → Flags) : Bool :=
  (s.laneIns (ctx s) h acc []).any fun x => (fl x.2 &&& x.2.f.fpmode.extractLsb' 3 5) != 0#5

theorem raises_of {s : State} {h : Form} {acc : Bool} {fl : LaneIn → Flags} (e : raises s h acc fl = true) :
    ∃ x ∈ s.laneIns (ctx s) h acc [], (fl x.2 &&& x.2.f.fpmode.extractLsb' 3 5) ≠ 0#5 := by
  simpa [raises] using e

/-- A sum and a fused packed sum, a root, a compare, a blend and a gradient. -/
theorem meets_EnabledFlagTraps : ∃ s c,
    (let h := intForm (.fadd 0#1 3#8 5#8 6#8 0#32) 0#1 3#8 5#8 6#8 0#32
     LaneReady s c h [] ∧ ∃ x ∈ s.laneIns c h false [],
       ((fp32Of (faddR fFP32 x.2.f.fpmode x.2.a0.val.toNat x.2.b0.val.toNat)).2 &&& x.2.f.fpmode.extractLsb' 3 5) ≠ 0#5) ∧
    (let h := intForm (.bfma2 0#1 11#8 10#8 10#8 0#32) 0#1 11#8 10#8 10#8 0#32
     LaneReady s c h [] ∧ ∃ x ∈ s.laneIns c h true [],
       ((packed2 (ffmaR fBF16 x.2.f.fpmode) x.2.a0.val x.2.b0.val x.2.d0.val).2 &&& x.2.f.fpmode.extractLsb' 3 5) ≠ 0#5) ∧
    (let h := uniForm (.fsqrt 0#1 3#8 6#8 0#32) 0#1 3#8 6#8 0#32
     LaneReady s c h [] ∧ ∃ x ∈ s.laneIns c h false [],
       ((fsqrtR x.2.f.fpmode x.2.a0.val.toNat).2 &&& x.2.f.fpmode.extractLsb' 3 5) ≠ 0#5) ∧
    (let h := cmpForm (.fcmp 2#4 1#4 4#8 10#8 0#32) 2#4 4#8 10#8 0#32
     let fl (x : LaneIn) : Flags :=
       if (decArith x.a0.val.toNat fFP32 x.f.fpmode).isSig || (decArith x.b0.val.toNat fFP32 x.f.fpmode).isSig then flInvalid else 0#5
     LaneReady s c h [] ∧ ((s.laneIns c h false []).any fun x => poi (x.2.a ++ x.2.b)) = false ∧
       ∃ x ∈ s.laneIns c h false [], (fl x.2 &&& x.2.f.fpmode.extractLsb' 3 5) ≠ 0#5) ∧
    (let h := { qgradForm (.qblend 0#1 11#8 4#8 7#4 0#32) 0#1 11#8 4#8 7#4 0#32 with reads := .blend (7#4).toNat }
     let code (x : LaneIn) : Nat := (x.f.qr (7#4).toNat).code.toNat
     let fl (x : LaneIn) : Flags := if code x = 0 ∨ code x = 65535 then 0#5 else (blendR (code x) x.a0.val.toNat x.d0.val.toNat).2
     LaneReady s c h [] ∧ ∃ x ∈ s.laneIns c h true [], (fl x.2 &&& x.2.f.fpmode.extractLsb' 3 5) ≠ 0#5) ∧
    (let h := qgradForm (.qgradRamp 0#1 3#8 10#8 7#4 0#32) 0#1 3#8 10#8 7#4 0#32
     LaneReady s c h [] ∧ (∀ x ∈ s.laneIns c h false [], tempBad x.2.f.temp = false) ∧ ∃ x ∈ s.laneIns c h false [],
       ((gradRamp x.2.f.temp (x.2.f.qr (7#4).toNat).code.toNat x.2.a0.val.toNat x.2.d0.val.toNat).2 &&&
         x.2.f.fpmode.extractLsb' 3 5) ≠ 0#5) :=
  ⟨trapping, ctx trapping, ⟨lane_ok (by decide +kernel), raises_of (fl := fun x => (fp32Of (faddR fFP32 x.f.fpmode x.a0.val.toNat x.b0.val.toNat)).2)
      (by decide +kernel)⟩,
    ⟨lane_ok (by decide +kernel), raises_of (fl := fun x => (packed2 (ffmaR fBF16 x.f.fpmode) x.a0.val x.b0.val x.d0.val).2) (by decide +kernel)⟩,
    ⟨lane_ok (by decide +kernel), raises_of (fl := fun x => (fsqrtR x.f.fpmode x.a0.val.toNat).2) (by decide +kernel)⟩,
    ⟨lane_ok (by decide +kernel), by decide +kernel, raises_of (fl := fun x =>
      if (decArith x.a0.val.toNat fFP32 x.f.fpmode).isSig || (decArith x.b0.val.toNat fFP32 x.f.fpmode).isSig then flInvalid else 0#5)
      (by decide +kernel)⟩,
    ⟨lane_ok (by decide +kernel), raises_of (fl := fun x => if (x.f.qr (7#4).toNat).code.toNat = 0 ∨ (x.f.qr (7#4).toNat).code.toNat = 65535
      then 0#5 else (blendR (x.f.qr (7#4).toNat).code.toNat x.a0.val.toNat x.d0.val.toNat).2) (by decide +kernel)⟩,
    ⟨lane_ok (by decide +kernel), by decide +kernel, raises_of (fl := fun x =>
      (gradRamp x.f.temp (x.f.qr (7#4).toNat).code.toNat x.a0.val.toNat x.d0.val.toNat).2) (by decide +kernel)⟩⟩

/-- Fibre 4 with a poisoned v1. -/
def poisoned : State := lane79.modFibre 4 fun f => f.setReg 1 { val := 7#32, poison := true }

theorem meets_PoisonedCompareIsConsumed : ∃ s c,
    let h := cmpForm (.icmps 0#4 1#4 1#8 2#8 0#32) 0#4 1#8 2#8 0#32
    LaneReady s c h [] ∧ ∃ x ∈ s.laneIns c h false [], ∃ r ∈ x.2.a ++ x.2.b, r.poison = true :=
  ⟨poisoned, ctx poisoned, lane_ok (by decide +kernel), by decide +kernel⟩

theorem meets_CrossLaneResults : ∃ s c, (∀ i : Instr, LaneReady s c (intForm i 0#1 3#8 1#8 2#8 0#32) []) ∧
    LaneReady s c { instr := .voteBallot 0#1 9#8 3#4, nw := 0#1, dst := some (9#8, 1) } [] :=
  ⟨lane79, ctx lane79, fun i => lane_instr i (lane_ok (h := intForm .nop 0#1 3#8 1#8 2#8 0#32) (by decide +kernel)),
    lane_ok (by decide +kernel)⟩

/-- At the last block of a window of 64 registers, and at the last stage. -/
theorem meets_ButterflyAndRotation : ∃ s c,
    LaneReady s c { instr := .xchb 32#8 4#3, bad := decide (4 < (4#3).toNat), reads := .exch (32#8).toNat (4#3).toNat
                    badOp := decide (240 ≤ (32#8).toNat) || decide (c.p.hdr.regs < (32#8).toNat + 32) }
      ((List.range 32).map fun i => (32#8 + BitVec.ofNat 8 i, 1)) ∧ s.dev.injarm = false ∧
    LaneReady s c { intForm (.rhad 0#1 3#8 1#8 2#8 0#32) 0#1 3#8 1#8 2#8 0#32 with reads := .member } [] :=
  ⟨lane79, ctx lane79, lane_ok (by decide +kernel), by decide +kernel, lane_ok (by decide +kernel)⟩

theorem meets_SoftPredicateResults : ∃ s c,
    (let h : Form := { instr := .qcmp 4#4 7#4 1#8 2#8 0#32, a := some (.s, 1#8), b := some (.s, 2#8), lit := 0#32,
                       bad := decide ((4#4).toNat < 2) || decide (5 < (4#4).toNat), badOp := decide (7 < (7#4).toNat) }
     LaneReady s c h [] ∧ ∀ x ∈ s.laneIns c h false [], tempBad x.2.f.temp = false) ∧
    (let h : Form := { instr := .qlogAnd 7#4 1#4 2#4,
                       badOp := decide (7 < (7#4).toNat) || decide (7 < (1#4).toNat) || decide (7 < (2#4).toNat) }
     LaneReady s c h [] ∧ ∀ x ∈ s.laneIns c h false [],
       ((x.2.f.qr (1#4).toNat).srcs &&& (x.2.f.qr (2#4).toNat).srcs != 0#8 && x.2.f.qmode.getLsbD 1) = false) ∧
    LaneReady s c { instr := .qlogNot 7#4 0#4, badOp := decide (7 < (7#4).toNat) || decide (7 < (0#4).toNat) } [] ∧
    (let h : Form := { instr := .qdraw 15#4 1#8 7#4 0#32, a := some (.s, 1#8), lit := 0#32, badOp := decide (7 < (7#4).toNat) }
     LaneReady s c h [] ∧ ∀ x ∈ s.laneIns c h false [], (x.2.a0.poison || (x.2.f.qr (7#4).toNat).poison) = false) ∧
    (let h : Form := { instr := .qxferIn 7#4 1#8 0#32, a := some (.s, 1#8), lit := 0#32, badOp := decide (7 < (7#4).toNat) }
     LaneReady s c h [] ∧ ∀ x ∈ s.laneIns c h false [], x.2.a0.val.toNat < 2 ^ 25) := by
  let s := lane79.modFibre 4 fun f => { f with qtemp := 0x3F800000#32 }
  exact ⟨s, ctx s, ⟨lane_ok (by decide +kernel), by decide +kernel⟩, ⟨lane_ok (by decide +kernel), by decide +kernel⟩,
    lane_ok (by decide +kernel), ⟨lane_ok (by decide +kernel), by decide +kernel⟩, ⟨lane_ok (by decide +kernel), by decide +kernel⟩⟩

/-- Fibre 4 traps dependent products, and q1 depends on source 0. -/
def dependent : State := lane79.modFibre 4 fun f => { f.setQ 1 { srcs := 1#8 } with qmode := 2#2 }

theorem meets_DependenceTrapIsPrecise : ∃ s c,
    let h : Form := { instr := .qlogAnd 2#4 1#4 1#4,
                      badOp := decide (7 < (2#4).toNat) || decide (7 < (1#4).toNat) || decide (7 < (1#4).toNat) }
    LaneReady s c h [] ∧ ∃ x ∈ s.laneIns c h false [],
      ((x.2.f.qr (1#4).toNat).srcs &&& (x.2.f.qr (1#4).toNat).srcs != 0#8 && x.2.f.qmode.getLsbD 1) = true :=
  ⟨dependent, ctx dependent, lane_ok (by decide +kernel), by decide +kernel⟩

theorem meets_SoftBlendAndGradients : ∃ s c,
    (let h := { qgradForm (.qblend 0#1 3#8 4#8 7#4 0#32) 0#1 3#8 4#8 7#4 0#32 with reads := .blend (7#4).toNat }
     let q (x : LaneIn) : QReg := x.f.qr (7#4).toNat
     let r (x : LaneIn) : FRes := blendR (q x).code.toNat x.a0.val.toNat x.d0.val.toNat
     let fl (x : LaneIn) : Flags := if (q x).code = 0#16 ∨ (q x).code = 0xFFFF#16 then 0#5 else (r x).2
     LaneReady s c h [] ∧ NoFpTrap (s.laneIns c h true []) fl) ∧
    (let h := qgradForm (.qgradRamp 0#1 3#8 4#8 7#4 0#32) 0#1 3#8 4#8 7#4 0#32
     LaneReady s c h [] ∧ (∀ x ∈ s.laneIns c h false [], tempBad x.2.f.temp = false) ∧
       NoFpTrap (s.laneIns c h false []) fun x => (gradRamp x.f.temp (x.f.qr (7#4).toNat).code.toNat x.a0.val.toNat x.d0.val.toNat).2) := by
  let s := lane79.modFibre 4 fun f => { f with qtemp := 0x3F800000#32 }
  exact ⟨s, ctx s, ⟨lane_ok (by decide +kernel), by unfold NoFpTrap; decide +kernel⟩,
    ⟨lane_ok (by decide +kernel), by decide +kernel, by unfold NoFpTrap; decide +kernel⟩⟩

theorem meets_SoftTransferAndTagResults : ∃ s c,
    LaneReady s c { instr := .qxferOut 8#8 7#4, dst := some (8#8, 1), badOp := decide (7 < (7#4).toNat) } [] ∧
    LaneReady s c (uniForm (.tagRead 0#1 3#8 1#8 0#32) 0#1 3#8 1#8 0#32) [] ∧
    (let h := uniForm (.tagWrite 0#1 3#8 245#8 0xFFFF#32) 0#1 3#8 245#8 0xFFFF#32
     LaneReady s c h [] ∧ ∀ x ∈ s.laneIns c h true [], x.2.a0.val.toNat < 2 ^ 16) ∧
    LaneReady s c { instr := .tagMark 0#1 3#8, nw := 0#1, dst := some (3#8, 1) } [] ∧
    LaneReady s c (uniForm (.tagCopy 0#1 3#8 1#8 0#32) 0#1 3#8 1#8 0#32) [] :=
  ⟨lane79, ctx lane79, lane_ok (by decide +kernel), lane_ok (by decide +kernel), ⟨lane_ok (by decide +kernel), by decide +kernel⟩,
    lane_ok (by decide +kernel), lane_ok (by decide +kernel)⟩

/-! ## What meets the hypotheses of the statements about memory -/

/-- Fibre 4 with addresses: v8:v9 the scratchpad's first byte, v10:v11 byte 0x1000 of global memory, v12:v13 byte 0x1001, v14:v15 the
scratchpad's byte 8. -/
def reaching : State := withRegs weave1
  [(8, 0#32), (9, 0x01FFFFFF#32), (10, 0x1000#32), (11, 0#32), (12, 0x1001#32), (13, 0#32), (14, 8#32), (15, 0x01FFFFFF#32), (1, 7#32)]

/-- `LD128` at the last whole place of the scratchpad, `LDN.S8` at an odd byte of global memory. -/
theorem meets_LaneLoadsComplete : ∃ s c,
    (let h : Form := { instr := .ld128 0#1 20#8 8#8 255#8, dst := some (20#8, 4), a := some (.ap, 8#8) }
     let ins := s.laneIns c h false []
     LaneReady s c h [] ∧ (ins.any fun x => poi x.2.a) = false ∧
       AccessReady (s.laneRead c h false []) c
         (c.laneMem h (.load 16 4 false) (0#1 == 1#1) (20#8).toNat ins ((255#8).toNat * 16) (fun _ => []) (fun _ => []) fun _ => {})) ∧
    (let h : Form := { instr := .ldnS8 1#1 20#8 12#8, dst := some (20#8, 1), a := some (.ap, 12#8) }
     let ins := s.laneIns c h false []
     LaneReady s c h [] ∧ (ins.any fun x => poi x.2.a) = false ∧
       AccessReady (s.laneRead c h false []) c
         (c.laneMem h (.load 1 1 true) (1#1 == 1#1) (20#8).toNat ins ((0#8).toNat * 0) (fun _ => []) (fun _ => []) fun _ => {})) :=
  ⟨reaching, ctx reaching, ⟨lane_ok (by decide +kernel), by decide +kernel, acc_ok (by decide +kernel)⟩,
    ⟨lane_ok (by decide +kernel), by decide +kernel, acc_ok (by decide +kernel)⟩⟩

/-- `ST128` of v0 to v3 in global memory, `STN.B8` at an odd byte, and `STP` to two places of the scratchpad and of global memory. -/
theorem meets_LaneStoresComplete : ∃ s c,
    (let h : Form := { instr := .st128 0#1 0#8 10#8 0#8, a := some (.ap, 10#8), b := some (.xs, 0#8), lit := 0#32 }
     let ins := s.laneIns c h false []
     LaneReady s c h [] ∧ (ins.any fun x => poi x.2.a || poi x.2.b) = false ∧
       AccessReady (s.laneRead c h false []) c
         (c.laneMem h (.store 16) (0#1 == 1#1) 240 ins ((0#8).toNat * 16) (·.b) (fun _ => []) fun _ => {})) ∧
    (let h : Form := { instr := .stnB8 0#1 245#8 12#8 5#32, a := some (.ap, 12#8), b := some (.s, 245#8), lit := 5#32 }
     let ins := s.laneIns c h false []
     LaneReady s c h [] ∧ (ins.any fun x => poi x.2.a || poi x.2.b) = false ∧
       AccessReady (s.laneRead c h false []) c
         (c.laneMem h (.store 1) (0#1 == 1#1) 240 ins ((0#8).toNat * 0) (·.b) (fun _ => []) fun _ => {})) ∧
    (let h : Form := { instr := .stp 1#8 8#8 10#8 0#32, a := some (.ap, 8#8), b := some (.s, 1#8), lit := 0#32,
                       badOp := srcBad c.p.hdr.regs c.v.latches .ap 10#8 }
     let u := s.laneRead c h false [(10#8, 2)]
     let ins := s.laneIns c h false [(10#8, 2)]
     let second (x : LaneIn) : List Reg := readSrc x.f c.p.idx c.v.latches 2 10#8 0#32
     let op := c.laneMem h .stp false 240 ins 0 (·.b) second fun _ => {}
     let l1 := u.laneLocs c.p op false
     let l2 := u.laneLocs c.p op true
     let k1 := checkedLanes op l1 false
     let k2 := checkedLanes op l2 true
     let v := u.cacheAll c.p (op.lanes.map (·.addr) ++ op.lanes.map (·.addr2))
     let v1 := l1.foldl (fun t x => t.putLane c.p op 4 x) (v.recordAcc c.p op k1)
     LaneReady s c h [(10#8, 2)] ∧ latchLost c.v.latches 10#8 = false ∧
       (ins.any fun x => poi x.2.a || poi x.2.b || poi (second x.2)) = false ∧
       u.pairOf c.pid = none ∧ u.logWait op = none ∧ u.refreshWait c.p op = false ∧
       firstStop op (l1.map (fun x => (false, x)) ++ l2.map (fun x => (true, x))) = none ∧ u.kindFaults c.p op l1 false = none ∧
       missing l1 = none ∧ missing l2 = none ∧ u.regionFaults (k1 ++ k2) = [] ∧ u.conflictFaults c.p op k1 = [] ∧
       v1.kindFaults c.p op l2 true = none ∧ v1.conflictFaults c.p op k2 = []) := by
  refine ⟨reaching, ctx reaching, ⟨lane_ok (by decide +kernel), by decide +kernel, acc_ok (by decide +kernel)⟩,
    ⟨lane_ok (by decide +kernel), by decide +kernel, acc_ok (by decide +kernel)⟩, lane_ok (by decide +kernel), ?_⟩
  decide +kernel

/-- The frame of the stores, at the first of these. -/
theorem meets_StoreTouchesItsBytesAlone : ∃ s t c,
    let h : Form := { instr := .st128 0#1 0#8 10#8 0#8, a := some (.ap, 10#8), b := some (.xs, 0#8), lit := 0#32 }
    let ins := s.laneIns c h false []
    LaneReady s c h [] ∧ (ins.any fun x => poi x.2.a || poi x.2.b) = false ∧
      AccessReady (s.laneRead c h false []) c
        (c.laneMem h (.store 16) (0#1 == 1#1) 240 ins ((0#8).toNat * 16) (·.b) (fun _ => []) fun _ => {}) ∧
      exec (.st128 0#1 0#8 10#8 0#8) s = .next t :=
  ⟨reaching, _, ctx reaching, lane_ok (by decide +kernel), by decide +kernel, acc_ok (by decide +kernel), rfl⟩

theorem meets_AtomicsComplete : ∃ s c, ∀ e ∈ ([(.atadd, .add), (.atmaxs, .maxs), (.atmaxz, .maxz), (.atexch, .exch), (.atcas, .cas)] :
      List ((BitVec 1 → BitVec 8 → BitVec 8 → BitVec 8 → Word → Instr) × AtomKind)),
    let h : Form := { instr := e.1 1#1 6#8 10#8 1#8 0#32, dst := some (6#8, 1), a := some (.ap, 10#8), b := some (.s, 1#8), lit := 0#32,
                      bReg := true }
    let cas := e.2 == .cas
    let u := s.laneRead c h cas []
    let ins := s.laneIns c h cas []
    let op := c.laneMem h (.atomic e.2 (1#1 == 1#1)) false (6#8).toNat ins 0 (·.b) (fun _ => []) fun x => if cas then x.d0 else {}
    LaneReady s c h [] ∧ (ins.any fun x => poi x.2.a || poi x.2.b || (cas && x.2.d0.poison)) = false ∧ AccessReady u c op ∧
      ((u.laneLocs c.p op false).all fun x => match x.2 with
        | .mem pl => e.2 == .exch || !(u.reached c.p op).mem.isPoison pl.key
        | _ => false) = true := by
  refine ⟨reaching, ctx reaching, fun e he => ?_⟩
  simp only [List.mem_cons, List.not_mem_nil, or_false] at he
  rcases he with rfl | rfl | rfl | rfl | rfl <;>
    exact ⟨lane_ok (by decide +kernel), by decide +kernel, acc_ok (by decide +kernel), by decide +kernel⟩

theorem meets_UniformAccessesComplete : ∃ s c l0,
    (let h : Form := { instr := .gld 0#1 6#8 8#8 255#8, dst := some (6#8, 1), a := some (.ap, 8#8) }
     let x := s.leadIn c h l0
     GroupReady s c h l0 ∧ poi x.a = false ∧
       AccessReady (s.groupRead c h l0) c (c.groupMem h .gld (0#1 == 1#1) (6#8).toNat x ((255#8).toNat * 4) [])) ∧
    (let h : Form := { instr := .gst 1#1 245#8 10#8 0#8 9#32, a := some (.ap, 10#8), b := some (.s, 245#8), lit := 9#32 }
     let x := s.leadIn c h l0
     GroupReady s c h l0 ∧ (poi x.a || poi x.b) = false ∧
       AccessReady (s.groupRead c h l0) c (c.groupMem h .gst (1#1 == 1#1) 240 x ((0#8).toNat * 4) x.b)) :=
  ⟨reaching, ctx reaching, lead reaching, ⟨group_ok (by decide +kernel), by decide +kernel, acc_ok (by decide +kernel)⟩,
    ⟨group_ok (by decide +kernel), by decide +kernel, acc_ok (by decide +kernel)⟩⟩

/-- Page 3 is window 5 of device 1, which partition 0 may put to. -/
def peered (s : State) : State := s.modPart 0 fun p =>
  { p with senders := [(1029, 0#32)], tlb := (3, { codeLeaf with target := 2#2, frame := 2 ^ 30 + 5 * 2 ^ 20 }) :: p.tlb }

/-- An engine with addresses: k0:k1 the scratchpad's byte 0x100, k2:k3 byte 0x1000 of global memory, k4:k5 byte 0x30000, in a peer's
window, k6:k7 byte 0x1001. -/
def engReaching (k : EngKind) : State :=
  peered (engine1 k [(0, 0x100#32), (1, 0x01FFFFFF#32), (2, 0x1000#32), (4, 0x30000#32), (6, 0x1001#32), (8, 7#32)])

/-- Whether an access of engine 5 leads to a place or a peer. -/
def reachOk (s : State) (x : EngIn) (a : BitVec 64) (n : Nat) (write : Bool) : Bool :=
  let l := s.locate x.p none a n write
  (engFault s x.p a n write l).isNone && (match l with | .notPresent _ => false | _ => true) && !s.locRefresh l

theorem reach_ok {s : State} {x : EngIn} {a : BitVec 64} {n : Nat} {write : Bool} (e : reachOk s x a n write = true) :
    EngReach s x a n write (s.locate x.p none a n write) := by
  simp only [reachOk, Bool.and_eq_true, Bool.not_eq_true', Option.isNone_iff_eq_none] at e
  obtain ⟨⟨h1, h2⟩, h3⟩ := e
  refine ⟨rfl, h1, fun va k => ?_, h3⟩
  rw [k] at h2
  cases h2

/-- On an engine: a load of memory and of a peer, a store to each. -/
theorem meets_UniformAccessesComplete_engine : ∀ k : EngKind, ∃ s v p, v.kind = k ∧
    (∀ a ∈ [0#8, 2#8, 4#8], let h : Form := { instr := .gld 0#1 9#8 a 1#8, dst := some (9#8, 1), a := some (.ap, a) }
      EngReady s 5 v p h ∧ poi (engIn v p h).a = false ∧
        ∃ l, EngReach s (engIn v p h) (pairAddr (engIn v p h).a + BitVec.ofNat 64 ((1#8).toNat * 4)) 4 false l) ∧
    (let h : Form := { instr := .gst 0#1 8#8 2#8 1#8 0#32, a := some (.ap, 2#8), b := some (.s, 8#8), lit := 0#32 }
     EngReady s 5 v p h ∧ poi (engIn v p h).a = false ∧ ∃ pl,
       EngReach s (engIn v p h) (pairAddr (engIn v p h).a + BitVec.ofNat 64 ((1#8).toNat * 4)) 4 true (.mem pl)) ∧
    (let h : Form := { instr := .gst 0#1 8#8 4#8 1#8 0#32, a := some (.ap, 4#8), b := some (.s, 8#8), lit := 0#32 }
     EngReady s 5 v p h ∧ poi (engIn v p h).a = false ∧ ∃ d w o g,
       EngReach s (engIn v p h) (pairAddr (engIn v p h).a + BitVec.ofNat 64 ((1#8).toNat * 4)) 4 true (.peer d w o g)) := by
  intro k
  let s := engReaching k
  refine ⟨s, eng s, engPour s, by cases k <;> decide +kernel, fun a ha => ?_, ?_, ?_⟩
  · simp only [List.mem_cons, List.not_mem_nil, or_false] at ha
    cases k <;> rcases ha with rfl | rfl | rfl <;>
      exact ⟨eng_ok (by decide +kernel), by decide +kernel, _, reach_ok (by decide +kernel)⟩
  · cases k <;> exact ⟨eng_ok (by decide +kernel), by decide +kernel, ⟨0x1004, false, false⟩, by decide +kernel, by decide +kernel,
      (fun _ h => nomatch h), by decide +kernel⟩
  · cases k <;> exact ⟨eng_ok (by decide +kernel), by decide +kernel, 1, 5, 4, false, by decide +kernel, by decide +kernel,
      (fun _ h => nomatch h), by decide +kernel⟩

/-- Whether an access has a misaligned lane. -/
def misOk (u : State) (c : Ctx) (op : MemOp) (n : Nat) : Bool :=
  (u.pairOf c.pid).isNone && (u.logWait op).isNone && ((u.laneLocs c.p op false).all fun x => decide (x.2 ≠ .noncanon))
    && op.lanes.any fun x => decide (x.addr.toNat % n ≠ 0)

theorem mis_ok {u : State} {c : Ctx} {op : MemOp} {n : Nat} (e : misOk u c op n = true) : Misaligned u c op n := by
  simp only [misOk, Bool.and_eq_true, Option.isNone_iff_eq_none, List.all_eq_true, List.any_eq_true, decide_eq_true_eq] at e
  exact ⟨e.1.1.1, e.1.1.2, e.1.2, e.2⟩

theorem meets_MisalignedAccessTraps : ∃ s c l0,
    (let h : Form := { instr := .ldnS16 0#1 20#8 12#8, dst := some (20#8, 1), a := some (.ap, 12#8) }
     let ins := s.laneIns c h false []
     LaneReady s c h [] ∧ (ins.any fun x => poi x.2.a) = false ∧ Misaligned (s.laneRead c h false []) c
       (c.laneMem h (.load 2 1 true) (0#1 == 1#1) (20#8).toNat ins ((0#8).toNat * 0) (fun _ => []) (fun _ => []) fun _ => {}) 2) ∧
    (let h : Form := { instr := .st128 0#1 0#8 14#8 0#8, a := some (.ap, 14#8), b := some (.xs, 0#8), lit := 0#32 }
     let ins := s.laneIns c h false []
     LaneReady s c h [] ∧ (ins.any fun x => poi x.2.a || poi x.2.b) = false ∧ Misaligned (s.laneRead c h false []) c
       (c.laneMem h (.store 16) (0#1 == 1#1) 240 ins ((0#8).toNat * 16) (·.b) (fun _ => []) fun _ => {}) 16) ∧
    (let h : Form := { instr := .atcas 0#1 20#8 12#8 1#8 0#32, dst := some (20#8, 1), a := some (.ap, 12#8), b := some (.s, 1#8),
                       lit := 0#32, bReg := true }
     let ins := s.laneIns c h true []
     LaneReady s c h [] ∧ (ins.any fun x => poi x.2.a || poi x.2.b || (true && x.2.d0.poison)) = false ∧
       Misaligned (s.laneRead c h true []) c
         (c.laneMem h (.atomic .cas (0#1 == 1#1)) false (20#8).toNat ins 0 (·.b) (fun _ => []) fun x => x.d0) 4) ∧
    (let h : Form := { instr := .gld 0#1 6#8 12#8 0#8, dst := some (6#8, 1), a := some (.ap, 12#8) }
     let x := s.leadIn c h l0
     GroupReady s c h l0 ∧ poi x.a = false ∧
       Misaligned (s.groupRead c h l0) c (c.groupMem h .gld (0#1 == 1#1) (6#8).toNat x ((0#8).toNat * 4) []) 4) :=
  ⟨reaching, ctx reaching, lead reaching, ⟨lane_ok (by decide +kernel), by decide +kernel, mis_ok (by decide +kernel)⟩,
    ⟨lane_ok (by decide +kernel), by decide +kernel, mis_ok (by decide +kernel)⟩,
    ⟨lane_ok (by decide +kernel), by decide +kernel, mis_ok (by decide +kernel)⟩,
    ⟨group_ok (by decide +kernel), by decide +kernel, mis_ok (by decide +kernel)⟩⟩

/-- `STP` whose second address alone is misaligned, and an engine's misaligned access. -/
theorem meets_MisalignedAccessTraps_both :
    (∃ s c, let h : Form := { instr := .stp 1#8 8#8 12#8 0#32, a := some (.ap, 8#8), b := some (.s, 1#8), lit := 0#32,
                              badOp := srcBad c.p.hdr.regs c.v.latches .ap 12#8 }
      let u := s.laneRead c h false [(12#8, 2)]
      let ins := s.laneIns c h false [(12#8, 2)]
      let second (x : LaneIn) : List Reg := readSrc x.f c.p.idx c.v.latches 2 12#8 0#32
      let op := c.laneMem h .stp false 240 ins 0 (·.b) second fun _ => {}
      let m1 := (op.lanes.filter fun x => x.addr.toNat % 4 != 0).map (·.lane)
      let m2 := (op.lanes.filter fun x => x.addr2.toNat % 4 != 0).map (·.lane)
      LaneReady s c h [(12#8, 2)] ∧ latchLost c.v.latches 12#8 = false ∧
        (ins.any fun x => poi x.2.a || poi x.2.b || poi (second x.2)) = false ∧ u.pairOf c.pid = none ∧ u.logWait op = none ∧
        (∀ x ∈ u.laneLocs c.p op false ++ u.laneLocs c.p op true, x.2 ≠ .noncanon) ∧ m1 ++ m2 ≠ []) ∧
    (∀ k, ∃ s v p, let h : Form := { instr := .gst 0#1 8#8 6#8 0#8 0#32, a := some (.ap, 6#8), b := some (.s, 8#8), lit := 0#32 }
      let at_ := pairAddr (engIn v p h).a + BitVec.ofNat 64 ((0#8).toNat * 4)
      EngReady s 5 v p h ∧ poi (engIn v p h).a = false ∧ at_.toNat % 4 ≠ 0 ∧ s.locate p none at_ 4 true ≠ .noncanon ∧ v.kind = k) := by
  refine ⟨⟨reaching, ctx reaching, lane_ok (by decide +kernel), ?_⟩, fun k => ⟨engReaching k, eng (engReaching k), engPour (engReaching k), ?_⟩⟩
  · decide +kernel
  · cases k <;> exact ⟨eng_ok (by decide +kernel), by decide +kernel, by decide +kernel, by decide +kernel, by decide +kernel⟩

/-- Shape registers, a record's image and an edge's descriptor at 0x1001, on a weave; a shape register and an image on an engine. -/
theorem meets_MisalignedAccessTraps_wide :
    (∃ s c l0,
      (let h : Form := { instr := .shld 3#4 12#8, a := some (.ap, 12#8) }
       let u := s.groupRead c h l0
       let x := s.leadIn c h l0
       GroupReady s c h l0 ∧ poi x.a = false ∧ u.shapeBusy c.pid (3#4).toNat = false ∧
         Misaligned u c (shapePieces (c.groupMem h (.shld (3#4).toNat) false 240 x 0 [])) 32) ∧
      (let h : Form := { instr := .shst 3#4 12#8, a := some (.ap, 12#8) }
       let u := s.groupRead c h l0
       let x := s.leadIn c h l0
       let whole := c.groupMem h (.shst 96) false 240 x 0 (shapeWords (c.p.shape (3#4).toNat))
       let pieces := { shapePieces whole with kind := .shst 32 }
       GroupReady s c h l0 ∧ Misaligned u c (if onePeer ((u.laneLocs c.p pieces false).map (·.2)) then whole else pieces) 32) ∧
      (let h : Form := { instr := .tspawn 20#8 12#8, dst := some (20#8, 1), a := some (.ap, 12#8) }
       let u := s.groupRead c h l0
       let x := s.leadIn c h l0
       GroupReady s c h l0 ∧ poi x.a = false ∧ Misaligned u c (c.groupMem h .tspawn false (20#8).toNat x 0 []) 64) ∧
      (let h := fibreOnly { instr := .epush 12#8 0#8, a := some (.ap, 12#8), b := some (.xs, 0#8), bReg := true }
       let u := s.groupRead c h l0
       let x := s.leadIn c h l0
       GroupReady s c h l0 ∧ poi (x.a ++ x.b) = false ∧ u.syncWait c.w = none ∧ u.pairOf c.pid = none ∧ (pairAddr x.a).toNat % 64 ≠ 0) ∧
      (let h := fibreOnly { instr := .epop 20#8 12#8, dst := some (20#8, 4), a := some (.ap, 12#8) }
       let u := s.groupRead c h l0
       let x := s.leadIn c h l0
       GroupReady s c h l0 ∧ poi x.a = false ∧ u.syncWait c.w = none ∧ u.pairOf c.pid = none ∧ (pairAddr x.a).toNat % 64 ≠ 0)) ∧
    (∀ k, ∃ s v p,
      let bad (h : Form) (align bytes : Nat) (write : Bool) : Prop :=
        let at_ := pairAddr (engIn v p h).a
        EngReady s 5 v p h ∧ poi (engIn v p h).a = false ∧ at_.toNat % align ≠ 0 ∧ s.locate p none at_ bytes write ≠ .noncanon
      v.kind = k ∧ s.shapeBusy v.pour (3#4).toNat = false ∧ bad { instr := .shld 3#4 6#8, a := some (.ap, 6#8) } 32 32 false ∧
        bad { instr := .shst 3#4 6#8, a := some (.ap, 6#8) } 32 32 true ∧
        bad { instr := .tspawn 3#8 6#8, dst := some (3#8, 1), a := some (.ap, 6#8) } 64 64 false) := by
  refine ⟨⟨reaching, ctx reaching, lead reaching, ⟨group_ok (by decide +kernel), by decide +kernel, by decide +kernel, mis_ok (by decide +kernel)⟩,
    ⟨group_ok (by decide +kernel), mis_ok (by decide +kernel)⟩, ⟨group_ok (by decide +kernel), by decide +kernel, mis_ok (by decide +kernel)⟩,
    ⟨group_ok (by decide +kernel), by decide +kernel, by decide +kernel, by decide +kernel, by decide +kernel⟩,
    ⟨group_ok (by decide +kernel), by decide +kernel, by decide +kernel, by decide +kernel, by decide +kernel⟩⟩,
    fun k => ⟨engReaching k, eng (engReaching k), engPour (engReaching k), ?_⟩⟩
  cases k <;> exact ⟨by decide +kernel, by decide +kernel,
    ⟨eng_ok (by decide +kernel), by decide +kernel, by decide +kernel, by decide +kernel⟩,
    ⟨eng_ok (by decide +kernel), by decide +kernel, by decide +kernel, by decide +kernel⟩,
    ⟨eng_ok (by decide +kernel), by decide +kernel, by decide +kernel, by decide +kernel⟩⟩

theorem meets_MemoryKeepsWhatIsStored : ∃ m : Memory, m.flips = [] ∧ m.wf = true ∧ m.bytes ≠ [] :=
  ⟨reaching.mem, by decide +kernel, by decide +kernel, by decide +kernel⟩

/-! ## What meets the hypotheses of the statements about control, engines and synchronization -/

/-- Two fibres, p1 set in fibre 4 alone; fibre 4's v7 is zero. -/
def two : State := (addLane weave1 7 1 [(7, 1#32)]).modFibre 4 fun f => f.setP 1 true

/-- `BRP` with p0, which every lane has, both senses; with p1, which one lane has. -/
theorem meets_BranchesMoveTheWeave : ∃ s c l0,
    (∀ o, GroupReady s c { instr := .br o } l0) ∧ (∀ o, GroupReady s c { instr := .call o } l0) ∧ GroupReady s c { instr := .ret } l0 ∧
    (let h : Form := { instr := .brx 3#8 0#32, a := some (.s, 3#8), lit := 0#32 }
     GroupReady s c h l0 ∧ poi (s.leadIn c h l0).a = false) ∧
    (let h : Form := { instr := .bru 7#8 4#17, a := some (.s, 7#8), badOp := 7#8 == 245#8 }
     GroupReady s c h l0 ∧ poi (s.leadIn c h l0).a = false ∧ (s.leadIn c h l0).a0.val = 0#32) ∧
    (let h : Form := { instr := .bru 1#8 4#17, a := some (.s, 1#8), badOp := 1#8 == 245#8 }
     GroupReady s c h l0 ∧ poi (s.leadIn c h l0).a = false) ∧
    (∀ k sense o, GroupReady s c { instr := .brp k sense o } l0) ∧
    (c.acts.filter fun e => e.2.p (0#4).toNat != (1#1 == 1#1)) = [] ∧
    ((c.acts.filter fun e => e.2.p (0#4).toNat != (0#1 == 1#1)) ≠ [] ∧ (c.acts.filter fun e => e.2.p (0#4).toNat == (0#1 == 1#1)) = []) ∧
    ((c.acts.filter fun e => e.2.p (1#4).toNat != (1#1 == 1#1)) ≠ [] ∧ (c.acts.filter fun e => e.2.p (1#4).toNat == (1#1 == 1#1)) ≠ [] ∧
      s.unmatched c.w = false) := by
  have g := fun i => group_instr i (group_ok (s := two) (h := { instr := .nop }) (by decide +kernel))
  exact ⟨two, ctx two, lead two, fun _ => g _, fun _ => g _, g _, ⟨group_ok (by decide +kernel), by decide +kernel⟩,
    ⟨group_ok (by decide +kernel), by decide +kernel, by decide +kernel⟩, ⟨group_ok (by decide +kernel), by decide +kernel⟩,
    fun _ _ _ => g _, by decide +kernel, ⟨by decide +kernel, by decide +kernel⟩, by decide +kernel, by decide +kernel, by decide +kernel⟩

/-- On the Ladle and on the Runner. -/
theorem meets_EngineControlCompletes : ∀ k : EngKind, ∃ s v p, v.kind = k ∧
    EngReady s 5 v p { instr := .br 1#25 } ∧ EngReady s 5 v p { instr := .call 1#25 } ∧ EngReady s 5 v p { instr := .ret } ∧
    EngReady s 5 v p { instr := .brp 1#4 1#1 5#20 } ∧ EngReady s 5 v p { instr := .nop } ∧
    (let h : Form := { instr := .brx 3#8 0#32, a := some (.s, 3#8), lit := 0#32 }
     EngReady s 5 v p h ∧ poi (engIn v p h).a = false) ∧
    (let h : Form := { instr := .bru 7#8 4#17, a := some (.s, 7#8), badOp := 7#8 == 245#8 }
     EngReady s 5 v p h ∧ poi (engIn v p h).a = false) ∧
    EngReady s 5 v p (intForm (.gadd 0#1 15#8 1#8 245#8 9#32) 0#1 15#8 1#8 245#8 9#32) ∧
    EngReady s 5 v p (uniForm (.gaddi 0#1 15#8 1#8 (-128) 0#32) 0#1 15#8 1#8 0#32) ∧
    EngReady s 5 v p { instr := .gadd64 0#1 14#8 0#8 245#8 9#32, nw := 0#1, dst := some (14#8, 2), a := some (.ws, 0#8),
                       b := some (.ws, 245#8), lit := 9#32 } ∧
    (let h := cmpForm (.gcmps 2#4 1#4 1#8 2#8 0#32) 2#4 1#8 2#8 0#32
     EngReady s 5 v p h ∧ poi ((engIn v p h).a ++ (engIn v p h).b) = false) ∧
    EngReady s 5 v p { s.crForm (.get 3#8 0x0E#8) (0x0E#8).toNat with dst := some (3#8, 1) } ∧
    (let h := { s.crForm (.set 1#8 0x0E#8 0#32) 0x0E with a := some (.s, 1#8), lit := 0#32 }
     EngReady s 5 v p h ∧ poi (engIn v p h).a = false) := by
  intro k
  cases k
  · let s := engine1 .ladle [(1, 7#32)]
    exact ⟨s, eng s, engPour s, by decide +kernel, eng_ok (by decide +kernel), eng_ok (by decide +kernel), eng_ok (by decide +kernel), eng_ok (by decide +kernel),
      eng_ok (by decide +kernel), ⟨eng_ok (by decide +kernel), by decide +kernel⟩, ⟨eng_ok (by decide +kernel), by decide +kernel⟩,
      eng_ok (by decide +kernel), eng_ok (by decide +kernel), eng_ok (by decide +kernel), ⟨eng_ok (by decide +kernel), by decide +kernel⟩,
      eng_ok (by decide +kernel), ⟨eng_ok (by decide +kernel), by decide +kernel⟩⟩
  · let s := engine1 .runner [(1, 7#32)]
    exact ⟨s, eng s, engPour s, by decide +kernel, eng_ok (by decide +kernel), eng_ok (by decide +kernel), eng_ok (by decide +kernel), eng_ok (by decide +kernel),
      eng_ok (by decide +kernel), ⟨eng_ok (by decide +kernel), by decide +kernel⟩, ⟨eng_ok (by decide +kernel), by decide +kernel⟩,
      eng_ok (by decide +kernel), eng_ok (by decide +kernel), eng_ok (by decide +kernel), ⟨eng_ok (by decide +kernel), by decide +kernel⟩,
      eng_ok (by decide +kernel), ⟨eng_ok (by decide +kernel), by decide +kernel⟩⟩

theorem meets_UniformArithmeticCompletes : ∃ s c l0,
    GroupReady s c (intForm (.gadd 0#1 63#8 1#8 2#8 0#32) 0#1 63#8 1#8 2#8 0#32) l0 ∧
    GroupReady s c (uniForm (.gaddi 1#1 2#8 1#8 (-128) 0#32) 1#1 2#8 1#8 0#32) l0 ∧
    GroupReady s c { instr := .gadd64 0#1 62#8 4#8 245#8 0xFFFFFFC0#32, nw := 0#1, dst := some (62#8, 2), a := some (.ws, 4#8),
                     b := some (.ws, 245#8), lit := 0xFFFFFFC0#32 } l0 ∧
    (let h := cmpForm (.gcmpz 12#4 2#4 1#8 2#8 0#32) 12#4 1#8 2#8 0#32
     let x := s.leadIn c h l0
     GroupReady s c h l0 ∧ poi (x.a ++ x.b) = false) :=
  ⟨two, ctx two, lead two, group_ok (by decide +kernel), group_ok (by decide +kernel), group_ok (by decide +kernel),
    group_ok (by decide +kernel), by decide +kernel⟩

/-- `GUARD` at both ends of its count. -/
theorem meets_WindowsYieldsAndNothing : ∃ s c l0, GroupReady s c (fibreOnly { instr := .yield }) l0 ∧
    GroupReady s c (fibreOnly { instr := .guard 1#1 1#4 1#8, badOp := 1#8 == 0#8 || decide (8 < (1#8).toNat) }) l0 ∧
    GroupReady s c (fibreOnly { instr := .guard 0#1 1#4 8#8, badOp := 8#8 == 0#8 || decide (8 < (8#8).toNat) }) l0 ∧
    (let h := fibreOnly { instr := .memb 245#8 1#32, a := some (.s, 245#8), lit := 1#32 }
     GroupReady s c h l0 ∧ poi (s.leadIn c h l0).a = false) ∧
    GroupReady s c { instr := .nop } l0 :=
  ⟨two, ctx two, lead two, group_ok (by decide +kernel), group_ok (by decide +kernel), group_ok (by decide +kernel),
    ⟨group_ok (by decide +kernel), by decide +kernel⟩, group_ok (by decide +kernel)⟩

/-- `GET` of every register of the table, `SET` of each with no reserved bit. -/
theorem meets_ControlRegistersReadAndWrite : ∃ s c l0,
    (∀ r < 18, GroupReady s c { s.crForm (.get 4#8 (BitVec.ofNat 8 r)) (BitVec.ofNat 8 r).toNat with dst := some (4#8, 1) } l0) ∧
    (∀ r < 18, let h := { s.crForm (.set 245#8 (BitVec.ofNat 8 r) 3#32) (BitVec.ofNat 8 r).toNat with a := some (.s, 245#8), lit := 3#32 }
      let v := (s.leadIn c h l0).a0.val
      GroupReady s c h l0 ∧ poi (s.leadIn c h l0).a = false ∧
        ((decide (BitVec.ofNat 8 r = 0x00#8) && decide (v.toNat ≥ 2 ^ 13)) ||
          ((decide (BitVec.ofNat 8 r = 0x01#8) || decide (BitVec.ofNat 8 r = 0x03#8)) && decide (v.toNat ≥ 4))) = false) := by
  refine ⟨two, ctx two, lead two, fun r hr => ?_, fun r hr => ?_⟩
  · have h : (List.range 18).all (fun r => groupOk two { two.crForm (.get 4#8 (BitVec.ofNat 8 r)) (BitVec.ofNat 8 r).toNat with
        dst := some (4#8, 1) }) = true := by decide +kernel
    exact group_ok (List.all_eq_true.mp h r (List.mem_range.mpr hr))
  · have h : (List.range 18).all (fun r =>
        let h := { two.crForm (.set 245#8 (BitVec.ofNat 8 r) 3#32) (BitVec.ofNat 8 r).toNat with a := some (.s, 245#8), lit := 3#32 }
        let v := (two.leadIn (ctx two) h (lead two)).a0.val
        groupOk two h && !poi (two.leadIn (ctx two) h (lead two)).a &&
          !((decide (BitVec.ofNat 8 r = 0x00#8) && decide (v.toNat ≥ 2 ^ 13)) ||
            ((decide (BitVec.ofNat 8 r = 0x01#8) || decide (BitVec.ofNat 8 r = 0x03#8)) && decide (v.toNat ≥ 4)))) = true := by
      decide +kernel
    have e := List.all_eq_true.mp h r (List.mem_range.mpr hr)
    simp only [Bool.and_eq_true, Bool.not_eq_true'] at e
    exact ⟨group_ok e.1.1, e.1.2, e.2⟩

/-- Kernel debug locked, and unlocked; on the weave and on both engines. -/
theorem meets_TrapAndBreakpointInstructions :
    (∀ b, ∃ s c l0 p, GroupReady s c { instr := .trap 7#8 } l0 ∧ GroupReady s c { instr := .bkpt 7#8 } l0 ∧ s.pairOf c.pid = none ∧
      s.pour? c.pid = some p ∧ (s.part p.part).active = b) ∧
    (∀ k b, ∃ s v p, EngReady s 5 v p { instr := .trap 7#8 } ∧ EngReady s 5 v p { instr := .bkpt 7#8 } ∧ s.pairOf v.pour = none ∧
      (s.part p.part).active = b ∧ v.kind = k) := by
  constructor
  · intro b
    let s := two.modPart 0 fun p => { p with active := b }
    cases b
    · exact ⟨s, ctx s, lead s, (ctx s).p, group_ok (by decide +kernel), group_ok (by decide +kernel), by decide +kernel, by decide +kernel,
        by decide +kernel⟩
    · exact ⟨s, ctx s, lead s, (ctx s).p, group_ok (by decide +kernel), group_ok (by decide +kernel), by decide +kernel, by decide +kernel,
        by decide +kernel⟩
  · intro k b
    let s := (engine1 k []).modPart 0 fun p => { p with active := b }
    cases k <;> cases b <;>
      exact ⟨s, eng s, engPour s, eng_ok (by decide +kernel), eng_ok (by decide +kernel), by decide +kernel, by decide +kernel,
        by decide +kernel⟩

/-- A word of each fate of 09 R200 on a weave: HRET outside the handler, MZERO, a code 246, and a latch that holds no entry, as A and
as B; of each on an engine: a set NW bit, HALT's fellow YIELD, MZERO on a Runner, a code 64. -/
theorem meets_TakingATrap_fates :
    (∃ (s : State) (c : Ctx), s.turn = .weave c.w ∧ s.ctxOf c.w = some c ∧ c.acts ≠ [] ∧
      (∃ i h, h.instr = i ∧ (∃ fib eng, exec i s = s.groupOp h fib eng) ∧ h.bad = true) ∧
      (∃ i h, h.instr = i ∧ (∃ fib eng, exec i s = s.groupOp h fib eng) ∧ h.bad = false ∧ h.fibre = true ∧ c.v.guard = none ∧
        h.only = true) ∧
      (∃ i h, h.instr = i ∧ (∃ acc extra body, exec i s = s.laneOp h acc extra body) ∧ h.bad = false ∧ h.fibre = true ∧ h.only = false ∧
        h.OperandIllegal c.p.hdr.regs c.v.latches) ∧
      (∀ onA : Bool, ∃ i h, h.instr = i ∧ (∃ acc extra body, exec i s = s.laneOp h acc extra body) ∧ h.bad = false ∧ h.fibre = true ∧
        h.only = false ∧ h.operandBad c.p.hdr.regs c.v.latches = false ∧ SourceLost c.v.latches (if onA then h.a else h.b) ∧
        (onA = false → srcLost c.v.latches h.a = false))) ∧
    (∀ kind : EngKind, ∃ (s : State) (e : Nat) (v : Engine) (p : Pour), s.turn = .engine e ∧ s.engine? e = some v ∧
      s.pour? v.pour = some p ∧ v.running = true ∧ v.kind = kind ∧
      (∃ i h, (∃ fib eng, exec i s = s.groupOp h fib eng) ∧ h.nw = 1#1) ∧
      (∃ i h, (∃ fib eng, exec i s = s.groupOp h fib eng) ∧ (h.bad = false ∧ h.nw = 0#1) ∧ h.mayRun v.kind = false) ∧
      (∃ i h, (∃ fib eng, exec i s = s.groupOp h fib eng) ∧ (h.bad = false ∧ h.nw = 0#1) ∧ h.mayRun v.kind = true ∧
        h.EngineIllegal v.kind.regs)) := by
  refine ⟨⟨two, ctx two, by decide +kernel, by decide +kernel, by decide +kernel,
      ⟨.hret, fibreOnly { instr := .hret, bad := true }, rfl, ⟨fun s c _ => s.hret c.w, noEngine, by rfl⟩, rfl⟩, ?_,
      ⟨.iadd 0#1 1#8 246#8 2#8 0#32, intForm (.iadd 0#1 1#8 246#8 2#8 0#32) 0#1 1#8 246#8 2#8 0#32, rfl, ⟨_, _, _, by rfl⟩, rfl, rfl, rfl,
        .inr (.inr (.inl ⟨.s, 246#8, .inl rfl, by simp [SourceIllegal]⟩))⟩, ?_⟩, ?_⟩
  · have h (s : State) : ∃ fib eng, exec (.mzero 0#3 0#3) s = s.groupOp (ladleOnly { instr := .mzero 0#3 0#3 }) fib eng := ⟨_, _, rfl⟩
    exact ⟨.mzero 0#3 0#3, ladleOnly { instr := .mzero 0#3 0#3 }, rfl, h two, rfl, rfl, by decide +kernel, rfl⟩
  · rintro (_ | _)
    · exact ⟨.iadd 0#1 1#8 2#8 248#8 0#32, intForm (.iadd 0#1 1#8 2#8 248#8 0#32) 0#1 1#8 2#8 248#8 0#32, rfl, ⟨_, _, _, by rfl⟩, rfl, rfl, rfl,
        by decide +kernel, ⟨.s, 248#8, rfl, by decide, fun e h => by cases h⟩, fun _ => by decide +kernel⟩
    · exact ⟨.iadd 0#1 1#8 248#8 2#8 0#32, intForm (.iadd 0#1 1#8 248#8 2#8 0#32) 0#1 1#8 248#8 2#8 0#32, rfl, ⟨_, _, _, by rfl⟩, rfl, rfl, rfl,
        by decide +kernel, ⟨.s, 248#8, rfl, by decide, fun e h => by cases h⟩, by decide⟩
  · intro kind
    let s := engine1 kind [(1, 7#32)]
    have add (n : BitVec 1) (d : BitVec 8) (s : State) : ∃ fib eng, exec (.gadd n d 2#8 3#8 0#32) s =
        s.groupOp (intForm (.gadd n d 2#8 3#8 0#32) n d 2#8 3#8 0#32) fib eng := ⟨_, _, rfl⟩
    have yield (s : State) : ∃ fib eng, exec .yield s = s.groupOp (fibreOnly { instr := .yield }) fib eng := ⟨_, _, rfl⟩
    refine ⟨s, 5, eng s, engPour s, by cases kind <;> decide +kernel, by cases kind <;> decide +kernel, by cases kind <;> decide +kernel,
      by cases kind <;> decide +kernel, by cases kind <;> decide +kernel,
      ⟨_, _, add 1#1 1#8 s, rfl⟩, ⟨_, _, yield s, ⟨rfl, rfl⟩, by cases kind <;> rfl⟩,
      ⟨_, _, add 0#1 64#8 s, ⟨rfl, rfl⟩,
        by cases kind <;> rfl, .inr (.inl ⟨64#8, 1, rfl, by decide, .inl (by decide)⟩)⟩⟩

/-- Fibre 7 alone excluded, and a window that leaves no lane active. -/
theorem meets_TakingATrapEntersTheHandler : ∀ excl ∈ [2#32, 3#32], ∃ (s : State) (w : Nat) (v : Weave) (p : Pour) (hent : Nat) (i : TrapInfo),
    let acts := if s.actives w = [] then s.movers w else s.actives w
    s.weave? w = some v ∧ s.pour? v.pour = some p ∧ s.pairOf v.pour = none ∧ p.hdr.hent = some hent ∧ i.cause ≠ cPoison ∧
    (∀ e ∈ acts, e.2.saved = none) ∧ acts ≠ [] ∧ (s.actives w = [] ↔ excl = 3#32) := by
  intro excl h
  simp only [List.mem_cons, List.not_mem_nil, or_false] at h
  rcases h with rfl | rfl
  · let s := two.modWeave 3 fun v => { v with guard := some { excl := 2#32, left := 1 } }
    exact ⟨s, 3, (ctx s).v, (ctx s).p, 1, { cause := cMisalign, mask := 3#32, pc := 0 }, by decide +kernel, by decide +kernel,
      by decide +kernel, by decide +kernel, by decide +kernel, by decide +kernel, by decide +kernel, by decide +kernel⟩
  · let s := two.modWeave 3 fun v => { v with guard := some { excl := 3#32, left := 1 } }
    exact ⟨s, 3, (ctx s).v, (ctx s).p, 1, { cause := cMisalign, mask := 3#32, pc := 0 }, by decide +kernel, by decide +kernel,
      by decide +kernel, by decide +kernel, by decide +kernel, by decide +kernel, by decide +kernel, by decide +kernel⟩

/-- A fibre in the handler, at word 2, which `TRAP` at word 5 has entered. -/
def handling : State := weave1.modFibre 4 fun f =>
  { f with saved := some 0#2, pc := 2, tinfo := [1#32, BitVec.ofNat 32 (2 * 2 ^ 27 + 5), 7#32, 0#32, 0xFFF0FFF0#32, 0#32] }

theorem meets_SecondTrapEndsTheRequest : ∃ (s : State) (w : Nat) (v : Weave) (p : Pour), s.weave? w = some v ∧ s.pour? v.pour = some p ∧
    let acts := if s.actives w = [] then s.movers w else s.actives w
    s.pairOf v.pour = none ∧ (∃ e ∈ acts, e.2.saved ≠ none) :=
  ⟨handling, 3, (ctx handling).v, (ctx handling).p, by decide +kernel, by decide +kernel, by decide +kernel, by decide +kernel⟩

/-- A kernel without a handler (13 R299). -/
theorem meets_SecondTrapWithoutHandler : ∃ (s : State) (w : Nat) (v : Weave) (p : Pour), s.weave? w = some v ∧ s.pour? v.pour = some p ∧
    s.pairOf v.pour = none ∧ p.hdr.hent = none := by
  let s := weave1.modPour 2 fun p => { p with hdr := { p.hdr with hent := none } }
  exact ⟨s, 3, (ctx s).v, (ctx s).p, by decide +kernel, by decide +kernel, by decide +kernel, by decide +kernel⟩

theorem meets_ReturnLeavesTheHandler : ∃ s c l0, GroupReady s c (fibreOnly { instr := .hret, bad := !s.mayHret c.w }) l0 ∧
    (∃ e ∈ s.byLane c.w, e.2.status = .run ∧ e.2.saved ≠ none) :=
  ⟨handling, ctx handling, lead handling, group_ok (by decide +kernel), by decide +kernel⟩

theorem meets_FibresEndAndSpawn : ∃ s c l0, GroupReady s c (fibreOnly { instr := .fend }) l0 ∧ s.heldOf c.w = [] ∧ s.pairOf c.pid = none ∧
    (let h := fibreOnly { instr := .fspawn 8#8 245#8 40#32, dst := some (8#8, 1), a := some (.s, 245#8), lit := 40#32 }
     GroupReady s c h l0 ∧ poi (s.leadIn c h l0).a = false ∧ (s.groupRead c h l0).syncWait c.w = none) :=
  ⟨two, ctx two, lead two, group_ok (by decide +kernel), by decide +kernel, by decide +kernel, group_ok (by decide +kernel),
    by decide +kernel, by decide +kernel⟩

/-- Lane 0 is a serial mode's runner, alone at its level. -/
def serial1 (n depth : Nat) : State :=
  ((addLane weave1 7 1 []).modFibre 4 fun f => { f with outer := List.replicate depth none }).modWeave 3 fun v =>
    { v with serial := [{ jreg := n, members := 3#32, runner := some 0, depths := [(4, 0), (7, 0)] }] }

/-- At depth 7 the level still links, and at depth 8 it does not (a kernel with 8 rejoin levels), outside serial mode and in it. -/
theorem meets_RejoinRegistersArmAndRead :
    (∀ b d, ∃ s c l0, let r := c.v.j.getD (7#3).toNat {}
      let ms := if c.v.serial.isEmpty then (s.byLane c.w).filter fun e => !e.2.status.isParked else s.movers c.w
      GroupReady s c (fibreOnly { instr := .jarm 7#3 }) l0 ∧ r.state ≠ 1#2 ∧ r.state ≠ 2#2 ∧ c.v.serial.isEmpty = b ∧ ms ≠ [] ∧
      (d = true → ∀ e ∈ ms, e.2.depth + 1 ≤ c.p.hdr.rejoin) ∧ (d = false → ∃ e ∈ ms, c.p.hdr.rejoin < e.2.depth + 1)) ∧
    (∃ s c l0, GroupReady s c (fibreOnly { instr := .jget 6#8 7#3 3#8, dst := some (6#8, 1), badOp := decide (3 < (3#8).toNat) }) l0) := by
  let s (n : Nat) := weave1.modFibre 4 fun f => { f with outer := List.replicate n none }
  refine ⟨fun b d => ?_, s 7, ctx (s 7), lead (s 7), group_ok (by decide +kernel)⟩
  cases b <;> cases d
  · exact ⟨serial1 1 8, ctx (serial1 1 8), lead (serial1 1 8), group_ok (by decide +kernel), by decide +kernel, by decide +kernel,
      by decide +kernel, by decide +kernel, (nomatch ·), fun _ => by decide +kernel⟩
  · exact ⟨serial1 1 7, ctx (serial1 1 7), lead (serial1 1 7), group_ok (by decide +kernel), by decide +kernel, by decide +kernel,
      by decide +kernel, by decide +kernel, fun _ => by decide +kernel, (nomatch ·)⟩
  · exact ⟨s 8, ctx (s 8), lead (s 8), group_ok (by decide +kernel), by decide +kernel, by decide +kernel, by decide +kernel,
      by decide +kernel, (nomatch ·), fun _ => by decide +kernel⟩
  · exact ⟨s 7, ctx (s 7), lead (s 7), group_ok (by decide +kernel), by decide +kernel, by decide +kernel, by decide +kernel,
      by decide +kernel, fun _ => by decide +kernel, (nomatch ·)⟩

/-- A fibre's link names a register. -/
theorem links_of {c : Ctx} {n : Nat} (h : c.acts.all (fun e => match e.2.link with | some k => k.jreg == n | none => false) = true) :
    ∀ e ∈ c.acts, ∃ k, e.2.link = some k ∧ k.jreg = n := by
  intro e he
  have := List.all_eq_true.mp h e he
  cases k : e.2.link with
  | none => simp [k] at this
  | some l => exact ⟨l, rfl, by simpa [k] using this⟩

/-- A linked fibre, with the largest timeout, outside serial mode and as a runner below its serial level; and a runner at that level. -/
theorem meets_JoinResolvesEachFibre :
    let h := fibreOnly { instr := .join 1#3 245#8 0xFFFF#32, a := some (.s, 245#8), lit := 0xFFFF#32 }
    (∀ b, ∃ s c l0, GroupReady s c h l0 ∧ poi (s.leadIn c h l0).a = false ∧ (s.leadIn c h l0).a0.val.toNat < 2 ^ 16 ∧
      (s.groupRead c h l0).syncWait c.w = none ∧ c.v.serial.isEmpty = b ∧ (c.v.levelOf l0.2.lane).isNone = b ∧
      (∀ sr, c.v.levelOf l0.2.lane = some sr → sr.meets l0.1 l0.2 = false) ∧
      (∀ e ∈ c.acts, ∃ k, e.2.link = some k ∧ k.jreg = (1#3).toNat)) ∧
    (∃ s c l0 sr, GroupReady s c h l0 ∧ poi (s.leadIn c h l0).a = false ∧ (s.leadIn c h l0).a0.val.toNat < 2 ^ 16 ∧
      (s.groupRead c h l0).syncWait c.w = none ∧ c.v.levelOf l0.2.lane = some sr ∧ sr.meets l0.1 l0.2 = true ∧ sr.jreg = (1#3).toNat) := by
  let lk (s : State) := s.modFibre 4 fun f => { f with link := some { weave := 3, jreg := 1, gen := 1#8, stale := false }, outer := [none] }
  let t := lk (serial1 2 0)
  refine ⟨fun b => ?_, serial1 1 0, ctx (serial1 1 0), lead (serial1 1 0), _, group_ok (by decide +kernel), by decide +kernel,
    by decide +kernel, by decide +kernel, rfl, by decide +kernel, by decide +kernel⟩
  cases b
  · refine ⟨t, ctx t, lead t, group_ok (by decide +kernel), by decide +kernel, by decide +kernel, by decide +kernel, by decide +kernel,
      by decide +kernel, fun sr e => ?_, links_of (by decide +kernel)⟩
    have k : ((ctx t).v.levelOf (lead t).2.lane).all (fun sr => !sr.meets (lead t).1 (lead t).2) = true := by decide +kernel
    rw [e] at k
    simpa using k
  · refine ⟨lk weave1, ctx (lk weave1), lead (lk weave1), group_ok (by decide +kernel), by decide +kernel, by decide +kernel,
      by decide +kernel, by decide +kernel, by decide +kernel, fun sr e => ?_, links_of (by decide +kernel)⟩
    have k : ((ctx (lk weave1)).v.levelOf (lead (lk weave1)).2.lane).isNone = true := by decide +kernel
    rw [e] at k
    cases k

/-- `CJOIN` of the highest crew. -/
theorem meets_CrewsBarriersAndMeetings :
    (∃ s c l0, (let h := fibreOnly { instr := .cjoin 245#8 15#32, a := some (.s, 245#8), lit := 15#32 }
      GroupReady s c h l0 ∧ poi (s.leadIn c h l0).a = false ∧ (s.leadIn c h l0).a0.val.toNat < 16) ∧
      GroupReady s c (fibreOnly { instr := .cleave }) l0 ∧ GroupReady s c (fibreOnly { instr := .bar }) l0 ∧
      GroupReady s c { instr := .rdv } l0 ∧ s.syncWait c.w = none) ∧
    (∀ k : EngKind, ∃ s v p, EngReady s 5 v p { instr := .rdv } ∧ v.kind = k) := by
  refine ⟨⟨two, ctx two, lead two, ⟨group_ok (by decide +kernel), by decide +kernel, by decide +kernel⟩, group_ok (by decide +kernel),
    group_ok (by decide +kernel), group_ok (by decide +kernel), by decide +kernel⟩, fun k => ?_⟩
  cases k
  · exact ⟨engine1 .ladle [], eng (engine1 .ladle []), engPour (engine1 .ladle []), eng_ok (by decide +kernel), by decide +kernel⟩
  · exact ⟨engine1 .runner [], eng (engine1 .runner []), engPour (engine1 .runner []), eng_ok (by decide +kernel), by decide +kernel⟩

theorem meets_PhaseBarriersForkAndFences :
    (∃ s c l0 key, let h : Form := { instr := .pbarr 14#8, a := some (.ap, 14#8) }
      let x := s.leadIn c h l0
      GroupReady s c h l0 ∧ poi x.a = false ∧ barKey c.p (pairAddr x.a) = .ok key ∧ (s.groupRead c h l0).syncWait c.w = none) ∧
    (∃ s c l0 key, let h : Form := { instr := .pbwait 8#8 0#1, a := some (.ap, 8#8) }
      let x := s.leadIn c h l0
      GroupReady s c h l0 ∧ poi x.a = false ∧ barKey c.p (pairAddr x.a) = .ok key ∧ (s.groupRead c h l0).syncWait c.w = none ∧
      (s.groupRead c h l0).phaseAt key = (0#1 == 1#1)) ∧
    (∃ s c l0, let h := fibreOnly { instr := .fork 240#8 0#32, a := some (.s, 240#8), lit := 0#32 }
      let u := s.groupRead c h l0
      GroupReady s c h l0 ∧ c.p.hdr.lent ≠ none ∧ poi (s.leadIn c h l0).a = false ∧ u.syncWait c.w = none ∧
      (∀ e ∈ u.toStart c.pid c.p c.v.forked, u.engineFree c.p.core e.1 = true) ∧ u.toStart c.pid c.p c.v.forked ≠ []) ∧
    (∃ s c l0, let h := fibreOnly { instr := .fork 240#8 0#32, a := some (.s, 240#8), lit := 0#32 }
      let u := s.groupRead c h l0
      GroupReady s c h l0 ∧ c.p.hdr.rent ≠ none ∧ poi (s.leadIn c h l0).a = false ∧ u.syncWait c.w = none ∧
      ∃ e ∈ u.toStart c.pid c.p c.v.forked, u.engineFree c.p.core e.1 = false) ∧
    (∃ s c l0, GroupReady s c (fibreOnly { instr := .ckpt }) l0 ∧ s.pairOf c.pid = none ∧ GroupReady s c { instr := .fencePour } l0 ∧
      GroupReady s c { instr := .fenceDev } l0 ∧ s.syncWait c.w = none) := by
  let s := reaching
  let t := weave1.modPour 2 fun p => { p with hdr := { p.hdr with lent := some 10, rent := some 20 } }
  let b : State := { t with engines := SMap.put [] 5 { core := 0, kind := .runner, pour := 9 } }
  exact ⟨⟨s, ctx s, lead s, scratchKey 0 8, group_ok (by decide +kernel), by decide +kernel, bar_ok (by decide +kernel), by decide +kernel⟩,
    ⟨s, ctx s, lead s, scratchKey 0 0, group_ok (by decide +kernel), by decide +kernel, bar_ok (by decide +kernel), by decide +kernel, by decide +kernel⟩,
    ⟨t, ctx t, lead t, group_ok (by decide +kernel), by decide +kernel, by decide +kernel, by decide +kernel, by decide +kernel,
      by decide +kernel⟩,
    ⟨b, ctx b, lead b, group_ok (by decide +kernel), by decide +kernel, by decide +kernel, by decide +kernel, by decide +kernel⟩,
    ⟨two, ctx two, lead two, group_ok (by decide +kernel), by decide +kernel, group_ok (by decide +kernel), group_ok (by decide +kernel),
      by decide +kernel⟩⟩

/-- The phase barriers and the fences on both engines, at the scratchpad's byte 0x100. -/
theorem meets_PhaseBarriersForkAndFences_engine : ∀ k : EngKind, ∃ s v p key, v.kind = k ∧
    (let h : Form := { instr := .pbarr 0#8, a := some (.ap, 0#8) }
     barKey p (pairAddr (engIn v p h).a) = .ok key ∧ EngReady s 5 v p h ∧ poi (engIn v p h).a = false) ∧
    (let h : Form := { instr := .pbwait 0#8 0#1, a := some (.ap, 0#8) }
     EngReady s 5 v p h ∧ poi (engIn v p h).a = false ∧ s.phaseAt key = (0#1 == 1#1)) ∧
    EngReady s 5 v p { instr := .fencePour } ∧ EngReady s 5 v p { instr := .fenceDev } := by
  intro k
  let s := engReaching k
  cases k <;> exact ⟨s, eng s, engPour s, scratchKey 0 0x100, by decide +kernel, ⟨bar_ok (by decide +kernel), eng_ok (by decide +kernel), by decide +kernel⟩,
    ⟨eng_ok (by decide +kernel), by decide +kernel, by decide +kernel⟩, eng_ok (by decide +kernel), eng_ok (by decide +kernel)⟩

/-- An edge at 0x1000 with its entries at 0x2000 (03 R73): one entry free of sixteen, or one filled. -/
def edged (free filled : Nat) : State :=
  { reaching with mem := reaching.mem.store 0x1000 (leBytes 64 (0x2000 + 4 * 2 ^ 64 + free * 2 ^ 96 + filled * 2 ^ 128)) }

theorem meets_GraphEdgesPushAndPop :
    (∃ s c l0 key e pl, let h := fibreOnly { instr := .epush 10#8 4#8, a := some (.ap, 10#8), b := some (.xs, 4#8), bReg := true }
      let u := s.groupRead c h l0
      let x := s.leadIn c h l0
      GroupReady s c h l0 ∧ poi (x.a ++ x.b) = false ∧ u.syncWait c.w = none ∧ u.pairOf c.pid = none ∧
      u.edgeAt c.p.part (pairAddr x.a) = .ok key e ∧ 0 < e.free ∧ u.edgeSlot c.p.part e e.tail true = .mem pl) ∧
    (∃ s c l0 key e pl, let h := fibreOnly { instr := .epop 4#8 10#8, dst := some (4#8, 4), a := some (.ap, 10#8) }
      let u := s.groupRead c h l0
      let x := s.leadIn c h l0
      GroupReady s c h l0 ∧ poi x.a = false ∧ u.syncWait c.w = none ∧ u.pairOf c.pid = none ∧
      u.edgeAt c.p.part (pairAddr x.a) = .ok key e ∧ 0 < e.filled ∧ u.edgeSlot c.p.part e e.head false = .mem pl ∧
      u.locRefresh (.mem pl) = false) := by
  let e (free filled : Nat) : Edge := { base := 0x2000#64, lcap := 4, free := free, filled := filled, head := 0, tail := 0, resv := false }
  exact ⟨⟨edged 1 0, ctx (edged 1 0), lead (edged 1 0), 0x1000, e 1 0, ⟨0x2000, false, false⟩, group_ok (by decide +kernel),
      by decide +kernel, by decide +kernel, by decide +kernel, by decide +kernel, by decide, by decide +kernel⟩,
    ⟨edged 0 1, ctx (edged 0 1), lead (edged 0 1), 0x1000, e 0 1, ⟨0x2000, false, false⟩, group_ok (by decide +kernel),
      by decide +kernel, by decide +kernel, by decide +kernel, by decide +kernel, by decide, by decide +kernel, by decide +kernel⟩⟩

/-- A task with no range unit; one whose unit holds the last element of 10, for two pours. -/
def ranged : State :=
  let s := { weave1 with tasks := SMap.modify weave1.tasks 1 fun t => { t with rid := 63#6, rvalid := true } }
  s.modPart 0 fun p => { p with ranges := [(63, { task := some 1, start := 5#32, total := 10#32, minc := 1#32, left := 1#32, pours := 2 })] }

/-- A record image at 0x1000: one fibre at priority 3, whose queue is enabled. -/
def spawning : State :=
  let s := { reaching with mem := reaching.mem.store 0x1000 (leBytes 64 (2 ^ 160 + 2 ^ 192 + 3 * 2 ^ 203)) }
  s.modPart 0 fun p => { p with queues := p.queues.set 3 { en := true } }

theorem meets_WorkIsDrawnSpawnedAndSignalled :
    (∃ s c l0, let h := fibreOnly { instr := .rnext 4#8, dst := some (4#8, 2) }
      GroupReady s c h l0 ∧ s.rangeOf c.p = none) ∧
    (∃ s c l0 r u, let h := fibreOnly { instr := .rnext 4#8, dst := some (4#8, 2) }
      let op := c.groupMem h .rnext true (4#8).toNat (s.leadIn c h l0) 0 []
      GroupReady s c h l0 ∧ s.rangeOf c.p = some (r, u) ∧ s.logWait op = none ∧ s.pairOf c.pid = none) ∧
    (∃ s t c l0 hd va, let h : Form := { instr := .tspawn 4#8 10#8, dst := some (4#8, 1), a := some (.ap, 10#8) }
      let u := s.groupRead c h l0
      let x := s.leadIn c h l0
      let op := c.groupMem h .tspawn false (4#8).toNat x 0 []
      let v := u.reached c.p op
      let loc := match v.laneLocs c.p op false with | e :: _ => e.2 | [] => .fatal
      GroupReady s c h l0 ∧ poi x.a = false ∧ AccessReady u c op ∧ aperture (pairAddr x.a + 0#64) = .global va ∧
      (v.placeBytes loc 64).2 = false ∧ u.locRefresh loc = false ∧
      ({ v with free := v.free + 1 } : State).spawnRecord c.p (v.placeBytes loc 64).1 = some (hd, t)) ∧
    (∃ s c l0, let h : Form := { instr := .tsig 1#8 245#8 1#32, a := some (.s, 1#8), b := some (.s, 245#8), lit := 1#32 }
      let x := s.leadIn c h l0
      GroupReady s c h l0 ∧ poi (x.a ++ x.b) = false ∧ (s.groupRead c h l0).syncWait c.w = none ∧ (s.groupRead c h l0).pairOf c.pid = none) := by
  let h : Form := { instr := .tspawn 4#8 10#8, dst := some (4#8, 1), a := some (.ap, 10#8) }
  let s := spawning
  let c := ctx spawning
  let v := (s.groupRead c h (lead s)).reached c.p (c.groupMem h .tspawn false (4#8).toNat (s.leadIn c h (lead s)) 0 [])
  have hs : (({ v with free := v.free + 1 } : State).spawnRecord c.p (v.placeBytes (.mem ⟨0x1000, false, false⟩) 64).1).isSome = true := by
    decide +kernel
  obtain ⟨⟨hd, t⟩, e⟩ := Option.isSome_iff_exists.mp hs
  exact ⟨⟨weave1, ctx weave1, lead weave1, group_ok (by decide +kernel), by decide +kernel⟩,
    ⟨ranged, ctx ranged, lead ranged, 63, { task := some 1, start := 5#32, total := 10#32, minc := 1#32, left := 1#32, pours := 2 },
      group_ok (by decide +kernel), by decide +kernel, by decide +kernel, by decide +kernel⟩,
    ⟨s, t, c, lead s, hd, 0x1000, group_ok (by decide +kernel), by decide +kernel, acc_ok (by decide +kernel), by decide +kernel,
      by decide +kernel, by decide +kernel, by
        have k : (match v.laneLocs c.p (c.groupMem h .tspawn false (4#8).toNat (s.leadIn c h (lead s)) 0 []) false with
          | e :: _ => e.2 | [] => Loc.fatal) = .mem ⟨0x1000, false, false⟩ := by decide +kernel
        show State.spawnRecord _ _ (v.placeBytes (match v.laneLocs c.p (c.groupMem h .tspawn false (4#8).toNat
          (s.leadIn c h (lead s)) 0 []) false with | e :: _ => e.2 | [] => Loc.fatal) 64).1 = _
        rw [k]
        exact e⟩,
    ⟨two, ctx two, lead two, group_ok (by decide +kernel), by decide +kernel, by decide +kernel, by decide +kernel⟩⟩

/-- Such an image for an engine, in k2:k3. -/
def engSpawning (k : EngKind) : State := { engReaching k with mem := spawning.mem, parts := (peered spawning).parts }

theorem meets_WorkIsDrawnSpawnedAndSignalled_engine : ∀ k : EngKind,
    (∃ s t v p l hd va, v.kind = k ∧ let h : Form := { instr := .tspawn 9#8 2#8, dst := some (9#8, 1), a := some (.ap, 2#8) }
      let x := engIn v p h
      let u := s.touchLoc l 64 false
      EngReady s 5 v p h ∧ poi x.a = false ∧ aperture (pairAddr x.a) = .global va ∧ EngReach s x (pairAddr x.a) 64 false l ∧
        (u.placeBytes l 64).2 = false ∧ u.pairOf v.pour = none ∧
        ({ u.cacheAll p [pairAddr x.a] with free := u.free + 1 } : State).spawnRecord p (u.placeBytes l 64).1 = some (hd, t) ∧
        t.engine? 5 = some v) ∧
    (∃ s v p, v.kind = k ∧ let h : Form := { instr := .tsig 8#8 245#8 1#32, a := some (.s, 8#8), b := some (.s, 245#8), lit := 1#32 }
      EngReady s 5 v p h ∧ poi ((engIn v p h).a ++ (engIn v p h).b) = false ∧ s.pairOf v.pour = none) := by
  intro k
  let s := engSpawning k
  let l : Loc := .mem ⟨0x1000, false, false⟩
  let u := s.touchLoc l 64 false
  let h : Form := { instr := .tspawn 9#8 2#8, dst := some (9#8, 1), a := some (.ap, 2#8) }
  have hs : (({ u.cacheAll (engPour s) [pairAddr (engIn (eng s) (engPour s) h).a] with free := u.free + 1 } : State).spawnRecord (engPour s) (u.placeBytes l 64).1).any
      (fun e => decide (e.2.engine? 5 = some (eng s))) = true := by cases k <;> decide +kernel
  obtain ⟨⟨hd, t⟩, e, f⟩ := any_of hs
  refine ⟨⟨s, t, eng s, engPour s, l, hd, 0x1000, ?_⟩, s, eng s, engPour s, ?_⟩
  · cases k <;> exact ⟨by decide +kernel, eng_ok (by decide +kernel), by decide +kernel, by decide +kernel,
      ⟨by decide +kernel, by decide +kernel, (fun _ h => nomatch h), by decide +kernel⟩, by decide +kernel, by decide +kernel, e,
      of_decide_eq_true f⟩
  · cases k <;> exact ⟨by decide +kernel, eng_ok (by decide +kernel), by decide +kernel, by decide +kernel⟩

/-! ## What meets the hypotheses of the statements about copies, shapes and the matrix path -/

/-- Receive window 5 over addresses 0x10000 to 0x1FFFF, with a count of 2. -/
def windowed : State :=
  (withRegs reaching [(10, 0x10000#32)]).modPart 0 fun p =>
    { p with wins := [(5, { w := true, base := 0x10000#64, len := 0x10000, count := 2#32 })] }

theorem meets_CopyCommandsQueueAndCountersAreAwaited :
    (∃ s c l0, let h : Form := { instr := .put 9#8 10#8, dst := some (9#8, 1), a := some (.ap, 10#8) }
      let u := s.groupRead c h l0
      GroupReady s c h l0 ∧ poi (s.leadIn c h l0).a = false ∧ u.syncWait c.w = none ∧
        (u.cmds.filter fun q => q.core == c.p.core && q.state == .queued).length < 32) ∧
    (∃ s c l0 n k, let h : Form := { instr := .wwait 10#8 245#8 2#32, a := some (.ap, 10#8), b := some (.s, 245#8), lit := 2#32, bReg := true }
      let u := s.groupRead c h l0
      let x := s.leadIn c h l0
      GroupReady s c h l0 ∧ poi (x.a ++ x.b) = false ∧ u.unmatched c.w = false ∧ u.heldFor c.w = [] ∧
        u.counterAt c.p.part (pairAddr x.a) = .ok (n, k) ∧ (n - x.b0.val).toNat < 2 ^ 31) :=
  ⟨⟨reaching, ctx reaching, lead reaching, group_ok (by decide +kernel), by decide +kernel, by decide +kernel,
      by decide +kernel⟩,
    ⟨windowed, ctx windowed, lead windowed, 2#32, .window 0 5, group_ok (by decide +kernel), by decide +kernel, by decide +kernel,
      by decide +kernel, by decide +kernel, by decide +kernel⟩⟩

/-- On both engines: a put, and a wait for a window's count. -/
theorem meets_CopyCommandsQueueAndCountersAreAwaited_engine : ∀ k : EngKind, ∃ s v p, v.kind = k ∧
    (let h : Form := { instr := .put 9#8 0#8, dst := some (9#8, 1), a := some (.ap, 0#8) }
     EngReady s 5 v p h ∧ poi (engIn v p h).a = false ∧ (s.cmds.filter fun q => q.core == v.core && q.state == .queued).length < 32) ∧
    (∃ n k, let h : Form := { instr := .wwait 2#8 245#8 2#32, a := some (.ap, 2#8), b := some (.s, 245#8), lit := 2#32, bReg := true }
     let x := engIn v p h
     EngReady s 5 v p h ∧ poi (x.a ++ x.b) = false ∧ s.counterAt p.part (pairAddr x.a) = .ok (n, k) ∧ (n - x.b0.val).toNat < 2 ^ 31) := by
  intro k
  let s := ((engReaching k).modEngine 5 fun v => v.setK 2 [{ val := 0x10000#32 }]).modPart 0 fun p =>
    { p with wins := [(5, { w := true, base := 0x10000#64, len := 0x10000, count := 2#32 })] }
  cases k <;> exact ⟨s, eng s, engPour s, by decide +kernel, ⟨eng_ok (by decide +kernel), by decide +kernel, by decide +kernel⟩, 2#32, .window 0 5,
    eng_ok (by decide +kernel), by decide +kernel, by decide +kernel, by decide +kernel⟩

/-- `SHSET` and `SHGET` of the last word of sh15, `SHLD` and `SHST`. -/
theorem meets_ShapeRegistersMove : ∃ s c l0,
    (let h : Form := { instr := .shset 15#4 1#8 245#8 23#32, a := some (.s, 1#8), b := some (.s, 245#8), lit := 23#32 }
     let x := s.leadIn c h l0
     GroupReady s c h l0 ∧ poi (x.a ++ x.b) = false ∧ x.b0.val.toNat < 24 ∧ (s.groupRead c h l0).shapeBusy c.pid (15#4).toNat = false) ∧
    (let h : Form := { instr := .shget 20#8 15#4 245#8 23#32, dst := some (20#8, 1), b := some (.s, 245#8), lit := 23#32 }
     let x := s.leadIn c h l0
     GroupReady s c h l0 ∧ poi x.b = false ∧ x.b0.val.toNat < 24 ∧ (s.groupRead c h l0).shapeHeld c.pid (15#4).toNat = false) ∧
    (let h : Form := { instr := .shld 15#4 8#8, a := some (.ap, 8#8) }
     let u := s.groupRead c h l0
     let x := s.leadIn c h l0
     let op := shapePieces (c.groupMem h (.shld (15#4).toNat) false 240 x 0 [])
     let v := State.recorded (u.reached c.p op) c.p op (u.laneLocs c.p op false)
     GroupReady s c h l0 ∧ poi x.a = false ∧ u.shapeBusy c.pid (15#4).toNat = false ∧ AccessReady u c op ∧
       (v.shapeBytes ((v.laneLocs c.p op false).map (·.2))).2 = false) ∧
    (let h : Form := { instr := .shst 15#4 10#8, a := some (.ap, 10#8) }
     let u := s.groupRead c h l0
     let x := s.leadIn c h l0
     let whole := c.groupMem h (.shst 96) false 240 x 0 (shapeWords (c.p.shape (15#4).toNat))
     let pieces := { shapePieces whole with kind := .shst 32 }
     let op := if onePeer ((u.laneLocs c.p pieces false).map (·.2)) then whole else pieces
     GroupReady s c h l0 ∧ poi x.a = false ∧ u.shapeBusy c.pid (15#4).toNat = false ∧ AccessReady u c op) :=
  ⟨reaching, ctx reaching, lead reaching, ⟨group_ok (by decide +kernel), by decide +kernel, by decide +kernel, by decide +kernel⟩,
    ⟨group_ok (by decide +kernel), by decide +kernel, by decide +kernel, by decide +kernel⟩,
    ⟨group_ok (by decide +kernel), by decide +kernel, by decide +kernel, acc_ok (by decide +kernel), by decide +kernel⟩,
    group_ok (by decide +kernel), by decide +kernel, by decide +kernel, acc_ok (by decide +kernel)⟩

/-- `SHST` to a window of a peer. -/
theorem meets_ShapeRegistersMove_peer : ∃ s c l0, let h : Form := { instr := .shst 15#4 10#8, a := some (.ap, 10#8) }
    let u := s.groupRead c h l0
    let x := s.leadIn c h l0
    let whole := c.groupMem h (.shst 96) false 240 x 0 (shapeWords (c.p.shape (15#4).toNat))
    onePeer ((u.laneLocs c.p { shapePieces whole with kind := .shst 32 } false).map (·.2)) = true ∧
      GroupReady s c h l0 ∧ poi x.a = false ∧ u.shapeBusy c.pid (15#4).toNat = false ∧ AccessReady u c whole := by
  let s := peered (withRegs reaching [(10, 0x30000#32)])
  exact ⟨s, ctx s, lead s, by decide +kernel, group_ok (by decide +kernel), by decide +kernel, by decide +kernel, acc_ok (by decide +kernel)⟩

/-- Each of them on both engines, at the scratchpad's byte 0x100, and `SHST` to a peer. -/
theorem meets_ShapeRegistersMove_engine : ∀ k : EngKind, ∃ s v p, v.kind = k ∧
    (let h : Form := { instr := .shset 15#4 8#8 245#8 23#32, a := some (.s, 8#8), b := some (.s, 245#8), lit := 23#32 }
     let x := engIn v p h
     EngReady s 5 v p h ∧ poi (x.a ++ x.b) = false ∧ x.b0.val.toNat < 24 ∧ s.shapeBusy v.pour (15#4).toNat = false) ∧
    (let h : Form := { instr := .shget 9#8 15#4 245#8 23#32, dst := some (9#8, 1), b := some (.s, 245#8), lit := 23#32 }
     let x := engIn v p h
     EngReady s 5 v p h ∧ poi x.b = false ∧ x.b0.val.toNat < 24 ∧ s.shapeHeld v.pour (15#4).toNat = false) ∧
    (∃ l0 l1 l2, let h : Form := { instr := .shld 15#4 0#8, a := some (.ap, 0#8) }
     let x := engIn v p h
     let t := ((s.touchLoc l0 32 false).touchLoc l1 32 false).touchLoc l2 32 false
     EngReady s 5 v p h ∧ poi x.a = false ∧ EngReach s x (pairAddr x.a + 0#64) 32 false l0 ∧
       EngReach s x (pairAddr x.a + 32#64) 32 false l1 ∧ EngReach s x (pairAddr x.a + 64#64) 32 false l2 ∧
       (t.shapeBytes [l0, l1, l2]).2 = false) ∧
    (∀ a ∈ [0#8, 4#8], ∃ l0 l1 l2, let h : Form := { instr := .shst 15#4 a, a := some (.ap, a) }
     let x := engIn v p h
     EngReady s 5 v p h ∧ poi x.a = false ∧ EngReach s x (pairAddr x.a + 0#64) 32 true l0 ∧
       EngReach s x (pairAddr x.a + 32#64) 32 true l1 ∧ EngReach s x (pairAddr x.a + 64#64) 32 true l2 ∧
       (onePeer [l0, l1, l2] = true ↔ a = 4#8)) := by
  intro k
  let s := engReaching k
  refine ⟨s, eng s, engPour s, by cases k <;> decide +kernel, ?_, ?_, ?_, fun a ha => ?_⟩
  · cases k <;> exact ⟨eng_ok (by decide +kernel), by decide +kernel, by decide +kernel, by decide +kernel⟩
  · cases k <;> exact ⟨eng_ok (by decide +kernel), by decide +kernel, by decide +kernel, by decide +kernel⟩
  · cases k <;> exact ⟨_, _, _, eng_ok (by decide +kernel), by decide +kernel, reach_ok (by decide +kernel), reach_ok (by decide +kernel),
      reach_ok (by decide +kernel), by decide +kernel⟩
  · simp only [List.mem_cons, List.not_mem_nil, or_false] at ha
    cases k <;> rcases ha with rfl | rfl <;>
      exact ⟨_, _, _, eng_ok (by decide +kernel), by decide +kernel, reach_ok (by decide +kernel), reach_ok (by decide +kernel),
        reach_ok (by decide +kernel), by decide +kernel⟩

/-- A Ladle with 64 KiB of scratchpad: k4:k5 its first byte, k6 a BF16 descriptor, k8 to k11 a command of one BF16 row whose barrier word
lies at 0x8000, where an error stands. -/
def laddling (w : Option WTile) : State :=
  let s := engine1 .ladle [(4, 0#32), (5, 0x01FFFFFF#32), (6, 1#32), (8, 0#32), (9, 0x01FFFFFF#32), (10, 0x1000#32), (11, 0x8000#32)]
  let s := (s.modPour 2 fun p => { p with hdr := { p.hdr with scratch := 65536 } }).modEngine 5 fun v => { v with wtile := w }
  { s with mem := s.mem.store (scratchKey 0 0x8000) (leBytes 8 (2 ^ 62 + 3)) }

/-- A latched BF16 tile of zeros. -/
def tile0 : WTile := { fmt := fBF16, n := 128, bytes := [], tags := [], poison := [], sv := false, scales := [] }

theorem meets_MatrixInstructionsIssue :
    (∃ s v p, let h := ladleOnly { instr := .mldw 4#8 6#8 0#32, a := some (.ap, 4#8), b := some (.s, 6#8), lit := 0#32 }
      let x := engIn v p h
      EngReady s 5 v p h ∧ (s.core v.core).mat = none ∧ poi (x.a ++ x.b) = false ∧ mldwFault p (pairAddr x.a) (decodeDesc x.b0.val) = none) ∧
    (∃ s v p k, let h := ladleOnly { instr := .mldw 8#8 245#8 0x10#32, a := some (.ap, 8#8), b := some (.s, 245#8), lit := 0x10#32 }
      let x := engIn v p h
      EngReady s 5 v p h ∧ (s.core v.core).mat = none ∧ poi (x.a ++ x.b) = false ∧ mldwFault p (pairAddr x.a) (decodeDesc x.b0.val) = some k) ∧
    (∃ s v p w, let h := ladleOnly { instr := .mmulResume 7#3 8#8 12#8 0#32, a := some (.xs, 8#8), b := some (.s, 12#8), lit := 0#32 }
      let x := engIn v p h
      let m := decodeMmul (x.a.map (·.val))
      let bar := decodePBar ((s.touch (offKey p m.bar) 8).mem.readNat (offKey p m.bar) 8)
      EngReady s 5 v p h ∧ (s.core v.core).mat = none ∧ poi (x.a ++ x.b) = false ∧ v.wtile = some w ∧
        mmulFault p v.wtile (7#3).toNat m (decodeDesc x.b0.val) = none ∧ bar.err = true ∧ bar.pend ≤ 3) ∧
    (∃ s v p k, let h := ladleOnly { instr := .mmul 0#3 8#8 12#8 0#32, a := some (.xs, 8#8), b := some (.s, 12#8), lit := 0#32 }
      let x := engIn v p h
      EngReady s 5 v p h ∧ (s.core v.core).mat = none ∧ poi (x.a ++ x.b) = false ∧
        mmulFault p v.wtile (0#3).toNat (decodeMmul (x.a.map (·.val))) (decodeDesc x.b0.val) = some k) ∧
    (∃ s v p key ed, let h := ladleOnly { instr := .mdrain 7#3 4#8, a := some (.ap, 4#8) }
      let x := engIn v p h
      let b := decodeDrain ((s.touch key 64).mem.readBytes key 64)
      EngReady s 5 v p h ∧ (s.core v.core).mat = none ∧ poi x.a = false ∧ s.drainBlock p (pairAddr x.a) = .ok key ed ∧
        b.bad p (7#3).toNat = false ∧ s.pairOf v.pour = none) ∧
    (∀ k, ∃ s v p, EngReady s 5 v p { instr := .halt, fibre := false } ∧ v.kind = k ∧ (s.core v.core).mat = none ∧ s.engAlone v = none) := by
  let s := laddling none
  let t := laddling (some tile0)
  let d : State := { s with mem := s.mem.store (scratchKey 0 0) (leBytes 64 (2 * 2 ^ 64)) }
  refine ⟨⟨s, eng s, engPour s, eng_ok (by decide +kernel), by decide +kernel, by decide +kernel, by decide +kernel⟩,
    ⟨s, eng s, engPour s, cReserved, eng_ok (by decide +kernel), by decide +kernel, by decide +kernel, by decide +kernel⟩,
    ⟨t, eng t, engPour t, tile0, eng_ok (by decide +kernel), by decide +kernel, by decide +kernel, by decide +kernel, by decide +kernel,
      by decide +kernel, by decide +kernel⟩,
    ⟨s, eng s, engPour s, cOperand, eng_ok (by decide +kernel), by decide +kernel, by decide +kernel, by decide +kernel⟩,
    ⟨d, eng d, engPour d, scratchKey 0 0, decodeEdge [], eng_ok (by decide +kernel), by decide +kernel, by decide +kernel, by decide +kernel,
      by decide +kernel, by decide +kernel⟩, fun k => ?_⟩
  cases k
  · exact ⟨engine1 .ladle [], eng (engine1 .ladle []), engPour (engine1 .ladle []), eng_ok (by decide +kernel), by decide +kernel,
      by decide +kernel, by decide +kernel⟩
  · exact ⟨engine1 .runner [], eng (engine1 .runner []), engPour (engine1 .runner []), eng_ok (by decide +kernel), by decide +kernel,
      by decide +kernel, by decide +kernel⟩

/-- All eight tiles, one tile, and a last tile below the first. -/
theorem meets_MzeroClearsTheTiles : ∃ s v p, (s.core v.core).mat = none ∧ EngReady s 5 v p (ladleOnly { instr := .mzero 0#3 7#3 }) ∧
    EngReady s 5 v p (ladleOnly { instr := .mzero 7#3 7#3 }) ∧ EngReady s 5 v p (ladleOnly { instr := .mzero 1#3 0#3 }) :=
  ⟨laddling none, eng (laddling none), engPour (laddling none), by decide +kernel, eng_ok (by decide +kernel), eng_ok (by decide +kernel),
    eng_ok (by decide +kernel)⟩

/-- Firmware on core 0 for partition 0, with an image address in k4:k5. -/
def spilling (lo hi : Word) : State := { engine1 .ladle [(4, lo), (5, hi)] with turn := .firmware 0 0 }

theorem meets_TilesSpillAndFill :
    (∃ s, s.turn = .firmware 0 0 ∧ State.imageAddr s 0 4#8 % 64 ≠ 0) ∧
    (∃ s, s.turn = .firmware 0 0 ∧ State.imageAddr s 0 4#8 % 64 = 0 ∧ dramBytes < State.imageAddr s 0 4#8 + 100480) ∧
    (∃ s, s.turn = .firmware 0 0 ∧ State.imageAddr s 0 4#8 % 64 = 0 ∧ State.imageAddr s 0 4#8 + 100480 ≤ dramBytes) ∧
    (∃ (s : State) (c : Ctx) (l0 : Nat × Fibre), s.turn = .weave c.w ∧ s.ctxOf c.w = some c ∧ c.acts.head? = some l0) ∧
    (∀ k, ∃ (s : State) (v : Engine) (p : Pour), s.turn = .engine 5 ∧ s.engine? 5 = some v ∧ s.pour? v.pour = some p ∧
      v.running = true ∧ v.kind = k) :=
  ⟨⟨spilling 1#32 0#32, by decide +kernel, by decide +kernel⟩,
    ⟨spilling 0xFFFE7800#32 0x8F#32, by decide +kernel, by decide +kernel, by decide +kernel⟩,
    ⟨spilling 0xFFFE7740#32 0x8F#32, by decide +kernel, by decide +kernel, by decide +kernel⟩,
    ⟨two, ctx two, lead two, by decide +kernel, by decide +kernel, by decide +kernel⟩,
    fun k => ⟨engReaching k, eng (engReaching k), engPour (engReaching k), by cases k <;> decide +kernel⟩⟩

/-! ## What meets the hypotheses of the statements about the Crucibles -/

/-- Page 1 is optimizer-managed, and page 0 holds an edge at 0x1000 with one entry at 0x2000. c1 is 0x10000, c2 is 0x10200, c3 the
stride 16, c4 the edge's address, c5 poisoned, c6 zero, c7 the address of an edge with its entries on page 2, a host frame. -/
def rowing : State :=
  let s := crucible1 [(1, 0x10000#64), (2, 0x10200#64), (3, 16#64), (4, 0x1000#64), (7, 0x1040#64)]
  let s := s.modCrucible 6 fun c => c.setC 5#5 { val := 1#64, poison := true }
  let edge (base : Nat) : List Byte := leBytes 64 (base + 4 * 2 ^ 64 + 1 * 2 ^ 128)
  let s := { s with mem := (s.mem.store 0x1000 (edge 0x2000)).store 0x1040 (edge 0x20000) }
  s.modPart 0 fun p =>
    { p with tlb := (1, { codeLeaf with opt := true, frame := 1 }) :: (2, { codeLeaf with target := 1#2, frame := 2 }) :: p.tlb }

theorem meets_CrucibleScalarsEdgesAndEnd : ∃ s c, CruReady s 6 c [] ∧
    (CruReady s 6 c [c.cr 1#5] ∧ (c.cr 1#5).val ≠ 0#64) ∧ (CruReady s 6 c [c.cr 6#5] ∧ (c.cr 6#5).val = 0#64) ∧
    (∃ pl, CruReach s c [((c.cr 1#5).val + (1#17).signExtend 64 * 8#64, 8)] false [pl]) ∧
    ((c.cr 5#5).poison = true ∧ s.turn = .crucible 6 ∧ s.crucible? 6 = some c) ∧
    (∃ u ws, CruReady s 6 c [c.cr 4#5] ∧ (30#5).getLsbD 0 = false ∧ s.edgeTake c.asPour (c.cr 4#5).val = .done u ws ∧
      s.popsHost c.part (c.cr 4#5).val = false) ∧
    (∃ u ws, CruReady s 6 c [c.cr 7#5] ∧ s.edgeTake c.asPour (c.cr 7#5).val = .done u ws ∧ s.popsHost c.part (c.cr 7#5).val = true) ∧
    CruReady s 6 c [c.cr 1#5, c.cr 2#5] ∧
    (∃ t, ({ s.setSync (.task c.task) (joinClock (s.syncOf (.task c.task)) c.released) with
        crucibles := SMap.erase s.crucibles 6 } : State).task? c.task = some t) := by
  have hr := cru_ok (s := rowing) (reads := []) (by decide +kernel)
  have he : (match rowing.edgeTake (cru rowing).asPour ((cru rowing).cr 4#5).val with | .done _ _ => true | _ => false) = true := by
    decide +kernel
  have hh : (match rowing.edgeTake (cru rowing).asPour ((cru rowing).cr 7#5).val with | .done _ _ => true | _ => false) = true := by
    decide +kernel
  have ht : (({ rowing.setSync (.task (cru rowing).task) (joinClock (rowing.syncOf (.task (cru rowing).task)) (cru rowing).released) with
      crucibles := SMap.erase rowing.crucibles 6 } : State).task? (cru rowing).task).isSome = true := by decide +kernel
  refine ⟨rowing, cru rowing, hr, ⟨cru_ok (by decide +kernel), by decide +kernel⟩, ⟨cru_ok (by decide +kernel), by decide +kernel⟩,
    ⟨⟨0x10008, false, true⟩, by decide +kernel, by decide +kernel, by decide +kernel⟩, ⟨by decide +kernel, hr.turn, hr.inst⟩, ?_, ?_,
    cru_ok (by decide +kernel), Option.isSome_iff_exists.mp ht⟩
  · split at he
    · rename_i u ws h
      exact ⟨u, ws, cru_ok (by decide +kernel), by decide, h, by decide +kernel⟩
    · cases he
  · split at hh
    · rename_i u ws h
      exact ⟨u, ws, cru_ok (by decide +kernel), h, by decide +kernel⟩
    · cases hh

/-- Rows y0 and y15; a conversion with noise, and without; a scaled load and store of E4M3, and a pair of FP32 rows. -/
theorem meets_CrucibleRowsCompute : ∃ s c, CruReady s 6 c [] ∧
    (CruReady s 6 c (if (1#1 : BitVec 1) == 1#1 then [c.cr 1#5, c.cr 2#5] else [c.cr 1#5]) ∧ scaled fE4M3 = true ∧
      (∃ pl q, CruReach s c [((c.cr 1#5).val, rowBytes fE4M3), ((c.cr 2#5).val, 2)] false [pl, q]) ∧
      (∃ pl q, CruReach s c [((c.cr 1#5).val, rowBytes fE4M3), ((c.cr 2#5).val, 2)] true [pl, q])) ∧
    (∃ pl, CruReach s c [((c.cr 1#5).val, rowBytes fFP32)] false [pl]) ∧
    (∃ pl t, CruReady s 6 c [c.cr 1#5, c.cr 2#5, c.cr 3#5] ∧ c.prog = 0 ∧
      (∀ i < 64, (c.transAt 2#5 i).toNat % (slotBits fFP32 / 8) = 0) ∧ CruReach s c [((c.cr 1#5).val, rowBytes fFP32)] true [pl] ∧
      (((s.cruReached c [((c.cr 1#5).val, rowBytes fFP32)]).cruStore pl c.here (packRow fFP32 (c.stored 15#5 fFP32 0 false).2)
        (c.rowPoison 15#5 fFP32)).countConv c.chan (c.stored 15#5 fFP32 0 false).2).cruWritten c 2#5 15#5 fFP32
          (c.stored 15#5 fFP32 0 false).2 64 0 = some t) := by
  let s := rowing
  let c := cru rowing
  have hw : ((((s.cruReached c [((c.cr 1#5).val, rowBytes fFP32)]).cruStore ⟨0x10000, false, true⟩ c.here
      (packRow fFP32 (c.stored 15#5 fFP32 0 false).2) (c.rowPoison 15#5 fFP32)).countConv c.chan (c.stored 15#5 fFP32 0 false).2).cruWritten c
        2#5 15#5 fFP32 (c.stored 15#5 fFP32 0 false).2 64 0).isSome = true := by decide +kernel
  obtain ⟨t, ht⟩ := Option.isSome_iff_exists.mp hw
  exact ⟨s, c, cru_ok (by decide +kernel), ⟨cru_ok (by decide +kernel), by decide,
      ⟨⟨0x10000, false, true⟩, ⟨0x10200, false, true⟩, by decide +kernel, by decide +kernel, by decide +kernel⟩,
      ⟨⟨0x10000, false, true⟩, ⟨0x10200, false, true⟩, by decide +kernel, by decide +kernel, by decide +kernel⟩⟩,
    ⟨⟨0x10000, false, true⟩, by decide +kernel, by decide +kernel, by decide +kernel⟩,
    ⟨⟨0x10000, false, true⟩, t, cru_ok (by decide +kernel), by decide +kernel, by decide +kernel,
      ⟨by decide +kernel, by decide +kernel, by decide +kernel⟩, ht⟩⟩

/-! ## What meets the hypotheses of the statements about events -/

theorem some_of {α : Type} {o : Option α} (e : o.isSome = true) : ∃ x, o = some x := Option.isSome_iff_exists.mp e

/-- The state after an instruction, where there is one. -/
def next (o : Out) : State := match o with | .next t => t | _ => State.reset

/-- A ready fibre that has waited 256 cycles; a weave whose slot was taken; a level in TIMED, whose first unit of 1,024 cycles is over. -/
def recasting : State :=
  { (weave1.modWeave 3 fun v => { v with slot := none }).modFibre 4 (fun f => { f with weave := none, status := .ready 0 0 }) with clk := 256 }
def slotless : State := weave1.modWeave 3 fun v => { v with slot := none }
def timed : State := weave1.modJ 3 7 fun _ => { expect := 1#32, state := 2#2, limit := 1#16, elapsed := 1024#32 }

theorem meets_WeavesFormAndPoursPlace_recast : ∃ (s u : State) (k : Nat) (e : Nat × Fibre), s.candidateDue (s.candidate 0 0) = true ∧
    s.waiting 0 0 = [] ∧ (s.candidate 0 0).head? = some e ∧ s.takeSlot 0 0 = some (k, u) := by
  obtain ⟨x, e1⟩ := some_of (o := (recasting.candidate 0 0).head?) (by decide +kernel)
  obtain ⟨⟨k, u⟩, e2⟩ := some_of (o := recasting.takeSlot 0 0) (by decide +kernel)
  exact ⟨recasting, u, k, x, by decide +kernel, by decide +kernel, e1, e2⟩

theorem meets_WeavesFormAndPoursPlace_grant : ∃ (s u : State) (k : Nat) (e : Nat × Weave), (s.waiting 0 0).head? = some e ∧
    s.takeSlot 0 0 = some (k, u) := by
  obtain ⟨x, e1⟩ := some_of (o := (slotless.waiting 0 0).head?) (by decide +kernel)
  obtain ⟨⟨k, u⟩, e2⟩ := some_of (o := slotless.takeSlot 0 0) (by decide +kernel)
  exact ⟨slotless, u, k, x, e1, e2⟩

/-- Pour 2 leads a pair, and fibre 4 has stored what the other member has not. -/
def paired (s : State) : State :=
  let op : MemOp := { kind := .store 4, rlx := false, weave := 3, pour := 2, pc := 0, here := 0#16, dest := 240, lanes := [], word := 0#32 }
  { s with pairs := SMap.put [] 40 { lead := 2, trail := 41, stores := [{ rank := 0, addr := 0x1000#64, bytes := 4, data := [{}], op := op }] } }

/-- Whether a weave's store of a pair is unmatched, and whether it is not. -/
theorem meets_WeavesFormAndPoursPlace_timeout : ∀ b, ∃ (s : State) (v : Weave) (p : Pour) (r : JReg), s.weave? 3 = some v ∧
    s.pour? v.pour = some p ∧ p.dbg.runs = true ∧ s.jreg 3 7 = some r ∧ r.state = 2#2 ∧ r.limit ≠ 0#16 ∧
    r.arrived ≠ r.expect ∧ r.limit.toNat * 1024 ≤ r.elapsed.toNat ∧ (s.levelBusy 3 7 = [] ↔ b = false) := by
  intro b
  let s : State := if b then paired timed else timed
  refine ⟨s, (ctx s).v, (ctx s).p, { expect := 1#32, state := 2#2, limit := 1#16, elapsed := 1024#32 }, ?_⟩
  cases b <;> decide +kernel

/-- A ready record of partition 0 at priority 0 whose header stands at 0x3000 (20 R347: magic, version 1, 64 registers, rejoin 8, two words) and
whose frame, at 0x4000, gives a range. -/
def record : Task := { codeTask with code := 0x3000#64, frame := 0x4000#64, placed := 0, live := 0, hdr := none, slot := 1 }
def recordHdr : Header := { codeHdr with rejoin := 8 }
def queued (t : Task) : State :=
  { weave1 with
    tasks := SMap.put weave1.tasks 10 t
    mem := weave1.mem.store 0x3000 (leBytes 64 (0x4B535247 + 2 ^ 32 + 64 * 2 ^ 48 + 8 * 2 ^ 64 + 2 * 2 ^ 128)) }
def ranged1 : Task := { record with rid := 63#6, rvalid := true }
def ranged2 : Task := { ranged1 with placed := 1, hdr := some codeHdr, nfib := 2#32 }
def tier1 : Task := { record with hdr := some codeHdr, tier := true }
def headless : Task := { record with code := 0x5000#64 }

/-- The choice of a dispatch: by level, and one that stands over. -/
theorem meets_WeavesFormAndPoursPlace_choice :
    (∃ (s : State) (t : Task), (s.part 0).choice = none ∧ s.levelOf 0 = some 0 ∧ (s.readyAt 0 0).head? = some (10, t)) ∧
    (∀ b, ∃ (s : State) (c : Choice) (t : Task), s.mayPlace 0 = true ∧ (s.part 0).choice = some c ∧ c.blocked = b ∧ c.task = 10 ∧
      s.task? 10 = some t) := by
  refine ⟨⟨queued record, record, by decide +kernel, by decide +kernel, by decide +kernel⟩, fun b => ?_⟩
  refine ⟨(queued record).modPart 0 fun p => { p with choice := some { task := 10, blocked := b } }, { task := 10, blocked := b }, record, ?_⟩
  cases b <;> exact ⟨by decide +kernel, by decide +kernel, rfl, rfl, by decide +kernel⟩

/-- What a placement reads of the record in slot 10, in no open refresh window; and the state once it has. -/
def readsOk (s : State) (t : Task) : Bool := (s.headReads 10 t).all fun r => !s.ctxShut 0 r.1 r.2
def afterReads (s : State) (t : Task) : State := (s.headReads 10 t).foldl (fun q r => q.ctxTouch 0 r.1 r.2) s

theorem reads_ok {s : State} {t : Task} (h : readsOk s t = true) : ∀ r ∈ s.headReads 10 t, s.ctxShut 0 r.1 r.2 = false := by
  simpa [readsOk] using h

/-- A header in weight-store group 0, whose refresh window is open. -/
theorem meets_WeavesFormAndPoursPlace_shut : ∃ (s : State) (t : Task), s.mayPlace 0 = true ∧ s.chosen 0 = some (10, t) ∧
    ∃ r ∈ s.headReads 10 t, s.ctxShut 0 r.1 r.2 = true := by
  let t : Task := { record with code := 0x50000#64 }
  exact ⟨(queued t).modPart 0 fun p => { p with tlb := (5, { codeLeaf with target := 0#2, ws := true, frame := 0 }) :: p.tlb }, t,
    by decide +kernel, by decide +kernel, (0x50000#64, 64), by decide +kernel, by decide +kernel⟩

/-- The first placement, while the range unit of the record counts down another task's range. -/
theorem meets_WeavesFormAndPoursPlace_busy : ∃ (s : State) (t : Task), s.mayPlace 0 = true ∧ s.chosen 0 = some (10, t) ∧
    readsOk s t = true ∧ t.placed = 0 ∧ (afterReads s t).rangeBusy 10 t = true :=
  ⟨(queued ranged1).modPart 0 fun p => { p with ranges := [(63, { task := some 1 })] }, ranged1, by decide +kernel, by decide +kernel,
    by decide +kernel, by decide +kernel, by decide +kernel⟩

/-- No core may take its fibres. -/
theorem meets_WeavesFormAndPoursPlace_full : ∃ (s : State) (t : Task) (h : Header), s.mayPlace 0 = true ∧ s.chosen 0 = some (10, t) ∧
    readsOk s t = true ∧ (afterReads s t).rangeBusy 10 t = false ∧ t.hdr = some h ∧ (afterReads s t).rangeUnit t = none ∧ t.tier = false ∧
    (afterReads s t).placePour 10 t h = none := by
  let t : Task := { record with hdr := some { codeHdr with scratch := 2 ^ 21 }, nfib := 1#32 }
  exact ⟨queued t, t, { codeHdr with scratch := 2 ^ 21 }, by decide +kernel, by decide +kernel, by decide +kernel, by decide +kernel,
    by decide +kernel, by decide +kernel, by decide +kernel, by decide +kernel⟩

theorem meets_WeavesFormAndPoursPlace_headless : ∃ (s : State) (t : Task), s.mayPlace 0 = true ∧ s.chosen 0 = some (10, t) ∧
    readsOk s t = true ∧ (afterReads s t).rangeBusy 10 t = false ∧ t.hdr = none ∧ (afterReads s t).readHeader t = none :=
  ⟨queued headless, headless, by decide +kernel, by decide +kernel, by decide +kernel, by decide +kernel, by decide +kernel, by decide +kernel⟩

theorem meets_WeavesFormAndPoursPlace_instance : ∃ (s : State) (t : Task) (h : Header), s.mayPlace 0 = true ∧ s.chosen 0 = some (10, t) ∧
    readsOk s t = true ∧ (afterReads s t).rangeBusy 10 t = false ∧ t.hdr = some h ∧ (afterReads s t).rangeUnit t = none ∧ t.tier = true :=
  ⟨queued tier1, tier1, codeHdr, by decide +kernel, by decide +kernel, by decide +kernel, by decide +kernel, by decide +kernel, by decide +kernel,
    by decide +kernel⟩

theorem meets_WeavesFormAndPoursPlace_pour : ∃ (s : State) (t : Task) (h : Header) (v : State), s.mayPlace 0 = true ∧ s.chosen 0 = some (10, t) ∧
    readsOk s t = true ∧ (afterReads s t).rangeBusy 10 t = false ∧ t.hdr = none ∧ (afterReads s t).readHeader t = some h ∧
    (afterReads s t).rangeUnit t = none ∧ t.tier = false ∧ (afterReads s t).placePour 10 t h = some v := by
  obtain ⟨v, e⟩ := some_of (o := (afterReads (queued record) record).placePour 10 record recordHdr) (by decide +kernel)
  exact ⟨queued record, record, recordHdr, v, by decide +kernel, by decide +kernel, by decide +kernel, by decide +kernel, by decide +kernel,
    by decide +kernel, by decide +kernel, by decide +kernel, e⟩

theorem meets_WeavesFormAndPoursPlace_first : ∃ (s : State) (t : Task) (h : Header) (r : Nat) (g : Range) (v : State), s.mayPlace 0 = true ∧
    s.chosen 0 = some (10, t) ∧ readsOk s t = true ∧ (afterReads s t).rangeBusy 10 t = false ∧ (afterReads s t).readHeader t = some h ∧
    (afterReads s t).rangeUnit t = some r ∧ t.placed = 0 ∧ (afterReads s t).readRange 10 t = some g ∧ t.tier = false ∧
    (afterReads s t).placePour 10 t h = some v := by
  obtain ⟨v, e⟩ := some_of (o := (afterReads (queued ranged1) ranged1).placePour 10 ranged1 recordHdr) (by decide +kernel)
  obtain ⟨g, f⟩ := some_of (o := (afterReads (queued ranged1) ranged1).readRange 10 ranged1) (by decide +kernel)
  exact ⟨queued ranged1, ranged1, recordHdr, 63, g, v, by decide +kernel, by decide +kernel, by decide +kernel, by decide +kernel,
    by decide +kernel, by decide +kernel, by decide +kernel, f, by decide +kernel, e⟩

theorem meets_WeavesFormAndPoursPlace_later : ∃ (s : State) (t : Task) (h : Header) (r : Nat) (v : State), s.mayPlace 0 = true ∧
    s.chosen 0 = some (10, t) ∧ readsOk s t = true ∧ t.hdr = some h ∧ (afterReads s t).rangeUnit t = some r ∧ t.placed ≠ 0 ∧ t.tier = false ∧
    (afterReads s t).placePour 10 t h = some v := by
  obtain ⟨v, e⟩ := some_of (o := (afterReads (queued ranged2) ranged2).placePour 10 ranged2 codeHdr) (by decide +kernel)
  exact ⟨queued ranged2, ranged2, codeHdr, 63, v, by decide +kernel, by decide +kernel, by decide +kernel, by decide +kernel,
    by decide +kernel, by decide +kernel, by decide +kernel, e⟩

/-- Shape registers of four BF16 elements at scratchpad bytes 0x100 (sh0) and 0x200 (sh1), and a copy block at byte 0 from sh0 to sh1; an `RCOPY` of
the block at `a` is queued. -/
def copying (a : Word) : State :=
  let sh (o : Nat) : BitVec 768 := BitVec.ofNat 768 (0x01FFFFFF00000000 + o + 17 * 2 ^ 64 + 4 * 2 ^ 96 + 2 * 2 ^ 256 + 4 * 2 ^ 456)
  let s := (withRegs reaching [(8, a)]).modPour 2 fun p => { p with shapes := (p.shapes.set 0 (sh 0x100)).set 1 (sh 0x200) }
  next (exec (.rcopy 20#8 8#8) { s with mem := s.mem.store (scratchKey 0 0) [0x10#8] })

/-- The oldest queued command of core 0, and the oldest that runs. -/
def queuedCmd (s : State) : Option Cmd := s.cmds.find? fun q => q.core == 0 && q.state == .queued
def shapesOf (s : State) (c : Cmd) : List (BitVec 768) := match s.pour? c.pour with | some p => p.shapes | none => c.owner.shapes
def mayStart (s : State) (c : Cmd) : Bool :=
  decide (s.slotsUsed 0 < Config.runnerSlots) && !s.shldHeld c.pour

def passed {α : Type} : Checked α → Option α
  | .ok x => some x
  | _ => none

theorem passed_of {α : Type} {x : Checked α} (e : (passed x).isSome = true) : ∃ y, x = .ok y := by
  cases x with
  | ok y => exact ⟨y, rfl⟩
  | wait va => cases e
  | fail k => cases e

theorem ok_of {ε α : Type} {x : Except ε α} (e : x.toBool = true) : ∃ y, x = .ok y := by
  cases x with
  | ok y => exact ⟨y, rfl⟩
  | error k => cases e

theorem copying_queued (a : Word) (e : (queuedCmd (copying a)).isSome = true) :
    queuedCmd (copying a) = some ((queuedCmd (copying a)).get e) := (Option.some_get e).symm

/-- A block that is not aligned to 64 bytes. -/
theorem meets_CopiesPutsAndResultsArrive_fails : ∃ (s : State) (c : Cmd), queuedCmd s = some c ∧ mayStart s c = true ∧ c.kind ≠ .put ∧
    s.checkCopy c (shapesOf s c) = .fail 4 :=
  ⟨copying 8#32, (queuedCmd (copying 8#32)).get (by decide +kernel), copying_queued 8#32 (by decide +kernel), by decide +kernel,
    by decide +kernel, by decide +kernel⟩

/-- A block on page 5, which is not present. -/
def copyFar : State := next (exec (.rcopy 20#8 8#8) (withRegs reaching [(8, 0x50000#32), (9, 0#32)]))

theorem meets_CopiesPutsAndResultsArrive_waits : ∃ (s : State) (c : Cmd) (va : Nat) (wr : Bool), queuedCmd s = some c ∧ mayStart s c = true ∧
    c.kind ≠ .put ∧ s.checkCopy c (shapesOf s c) = .wait (.page va wr) := by
  have h : (queuedCmd copyFar).any (fun c => mayStart copyFar c && decide (c.kind ≠ .put) &&
      (match copyFar.checkCopy c (shapesOf copyFar c) with | .wait (.page _ _) => true | _ => false)) = true := by decide +kernel
  cases e : queuedCmd copyFar with
  | none => simp [e] at h
  | some c =>
    simp only [e, Option.any_some, Bool.and_eq_true, decide_eq_true_eq] at h
    have k := h.2
    split at k
    · rename_i va wr q
      exact ⟨copyFar, c, va, wr, e, h.1.1, h.1.2, q⟩
    · cases k

theorem copy_queued : (queuedCmd (copying 0#32)).isSome = true := by decide +kernel
def copyCmd : Cmd := (queuedCmd (copying 0#32)).get copy_queued
theorem copyCmd_eq : queuedCmd (copying 0#32) = some copyCmd := by
  unfold copyCmd
  exact (Option.some_get copy_queued).symm
theorem copy_checked : (passed ((copying 0#32).checkCopy copyCmd (shapesOf (copying 0#32) copyCmd))).isSome = true := by decide +kernel

theorem meets_CopiesPutsAndResultsArrive_starts : ∃ (s : State) (c : Cmd) (bs : List Byte) (pl : CopyPlan), queuedCmd s = some c ∧
    mayStart s c = true ∧ c.kind ≠ .put ∧ s.pairOf c.pour = none ∧ s.checkCopy c (shapesOf s c) = .ok (bs, pl) := by
  obtain ⟨y, h⟩ := passed_of copy_checked
  exact ⟨copying 0#32, copyCmd, y.1, y.2, copyCmd_eq, by decide +kernel, by decide +kernel, by decide +kernel, h⟩

/-- A put of 8 bytes from the scratchpad's byte 0x100, or from its byte 0x2000, which the pour does not have, to byte 8 of window 5 of device 1; its
block is at byte 0. -/
def puttable (src : Nat) : State :=
  let s := peered (withRegs reaching [(8, 0#32)])
  let block := leBytes 64 (0x01FFFFFF00000000 + src + 0x30008 * 2 ^ 64 + 8 * 2 ^ 128)
  next (exec (.put 20#8 8#8) { s with mem := s.mem.store (scratchKey 0 0) block })

/-- A put with its block read, the state in which it goes on, and the same put once it has acquired. -/
def putRead (c : Cmd) (bs : List Byte) : Cmd := { c with block := bs, state := .running, wait := none }
def putGoes (s : State) (c : Cmd) (bs : List Byte) : State := (s.blockRead c.owner c.addr).modCmd c.id fun _ => putRead c bs
def putSeen (s : State) (c : Cmd) (bs : List Byte) (b : PutBlock) : Cmd :=
  { putRead c bs with clock := if b.acq then joinClock c.clock ((putGoes s c bs).fenceClock c.pour (b.scope == 1)) else c.clock }

/-- Whether the data of a put can be read. -/
def putReads (s : State) (c : Cmd) (bs : List Byte) (b : PutBlock) : Bool :=
  (passed ((putGoes s c bs).putData (putSeen s c bs b) b (b.len / 8) 0)).isSome

theorem put_meets (s : State) (good : Bool) (e : (match queuedCmd s with
      | some c => mayStart s c && c.kind == .put && (s.pairOf c.pour).isNone && (match s.checkPut c with
        | .ok (bs, _) => (match (putGoes s c bs).putFields (putRead c bs) bs with
          | .ok (b, _) => putReads s c bs b == good
          | _ => false)
        | _ => false)
      | none => false) = true) :
    ∃ c bs x y, queuedCmd s = some c ∧ mayStart s c = true ∧ c.kind = .put ∧ s.pairOf c.pour = none ∧ s.checkPut c = .ok (bs, x) ∧
      (putGoes s c bs).putFields (putRead c bs) bs = .ok y ∧ putReads s c bs y.1 = good := by
  cases h : queuedCmd s with
  | none => simp [h] at e
  | some c =>
    simp only [h, Bool.and_eq_true, beq_iff_eq, Option.isNone_iff_eq_none] at e
    obtain ⟨⟨⟨a, b⟩, d⟩, e⟩ := e
    split at e
    · next bs x hx =>
      split at e
      · next y z hy => exact ⟨c, bs, x, (y, z), rfl, a, b, d, hx, hy, eq_of_beq e⟩
      · cases e
    · cases e

theorem meets_CopiesPutsAndResultsArrive_putStarts : ∀ e ∈ [(0x100, true), (0x2000, false)], ∃ (s : State) (c : Cmd) (bs : List Byte)
    (x y : PutBlock × Nat × Nat × Nat), queuedCmd s = some c ∧ mayStart s c = true ∧ c.kind = .put ∧ s.pairOf c.pour = none ∧
    s.checkPut c = .ok (bs, x) ∧ (putGoes s c bs).putFields (putRead c bs) bs = .ok y ∧ putReads s c bs y.1 = e.2 := by
  intro e he
  simp only [List.mem_cons, List.not_mem_nil, or_false] at he
  rcases he with rfl | rfl
  · exact ⟨puttable 0x100, put_meets _ true (by decide +kernel)⟩
  · exact ⟨puttable 0x2000, put_meets _ false (by decide +kernel)⟩

/-- The command, started. -/
def walking : State := next (exec (.runnerCommandStart 0) (copying 0#32))

def walkId : Nat := match walking.cmds with | c :: _ => c.id | [] => 0
def walkOpt : Option Cmd := walking.cmds.find? fun q => q.id == walkId && (q.state == .running || q.state == .starting)
theorem walk_runs : walkOpt.isSome = true := by decide +kernel
def walkCmd1 : Cmd := walkOpt.get walk_runs
theorem walkCmd1_eq : walkOpt = some walkCmd1 := by
  unfold walkCmd1
  exact (Option.some_get walk_runs).symm
theorem walk_done : ∃ w, (walking.touchSource walkCmd1.owner walkCmd1.plan.src
    (((planOf walkCmd1.plan.src walkCmd1.plan.ops).indices walkCmd1.plan.src).map
      ((planOf walkCmd1.plan.src walkCmd1.plan.ops).at walkCmd1.plan.src))).walkCmd walkCmd1 walkCmd1.plan = .ok w := ok_of (by decide +kernel)

theorem meets_CopiesPutsAndResultsArrive_completes : ∃ (s : State) (id : Nat) (c : Cmd) (w : Walked),
    s.cmds.find? (fun q => q.id == id && (q.state == .running || q.state == .starting)) = some c ∧ c.state = .running ∧
    s.unanswered c.owner.part c.wait = false ∧ c.kind ≠ .put ∧
    (s.touchSource c.owner c.plan.src (((planOf c.plan.src c.plan.ops).indices c.plan.src).map ((planOf c.plan.src c.plan.ops).at c.plan.src))).walkCmd
      c c.plan = .ok w :=
  ⟨walking, walkId, walkCmd1, walk_done.choose, walkCmd1_eq, by decide +kernel, by decide +kernel, by decide +kernel, walk_done.choose_spec⟩

/-- Window 5 maps page 0; a put of two bytes at its byte 8. -/
def receiving : State := reaching.modPart 0 fun p => { p with wins := [(5, { w := true, base := 0#64, len := 0x10000 })] }
def put1 : FabricPut := putOf 5 8 true { bytes := [1#8, 2#8], tags := [0xFFF0#16], poison := [false] } 0#16

theorem meets_CopiesPutsAndResultsArrive_put : ∃ (s : State) (p : FabricPut) (w : Window) (b : Payload) (ps : List Place),
    SMap.get? (s.part 0).wins p.win = some w ∧ w.w = true ∧ payloadOf p = some b ∧ p.off + p.len ≤ w.len ∧
    s.winPlaces 0 (w.base.toNat + p.off) true (spanGranules (w.base.toNat + p.off) p.len) = .ok ps := by
  let w : Window := { w := true, base := 0#64, len := 0x10000 }
  obtain ⟨ps, h⟩ := ok_of (x := receiving.winPlaces 0 (w.base.toNat + put1.off) true (spanGranules (w.base.toNat + put1.off) put1.len))
    (by decide +kernel)
  obtain ⟨b, k⟩ := some_of (o := payloadOf put1) (by decide +kernel)
  exact ⟨receiving, put1, w, b, ps, by decide +kernel, by decide, k, by decide, h⟩

/-- A block of mode 7, which is never sent (24 R428). -/
theorem meets_CopiesPutsAndResultsArrive_putFails : ∃ p : FabricPut, payloadOf p = none :=
  ⟨{ win := 5, off := 8, len := 2, tagged := false, flits := [1#8, 7#8] ++ List.replicate 30 0#8, rtag := 0#16 }, by decide +kernel⟩

/-- The last bytes of the window, over the fabric. -/
theorem meets_CopiesPutsAndResultsArrive_read : ∃ (s : State) (w : Window) (ps : List Place), SMap.get? (s.part 0).wins 5 = some w ∧
    65528 + 8 ≤ w.len ∧ s.winPlaces 0 (w.base.toNat + 65528) false (spanGranules (w.base.toNat + 65528) 8) = .ok ps := by
  let w : Window := { w := true, base := 0#64, len := 0x10000 }
  obtain ⟨ps, h⟩ := ok_of (x := receiving.winPlaces 0 (w.base.toNat + 65528) false (spanGranules (w.base.toNat + 65528) 8)) (by decide +kernel)
  exact ⟨receiving, w, ps, by decide +kernel, by decide, h⟩

/-- A put that is under way. -/
def putting : State :=
  { copying 0#32 with cmds := (copying 0#32).cmds.map fun c => { c with kind := .put, state := .sent, remote := some (1, 5), block := [0#8] } }

def putId : Nat := match putting.cmds with | c :: _ => c.id | [] => 0
def putOpt : Option Cmd := putting.cmds.find? fun q => q.id == putId && q.state == .sent
theorem put_sent : putOpt.isSome = true := by decide +kernel
def putCmd1 : Cmd := putOpt.get put_sent
theorem putCmd1_eq : putOpt = some putCmd1 := by
  unfold putCmd1
  exact (Option.some_get put_sent).symm

theorem meets_CopiesPutsAndResultsArrive_acknowledged : ∃ (s : State) (id d w : Nat) (c : Cmd),
    s.cmds.find? (fun q => q.id == id && q.state == .sent) = some c ∧ c.remote = some (d, w) ∧ c.block ≠ [] := by
  exact ⟨putting, putId, 1, 5, putCmd1, putCmd1_eq, by decide +kernel, by decide +kernel⟩

/-- A load and an atomic under way, and a port that partition 0 has. -/
theorem meets_CopiesPutsAndResultsArrive_results :
    (∃ (s : State) (id : Nat) (p : Pending), s.pend.find? (fun q => q.id == id && q.kind == .load && q.ready) = some p) ∧
    (∃ (s : State) (id : Nat) (p : Pending), s.pend.find? (fun q => q.id == id && q.kind == .atomic && q.ready) = some p) ∧
    (∃ s : State, (List.range 24).find? (fun p => (s.dev.ports.getD p 0#32).getLsbD 31) = some 0) := by
  let a := next (exec (.ld32 0#1 20#8 8#8 0#8) reaching)
  let b := next (exec (.atadd 0#1 20#8 8#8 1#8 0#32) reaching)
  let i (s : State) : Nat := match s.pend with | p :: _ => p.id | [] => 0
  obtain ⟨p, h⟩ := some_of (o := a.pend.find? fun q => q.id == i a && q.kind == .load && q.ready) (by decide +kernel)
  obtain ⟨r, k⟩ := some_of (o := b.pend.find? fun q => q.id == i b && q.kind == .atomic && q.ready) (by decide +kernel)
  exact ⟨⟨a, i a, p, h⟩, ⟨b, i b, r, k⟩, ⟨reaching.modDev fun d => { d with ports := d.ports.set 0 0x80000000#32 }, by decide +kernel⟩⟩

/-- The state after an issue, with a chunk to go on from. -/
def mmuling (i : Instr) (s : State) : State :=
  (next (exec i s)).modCore 0 fun c => { c with mat := c.mat.map fun m => { m with chunk := 3 } }

def MmulRes.isDone : MmulRes → Bool
  | .done _ => true
  | _ => false

def MmulRes.why : MmulRes → Option FetchStop
  | .stop _ why _ => some why
  | _ => none

theorem done_of {r : MmulRes} (e : MmulRes.isDone r = true) : ∃ t, r = .done t := by
  cases r with
  | done t => exact ⟨t, rfl⟩
  | stop _ _ _ => cases e

theorem stop_of {r : MmulRes} {x : FetchStop} (e : (MmulRes.why r == some x) = true) : ∃ t k, r = .stop t x k := by
  cases r with
  | done t => cases e
  | stop t y k => exact ⟨t, k, by rw [Option.some.inj (eq_of_beq e)]⟩

/-- The command's barrier word is clear, or its rows are at a misaligned address. -/
def streaming : State := { laddling (some tile0) with mem := weave1.mem }
def skewed : State := streaming.modEngine 5 fun v => v.setK 8 [{ val := 1#32 }]

/-- Its rows are on page 5, which is not present and may have been reported; or in weight store group 0, whose window is open. -/
def paging (told : Bool) : State :=
  (streaming.modEngine 5 fun v => v.setK 8 [{ val := 0x50000#32 }, { val := 0#32 }]).modPart 0 fun p =>
    { p with faults := if told then [{ id := 77, va := 0x50000#64, src := .mmul, wr := false, core := 0, rtag := 0#16 }] else [] }
def refreshing : State :=
  (streaming.modEngine 5 fun v => v.setK 8 [{ val := 0x50000#32 }, { val := 0#32 }]).modPart 0 fun p =>
    { p with tlb := (5, { codeLeaf with target := 0#2, ws := true, frame := 0 }) :: p.tlb }

/-- A block of one FP32 row for `dst`, without a barrier; page 1 is DRAM, and page 2 may not be written. -/
def draining (kind dst : Nat) : State :=
  let s := (laddling none).modPart 0 fun p => { p with tlb := (2, { codeLeaf with frame := 2, w := false }) :: p.tlb }
  next (exec (.mdrain 0#3 4#8) { s with mem := s.mem.store (scratchKey 0 0) (leBytes 64 (dst + kind * 2 ^ 64 + 512 * 2 ^ 128)) })

theorem meets_MatrixAndStoreCompletions_matrix :
    (∃ (s : State) (m : MatOp) (p : Pour) (o : Nat), s.matReady 0 .mldw = some (m, p) ∧
      aperture (m.regs.getD 1 0#32 ++ m.regs.getD 0 0#32) = .scratch o) ∧
    (∃ (s : State) (m : MatOp) (p : Pour) (t : State), s.matReady 0 .mmul = some (m, p) ∧ s.runMmul 0 m p = some (.done t)) ∧
    (∃ (s : State) (m : MatOp) (p : Pour) (t : State) (c k : Nat), s.matReady 0 .mmul = some (m, p) ∧
      s.runMmul 0 m p = some (.stop t (.error c) k)) ∧
    (∃ (s : State) (m : MatOp) (p : Pour) (t : State) (va k : Nat), s.matReady 0 .mmul = some (m, p) ∧
      s.runMmul 0 m p = some (.stop t (.page va) k) ∧ s.reported p.part va = none) ∧
    (∃ (s : State) (m : MatOp) (p : Pour) (t : State) (va k f : Nat), s.matReady 0 .mmul = some (m, p) ∧
      s.runMmul 0 m p = some (.stop t (.page va) k) ∧ s.reported p.part va = some f) ∧
    (∃ (s : State) (m : MatOp) (p : Pour) (t : State) (k : Nat), s.matReady 0 .mmul = some (m, p) ∧
      s.runMmul 0 m p = some (.stop t .refresh k)) ∧
    (∃ (s : State) (m : MatOp) (p : Pour), s.matReady 0 .mdrain = some (m, p) ∧ m.twin = false ∧ (s.runDrain 0 p m).page = none ∧
      (s.runDrain 0 p m).code = 0) ∧
    (∃ (s : State) (m : MatOp) (p : Pour), s.matReady 0 .mdrain = some (m, p) ∧ m.twin = false ∧ (s.runDrain 0 p m).page = none ∧
      (s.runDrain 0 p m).code ≠ 0) := by
  obtain ⟨⟨m1, p1⟩, a1, b1⟩ := any_of (o := (next (exec (.mldw 4#8 6#8 0#32) (laddling none))).matReady 0 .mldw)
    (q := fun e => decide (aperture (e.1.regs.getD 1 0#32 ++ e.1.regs.getD 0 0#32) = .scratch 0)) (by decide +kernel)
  let t := mmuling (.mmul 0#3 8#8 12#8 0#32) streaming
  obtain ⟨⟨m2, p2⟩, a2, b2⟩ := any_of (o := t.matReady 0 .mmul) (q := fun e => (t.runMmul 0 e.1 e.2).any MmulRes.isDone) (by decide +kernel)
  obtain ⟨r2, c2, d2⟩ := any_of b2
  obtain ⟨t2, e2⟩ := done_of d2
  let u := mmuling (.mmul 0#3 8#8 12#8 0#32) skewed
  obtain ⟨⟨m3, p3⟩, a3, b3⟩ := any_of (o := u.matReady 0 .mmul)
    (q := fun e => (u.runMmul 0 e.1 e.2).any fun r => MmulRes.why r == some (.error 4)) (by decide +kernel)
  obtain ⟨r3, c3, d3⟩ := any_of b3
  obtain ⟨t3, k3, e3⟩ := stop_of d3
  let g (b : Bool) := mmuling (.mmul 0#3 8#8 12#8 0#32) (paging b)
  obtain ⟨⟨m6, p6⟩, a6, b6⟩ := any_of (o := (g false).matReady 0 .mmul) (q := fun e => ((g false).runMmul 0 e.1 e.2).any fun r =>
    MmulRes.why r == some (.page 0x500C0) && ((g false).reported e.2.part 0x500C0).isNone) (by decide +kernel)
  obtain ⟨r6, c6, d6⟩ := any_of b6
  obtain ⟨d6, f6⟩ := Bool.and_eq_true_iff.mp d6
  obtain ⟨t6, k6, e6⟩ := stop_of d6
  obtain ⟨⟨m7, p7⟩, a7, b7⟩ := any_of (o := (g true).matReady 0 .mmul) (q := fun e => ((g true).runMmul 0 e.1 e.2).any fun r =>
    MmulRes.why r == some (.page 0x500C0) && (g true).reported e.2.part 0x500C0 == some 77) (by decide +kernel)
  obtain ⟨r7, c7, d7⟩ := any_of b7
  obtain ⟨d7, f7⟩ := Bool.and_eq_true_iff.mp d7
  obtain ⟨t7, k7, e7⟩ := stop_of d7
  let w := mmuling (.mmul 0#3 8#8 12#8 0#32) refreshing
  obtain ⟨⟨m8, p8⟩, a8, b8⟩ := any_of (o := w.matReady 0 .mmul)
    (q := fun e => (w.runMmul 0 e.1 e.2).any fun r => MmulRes.why r == some .refresh) (by decide +kernel)
  obtain ⟨r8, c8, d8⟩ := any_of b8
  obtain ⟨t8, k8, e8⟩ := stop_of d8
  let d := draining 0 0x01FFFFFF00000400
  obtain ⟨⟨m4, p4⟩, a4, b4⟩ := any_of (o := d.matReady 0 .mdrain)
    (q := fun e => !e.1.twin && (d.runDrain 0 e.2 e.1).page.isNone && decide ((d.runDrain 0 e.2 e.1).code = 0)) (by decide +kernel)
  let f := draining 1 0x20000
  obtain ⟨⟨m5, p5⟩, a5, b5⟩ := any_of (o := f.matReady 0 .mdrain)
    (q := fun e => !e.1.twin && (f.runDrain 0 e.2 e.1).page.isNone && decide ((f.runDrain 0 e.2 e.1).code = 3)) (by decide +kernel)
  simp only [Bool.and_eq_true, Bool.not_eq_true', Option.isNone_iff_eq_none, decide_eq_true_eq] at b4 b5
  refine ⟨⟨_, m1, p1, 0, a1, of_decide_eq_true b1⟩, ⟨t, m2, p2, t2, a2, by rw [c2, e2]⟩, ⟨u, m3, p3, t3, 4, k3, a3, by rw [c3, e3]⟩,
    ⟨g false, m6, p6, t6, 0x500C0, k6, a6, by rw [c6, e6], Option.isNone_iff_eq_none.mp f6⟩,
    ⟨g true, m7, p7, t7, 0x500C0, k7, 77, a7, by rw [c7, e7], eq_of_beq f7⟩, ⟨w, m8, p8, t8, k8, a8, by rw [c8, e8]⟩,
    ⟨d, m4, p4, a4, b4.1.1, b4.1.2, b4.2⟩, ⟨f, m5, p5, a5, b5.1.1, b5.1.2, ?_⟩⟩
  rw [b5.2]
  decide

/-- The end of a refresh window, a core that copies its mirror, and a weight store with a bad range, a good one and a busy one. -/
def storing (src : BitVec 64) (dst len : Word) : State :=
  State.reset.modPart 0 fun p => { p with wssrc := src, wsdst := dst, wslen := len }

theorem meets_MatrixAndStoreCompletions_stores :
    (∃ (s : State) (g : Nat), s.clk % 56320 = (g % 4 * 14080 + 1760) % 56320) ∧
    (∃ s : State, (s.core 0).copying = true) ∧
    (∃ s : State, (1#32).getLsbD 0 = true ∧ (s.part 0).wsst ≠ 1 ∧ s.hasPours 0 = true) ∧
    (∃ s : State, (s.part 0).wsst ≠ 1 ∧ s.hasPours 0 = false ∧ 100663296 < (s.part 0).wsdst.toNat + (s.part 0).wslen.toNat) ∧
    (∃ s : State, (s.part 0).wsst ≠ 1 ∧ s.hasPours 0 = false ∧ (s.part 0).wsdst.toNat % 64 = 0 ∧ (s.part 0).wslen.toNat % 64 = 0 ∧
      (s.part 0).wslen.toNat ≠ 0 ∧ (s.part 0).wsdst.toNat + (s.part 0).wslen.toNat = 100663296) ∧
    (∃ s : State, (s.part 0).wsst = 1 ∧ s.walkerHalted 0 = false) :=
  ⟨⟨{ State.reset with clk := 56320 + 14080 + 1760 }, 1, by decide⟩, ⟨State.reset.modCore 0 fun c => { c with copying := true }, by decide +kernel⟩,
    ⟨weave1, by decide, by decide +kernel, by decide +kernel⟩,
    ⟨storing 0 100663296#32 64#32, by decide +kernel, by decide +kernel, by decide +kernel⟩,
    ⟨storing 0 100663232#32 64#32, by decide +kernel, by decide +kernel, by decide +kernel, by decide +kernel, by decide +kernel, by decide +kernel⟩,
    ⟨State.reset.modPart 0 fun p => { p with wsst := 1 }, by decide +kernel, by decide +kernel⟩⟩

/-! ## What meets the hypotheses of the statements about the host -/

/-- Queue 0 of partition 0 is enabled; function 1 is bound to partition 0. -/
def bound : State :=
  (State.reset.modPart 0 fun p => { p with queues := p.queues.set 0 { en := true } }).modDev fun d => { d with bind := d.bind.set 0 0x20#32 }

/-- What a commit of a record makes of the port and of the queue. -/
def committed (s : State) : State := s.modPart 0 fun p => { p with queues := p.queues.set 0 { (p.queues.getD 0 {}) with bufPf := [] } }

/-- A record of one fibre, and one of none. -/
def recordBytes (nfib : Nat) : List Byte := leBytes 64 (nfib * 2 ^ 160 + 2 ^ 192)

theorem meets_HostQueuesBindingsAndResets_commit :
    (∃ (k off : Nat) (data : List Byte), k < 4 ∧ ¬(off ≤ 63 ∧ 63 < off + data.length)) ∧
    (∃ (s : State) (t : Task) (hd : Word) (v : State), parseRecord 0 (leNat (recordBytes 1)) = some t ∧
      (committed s).enter { t with queue := 0 } = (some hd, v)) ∧
    (∃ (s : State) (t : Task) (v : State), parseRecord 0 (leNat (recordBytes 1)) = some t ∧ (committed s).enter { t with queue := 0 } = (none, v)) ∧
    parseRecord 0 (leNat (recordBytes 0)) = none ∧ (bound.vfOf 0).isSome = true := by
  obtain ⟨x, k, g⟩ := any_of (o := parseRecord 0 (leNat (recordBytes 1)))
    (q := fun t => ((committed bound).enter { t with queue := 0 }).1.isSome && ((committed State.reset).enter { t with queue := 0 }).1.isNone)
    (by decide +kernel)
  simp only [Bool.and_eq_true, Option.isNone_iff_eq_none] at g
  obtain ⟨hd, e⟩ := some_of g.1
  exact ⟨⟨3, 0, List.replicate 63 0#8, by decide, by decide⟩, ⟨bound, x, hd, _, k, Prod.ext e rfl⟩, ⟨State.reset, x, _, k, Prod.ext g.2 rfl⟩,
    by decide +kernel, by decide +kernel⟩

theorem meets_HostQueuesBindingsAndResets_registers :
    (∃ s : State, ((s.part 0).queues.getD 0 {}).en = true ∧ s.queueLoad 0 0 = 0 ∧ (0#32).getLsbD 31 = false) ∧
    (∃ s : State, ((s.part 0).queues.getD 3 {}).en = false ∧ (0x80000014#32).getLsbD 31 = true ∧ (0x80000014#32).toNat % 32 = 20 ∧
      ((s.part 0).queues.getD 3 {}).base.toNat % 64 = 0 ∧ ((s.part 0).queues.getD 3 {}).base.toNat < 2 ^ 57) ∧
    (∃ s : State, (0x20#32).toNat % 64 = (s.dev.bind.getD 0 0#32).toNat % 64) ∧
    (∃ s : State, (s.dev.bind.getD 23 0#32).toNat % 64 = 0 ∧ (0x37#32).toNat % 64 - 32 < 24 ∧ s.idle ((0x37#32).toNat % 64 - 32) = true ∧
      ¬∃ u < 24, u ≠ 23 ∧ (s.dev.bind.getD u 0#32).toNat % 64 = (0x37#32).toNat % 64) ∧
    (∃ s : State, (s.dev.bind.getD 1 0#32).toNat % 64 = 0 ∧ ((0x38#32).toNat % 64 - 32 = 24) ∧
      ∃ u < 24, u ≠ 1 ∧ (s.dev.bind.getD u 0#32).toNat % 64 = (0x20#32).toNat % 64) ∧
    (∃ s : State, s.idle 23 = true ∧ ∀ p < 24, p ≠ 23 → s.dev.ports.getD p 0#32 &&& 0xFFFFFFFF#32 = 0#32) ∧
    (∃ s : State, (s.dev.bind.getD (1 - 1) 0#32).getLsbD 5 = true) :=
  ⟨⟨bound, by decide +kernel, by decide +kernel, by decide⟩,
    ⟨bound, by decide +kernel, by decide, by decide, by decide +kernel, by decide +kernel⟩, ⟨bound, by decide +kernel⟩,
    ⟨bound, by decide +kernel, by decide, by decide +kernel, by decide +kernel⟩,
    ⟨bound, by decide +kernel, by decide, ⟨0, by decide, by decide, by decide +kernel⟩⟩,
    ⟨State.reset, by decide +kernel, by decide +kernel⟩, ⟨bound, by decide +kernel⟩⟩

/-- Partition 0 with a fault that waits for its answer, an invalidation under way, and an entry in each pop queue. -/
def answering : State :=
  (weave1.modPart 0 fun p =>
    { p with inv := some (5, 0), faults := [{ id := 9, va := 0#64, src := .fibre, wr := false, core := 0, rtag := 0#16, seq := 7#32, entered := true }] }).modDev
    fun d => { d with esc := [5#128], sus := [6#256] }

theorem meets_AddressSpaceAndRegisters :
    (∃ s : State, s.idle 0 = true ∧ (0#256).getLsbD 11 = false ∧ (0#64).getLsbD 20 = false) ∧
    (let v : BitVec 256 := BitVec.ofNat 256 (1023 + 2 ^ 11 + (2 ^ 57 - 65536) * 2 ^ 64 + 2 ^ 36 * 2 ^ 128)
     State.reset.idle 0 = true ∧ v.getLsbD 11 = true ∧ v.toNat / 2 ^ 64 % 2 ^ 64 % 65536 = 0 ∧ v.toNat / 2 ^ 64 % 2 ^ 64 < 2 ^ 57 ∧
       v.toNat / 2 ^ 128 % 2 ^ 64 % 65536 = 0 ∧ v.toNat / 2 ^ 128 % 2 ^ 64 ≤ 2 ^ 36) ∧
    ((0x1FFFFF#64).getLsbD 20 = true ∧ SMap.get? (State.reset.part 0).senders (1023 * 1024 + 1023) = none ∧
      (State.reset.part 0).senders.length < 1024) ∧
    ((5#32).toNat % 8 < 6 ∧ (State.reset.part 0).inv = none) ∧ (answering.part 0).inv = some (5, 0) ∧
    (∃ f, (answering.part 0).faults.find? (fun f => f.entered && f.seq == (7#64).truncate 32) = some f) ∧
    (bound.vfOf 0).isSome = true ∧ (State.reset.vfOf 0).isSome = false ∧
    State.reset.dev.esc = [] ∧ answering.dev.esc = 5#128 :: [] ∧ State.reset.dev.sus = [] ∧ answering.dev.sus = 6#256 :: [] :=
  ⟨⟨State.reset, by decide +kernel, by decide, by decide⟩, ⟨by decide +kernel, by decide, by decide, by decide, by decide, by decide⟩,
    ⟨by decide, by decide +kernel, by decide +kernel⟩, ⟨by decide, by decide +kernel⟩, by decide +kernel,
    some_of (o := (answering.part 0).faults.find? fun f => f.entered && f.seq == (7#64).truncate 32) (by decide +kernel),
    by decide +kernel, by decide +kernel, rfl, rfl, rfl, rfl⟩

/-- A device that is up, with partition 0's context in a state; its descriptor is at 0, all zeros. -/
def upWith (c : CtxState) : State :=
  ({ weave1 with mem := {} }.modPart 0 fun p => { p with ctx := c }).modDev fun d => { d with starting := none, startst := 3#32 }

/-- With an image under its save area, at 0. -/
def suspended : State := (upWith .restoring).modPart 0 fun p => { p with saved := SMap.put [] 0 {} }

/-- Control unit 17 with a lone dissent that was resynced, and one in probation that is over. -/
def unitIs (u : CtlUnit) : State := State.reset.modDev fun d => { d with starting := none, units := d.units.set 17 u }

/-- Error injection selected: a kind, with one shot, at an address. -/
def selecting (kind a : Nat) : State :=
  State.reset.modDev fun d => { d with injsel := BitVec.ofNat 64 (kind + 2 ^ 48), injaddr := BitVec.ofNat 64 a }

theorem meets_ContextsAndTheVotedPlane_contexts :
    (∀ c ∈ ([.idle, .saved] : List CtxState), (upWith c).up = true ∧ ownDram 0 ((upWith c).part 0).ctxd.toNat 64 = true ∧ ((upWith c).part 0).ctx = c) ∧
    ((upWith .running).part 0).ctx = .running ∧
    (((upWith .saving).part 0).ctx = .saving ∧ (upWith .saving).allTaken 0 = true ∧ (upWith .saving).hasPours 0 = true) ∧
    (∃ s : State, (s.part 0).ctx = .restoring ∧ (s.part 0).wsst = 1) ∧
    (((upWith .restoring).part 0).ctx = .restoring ∧ ((upWith .restoring).part 0).wsst ≠ 1 ∧
      SMap.get? ((upWith .restoring).part 0).saved ((upWith .restoring).part 0).desc.save.toNat = none) ∧
    ((suspended.part 0).ctx = .restoring ∧ (suspended.part 0).wsst ≠ 1 ∧ SMap.get? (suspended.part 0).saved (suspended.part 0).desc.save.toNat = some {}) :=
  ⟨by decide +kernel, by decide +kernel, ⟨by decide +kernel, by decide +kernel, by decide +kernel⟩,
    ⟨(upWith .restoring).modPart 0 fun p => { p with wsst := 1 }, by decide +kernel, by decide +kernel⟩,
    ⟨by decide +kernel, by decide +kernel, by decide +kernel⟩, by decide +kernel, by decide +kernel, by decide +kernel⟩

/-- Kind 5 on unit 17, whose firmware core runs, and is halted. -/
theorem meets_ContextsAndTheVotedPlane_vote :
    (let s := selecting 5 (17 + 2 * 32)
     s.dev.injsel.toNat / 2 ^ 48 % 256 ≠ 0 ∧ s.dev.injsel.toNat % 16 = 5 ∧ s.dev.injaddr.toNat % 32 ≤ 17 ∧
       s.dev.injaddr.toNat / 32 % 4 ≠ 3 ∧ s.dev.fwHalted.contains (s.dev.injaddr.toNat % 32) = false) ∧
    (let s := (selecting 5 (17 + 2 * 32)).modDev fun d => { d with fwHalted := [17] }
     s.dev.injsel.toNat / 2 ^ 48 % 256 ≠ 0 ∧ s.dev.injsel.toNat % 16 = 5 ∧ s.dev.fwHalted.contains (s.dev.injaddr.toNat % 32) = true) :=
  ⟨by decide +kernel, by decide +kernel⟩

theorem meets_ContextsAndTheVotedPlane_units :
    (17 ≤ 17 ∧ (unitIs {}).dev.starting = none ∧ (unitIs {}).dev.fwHalted.contains 17 = false ∧
      ((unitIs {}).dev.units.getD 17 {}).state = 0#2) ∧
    (let u := (unitIs { state := 1#2, resync := 1024 }).dev.units.getD 17 {}
     u.state = 1#2 ∧ u.probing = false ∧ (unitIs { state := 1#2, resync := 1024 }).dev.fwHalted.contains 17 = false) ∧
    (let u := (unitIs { state := 1#2, probing := true }).dev.units.getD 17 {}
     u.state = 1#2 ∧ u.probing = true ∧ u.resync = 0 ∧
       (unitIs { state := 1#2, probing := true }).dev.fwHalted.contains 17 = false) ∧
    (∀ k ∈ [1, 2, 3, 4], (1#32).getLsbD 0 = true ∧ (selecting k 0).dev.injsel.toNat / 2 ^ 48 % 256 ≠ 0 ∧
      (selecting k 0).dev.injsel.toNat % 16 = k) :=
  ⟨by decide +kernel, by decide +kernel, by decide +kernel, by decide +kernel⟩

/-- The sensors at their thresholds: just below the warning, at it, at the critical one, at the fatal one (24 R434). -/
theorem meets_StartsFirmwareAndSensors_states :
    (∀ e ∈ ([(2299, 0), (2300, 1), (2400, 2)] : List (Nat × Nat)),
      e.2 = if 2400 ≤ e.1 then 2 else if 2300 ≤ e.1 then 1 else 0) ∧
    (∀ e ∈ ([(94, 0), (95, 1), (105, 2), (115, 3)] : List (Nat × Nat)), ∃ s : State, hottest s.dev.readings = e.1 ∧
      e.2 = if 115 ≤ e.1 then 3 else if 105 ≤ e.1 then 2 else if 95 ≤ e.1 then 1 else 0) := by
  refine ⟨by decide, fun e he => ⟨State.reset.modDev fun d => { d with readings := ⟨0, [e.1], 0, 0⟩ }, ?_⟩⟩
  simp only [List.mem_cons, List.not_mem_nil, or_false] at he
  rcases he with rfl | rfl | rfl | rfl <;> exact ⟨by decide, by decide⟩

/-- A cold start that fails in its first stage, and a warm one that fails in its fourth. -/
theorem meets_StartsFirmwareAndSensors_measures :
    (∃ s : State, s.dev.starting = some (true, 0) ∧ s.dev.queued = [] ∧ 1 ≤ 8) ∧
    (∃ s : State, s.dev.starting = some (false, 1) ∧ s.dev.queued = [] ∧ 3 < 4) :=
  ⟨⟨State.reset, by decide +kernel, by decide +kernel, by decide⟩,
    ⟨State.reset.modDev fun d => { d with starting := some (false, 1) }, by decide +kernel, by decide +kernel, by decide⟩⟩

/-- A dead device, one whose dies are held, one with readings, one with a nonce, one that is unlocked. -/
def reading (r : Readings) : State := State.reset.modDev fun d => { d with readings := r }

theorem meets_StartsFirmwareAndSensors :
    (∃ s : State, s.dev.dead = true) ∧ (∃ s : State, s.dev.starting = none ∧ s.dev.therm = false ∧ s.dev.dead = false) ∧
    (State.reset.dev.starting = some (true, 0) ∧ State.reset.dev.startSlot = some 0 ∧ State.reset.dev.queued = []) ∧
    115 ≤ hottest (reading ⟨0, [0, 115], 0, 0⟩).dev.readings ∧
    (∃ s : State, s.dev.therm = true ∧ s.dev.starting = none ∧ 94 < 95) ∧
    ((∀ r ∈ ([⟨2400, [], 0, 0⟩, ⟨0, [105], 0, 0⟩, ⟨0, [], 50, 0⟩, ⟨0, [], 0, 70⟩] : List Readings),
        2400 ≤ r.power ∨ 105 ≤ hottest r ∨ 50 ≤ r.inlet ∨ 70 ≤ r.outlet) ∧
      ¬(2400 ≤ 2399 ∨ 105 ≤ hottest ⟨2399, [104], 49, 69⟩ ∨ 50 ≤ 49 ∨ 70 ≤ 69)) ∧
    (12 ≤ 12 ∧ State.reset.dev.starting.isSome = true) ∧
    ((∃ s : State, 8 ≤ s.dev.failures) ∧ (∃ s : State, s.dev.failures = 7)) ∧
    (State.reset.dev.active ≤ 1 ∧ State.reset.dev.slots.length = 2 ∧ State.reset.dev.slotOk (1 - State.reset.dev.active) = true) ∧
    (∃ s : State, s.dev.unlocked = true) :=
  ⟨⟨State.reset.modDev fun d => { d with dead := true }, rfl⟩, ⟨State.reset.modDev fun d => { d with starting := none }, rfl, rfl, rfl⟩, by decide +kernel, by decide +kernel,
    ⟨State.reset.modDev fun d => { d with starting := none, therm := true }, rfl, rfl, by decide⟩, by decide, by decide +kernel,
    ⟨⟨State.reset.modDev fun d => { d with failures := 8 }, by decide⟩, ⟨State.reset.modDev fun d => { d with failures := 7 }, rfl⟩⟩, by decide +kernel,
    ⟨State.reset.modDev fun d => { d with unlocked := true }, rfl⟩⟩

/-- Kernel debug is active, and the pour of the task in slot 0 of queue 0 is in a mode. -/
def debugged (m : DbgMode) : State := (weave1.modPour 2 fun p => { p with dbg := m }).modPart 0 fun p => { p with active := true }

/-- A command on that pour: an operation, a register class and number. -/
def dbgCmd (op cls reg : Nat) : BitVec 256 := BitVec.ofNat 256 (op + reg * 2 ^ 112 + cls * 2 ^ 120)

/-- Whether a command finds the pour. -/
def finds (s : State) (c : BitVec 256) : Bool :=
  (s.part 0).active && !s.dbgBusy 0 && !(decodeDbg c).illegal && ((s.dbgPour 0 (decodeDbg c)).map (·.1) == some 2)

theorem meets_DebuggingProfilingAndAssay_debug :
    finds (debugged .free) (dbgCmd 0 0 0) = true ∧ finds (debugged (.stopped 0)) (dbgCmd 0 0 0) = true ∧
    finds (debugged (.stopped 0)) (dbgCmd 1 0 0) = true ∧
    finds (debugged (.stopped 0)) (dbgCmd 2 0 0) = true ∧
    (∀ c ∈ [(3, 0, 63), (3, 1, 0), (3, 2, 7), (3, 3, 0x11), (3, 4, 63), (3, 5, 15), (4, 0, 63), (5, 0, 63)],
      finds (debugged (.stopped 0)) (dbgCmd c.1 c.2.1 c.2.2) = true ∧
      ((debugged (.stopped 0)).dbgPour 0 (decodeDbg (dbgCmd c.1 c.2.1 c.2.2))).any (fun e =>
        ((debugged (.stopped 0)).dbgReg e.1 e.2 (decodeDbg (dbgCmd c.1 c.2.1 c.2.2))).any fun r =>
          !(debugged (.stopped 0)).dbgPending r) = true) ∧
    ((decodeDbg (dbgCmd 6 0 0)).illegal = true ∧ (decodeDbg (dbgCmd 3 6 0)).illegal = true) ∧
    ((∃ p, (debugged (.stopping { why := 0 })).pour? 2 = some p ∧ p.dbg = .stopping { why := 0 }) ∧
      (debugged (.stopping { why := 0 })).allYielded ((debugged (.stopping { why := 0 })).together 2) = true) ∧
    (∃ s : State, s.stepDone (s.together 2) = true) ∧ (1 ≠ 0 ∧ 1 * 1024 ≤ 1024) :=
  ⟨by decide +kernel, by decide +kernel, by decide +kernel, by decide +kernel, by decide +kernel, by decide +kernel,
    ⟨any_of (o := (debugged (.stopping { why := 0 })).pour? 2) (q := fun p => decide (p.dbg = .stopping { why := 0 })) (by decide +kernel) |>.imp
      fun _ h => ⟨h.1, of_decide_eq_true h.2⟩, by decide +kernel⟩,
    ⟨(debugged (.stepping 1 1024)).modFibre 4 fun f => { f with status := .bar }, by decide +kernel⟩, by decide⟩

/-- A sample of core 0, and a donor of the other die. -/
def sample1 (done : Bool) (sig : BitVec 64) (waited : Nat) : Sample :=
  { pour := 2, task := 1, core := 0, rtag := 0#16, handle := 0#32, idx := 0, ended := done, sig := sig, waited := waited,
    record := codeTask, hdr := codeHdr }
def sampling (sig : BitVec 64) : State :=
  (weave1.modPart 0 fun p => { p with sample := some (sample1 true sig 0) }).modPart 4 fun p => { p with asycfg := 0x26#32 }

/-- The same, with the replay begun, and its core held. -/
def replaying (sig : BitVec 64) : State := next (exec (.assayReplay 0 48 0#64) (sampling sig))

/-- A replay that begins, one that no core takes, and ones that end with the run's signature and with another; samples that a core would
donate for, and would not, after 2^28 cycles. -/
theorem meets_DebuggingProfilingAndAssay_samples :
    (∃ (s : State) (r : ProfReq), (s.core 0).profs = r :: []) ∧
    (∃ (s : State) (m : Sample), (s.part 0).sample = some m ∧ m.ended = true ∧ (s.part 0).ctx = .running ∧ m.replay = none ∧
      s.donates m 48 = false) ∧
    (∃ (s : State) (m : Sample) (pid : Nat) (u : State), (s.part 0).sample = some m ∧ m.ended = true ∧ (s.part 0).ctx = .running ∧
      m.replay = none ∧ s.donates m 48 = true ∧
      s.fresh.2.tryCore s.fresh.1 { m.record with part := partOf 48 } { m.hdr with scratch := 0, stack := 0 } m.idx none 48 =
        some (pid, u)) ∧
    (∀ g ∈ [0#64, 1#64], ∃ m pid p, ((replaying g).part 0).sample = some m ∧ m.ended = true ∧ ((replaying g).part 0).ctx = .running ∧
      m.replay = some (48, pid) ∧ (replaying g).pour? pid = some p ∧ m.sig = g ∧
      ((readLog m.logged ((replaying g).logBytes 0 m)).foldl Replay.row ((replaying g).replayFrom 0 m pid p)).sig = 0#64) ∧
    (∃ (s : State) (m : Sample), (s.part 0).sample = some m ∧ m.ended = true ∧ m.replay = none ∧ 2 ^ 28 ≤ m.waited ∧
      ∀ c < 288, s.donates m c = false) ∧
    (∃ (s : State) (m : Sample), (s.part 0).sample = some m ∧ m.ended = true ∧ m.replay = none ∧ 2 ^ 28 ≤ m.waited ∧
      ∃ c < 288, s.donates m c = true) := by
  let lone (n : Nat) := weave1.modPart 0 fun p => { p with sample := some (sample1 true 0#64 n) }
  have hd : (List.range 288).all (fun c => !(lone (2 ^ 28)).donates (sample1 true 0#64 (2 ^ 28)) c) = true := by decide +kernel
  refine ⟨⟨weave1.modCore 0 fun c => { c with profs := [{ pc := 0, kind := 0, rtag := 0#16, code := 0#64 }] },
      { pc := 0, kind := 0, rtag := 0#16, code := 0#64 }, by decide +kernel⟩,
    ⟨lone 0, sample1 true 0#64 0, by decide +kernel, rfl, by decide +kernel, rfl, by decide +kernel⟩, ?_, fun g hg => ?_,
    ⟨lone (2 ^ 28), sample1 true 0#64 (2 ^ 28), by decide +kernel, rfl, rfl, by decide, fun c h => by
      simpa using List.all_eq_true.mp hd c (List.mem_range.mpr h)⟩,
    ⟨(sampling 0#64).modPart 0 fun p => { p with sample := some (sample1 true 0#64 (2 ^ 28)) }, sample1 true 0#64 (2 ^ 28),
      by decide +kernel, rfl, rfl, by decide, 48, by decide, by decide +kernel⟩⟩
  · obtain ⟨⟨pid, u⟩, e⟩ := some_of (o := (sampling 0#64).fresh.2.tryCore (sampling 0#64).fresh.1 { codeTask with part := partOf 48 }
      { codeHdr with scratch := 0, stack := 0 } 0 none 48) (by decide +kernel)
    exact ⟨sampling 0#64, sample1 true 0#64 0, pid, u, by decide +kernel, rfl, by decide +kernel, rfl, by decide +kernel, e⟩
  · have hg : g = 0#64 ∨ g = 1#64 := by simpa using hg
    obtain ⟨m, e, k⟩ := any_of (o := ((replaying g).part 0).sample) (q := fun m => m.ended && (m.sig == g) &&
      match m.replay with
      | some (c, pid) => c == 48 && ((replaying g).pour? pid).any fun p =>
          ((readLog m.logged ((replaying g).logBytes 0 m)).foldl Replay.row ((replaying g).replayFrom 0 m pid p)).sig == 0#64
      | none => false) (by rcases hg with rfl | rfl <;> decide +kernel)
    simp only [Bool.and_eq_true] at k
    split at k
    · rename_i c pid q
      simp only [Bool.and_eq_true, beq_iff_eq] at k
      obtain ⟨⟨k1, k2⟩, k3, k4⟩ := k
      obtain ⟨p, hp, k5⟩ := any_of k4
      exact ⟨m, pid, p, e, k1, by rcases hg with rfl | rfl <;> decide +kernel, by rw [q, k3], hp, k2, by simpa using k5⟩
    · exact absurd k.2 (by decide)

/-! ## What meets the hypotheses of the statements about steps and of the general ones -/

theorem meets_StepRunsTheDecodedInstruction_weave : ∃ (s : State) (c : Ctx) (x l : Word) (i : Instr), s.agenda = .run (.weave 3) :: [] ∧
    (let u : State := State.cued { s with agenda := [] } (.run (.weave 3))
     u.ctxOf 3 = some c ∧ u.canIssue 3 = true ∧ u.quadPick c.v.core c.v.quad = some 3 ∧ u.compares c.pid c.pc = false ∧ c.v.owes = false ∧
       u.fetch c.p.part c.p.code c.p.hdr.nwords c.pc = (.word x l, some i)) := by
  let s : State := { weave1 with agenda := [.run (.weave 3)] }
  let u : State := State.cued { s with agenda := [] } (.run (.weave 3))
  exact ⟨s, ctx u, 0xE2000000#32, 0#32, .nop, rfl, (ctx_of (s := u) (by decide +kernel)).1,
    by decide +kernel, by decide +kernel, by decide +kernel, by decide +kernel, by decide +kernel⟩

/-- A word of a weave that decodes to nothing: `TAG.MARK` with an A of 0, and a reserved `TAG` form. -/
theorem meets_StepRunsTheDecodedInstruction_undecoded : ∀ x ∈ [0x7E030002#32, 0x7E030004#32], ∃ (s : State) (c : Ctx) (l : Word),
    s.agenda = .run (.weave 3) :: [] ∧
    (let u : State := State.cued { s with agenda := [] } (.run (.weave 3))
     u.ctxOf 3 = some c ∧ u.canIssue 3 = true ∧ u.quadPick c.v.core c.v.quad = some 3 ∧ u.compares c.pid c.pc = false ∧ c.v.owes = false ∧
       c.acts ≠ [] ∧ u.fetch c.p.part c.p.code c.p.hdr.nwords c.pc = (.word x l, none)) := by
  intro x hx
  let s : State := { weave1 with mem := weave1.mem.store 64 (leBytes 4 x.toNat), agenda := [.run (.weave 3)] }
  let u : State := State.cued { s with agenda := [] } (.run (.weave 3))
  simp only [List.mem_cons, List.not_mem_nil, or_false] at hx
  rcases hx with rfl | rfl <;>
  exact ⟨s, ctx u, 0#32, rfl, (ctx_of (s := u) (by decide +kernel)).1, by decide +kernel, by decide +kernel, by decide +kernel,
    by decide +kernel, by decide +kernel, by decide +kernel⟩

/-- The same of an engine and of an instance: a reserved form, and a reserved Crucible major. -/
theorem meets_StepRunsTheDecodedInstruction_undecodedEngines :
    (∃ (s : State) (v : Engine) (p : Pour) (x l : Word), s.agenda = .run (.engine 5) :: [] ∧
      (let u : State := State.cued { s with agenda := [] } (.run (.engine 5))
       u.engine? 5 = some v ∧ u.pour? v.pour = some p ∧ u.engineReady v = true ∧
         u.fetch p.part p.code p.hdr.nwords v.pc = (.word x l, none))) ∧
    (∃ (s : State) (c : Crucible) (x l : Word), s.agenda = .run (.crucible 6) :: [] ∧
      (let u : State := State.cued { s with agenda := [] } (.run (.crucible 6))
       u.crucible? 6 = some c ∧ u.crucibleReady 6 c = true ∧ u.fetchCru c = .word x l ∧ decodeCrucible x = none)) := by
  constructor
  · let s : State := { engine1 .ladle [] with mem := weave1.mem.store 64 (leBytes 4 0x7E030004), agenda := [.run (.engine 5)] }
    let u : State := State.cued { s with agenda := [] } (.run (.engine 5))
    have r := eng_ok (s := { u with turn := .engine 5 }) (h := { instr := .nop }) (by decide +kernel)
    exact ⟨s, eng u, engPour u, 0x7E030004#32, 0#32, rfl, r.eng, r.pour, by decide +kernel, by decide +kernel⟩
  · let s : State := { crucible1 [] with mem := weave1.mem.store 64 (leBytes 4 0xF8000000), agenda := [.run (.crucible 6)] }
    let u : State := State.cued { s with agenda := [] } (.run (.crucible 6))
    exact ⟨s, cru u, 0xF8000000#32, 0#32, rfl, (cru_ok (s := { u with turn := .crucible 6 }) (reads := []) (by decide +kernel)).inst,
      by decide +kernel, by decide +kernel, by decide +kernel⟩

/-- A weave that owes a checkpoint. -/
theorem meets_StepRunsTheDecodedInstruction_owes : ∃ (s : State) (c : Ctx), s.agenda = .run (.weave 3) :: [] ∧
    (let u : State := State.cued { s with agenda := [] } (.run (.weave 3))
     u.ctxOf 3 = some c ∧ u.canIssue 3 = true ∧ u.quadPick c.v.core c.v.quad = some 3 ∧ u.compares c.pid c.pc = false ∧ c.v.owes = true) := by
  let s : State := { (paired weave1).modWeave 3 fun v => { v with owes := true } with agenda := [.run (.weave 3)] }
  let u : State := State.cued { s with agenda := [] } (.run (.weave 3))
  exact ⟨s, ctx u, rfl, (ctx_of (s := u) (by decide +kernel)).1, by decide +kernel, by decide +kernel, by decide +kernel, by decide +kernel⟩

theorem meets_StepRunsTheDecodedInstruction_engine : ∃ (s : State) (v : Engine) (p : Pour) (x l : Word) (i : Instr),
    s.agenda = .run (.engine 5) :: [] ∧
    (let u : State := State.cued { s with agenda := [] } (.run (.engine 5))
     u.engine? 5 = some v ∧ u.pour? v.pour = some p ∧ u.engineReady v = true ∧
       u.fetch p.part p.code p.hdr.nwords v.pc = (.word x l, some i)) := by
  let s : State := { engine1 .ladle [] with agenda := [.run (.engine 5)] }
  let u : State := State.cued { s with agenda := [] } (.run (.engine 5))
  have r := eng_ok (s := { u with turn := .engine 5 }) (h := { instr := .nop }) (by decide +kernel)
  exact ⟨s, eng u, engPour u, 0xE2000000#32, 0#32, .nop, rfl, r.eng, r.pour, by decide +kernel, by decide +kernel⟩

theorem meets_StepRunsTheDecodedInstruction_crucible : ∃ (s : State) (c : Crucible) (x l : Word) (i : Instr),
    s.agenda = .run (.crucible 6) :: [] ∧
    (let u : State := State.cued { s with agenda := [] } (.run (.crucible 6))
     u.crucible? 6 = some c ∧ u.crucibleReady 6 c = true ∧ u.fetchCru c = .word x l ∧ decodeCrucible x = some i) := by
  let s : State := { crucible1 [] with mem := weave1.mem.store 64 (leBytes 4 0xB0000000), agenda := [.run (.crucible 6)] }
  let u : State := State.cued { s with agenda := [] } (.run (.crucible 6))
  exact ⟨s, cru u, 0xB0000000#32, 0#32, .chalt, rfl, (cru_ok (s := { u with turn := .crucible 6 }) (reads := []) (by decide +kernel)).inst,
    by decide +kernel, by decide +kernel, by decide +kernel⟩

/-- A turn without a place, one whose place is ahead, two that begin another cycle, and one that may come again at its place; and a
state without a stall or a sample. -/
theorem meets_StepRunsTheDecodedInstruction_order : weave1.place (.event (.refreshWindowOpen 0)) = none ∧
    (∃ n, weave1.place (.run (.weave 3)) = some (n, true) ∧ weave1.beat ≤ n ∧ n / 16 ≠ weave1.beat / 16 ∧
      n < ({ weave1 with beat := 2 ^ 24 } : State).beat ∧ n / 16 = ({ weave1 with beat := n } : State).beat / 16) ∧
    (∃ n, weave1.place (.event (.hostSignal 0 0#64)) = some (n, false) ∧ ({ weave1 with beat := n } : State).beat ≤ n) ∧
    (weave1.weaves.all fun e => e.2.stall.isNone) = true ∧ (weave1.engines.all fun e => e.2.stall.isNone) = true ∧
    (weave1.crucibles.all fun e => e.2.stall.isNone) = true ∧ (weave1.parts.all fun e => e.2.sample.isNone) = true ∧
    ((weave1.cue (.run (.weave 3))).parts.all fun e => e.2.sample.isNone) = true := by
  refine ⟨by decide +kernel, ⟨slotPlace 0 0 (some 0), by decide +kernel, by decide +kernel, by decide +kernel, by decide +kernel, rfl⟩,
    ⟨16 * (2 ^ 21 + 2), rfl, Nat.le_refl _⟩, ?_⟩
  decide +kernel

/-- An event whose units exist, and a fetch of a word with its literal. -/
theorem meets_StepRunsTheDecodedInstruction_events :
    (Instr.weightStoreCopy 23 1#32).unitsWf = true ∧ weave1.unitStalls (.weightStoreCopy 23 1#32) = false ∧
    (weave1.modDev fun d => { d with fwHalted := [15] }).unitStalls (.weightStoreCopy 23 1#32) = true ∧
    (Instr.weightStoreCopy 24 1#32).unitsWf = false ∧
    (∃ (s : State) (va : Nat) (lf : Leaf) (pl : Place), 0 < 100 ∧ aperture (codeAddr 0#64 0) = .global va ∧ s.walk 0 va = .leaf lf ∧
      lf.x = true ∧ s.globalLoc 0 va false = .mem pl ∧ sortOfKey pl.key ≠ .ws) ∧
    (∃ (s : State) (x y l z : Word), takesLiteral x = true ∧ s.fetch1 0 0#64 100 0 = .word x y ∧ s.fetch1 0 0#64 100 1 = .word l z) := by
  refine ⟨by decide, by decide +kernel, by decide +kernel, by decide, ?_, ⟨{ weave1 with mem := weave1.mem.store 64 (leBytes 8 0x400017F9F5) }, 0x0017F9F5#32, 0#32, 0x40#32, 0#32, by decide,
    by decide +kernel, by decide +kernel⟩⟩
  exact ⟨weave1, 64, codeLeaf, ⟨64, false, false⟩, by decide, by decide, by decide +kernel, by decide, by decide +kernel, by decide⟩

/-- One fibre with a result of two words at the last register pair of a window of 64, with and without `.NW`. -/
theorem meets_ResultsReachLatchAndRegister : ∃ (t : State) (c : Ctx) (v : Weave) (res : SMap (List Reg)),
    t.dev.injarm = false ∧ t.weave? c.w = some v ∧ (res.map (·.1)).Nodup ∧ (∀ e ∈ res, e.2.length = 2) ∧
    ({ instr := .nop, dst := some (62#8, 2) } : Form).nw = 0#1 ∧ (62#8).toNat < 240 ∧
    (∃ g ws, t.fibre? 4 = some g ∧ SMap.get? res 4 = some ws ∧ (62#8).toNat + 2 ≤ g.win.length) := by
  obtain ⟨v, e, k⟩ := any_of (o := weave1.weave? (ctx weave1).w) (q := fun _ => true) (by decide +kernel)
  obtain ⟨g, h, n⟩ := any_of (o := weave1.fibre? 4) (q := fun g => decide ((62#8).toNat + 2 ≤ g.win.length)) (by decide +kernel)
  exact ⟨weave1, ctx weave1, v, [(4, [{ val := 1#32 }, { val := 2#32 }])], by decide +kernel, e, by decide, by decide, rfl, by decide,
    g, _, h, rfl, of_decide_eq_true n⟩

/-- The frame, where some fibre has no result. -/
theorem meets_LaneWordsChangeOnlyTheirDestination : ∃ (t : State) (res : SMap (List Reg)), t.dev.injarm = false ∧
    (∀ e ∈ res, e.2.length = 1) ∧ ∃ g, t.fibre? 4 = some g ∧ SMap.get? res 4 = none := by
  obtain ⟨g, h⟩ := some_of (o := weave1.fibre? 4) (by decide +kernel)
  exact ⟨weave1, [], by decide +kernel, by decide, g, h, rfl⟩

/-- A lane word with a literal, a Crucible word, and every field at its top. -/
theorem meets_EveryEncodedInstructionDecodes :
    ((Instr.iadd 0#1 23#8 249#8 245#8 1#32).wf = true ∧ encodeWord (.iadd 0#1 23#8 249#8 245#8 1#32) = some 0x0017F9F5#32) ∧
    ((Instr.cfma 1#5 2#5 0#5).wf = true ∧ encodeWord (.cfma 1#5 2#5 0#5) = some 0x48440000#32) ∧
    ((Instr.br 0x1FFFFFF#25).wf = true ∧ encodeWord (.br 0x1FFFFFF#25) = some 0x81FFFFFF#32) :=
  ⟨by decide, by decide, by decide⟩

/-- A step that stores: a host write of a byte to memory. -/
theorem meets_MemoryStaysCanonical : ∃ s t : State, s.Canon ∧ step s = .next t :=
  ⟨{ weave1 with agenda := [.load 0x40 [7#8]] }, { weave1 with mem := weave1.mem.store 0x40 [7#8], turn := .none, agenda := [] },
    by unfold State.Canon; decide +kernel, rfl⟩


/-! ## Single steps, with the results that the spec gives -/

def run (i : Instr) (s : State) : State := next (exec i s)

/-- A register of a fibre, and the fibre. -/
def fib (s : State) (k : Nat) : Fibre := (s.fibre? k).getD (lead s).2
def reg (s : State) (r : Nat) : Reg := (fib s 4).reg r

/-- Registers with tags, under a `tagmode`. -/
def tagged (m : BitVec 2) (rs : List (Nat × Word × Tag)) : State :=
  weave1.modFibre 4 fun f => rs.foldl (fun (f : Fibre) (e : Nat × Word × Tag) => f.setReg e.1 { val := e.2.1, tag := e.2.2 }) { f with tagmode := m }

/-- 10 R205: sums are modulo 2^32. -/
theorem test_iadd_wraps : (reg (run (.iadd 0#1 20#8 1#8 245#8 1#32) (withRegs weave1 [(1, 0xFFFFFFFF#32)])) 20).val = 0#32 := by decide +kernel

/-- 10 R208: ABS of 0x8000_0000. -/
theorem test_uni_abs_most_negative : (reg (run (.uniAbs 0#1 20#8 1#8 0#32) (withRegs weave1 [(1, 0x80000000#32)])) 20).val = 0x80000000#32 := by
  decide +kernel

/-- 10 R213's example. -/
theorem test_hfma2_example :
    let t := run (.hfma2 0#1 6#8 4#8 5#8 0#32) (tagged 2#2 [(4, 0x5CB03C00#32, 1#16), (5, 0x5CB04000#32, 2#16), (6, 0x3C00#32, 3#16)])
    (reg t 6).val = 0x7C004200#32 ∧ (fib t 4).fpmode = 0x1400#32 := by decide +kernel

/-- 06's example: BIRTH-LEFT takes A's tag, though the NaN is B's. -/
theorem test_hadd2_birth_left :
    reg (run (.hadd2 0#1 6#8 4#8 5#8 0#32) (tagged 2#2 [(4, 0x7C004000#32, 0x3002#16), (5, 0x3C007E00#32, 0x1002#16)])) 6 =
      { val := 0x7C007E00#32, tag := 0x3002#16 } := by decide +kernel

/-- 06's example: BIRTH-LOW takes the lower site, the accumulate-in's. -/
theorem test_ffma_birth_low :
    (reg (run (.ffma 0#1 9#8 7#8 8#8 0#32)
      (tagged 3#2 [(7, 0x7F800000#32, 0x1230#16), (8, 0x40000000#32, 0x0771#16), (9, 0xFF800000#32, 0x0451#16)])) 9).tag = 0x0451#16 := by
  decide +kernel

/-- 10 R215's example: the noise 0x8000 rounds up, 0x7FFF does not. -/
theorem test_cvt_dither_up :
    (reg (run (.cvt 0#1 7#8 3#8 0x0C#8 0#32) (withRegs weave1 [(3, 0x3F808000#32), (7, 0x8000#32)])) 7).val = 0x3F81#32 := by decide +kernel

theorem test_cvt_dither_down :
    (reg (run (.cvt 0#1 7#8 3#8 0x0C#8 0#32) (withRegs weave1 [(3, 0x3F808000#32), (7, 0x7FFF#32)])) 7).val = 0x3F80#32 := by decide +kernel

/-- 10 R219's example: lanes 0 and 1 exchange the off-diagonal words of a 2 by 2 block. -/
theorem test_xchb_stage0 :
    let t := run (.xchb 0#8 0#3) (addLane (withRegs weave1 [(0, 0#32), (1, 1#32)]) 7 1 [(0, 100#32), (1, 101#32)])
    ((fib t 4).reg 0).val = 0#32 ∧ ((fib t 4).reg 1).val = 100#32 ∧ ((fib t 7).reg 0).val = 1#32 ∧ ((fib t 7).reg 1).val = 101#32 := by
  decide +kernel

/-- 11 R250's example: every active lane receives the lowest active lane's sum. -/
theorem test_gaddi_lowest_lane :
    let t := run (.gaddi 0#1 2#8 1#8 0xFD#8 0#32) (addLane (withRegs weave1 [(1, 10#32)]) 7 5 [(1, 20#32)])
    ((fib t 4).reg 2).val = 7#32 ∧ ((fib t 7).reg 2).val = 7#32 := by decide +kernel

/-- 11 R225: the link is the word after `CALL`. -/
theorem test_call_links :
    let t := run (.call 100#25) (weave1.modFibre 4 fun f => { f with pc := 10 })
    (fib t 4).pc = 110 ∧ (fib t 4).lk = 11#32 := by decide +kernel

/-- 11 R225's example: `BR .-2`. -/
theorem test_br_backwards : (fib (run (.br 0x1FFFFFE#25) (weave1.modFibre 4 fun f => { f with pc := 10 })) 4).pc = 8 := by decide +kernel

/-- 07 R151: RAMP at T = 1 gives 65535 (1/2 + 1/4), rounded. -/
theorem test_qcmp_ramp :
    ((fib (run (.qcmp 4#4 1#4 1#8 2#8 0#32) ((withRegs weave1 [(1, 0x40000000#32), (2, 0x3F800000#32)]).modFibre 4 fun f =>
      { f with qtemp := 0x3F800000#32 })) 4).qr 1).code = 49151#16 := by decide +kernel

/-- 07 R152: NOT gives 65535 minus the code. -/
theorem test_qlog_not : ((fib (run (.qlogNot 3#4 1#4) weave1) 4).qr 3).code = 65535#16 := by decide +kernel

/-- 12 R262: two lanes add 1 to one word, and each reads a value of its own. -/
theorem test_atadd_two_lanes :
    let s := addLane (withRegs reaching [(2, 1#32)]) 7 1 [(10, 0x1000#32), (11, 0#32), (2, 1#32)]
    let t := run (.atadd 0#1 20#8 10#8 2#8 0#32) { s with mem := s.mem.store 0x1000 (leBytes 4 100) }
    let u := run (.atomicResultArrival (t.pend.headD { id := 0, kind := .load, dest := .engine 0 0 [], pour := 0, pc := 0 }).id) t
    t.mem.readNat 0x1000 4 = 102 ∧ ((fib u 4).reg 20).val = 100#32 ∧ ((fib u 7).reg 20).val = 101#32 := by decide +kernel

/-- 12 R258: `LDN.S16` extends the sign. -/
theorem test_ldn_s16_sign :
    let t := run (.ldnS16 0#1 20#8 10#8) { reaching with mem := reaching.mem.store 0x1000 [0x00#8, 0x80#8] }
    let u := run (.loadResultArrival (t.pend.headD { id := 0, kind := .load, dest := .engine 0 0 [], pour := 0, pc := 0 }).id) t
    (reg u 20).val = 0xFFFF8000#32 := by decide +kernel

/-- 12 R260: a paired store reaches both addresses. -/
theorem test_stp_both :
    let t := run (.stp 1#8 8#8 10#8 0#32) reaching
    t.mem.readNat (scratchKey 0 0) 4 = 7 ∧ t.mem.readNat 0x1000 4 = 7 := by decide +kernel

/-- 13 R298: `TAG.WRITE` changes the tag alone. -/
theorem test_tag_write :
    reg (run (.tagWrite 0#1 3#8 4#8 0#32) (withRegs weave1 [(3, 9#32), (4, 0x1234#32)])) 3 = { val := 9#32, tag := 0x1234#16 } := by
  decide +kernel

/-- 13 R300 and R301: `TRAP` goes to the handler with cause 2 and its word offset. -/
theorem test_trap_enters :
    let f := fib (run (.trap 9#8) (weave1.modFibre 4 fun f => { f with pc := 10 })) 4
    f.pc = 1 ∧ f.tinfo.getD 1 0#32 = 0x1000000A#32 ∧ f.tinfo.getD 2 0#32 = 9#32 := by decide +kernel

/-- 13 R302: `HRET` goes on at the word after a `TRAP`. -/
theorem test_hret_returns :
    (fib (run .hret (run (.trap 9#8) (weave1.modFibre 4 fun f => { f with pc := 10 }))) 4).pc = 11 := by decide +kernel

/-- 12 R278's example: word 2 of sh1. -/
theorem test_shset_word : ((run (.shset 1#4 1#8 245#8 2#32) (withRegs weave1 [(1, 0x00040002#32)])).pour? 2).map
    (fun p => (p.shape 1).extractLsb' 64 32) = some 0x00040002#32 := by decide +kernel

/-- 14's worked program: 0.5 times -0.25, plus 1.0, is 0.875. -/
theorem test_cfma_example :
    let row (n : Nat) (v : Word) : SMap YElem := (List.range 64).map fun i => (64 * n + i, { val := v })
    let s := (crucible1 []).modCrucible 6 fun c => { c with y := row 0 0x3F000000#32 ++ row 1 0x3F800000#32 ++ row 2 0xBE800000#32 }
    ((run (.cfma 1#5 0#5 2#5) s).crucible? 6).map (fun c => ((SMap.getD c.y 64 {}).val, (SMap.getD c.y 127 {}).val)) =
      some (0x3F600000#32, 0x3F600000#32) := by decide +kernel

/-- 13 R293: a cleared tile's elements are +0. -/
theorem test_mzero_clears :
    let s := (laddling none).modCore 0 fun c => { c with tiles := SMap.put [] 0 { dflt := { val := 1#32 }, sticky := true } }
    let t := (SMap.getD ((run (.mzero 0#3 0#3) s).core 0).tiles 0 {})
    (t.at 127 127).val = 0#32 ∧ t.sticky = false := by decide +kernel

/-- 10 R203 and 22 R400: a compare of poisoned data purges its request tag, which ends the pour's weaves. -/
theorem test_poisoned_compare_purges :
    (run (.icmps 0#4 1#4 1#8 2#8 0#32) (weave1.modFibre 4 fun f => f.setReg 1 { poison := true })).weaves = [] := by decide +kernel

/-- 03 R59: bytes not written since the last commit are zero, so a record of zeros is rejected. -/
theorem test_commit_empties_the_buffer :
    (((run (.appendPortCommit 0 true 0 63 [0#8]) (run (.appendPortCommit 0 true 0 0 (recordBytes 1)) bound)).part 0).queues.getD 0 {}).rej
      = 1#32 := by
  decide +kernel

/-- 21 R368: a binding to a partition that another function has is refused, with the error bit. -/
theorem test_bind_write_refused : (run (.bindWrite 2 0x20#32) bound).dev.bind.getD 1 0#32 = 0x80000000#32 := by decide +kernel

/-- 21 R369: a pop of an empty queue reads all ones. -/
theorem test_escpop_empty : (run (.escpopRead 16) State.reset).dev.readout.data = List.replicate 16 0xFF#8 := by decide +kernel

/-- 09 R185, 02 R33: a step from reset with a word placed runs it, and the fibre goes on at the next word. -/
theorem test_step_runs_nop :
    (match step (State.reset.withFetchWord 32 0xE2000000) with | .next t => (fib t 4).pc | _ => 0) = 1 := by decide +kernel

/-- 02 R39: a group word inside a guard window traps, also where the window leaves no lane active. -/
theorem test_group_word_in_a_window :
    (fib (run .yield (weave1.modWeave 3 fun v => { v with guard := some { excl := 1#32, left := 1 } })) 4).pc = 1 := by decide +kernel

/-- 24 R430's example: four blocks in 12 flits, and what the receiver reads. -/
theorem test_flux_example :
    let p : Payload :=
      { bytes := List.replicate 256 0#8 ++ (List.replicate 8 (leBytes 32 7)).flatten ++ (List.range 32).flatMap (fun i => leBytes 8 (1000 + i))
          ++ (List.range 256).map (fun i => BitVec.ofNat 8 (i * i + i / 16)), poison := List.replicate 128 false }
    let fs := fluxCode false p
    fs.take 6 = [0x04#8, 0x01#8, 0x0A#8, 0x13#8, 0x40#8, 0#8] ∧ fs.length = 12 * 32 ∧ payloadOf (putOf 0 0 false p 0#16) = some p := by
  decide +kernel

/-- FIPS 180-4's example of one block. -/
theorem test_sha256_abc : leNat (sha256 [0x61#8, 0x62#8, 0x63#8]).reverse =
    0xba7816bf8f01cfea414140de5dae2223b00361a396177a9cb410ff61f20015ad := by decide +kernel

/-- 24 R421 and R422: a replay of `LD32 v1, [v10]` and `ST32 v1, [v10 + 64]` takes the word that the log brings, and sums the CRC-64 of
its store, which was computed outside the model. -/
theorem test_replay_signs_what_it_computes :
    let s := { weave1 with mem := weave1.mem.store 64 (((encode (.ld32 0#1 1#8 10#8 0#8)) ++ encode (.st32 0#1 1#8 10#8 16#8 0#32)).flatMap bytesOfWord) }
    let r := (s.pour? 2).map fun p => (s.replayLog 0 (sample1 true 0#64 0) 2 p
      [.weave 3 0 1#32 none [(0, 1, 0)], .word 3 0 1 1 [(0, [{ val := 0xDEADBEEF#32 }])], .weave 3 2 0#32 none []]).sig
    r = some 0xd71878c98a5e6408#64 := by decide +kernel

/-- 02 R54: `YIELD` empties the latch window. -/
theorem test_yield_empties_latches :
    ((run .yield (run (.iadd 0#1 20#8 1#8 245#8 1#32) weave1)).weave? 3).map (·.latches) = some [] := by decide +kernel

end Sys2Proof.Tests
end

namespace Sys2Proof.Proofs

/-!
PROOFS. The events that give fibres and records a place: recast weaves, issue slots, timeouts of rejoin
levels (02 R43, R44, R50) and the dispatch of records (03 R65 to R71).
-/

open Sys2Proof.Machine Sys2Proof.Laws

variable {s u : State} {core quad k w j part lvl tid : Nat}

/-! ## Weaves and slots -/

/-- 02 R43, R44: the candidate that is due takes the slot where no weave waits for it. -/
theorem execRecastIssue_due {e : Nat × Fibre} (due : s.candidateDue (s.candidate core quad) = true)
    (free : s.waiting core quad = []) (head : (s.candidate core quad).head? = some e) (slot : s.takeSlot core quad = some (k, u)) :
    execRecastIssue core quad s = .next (u.formWeave e.2.pour core quad (some k) (s.candidate core quad)).2 := by
  simp [execRecastIssue, due, free, head, slot]

theorem execWeaveSlotGrant_head {e : Nat × Weave} (head : (s.waiting core quad).head? = some e)
    (slot : s.takeSlot core quad = some (k, u)) :
    execWeaveSlotGrant core quad s = .next (u.modWeave e.1 fun x => { x with slot := some k, yielded := true, readyAt := u.clk }) := by
  simp [execWeaveSlotGrant, head, slot]

/-! ## Timeouts of rejoin levels -/

/-- 02 R50: what it is for a counting level's limit to have passed. -/
theorem expired_iff (r : JReg) : r.expired = true ↔
    r.state = 2#2 ∧ r.limit ≠ 0#16 ∧ r.arrived ≠ r.expect ∧ r.limit.toNat * 1024 ≤ r.elapsed.toNat := by
  simp [JReg.expired, and_assoc]

/-- Once the level's time is up in a pour that runs, only unmatched stores decide what the timeout does. -/
theorem execRejoinTimeout_expired {x : Weave} {p : Pour} {r : JReg} (weave : s.weave? w = some x) (pour : s.pour? x.pour = some p)
    (runs : p.dbg.runs = true) (level : s.jreg w j = some r) (up : r.expired = true) :
    execRejoinTimeout w j s = .next (if s.levelBusy w j = [] then
      { s.resumeLevel w j true with fibres := (s.resumeLevel w j true).fibres.map fun e => (e.1, e.2.stale w j r.gen) }
      else s.owe (s.levelBusy w j)) := by
  by_cases busy : s.levelBusy w j = [] <;> simp [execRejoinTimeout, weave, level, pour, runs, up, busy]

/-! ## The choice of a dispatch -/

/-- 03 R68, log 78: a choice that no core fits leaves the dispatch without a record. -/
theorem chosen_of_blocked {c : Choice} (kept : (s.part part).choice = some c) (blocked : c.blocked = true) :
    s.chosen part = none := by
  simp [State.chosen, kept, blocked]

theorem chosen_of_kept {c : Choice} {t : Task} (kept : (s.part part).choice = some c) (free : c.blocked = false)
    (task : s.task? c.task = some t) : s.chosen part = some (c.task, t) := by
  simp [State.chosen, kept, free, task]

theorem chosen_of_level (fresh : (s.part part).choice = none) (level : s.levelOf part = some lvl) :
    s.chosen part = (s.readyAt part lvl).head? := by
  simp [State.chosen, fresh, level]

theorem execPlacement_unchosen (unchosen : s.chosen part = none) : execPlacement part s = .next s := by
  simp [execPlacement, unchosen]

/-- 04 R94: a read of the record that meets an open refresh window holds the placement up. -/
theorem execPlacement_shut {t : Task} (chosen : s.chosen part = some (tid, t))
    (shut : ∃ r ∈ s.headReads tid t, s.ctxShut part r.1 r.2 = true) : execPlacement part s = .next s := by
  have any : (s.headReads tid t).any (fun r => s.ctxShut part r.1 r.2) = true := List.any_eq_true.mpr shut
  simp [execPlacement, chosen, any]

/-- The state once a placement has read what it needs of the record. -/
def afterHeadReads (s : State) (part tid : Nat) (t : Task) : State :=
  (s.headReads tid t).foldl (fun q r => q.ctxTouch part r.1 r.2) s

/-- A dispatch that may place and whose reads meet no open window places the chosen record. -/
theorem execPlacement_open {t : Task} (may : s.mayPlace part = true) (chosen : s.chosen part = some (tid, t))
    (opened : ∀ r ∈ s.headReads tid t, s.ctxShut part r.1 r.2 = false) :
    execPlacement part s = .next ((afterHeadReads s part tid t).placeHead t.queue tid t) := by
  have any : (s.headReads tid t).any (fun r => s.ctxShut part r.1 r.2) = false := by simpa using opened
  simp [execPlacement, may, chosen, any, afterHeadReads]

/-! ## The head record -/

/-- The header of a placement: the one that an earlier placement of the record read, or the one at its kernel (20 R347). -/
def headerOf (s : State) (t : Task) : Option Header :=
  match t.hdr with
  | some h => some h
  | none => s.readHeader t

/-- The range unit of a placement, where the record has one (03 R69): at the first with the range that the record's frame gives,
later with what the unit holds; none where the frame gives no range. -/
def unitOf (s : State) (tid : Nat) (t : Task) : Option (Option (Nat × Range)) :=
  match s.rangeUnit t with
  | some r =>
    if decide (t.placed = 0) then (s.readRange tid t).map fun g => some (r, g)
    else some (some (r, SMap.getD (s.part t.part).ranges r {}))
  | none => some none

/-- The placement of a record whose header and range unit are at hand (03 R68, R71): on a Crucible, or as a pour that fits, or the record
is kept. -/
def placeWith (s : State) (lvl tid : Nat) (t : Task) (h : Header) (g : Option (Nat × Range)) : State :=
  if t.tier then ((s.placeInstance tid t h).notePlaced tid t h g).placedAt t.part lvl
  else
    match s.placePour tid t h with
    | none => s.block t.part tid
    | some v => (v.notePlaced tid t h g).placedAt t.part lvl

/-- The order of a placement's checks: the range unit, the header (log 53), the range, and only then the fit. -/
theorem placeHead_eq (t : Task) : s.placeHead lvl tid t =
    if decide (t.placed = 0) && s.rangeBusy tid t then s.block t.part tid
    else
      match headerOf s t with
      | none => s.failPlacement tid t
      | some h =>
        match unitOf s tid t with
        | none => s.failPlacement tid t
        | some g => placeWith s lvl tid t h g := rfl

/-- Whether an earlier placement has read the header or this one does. -/
theorem headerOf_eq_some {t : Task} {h : Header} :
    headerOf s t = some h ↔ t.hdr = some h ∨ (t.hdr = none ∧ s.readHeader t = some h) := by
  cases had : t.hdr <;> simp [headerOf, had]

theorem headerOf_eq_none {t : Task} (unread : t.hdr = none) (bad : s.readHeader t = none) : headerOf s t = none := by
  simp [headerOf, unread, bad]

theorem unitOf_without {t : Task} (without : s.rangeUnit t = none) : unitOf s tid t = some none := by
  simp [unitOf, without]

theorem unitOf_first {t : Task} {r : Nat} {g : Range} (has : s.rangeUnit t = some r) (first : t.placed = 0)
    (range : s.readRange tid t = some g) : unitOf s tid t = some (some (r, g)) := by
  simp [unitOf, has, first, range]

theorem unitOf_later {t : Task} {r : Nat} (has : s.rangeUnit t = some r) (later : t.placed ≠ 0) :
    unitOf s tid t = some (some (r, SMap.getD (s.part t.part).ranges r {})) := by
  simp [unitOf, has, later]

theorem placeHead_rangeBusy {t : Task} (first : t.placed = 0) (busy : s.rangeBusy tid t = true) :
    s.placeHead lvl tid t = s.block t.part tid := by
  simp [placeHead_eq, first, busy]

section Idle

variable {t : Task} (idle : t.placed = 0 → s.rangeBusy tid t = false)
include idle

/-- 03 R69: a record with a bad header fails at placement. -/
theorem placeHead_headless (bad : headerOf s t = none) : s.placeHead lvl tid t = s.failPlacement tid t := by
  have pass : (decide (t.placed = 0) && s.rangeBusy tid t) = false := by simpa using idle
  simp [placeHead_eq, pass, bad]

theorem placeHead_of_header_unit {h : Header} {g : Option (Nat × Range)} (header : headerOf s t = some h)
    (unit : unitOf s tid t = some g) : s.placeHead lvl tid t = placeWith s lvl tid t h g := by
  have pass : (decide (t.placed = 0) && s.rangeBusy tid t) = false := by simpa using idle
  simp [placeHead_eq, pass, header, unit]

end Idle

/-! ## O46 -/

/-- Settles O46: each event by what its operation does once its conditions hold, and a placement by the order of its checks. -/
theorem weavesFormAndPoursPlace : Obligations.WeavesFormAndPoursPlace := by
  unfold Obligations.WeavesFormAndPoursPlace
  refine ⟨fun s u core quad k e due free head slot => ?recast, fun s u core quad k e head slot => ?grant,
    fun s w j x p r weave pour runs level counting limit short passed => ?timeout,
    fun s part tid c t may kept => ⟨fun blocked => ?blocked, ?kept⟩, fun s part lvl tid t fresh level head => ?level,
    fun s part tid t may chosen => ⟨fun shut => ?shut, fun opened => ?place⟩⟩
  case recast => exact execRecastIssue_due due free head slot
  case grant => exact execWeaveSlotGrant_head head slot
  case timeout =>
    have timeout := execRejoinTimeout_expired weave pour runs level ((expired_iff r).mpr ⟨counting, limit, short, passed⟩)
    exact ⟨fun idle => timeout.trans (by rw [if_pos idle]), fun busy => timeout.trans (by rw [if_neg busy]; rfl)⟩
  case blocked => exact execPlacement_unchosen (chosen_of_blocked kept blocked)
  case kept =>
    rintro free rfl task
    exact chosen_of_kept kept free task
  case level => exact (chosen_of_level fresh level).trans head
  case shut => exact execPlacement_shut chosen shut
  case place =>
    intro q
    have placed : exec (.placement part) s = .next (q.placeHead t.queue tid t) := execPlacement_open may chosen opened
    rw [placed]
    refine ⟨fun first busy => ?busy, fun idle => ⟨fun unread bad => ?headless, fun h g header unit => ?header⟩⟩
    case busy => rw [placeHead_rangeBusy first busy]
    case headless => rw [placeHead_headless idle (headerOf_eq_none unread bad)]
    case header =>
      have bound : unitOf q tid t = some g := by
        rcases unit with ⟨without, rfl⟩ | ⟨r, x, has, first, range, rfl⟩ | ⟨r, has, later, rfl⟩
        · exact unitOf_without without
        · exact unitOf_first has first range
        · exact unitOf_later has later
      rw [placeHead_of_header_unit idle (headerOf_eq_some.mpr header) bound]
      refine ⟨fun tier => ?_, fun pour full => ?_, fun v pour fits => ?_⟩
      · simp [placeWith, tier]
      · simp [placeWith, pour, full]
      · simp [placeWith, pour, fits]

end Sys2Proof.Proofs

namespace Sys2Proof.Proofs
open Sys2Proof.Machine Sys2Proof.Laws

/-! ## A store in a memory without error bits (04 R84) -/

/-- A memory that lists no error bits reads what it holds. -/
theorem read1_of_flips_nil {m : Memory} (h : m.flips = []) (k : Nat) : m.read1 k = m.byte k := by
  unfold Memory.read1
  rw [h]
  rfl

/-- A memory that lists no error bits has nothing to correct. -/
theorem scrub_of_flips_nil {m : Memory} (h : m.flips = []) (k : Nat) : (m.scrub k).1 = m := by
  unfold Memory.scrub
  rw [h]
  rfl

/-- What a store does to a granule before it writes: with no error bits listed it can only take the poison mark away. -/
structure SameData (m m' : Memory) : Prop where
  bytes : m'.bytes = m.bytes
  flips : m'.flips = []

theorem sameData_unmark {m : Memory} (h : m.flips = []) (k : Nat) : SameData m ((m.setPoison k false).setFlips k 0#64) := by
  refine ⟨rfl, ?_⟩
  show SMap.putD 0#64 m.flips (granOf k) 0#64 = []
  rw [h]
  rfl

/-- The granules of a store are made ready without a change of data. -/
theorem sameData_foldl {β : Type} {f : Memory → β → Memory} (hf : ∀ m b, m.flips = [] → SameData m (f m b)) (l : List β)
    {m : Memory} (h : m.flips = []) : SameData m (l.foldl f m) :=
  List.foldlRecOn (motive := SameData m) l f ⟨rfl, h⟩ fun t ht b _ =>
    have step := hf t b ht.flips
    ⟨step.bytes.trans ht.bytes, step.flips⟩

theorem setBytes_flips (m : Memory) (k : Nat) (bs : List Byte) : (m.setBytes k bs).flips = m.flips := by
  induction bs generalizing m k with
  | nil => rfl
  | cons b bs ih => exact ih (m.setByte k b) (k + 1)

/-- Without error bits a store writes its bytes over the old ones and lists no error bits. -/
theorem store_of_flips_nil {m : Memory} (h : m.flips = []) (k : Nat) (bs : List Byte) :
    (m.store k bs).flips = [] ∧ ∀ j, (m.store k bs).byte j = (m.setBytes k bs).byte j := by
  unfold Memory.store
  dsimp only
  generalize hr : List.foldl _ m _ = r
  have ready : SameData m r := by
    rw [← hr]
    refine sameData_foldl (fun m i hm => ?_) _ h
    split
    · exact sameData_unmark hm _
    · split
      · rw [scrub_of_flips_nil hm]
        exact ⟨rfl, hm⟩
      · exact ⟨rfl, hm⟩
  refine ⟨(setBytes_flips r k bs).trans ready.flips, fun j => ?_⟩
  rw [byte_setBytes, byte_setBytes, Memory.byte, ready.bytes]
  rfl

/-- What a read returns after a store, in a memory without error bits. -/
theorem read1_store {m : Memory} (h : m.flips = []) (k : Nat) (bs : List Byte) (j : Nat) :
    (m.store k bs).read1 j = if k ≤ j ∧ j < k + bs.length then bs.getD (j - k) 0#8 else m.read1 j := by
  obtain ⟨flips, byte⟩ := store_of_flips_nil h k bs
  rw [read1_of_flips_nil flips, byte, byte_setBytes, read1_of_flips_nil h]

/-- A tag written reads back at every byte of its granule, and no other granule's tag changes. -/
theorem tag_setTag (m : Memory) (k : Nat) (t : Tag) (a : Nat) :
    (m.setTag k t).tag a = if tagKey a = tagKey k then t else m.tag a := by
  unfold Memory.tag Memory.tagBad Memory.setTag
  dsimp only
  by_cases same : tagKey a = tagKey k
  · simp [same, getD_putD_same]
  · simp [same, getD_putD_other]

/-- Settles O22: without error bits the granules are made ready without a change of data, so the store reads back as the bytes
written over the old ones. -/
theorem memoryKeepsWhatIsStored : Obligations.MemoryKeepsWhatIsStored := by
  intro m k bs
  refine ⟨fun clean => ⟨fun i b stored => ?_, fun a outside => ?_⟩, fun wf => ⟨wf_store wf k bs, wf_setTag wf k⟩, tag_setTag m k⟩
  · obtain ⟨inside, rfl⟩ := List.getElem?_eq_some_iff.mp stored
    rw [read1_store clean, if_pos (by omega), Nat.add_sub_cancel_left, List.getD_eq_getElem _ _ inside]
  · rw [read1_store clean, if_neg (by omega)]
end Sys2Proof.Proofs

/-!
## Every step keeps memory canonical (O60)

Only the operations of `Memory` change memory, and Laws/Memory.lean shows of each that it keeps the canonical form. What is
left is to carry the form through every function of the model that answers a state, file by file, up to `exec`, the turns and
`oneStep`. The lemma `f_canon` says that from a canonical state `f` answers canonical states alone; where `f` is given a
continuation, the lemma asks the same of it. Where a function leaves memory as it was by definition, the proof is `h` itself.
-/

namespace Sys2Proof.Proofs

open Sys2Proof.Machine Sys2Proof.Laws

section

variable {s t : State}

/-! ### The form of what functions answer -/

/-- The next state of an outcome, where it has one, is canonical. -/
def OutCanon : Out → Prop
  | .next t => t.Canon
  | _ => True

/-- The state that a performed access leaves is canonical. -/
def AccResCanon (r : AccRes) : Prop := ∀ t ws, r = .done t ws → t.Canon

/-- The state that a performed task operation leaves is canonical. -/
def TaskResCanon (r : TaskRes) : Prop := ∀ t ws, r = .done t ws → t.Canon

/-- The state in which a member of a pair waits for the other is canonical. -/
def MeetCanon (r : Meet) : Prop := ∀ t, r = .wait t → t.Canon

/-- The same of the engines of a pair, and of the state in which they go on. -/
def EngMeetCanon (r : EngMeet) : Prop := (∀ t, r = .wait t → t.Canon) ∧ ∀ t n, r = .go t n → t.Canon

/-- The state that an `MMUL` leaves where it is done or stops is canonical. -/
def MmulResCanon (r : MmulRes) : Prop := (∀ t, r = .done t → t.Canon) ∧ ∀ t k n, r = .stop t k n → t.Canon

/-- Only memory matters: a state with the memory of a canonical one is canonical. -/
theorem canon_of_mem (h : s.Canon) (e : t.mem = s.mem) : t.Canon := by
  rw [State.Canon, e]
  exact h

/-- A fold of changes, each of which keeps the form, keeps it. -/
theorem foldl_canon {β : Type} {f : State → β → State} (hf : ∀ t b, t.Canon → (f t b).Canon) (l : List β)
    (h : s.Canon) : (l.foldl f s).Canon :=
  List.foldlRecOn l f h fun t ht b _ => hf t b ht

theorem getD_canon {o : Option State} (h : s.Canon) (ho : ∀ t, o = some t → t.Canon) : (o.getD s).Canon := by
  cases o with
  | none => exact h
  | some t => exact ho t rfl

/-! ### Accessors, errors that are read, and counts -/

theorem modCore_canon (h : s.Canon) (c f) : (s.modCore c f).Canon := h
theorem modPart_canon (h : s.Canon) (p f) : (s.modPart p f).Canon := h
theorem modFibre_canon (h : s.Canon) (f g) : (s.modFibre f g).Canon := h
theorem modWeave_canon (h : s.Canon) (w g) : (s.modWeave w g).Canon := h
theorem modPour_canon (h : s.Canon) (p g) : (s.modPour p g).Canon := h
theorem modEngine_canon (h : s.Canon) (e g) : (s.modEngine e g).Canon := h
theorem modTask_canon (h : s.Canon) (t g) : (s.modTask t g).Canon := h
theorem modCrucible_canon (h : s.Canon) (c g) : (s.modCrucible c g).Canon := h
theorem modDev_canon (h : s.Canon) (g) : (s.modDev g).Canon := h
theorem modFibres_canon (h : s.Canon) (fs g) : (s.modFibres fs g).Canon := h
theorem fresh_canon (h : s.Canon) : s.fresh.2.Canon := h
theorem reMember_canon (h : s.Canon) (w) : (s.reMember w).Canon := h
theorem setSync_canon (h : s.Canon) (k c) : (s.setSync k c).Canon := h
theorem release_canon (h : s.Canon) (fs k) : (s.release fs k).Canon := h
theorem acquire_canon (h : s.Canon) (fs k) : (s.acquire fs k).Canon := h

theorem releaseOp_canon (h : s.Canon) (op k) : (s.releaseOp op k).Canon := by
  unfold State.releaseOp
  split <;> exact h

theorem acquireOp_canon (h : s.Canon) (op k) : (s.acquireOp op k).Canon := by
  unfold State.acquireOp
  split <;> exact h

theorem holdSync_canon (h : s.Canon) (op fs) : (s.holdSync op fs).2.Canon := by
  unfold State.holdSync
  split <;> exact h

theorem acquireClock_canon (h : s.Canon) (fs c) : (s.acquireClock fs c).Canon := h

theorem releaseEngine_canon (h : s.Canon) (e k) : (s.releaseEngine e k).Canon := by
  unfold State.releaseEngine
  split <;> exact h

theorem acquireEngine_canon (h : s.Canon) (e k) : (s.acquireEngine e k).Canon := h
theorem msix_canon (h : s.Canon) (fn vec) : (s.msix fn vec).Canon := h
theorem rasAdd_canon (h : s.Canon) (i n) : (s.rasAdd i n).Canon := h

/-- What a read corrects and counts (22 R398). -/
theorem touch_canon (h : s.Canon) (k n) : (s.touch k n).Canon := by
  grind [State.touch, wf_scrub, modCore_canon, rasAdd_canon, State.Canon, foldl_canon]

theorem touchPart_canon (h : s.Canon) (k n) : (s.touchPart k n).Canon := by
  unfold State.touchPart
  split
  · exact h
  · dsimp only
    split
    · refine touch_canon ?_ ..
      split
      · exact touch_canon h ..
      · exact h
    · split
      · exact touch_canon h ..
      · exact h

theorem touchTags_canon (h : s.Canon) (k n) : (s.touchTags k n).Canon := by
  unfold State.touchTags
  split
  · exact h
  · refine foldl_canon (fun _ _ ht => ?_) _ h
    split <;> exact ht

theorem takeFree_canon (h : s.Canon) : s.takeFree.2.Canon := h

/-! ### Translation (04 R83, 22 R384 to R388) -/

theorem cacheLeaf_canon (h : s.Canon) (part va l) : (s.cacheLeaf part va l).Canon := h

theorem touchPlace_canon (h : s.Canon) (pl n reads) : (s.touchPlace pl n reads).Canon := by
  unfold State.touchPlace
  dsimp only
  split
  · exact touchTags_canon (touch_canon h ..) ..
  · exact touch_canon h ..

theorem touchLoc_canon (h : s.Canon) (l n tags) : (s.touchLoc l n tags).Canon := by
  unfold State.touchLoc
  split
  · split
    · exact h
    · exact touchPlace_canon h ..
  · exact h

theorem touchWalk_canon (h : s.Canon) (part va) : (s.touchWalk part va).Canon := by
  unfold State.touchWalk
  dsimp only
  split
  · exact h
  · exact foldl_canon (fun _ _ ht => touch_canon ht ..) _ h

theorem cached_canon (h : s.Canon) (part va) : (s.cached part va).Canon := by
  unfold State.cached
  split
  · exact cacheLeaf_canon (touchWalk_canon h ..) ..
  · exact h

/-! ### Task records, queues, signals and rings (03 R56 to R63, 22 R391) -/

theorem writeSlot_canon (h : s.Canon) (tid) : (s.writeSlot tid).Canon := by
  unfold State.writeSlot
  split
  · exact h
  · split
    · exact h
    · split
      · exact h
      · dsimp only
        split
        · split
          · exact wf_store (modTask_canon h ..) ..
          · exact h
        · exact h

theorem enter_canon (h : s.Canon) (t) : (s.enter t).2.Canon := by
  grind [State.enter, fresh_canon, modPart_canon, writeSlot_canon, State.Canon]

theorem settleAges_canon (h : s.Canon) (part) : (s.settleAges part).Canon := h

theorem freeTask_canon (h : s.Canon) (tid) : (s.freeTask tid).Canon := by
  unfold State.freeTask
  split <;> exact h

theorem signal_canon (h : s.Canon) (part y amount clock) : (s.signal part y amount clock).Canon := by
  unfold State.signal
  split
  · exact h
  · split
    · exact h
    · split
      · exact h
      · refine writeSlot_canon ?_ _
        refine modTask_canon ?_ ..
        split <;> exact h

theorem writePhys_canon (h : s.Canon) (part pa bs) : (s.writePhys part pa bs).Canon := by
  unfold State.writePhys
  split
  · exact wf_store (touchPart_canon h ..) ..
  · exact h

theorem writeUnder_canon (h : s.Canon) (part k pa bs) : (s.writeUnder part k pa bs).Canon := by
  unfold State.writeUnder
  split
  · exact writePhys_canon h ..
  · exact h

theorem writeCtx_canon (h : s.Canon) (part pa bs) : (s.writeCtx part pa bs).Canon := writeUnder_canon h ..

theorem ringPut_canon (h : s.Canon) (part r bs) : (s.ringPut part r bs).2.Canon := by
  unfold State.ringPut
  split
  · exact writePhys_canon h ..
  · exact h

theorem trace_canon (h : s.Canon) (part r) : (s.trace part r).Canon := by
  unfold State.trace
  refine modPart_canon ?_ ..
  split
  · exact writeCtx_canon h ..
  · exact h

/-- Fault entries leave for the ring one by one, each through `writePhys` (22 R391). -/
theorem flushFaults_canon (h : s.Canon) (part) : (s.flushFaults part).Canon := by
  unfold State.flushFaults
  refine foldl_canon (fun _ _ ht => ?_) _ h
  dsimp only
  split
  · exact ht
  · refine modPart_canon ?_ ..
    split
    · exact msix_canon (writePhys_canon ht ..) ..
    · exact writePhys_canon ht ..

theorem reportFault_canon (h : s.Canon) (part va src wr core rtag) :
    (s.reportFault part va src wr core rtag).2.Canon := by
  unfold State.reportFault
  split
  · exact h
  · exact flushFaults_canon (modPart_canon (fresh_canon h) ..) _

theorem mirrorCheck_canon (h : s.Canon) (core) : (s.mirrorCheck core).Canon := h

theorem completionWord_canon (h : s.Canon) (t outcome) : (s.completionWord t outcome).Canon := by
  unfold State.completionWord
  dsimp only
  split
  · exact h
  · split
    · split
      · split
        · exact wf_setTag (wf_store (touchPart_canon (cached_canon h ..) ..) ..) ..
        · exact wf_store (touchPart_canon (cached_canon h ..) ..) ..
      · split <;> exact h
      · exact h
    · exact h

theorem endTask_canon (h : s.Canon) (tid outcome) : (s.endTask tid outcome).Canon := by
  unfold State.endTask
  split
  · exact h
  · dsimp only
    split
    · exact h
    · refine freeTask_canon ?_ _
      split
      · split
        · exact signal_canon (completionWord_canon h ..) ..
        · exact completionWord_canon h ..
      · exact completionWord_canon h ..

theorem dispatchOn_canon (h : s.Canon) (part) : (s.dispatchOn part).Canon :=
  foldl_canon (fun _ _ ht => endTask_canon ht ..) _ (foldl_canon (fun _ _ ht => writeSlot_canon ht _) _ h)

theorem removePour_canon (h : s.Canon) (pid stop) : (s.removePour pid stop).Canon := by
  unfold State.removePour
  split <;> exact h

theorem purgeMessages_canon (h : s.Canon) (part rtag) : (s.purgeMessages part rtag).Canon := h

theorem dropReplay_canon (h : s.Canon) (m) : (s.dropReplay m).Canon := by
  unfold State.dropReplay
  split <;> exact h

theorem abandon_canon (h : s.Canon) (part) : (s.abandon part).Canon := by
  unfold State.abandon
  split
  · exact h
  · exact modPour_canon (modPart_canon (dropReplay_canon h _) ..) ..

theorem purgeIds_canon (h : s.Canon) (ts) : (s.purgeIds ts).Canon := by
  grind [State.purgeIds, removePour_canon, endTask_canon, State.Canon, foldl_canon]

theorem purgeTasks_canon (h : s.Canon) (part rtag) : (s.purgeTasks part rtag).Canon := purgeIds_canon h _

theorem purgeHere_canon (h : s.Canon) (part rtag) : (s.purgeHere part rtag).Canon :=
  purgeTasks_canon (modPart_canon h ..) ..

theorem purgeTag_canon (h : s.Canon) (part rtag) : (s.purgeTag part rtag).Canon :=
  purgeHere_canon (purgeMessages_canon h ..) ..

theorem notePurge_canon (h : s.Canon) (part rtag cause) : (s.notePurge part rtag cause).Canon := by
  unfold State.notePurge
  grind [takeFree_canon, modPart_canon, msix_canon, trace_canon, abandon_canon, State.Canon]

theorem purge_canon (h : s.Canon) (part rtag cause) : (s.purge part rtag cause).Canon :=
  purgeTag_canon (notePurge_canon h ..) ..

theorem purgePour_canon (h : s.Canon) (pid cause) : (s.purgePour pid cause).Canon := by
  unfold State.purgePour
  split
  · exact h
  · split
    · exact h
    · exact purge_canon h ..

theorem endPour_canon (h : s.Canon) (pid) : (s.endPour pid).Canon := by
  unfold State.endPour
  split
  · exact h
  · dsimp only
    split
    · exact modTask_canon (modPart_canon (removePour_canon h ..) ..) ..
    · split
      · exact endTask_canon (modTask_canon (modPart_canon (removePour_canon h ..) ..) ..) ..
      · exact modTask_canon (modPart_canon (removePour_canon h ..) ..) ..

theorem endIfDone_canon (h : s.Canon) (pid) : (s.endIfDone pid).Canon := by
  unfold State.endIfDone
  dsimp only
  split
  · exact h
  · split
    · exact endPour_canon h _
    · split
      · exact h
      · exact endPour_canon (removePour_canon h ..) _

/-! ### Records of fibres and weaves (02 R30, R41) -/

theorem writeCkpt_canon (h : s.Canon) (w v) : (s.writeCkpt w v).Canon := by
  unfold State.writeCkpt
  split
  · exact h
  · refine foldl_canon (fun _ _ ht => ?_) _ h
    split
    · exact ht
    · exact writePhys_canon ht ..

theorem spillWeave_canon (h : s.Canon) (w) : (s.spillWeave w).Canon := by
  unfold State.spillWeave
  split
  · exact h
  · split
    · exact h
    · split
      · exact h
      · exact writeCtx_canon h ..

/-! ### Yield points, stalls, traps and purges (02 R54) -/

theorem pickRunner_canon (h : s.Canon) (w) : (s.pickRunner w).Canon := by
  unfold State.pickRunner
  split
  · exact h
  · split <;> exact h

theorem yieldWeave_canon (h : s.Canon) (w) : (s.yieldWeave w).Canon := by
  unfold State.yieldWeave
  split
  · exact h
  · exact pickRunner_canon (modCore_canon (modWeave_canon h ..) ..) _

theorem stallWeave_canon (h : s.Canon) (w k keep fault) : (s.stallWeave w k keep fault).Canon := by
  unfold State.stallWeave
  refine modWeave_canon ?_ ..
  split
  · exact h
  · exact yieldWeave_canon h _

theorem stallEngine_canon (h : s.Canon) (e k fault) : (s.stallEngine e k fault).Canon := h
theorem goTo_canon (h : s.Canon) (fs pc) : (s.goTo fs pc).Canon := h

theorem after_canon (h : s.Canon) (w len lane yields) : (s.after w len lane yields).Canon := by
  unfold State.after
  dsimp only
  split
  · exact yieldWeave_canon (modWeave_canon (goTo_canon h ..) ..) _
  · split <;> exact h

theorem afterEngine_canon (h : s.Canon) (e len) : (s.afterEngine e len).Canon := h
theorem injFire_canon (h : s.Canon) : s.injFire.Canon := h

/-- An armed injection changes the words that an instruction writes, not memory (22 R405). -/
theorem inject_canon (h : s.Canon) (pid pc lane ws) : (s.inject pid pc lane ws).2.Canon := by
  unfold State.inject
  split
  · split
    · exact h
    · split <;> exact h
  · exact h

theorem injectAll_canon (pid pc : Nat) (res : SMap (List Reg)) (h : s.Canon) : (s.injectAll pid pc res).2.Canon := by
  induction res generalizing s with
  | nil => exact h
  | cons e rest ih => exact ih (inject_canon h _ _ _ _)

theorem pushLatch_canon (h : s.Canon) (w code size res dead) : (s.pushLatch w code size res dead).Canon := h

theorem writeDest_canon (h : s.Canon) (code nw res) : (s.writeDest code nw res).Canon := by
  unfold State.writeDest
  split
  · exact h
  · exact foldl_canon (fun _ _ ht => modFibre_canon ht ..) _ h

theorem result_canon (h : s.Canon) (w pid pc code nw size res) :
    (s.result w pid pc code nw size res).Canon := by
  unfold State.result
  dsimp only
  refine writeDest_canon ?_ ..
  refine pushLatch_canon ?_ ..
  split
  · exact h
  · exact injectAll_canon _ _ _ h

theorem parityRead_canon (h : s.Canon) (core readers others code k) :
    (s.parityRead core readers others code k).Canon := by
  unfold State.parityRead
  split
  · exact h
  · refine foldl_canon (fun _ _ ht => ?_) _ h
    refine foldl_canon (fun _ _ hu => ?_) _ ht
    split
    · exact hu
    · dsimp only
      split
      · exact hu
      · split <;> exact hu

theorem tokenRead_canon (h : s.Canon) (fs code k) : (s.tokenRead fs code k).Canon := by
  unfold State.tokenRead
  split
  · exact h
  · refine foldl_canon (fun _ _ ht => ?_) _ h
    split
    · exact ht
    · refine foldl_canon (fun _ _ hu => ?_) _ ht
      split <;> exact hu

theorem modPair_canon (h : s.Canon) (k g) : (s.modPair k g).Canon := h

theorem checkpoint_canon (h : s.Canon) (w) : (s.checkpoint w).Canon := by
  unfold State.checkpoint
  split
  · exact h
  · split
    · exact h
    · exact writeCkpt_canon (modPair_canon h ..) ..

theorem dropPending_canon (h : s.Canon) (fs) : (s.dropPending fs).Canon := h

theorem restoreCkpt_canon (h : s.Canon) (k w) : (s.restoreCkpt k w).Canon := by
  unfold State.restoreCkpt
  split
  · exact h
  · split <;> exact h

theorem evenRegions_canon (h : s.Canon) (p ranks) : (s.evenRegions p ranks).Canon :=
  foldl_canon (fun _ _ ht => modFibres_canon ht ..) _ h

theorem mismatch_canon (h : s.Canon) (k rank) : (s.mismatch k rank).Canon := by
  grind [State.mismatch, modPart_canon, abandon_canon, purgePour_canon, modPair_canon, evenRegions_canon,
      restoreCkpt_canon, State.Canon]

theorem waitPair_canon (h : s.Canon) (w) : (s.waitPair w).Canon := by
  unfold State.waitPair
  split
  · exact h
  · split
    · exact h
    · dsimp only
      split
      · exact mismatch_canon h ..
      · exact stallWeave_canon h ..

theorem enterTrap_canon (h : s.Canon) (w i) : (s.enterTrap w i).Canon := by
  grind [State.enterTrap, purgePour_canon, modFibres_canon, modWeave_canon, trace_canon, yieldWeave_canon,
      State.Canon]

theorem trapWeave_canon (h : s.Canon) (w i) : (s.trapWeave w i).Canon := by
  grind [State.trapWeave, enterTrap_canon, modPair_canon, mismatch_canon, waitPair_canon, State.Canon]

theorem causeCode_canon (h : s.Canon) (cause) : (s.causeCode cause).2.Canon := by
  unfold State.causeCode
  split <;> exact h

theorem stopEngine_canon (h : s.Canon) (e cause) : (s.stopEngine e cause).Canon := by
  unfold State.stopEngine
  split
  · exact h
  · exact modEngine_canon (modCore_canon (causeCode_canon h _) ..) ..

theorem haltEngine_canon (h : s.Canon) (e cause) : (s.haltEngine e cause).Canon := by
  unfold State.haltEngine
  split
  · exact h
  · exact purgePour_canon (stopEngine_canon h ..) ..

theorem dropDrains_canon (h : s.Canon) (k) : (s.dropDrains k).Canon := by
  grind [State.dropDrains, modCore_canon, State.Canon]

theorem engMismatch_canon (h : s.Canon) (k) : (s.engMismatch k).Canon :=
  modPair_canon (mismatch_canon (dropDrains_canon h _) ..) ..

theorem trapEngine_canon (h : s.Canon) (e cause) : (s.trapEngine e cause).Canon := by
  unfold State.trapEngine
  split
  · exact h
  · split
    · exact haltEngine_canon h ..
    · dsimp only
      split
      · split
        · exact haltEngine_canon (stopEngine_canon h ..) ..
        · exact engMismatch_canon h _
      · split
        · exact engMismatch_canon h _
        · refine stallEngine_canon ?_ ..
          split <;> exact h
      · exact engMismatch_canon h _

theorem leaveHandler_canon (h : s.Canon) (w pc window) : (s.leaveHandler w pc window).Canon := by
  unfold State.leaveHandler
  split <;> exact h

theorem hret_canon (h : s.Canon) (w) : (s.hret w).Canon := by
  unfold State.hret
  split
  · exact h
  · exact yieldWeave_canon (modWeave_canon (leaveHandler_canon h ..) ..) _

theorem branchTo_canon (h : s.Canon) (w pc) : (s.branchTo w pc).Canon := by
  unfold State.branchTo
  split
  · exact h
  · refine yieldWeave_canon ?_ _
    refine modWeave_canon ?_ ..
    split
    · split
      · exact leaveHandler_canon h ..
      · exact h
    · split
      · exact leaveHandler_canon h ..
      · exact h

/-! ### The performance of a captured access (12 R254) -/

theorem addLines_canon (h : s.Canon) (op ks) : (s.addLines op ks).Canon := by
  unfold State.addLines
  split
  · exact h
  · exact foldl_canon (fun _ _ ht => modFibre_canon ht ..) _ h

theorem recordAcc_canon (h : s.Canon) (p op ks) : (s.recordAcc p op ks).Canon := by
  unfold State.recordAcc
  refine addLines_canon ?_ ..
  refine foldl_canon (fun _ _ ht => ?_) _ h
  split <;> exact ht

theorem remoteStore_canon (h : s.Canon) (p op rank dev win off tagged bytes ws) :
    (s.remoteStore p op rank dev win off tagged bytes ws).Canon :=
  h

theorem sign_canon (h : s.Canon) (part pour a width data) : (s.sign part pour a width data).Canon := by
  unfold State.sign
  split
  · exact h
  · split <;> exact h

theorem logWrite_canon (h : s.Canon) (part off bs) : (s.logWrite part off bs).Canon := writeCtx_canon h ..

theorem logPut_canon (h : s.Canon) (part bs) : (s.logPut part bs).Canon := by
  unfold State.logPut
  dsimp only
  split
  · exact h
  · split
    · exact abandon_canon h _
    · exact modPart_canon (logWrite_canon h ..) ..

theorem logRow_canon (h : s.Canon) (part kind mark words n at_ w bs) :
    (s.logRow part kind mark words n at_ w bs).Canon := by
  unfold State.logRow
  split
  · exact h
  · exact logPut_canon h ..

theorem logValues_canon (h : s.Canon) (pid w d lanes) : (s.logValues pid w d lanes).Canon := by
  unfold State.logValues
  split
  · exact h
  · split
    · exact logRow_canon h ..
    · exact h

theorem profile_canon (h : s.Canon) (op) : (s.profile op).Canon := by
  unfold State.profile
  split
  · dsimp only
    split <;> exact h
  · exact h

theorem atomicOpens_canon (h : s.Canon) (op f atom key) : (s.atomicOpens op f atom key).Canon := h
theorem atomicCloses_canon (h : s.Canon) (op f k) : (s.atomicCloses op f k).Canon := h

theorem atomicLane_canon (h : s.Canon) (p op f a pl) : (s.atomicLane p op f a pl).2.Canon := by
  grind [State.atomicLane, atomicOpens_canon, touchPlace_canon, wf_store, wf_storeTags, recordAcc_canon,
      atomicCloses_canon, setSync_canon, State.Canon]

theorem cacheAll_canon (h : s.Canon) (p as) : (s.cacheAll p as).Canon := by
  unfold State.cacheAll
  refine foldl_canon (fun _ _ ht => ?_) _ h
  split
  · exact cached_canon ht ..
  · exact ht

theorem putLane_canon (h : s.Canon) (p op bytes e) : (s.putLane p op bytes e).Canon := by
  unfold State.putLane
  dsimp only
  split
  · exact wf_storeAt (sign_canon h ..) ..
  · exact remoteStore_canon (sign_canon h ..) ..
  · exact sign_canon h ..

theorem touchLanes_canon (h : s.Canon) (op ls) : (s.touchLanes op ls).Canon := by
  unfold State.touchLanes
  refine foldl_canon (fun _ _ ht => ?_) _ h
  split
  · split
    · exact touchPart_canon ht ..
    · exact touchPlace_canon ht ..
  · exact ht

/-- The performance of an access, by its outcome: one that faults leaves no state; a load and a fence only correct what
they read; a store and an atomic write lane by lane. -/
theorem perform_canon (h : s.Canon) (p op) : AccResCanon (s.perform p op) := by
  intro t ws
  simp only [State.perform]
  split
  · nofun
  split
  · nofun
  split
  · nofun
  split
  · nofun
  have read := touchLanes_canon (cacheAll_canon h p (op.lanes.map (·.addr))) op (s.laneLocs p op false)
  generalize ((s.cacheAll p (op.lanes.map (·.addr))).touchLanes op (s.laneLocs p op false)) = u at read
  split
  · grind [recordAcc_canon, State.Canon]
  · grind [recordAcc_canon, State.Canon]
  · grind [recordAcc_canon, State.Canon, foldl_canon, putLane_canon]
  · grind [recordAcc_canon, State.Canon, foldl_canon, remoteStore_canon, wf_storeAt]
  · grind [recordAcc_canon, State.Canon, foldl_canon, remoteStore_canon, wf_storeAt, sign_canon]
  · split
    · nofun
    · rintro ⟨⟩
      refine List.foldlRecOn (motive := fun a : State × SMap (List Reg) => a.1.Canon) _ _ read fun a ha e _ => ?_
      grind [atomicLane_canon]
  · grind [recordAcc_canon]
  · grind

theorem performStp_canon (h : s.Canon) (p op) :
    AccResCanon (s.performStp p op).1 ∧ ∀ t, (s.performStp p op).2 = some t → t.Canon := by
  grind [State.performStp, cacheAll_canon, putLane_canon, touchLanes_canon, recordAcc_canon, State.Canon, foldl_canon,
      AccResCanon]

/-! ### The shape of every word (09 R182, R200) -/

theorem readRegs_canon (h : s.Canon) (core dark fs code k) : (s.readRegs core dark fs code k).Canon :=
  tokenRead_canon (parityRead_canon h ..) ..

theorem readOpt_canon (h : s.Canon) (core dark fs a) : (s.readOpt core dark fs a).Canon := by
  unfold State.readOpt
  split
  · exact readRegs_canon h ..
  · exact h

theorem laneRead_canon (h : s.Canon) (c form acc extra) : (s.laneRead c form acc extra).Canon := by
  unfold State.laneRead
  refine foldl_canon (fun _ _ ht => readRegs_canon ht ..) _ ?_
  split
  · split
    · exact readRegs_canon (readOpt_canon (readOpt_canon h ..) ..) ..
    · exact readOpt_canon (readOpt_canon h ..) ..
  · exact readOpt_canon (readOpt_canon h ..) ..

/-- A word that reads a completed token runs its body, or waits and leaves a checkpoint (22 R402). -/
theorem tokenGate_canon (h : s.Canon) {body : State → State} (hbody : ∀ t, t.Canon → (body t).Canon) (w token) :
    (s.tokenGate w token body).Canon := by
  unfold State.tokenGate
  split
  · exact hbody _ h
  · split
    · exact waitPair_canon h _
    · exact stallWeave_canon h ..
    · split
      · exact checkpoint_canon (hbody _ h) _
      · exact hbody _ h

theorem laneWeave_canon (h : s.Canon) {body : State → Ctx → SMap LaneIn → State}
    (hbody : ∀ t x y, t.Canon → (body t x y).Canon) (w form acc extra) :
    (s.laneWeave w form acc extra body).Canon := by
  unfold State.laneWeave
  split
  · exact h
  · split
    · refine after_canon ?_ ..
      split <;> exact h
    · split
      · exact trapWeave_canon h ..
      · split
        · exact stallWeave_canon h ..
        · exact tokenGate_canon h (fun _ ht => hbody _ _ _ (laneRead_canon ht ..)) ..

/-- A lane word keeps the form where its body does (10 R202). -/
theorem laneOp_canon (h : s.Canon) {body : State → Ctx → SMap LaneIn → State}
    (hbody : ∀ t x y, t.Canon → (body t x y).Canon) (form acc extra) :
    OutCanon (s.laneOp form acc extra body) := by
  unfold State.laneOp
  split
  · exact laneWeave_canon h hbody ..
  · exact trapEngine_canon h ..
  · exact h

theorem groupRead_canon (h : s.Canon) (c form l0) : (s.groupRead c form l0).Canon :=
  readOpt_canon (readOpt_canon h ..) ..

theorem groupWeave_canon (h : s.Canon) {body : State → Ctx → LaneIn → State}
    (hbody : ∀ t x y, t.Canon → (body t x y).Canon) (w form) :
    (s.groupWeave w form body).Canon := by
  unfold State.groupWeave
  split
  · exact h
  · split
    · exact trapWeave_canon h ..
    · split
      · exact trapWeave_canon h ..
      · split
        · exact stallWeave_canon h ..
        · exact tokenGate_canon h (fun _ ht => hbody _ _ _ (groupRead_canon ht ..)) ..

theorem groupEngine_canon (h : s.Canon) (e form) {body : State → EngIn → State}
    (hb : ∀ t x, t.Canon → (body t x).Canon) :
    (s.groupEngine e form body).Canon := by
  have read (ts : List Clock) : (if ts.isEmpty then s else s.modEngine e fun v => v.readToks ts).Canon := by
    split
    · exact h
    · exact modEngine_canon h ..
  grind [State.groupEngine, trapEngine_canon, stallEngine_canon]

/-- A group word keeps the form where its body on a weave and its body on an engine do (11 R222). -/
theorem groupOp_canon (h : s.Canon) {fib : State → Ctx → LaneIn → State}
    (hfib : ∀ t x y, t.Canon → (fib t x y).Canon) {eng : State → Nat → EngIn → State}
    (heng : ∀ t x y, t.Canon → (eng t x y).Canon) (form) :
    OutCanon (s.groupOp form fib eng) := by
  unfold State.groupOp
  split
  · exact groupWeave_canon h hfib ..
  · exact groupEngine_canon h _ _ (fun _ _ ht => heng _ _ _ ht)
  · exact h

theorem noEngine_canon (h : s.Canon) (x x') : (noEngine s x x').Canon := h

theorem finish_canon (h : s.Canon) (c form res) : (Ctx.finish c form s res).Canon := by
  unfold Ctx.finish
  refine after_canon ?_ ..
  split
  · exact result_canon h ..
  · exact h

theorem finishG_canon (h : s.Canon) (c form res yields) : (Ctx.finishG c form s res yields).Canon := by
  unfold Ctx.finishG
  refine after_canon ?_ ..
  split
  · exact result_canon h ..
  · exact h

theorem finishIn_canon (h : s.Canon) (c form res) : (Ctx.finishIn c form s res).Canon :=
  finishG_canon (logValues_canon h ..) ..

theorem finishE_canon (h : s.Canon) (form e res) : (finishE form s e res).Canon := by
  unfold finishE
  refine afterEngine_canon ?_ ..
  split <;> exact h

theorem consume_canon (h : s.Canon) (c) : (Ctx.consume c s).Canon := trapWeave_canon h ..

theorem trap_canon (h : s.Canon) (c form ins cause lanes detail) : (Ctx.trap c s form ins cause lanes detail).Canon :=
  trapWeave_canon h ..

theorem valueTrap_canon (h : s.Canon) (c form ins lanes) : (Ctx.valueTrap c s form ins lanes).Canon := trap_canon h ..

theorem trapG_canon (h : s.Canon) (c form x cause mask addr) : (Ctx.trapG c s form x cause mask addr).Canon :=
  trapWeave_canon h ..

theorem consumeE_canon (h : s.Canon) (e) : (consumeE s e).Canon := trapEngine_canon h ..

/-! ### Integer lane words (10 R205 to R209, R216) -/

theorem intOp_canon (h : s.Canon) (form f) : OutCanon (s.intOp form f) :=
  laneOp_canon h (fun _ _ _ ht => finish_canon ht ..) ..

theorem intUni_canon (h : s.Canon) (form f) : OutCanon (s.intUni form f) :=
  laneOp_canon h (fun _ _ _ ht => finish_canon ht ..) ..

theorem cmpOp_canon (h : s.Canon) (form k g) : OutCanon (s.cmpOp form k g) := by
  unfold State.cmpOp
  refine laneOp_canon h (fun _ _ _ ht => ?_) ..
  split
  · exact consume_canon ht _
  · exact finish_canon (foldl_canon (fun _ _ hu => modFibre_canon hu ..) _ ht) ..

theorem execImad_canon (h : s.Canon) (n d a b l) : OutCanon (execImad n d a b l s) :=
  laneOp_canon h (fun _ _ _ ht => finish_canon ht ..) ..

theorem execIadd64_canon (h : s.Canon) (n d a b l) : OutCanon (execIadd64 n d a b l s) :=
  laneOp_canon h (fun _ _ _ ht => finish_canon ht ..) ..

theorem execUniMov_canon (h : s.Canon) (n d a l) : OutCanon (execUniMov n d a l s) :=
  laneOp_canon h (fun _ _ _ ht => finish_canon ht ..) ..

theorem execSelp_canon (h : s.Canon) (n d a sense k l) : OutCanon (execSelp n d a sense k l s) :=
  laneOp_canon h (fun _ _ _ ht => finish_canon ht ..) ..

/-! ### Floating lane words (10 R204, R210 to R215) -/

theorem fpGate_canon (h : s.Canon) {k : State → State} (hk : ∀ t, t.Canon → (k t).Canon) (c form ins fl) :
    (Ctx.fpGate c form s ins fl k).Canon := by
  unfold Ctx.fpGate
  dsimp only
  split
  · exact hk _ (foldl_canon (fun _ _ ht => modFibre_canon ht ..) _ h)
  · exact trap_canon h ..

theorem fpOp_canon (h : s.Canon) (form acc sp g read) : OutCanon (s.fpOp form acc sp g read) :=
  laneOp_canon h (fun _ _ _ ht => fpGate_canon ht (fun _ hu => finish_canon hu ..) ..) ..

theorem fp2_canon (h : s.Canon) (form g) : OutCanon (s.fp2 form g) := fpOp_canon h ..
theorem fp1_canon (h : s.Canon) (form g) : OutCanon (s.fp1 form g) := fpOp_canon h ..

theorem execFcmp_canon (h : s.Canon) (cond k a b l) : OutCanon (execFcmp cond k a b l s) := by
  unfold execFcmp
  refine laneOp_canon h (fun _ _ _ ht => ?_) ..
  split
  · exact consume_canon ht _
  · exact fpGate_canon ht (fun _ hu => finish_canon (foldl_canon (fun _ _ hu => modFibre_canon hu ..) _ hu) ..) ..

theorem countConv_canon (h : s.Canon) (core cs) : (s.countConv core cs).Canon := by
  unfold State.countConv
  dsimp only
  split <;> exact h

theorem execCvt_canon (h : s.Canon) (n d a v l) : OutCanon (execCvt n d a v l s) :=
  laneOp_canon h (fun _ _ _ ht => finish_canon (countConv_canon ht ..) ..) ..

/-! ### Cross-lane words (10 R217 to R221) -/

theorem shuffle_canon (h : s.Canon) (form src) : OutCanon (s.shuffle form src) :=
  laneOp_canon h (fun _ _ _ ht => finish_canon ht ..) ..

theorem execXchb_canon (h : s.Canon) (n st) : OutCanon (execXchb n st s) := by
  unfold execXchb
  dsimp only
  split
  · exact laneWeave_canon h (fun _ _ _ ht => finish_canon (foldl_canon (fun _ _ hu => modFibre_canon hu ..) _
        (injectAll_canon _ _ _ ht)) ..) ..
  · exact trapEngine_canon h ..
  · exact h

theorem vote_canon (h : s.Canon) (form k g) : OutCanon (s.vote form k g) :=
  laneOp_canon h (fun _ _ _ ht => finish_canon ht ..) ..

theorem execRhad_canon (h : s.Canon) (n d a b l) : OutCanon (execRhad n d a b l s) :=
  laneOp_canon h (fun _ _ _ ht => finish_canon ht ..) ..

/-! ### The issue of accesses (12 R253 to R263) -/

theorem addPend_canon (h : s.Canon) (kind dest pour pc acq ready) :
    (s.addPend kind dest pour pc acq ready).2.Canon :=
  fresh_canon h

theorem sendResult_canon (h : s.Canon) (op res) : (s.sendResult op res).Canon := by
  unfold State.sendResult
  split <;> exact h

theorem passAccess_canon (h : s.Canon) (w op len lane yields) : (s.passAccess w op len lane yields).Canon := by
  unfold State.passAccess
  refine after_canon ?_ ..
  refine profile_canon ?_ _
  split <;> exact h

theorem performAny_canon (h : s.Canon) (p op) :
    AccResCanon (s.performAny p op).1 ∧ ∀ t, (s.performAny p op).2 = some t → t.Canon := by
  grind [State.performAny, performStp_canon, perform_canon, State.Canon, AccResCanon]

theorem accTrap_canon (h : s.Canon) (c op f tags group) : (Ctx.accTrap c s op f tags group).Canon :=
  trapWeave_canon h ..

theorem blankPend_canon (h : s.Canon) (op) : (s.blankPend op).2.Canon := by
  unfold State.blankPend
  split <;> exact h

theorem hold_canon (h : s.Canon) (c op len va tags group yields) :
    (Ctx.hold c s op len va tags group yields).Canon := by
  grind [Ctx.hold, reportFault_canon, holdSync_canon, blankPend_canon, fresh_canon, passAccess_canon, State.Canon]

theorem issueSolo_canon (h : s.Canon) (c : Ctx) (op len tags group) : (c.issueSolo s op len tags group).Canon := by
  obtain ⟨done, half⟩ := performAny_canon h c.p op
  grind [Ctx.issueSolo, stallWeave_canon, accTrap_canon, consume_canon, hold_canon, sendResult_canon,
      passAccess_canon, AccResCanon, getD_canon]

theorem twinStores_canon (h : s.Canon) (pr lead) : (s.twinStores pr lead).Canon := by
  unfold State.twinStores
  split
  · exact h
  · refine foldl_canon (fun _ _ ht => ?_) _ h
    split
    · exact ht
    · dsimp only
      split
      · exact wf_storeAt (touchPart_canon ht ..) ..
      · exact ht

theorem pairLines_canon (h : s.Canon) (p op) : (s.pairLines p op).Canon := addLines_canon h ..

theorem twinLines_canon (h : s.Canon) (pid op) : (s.twinLines pid op).Canon := by
  unfold State.twinLines
  split
  · exact pairLines_canon h ..
  · exact h

theorem pairLead_canon (h : s.Canon) {go : State → State} (hgo : ∀ t, t.Canon → (go t).Canon) (c k pr ts) :
    (Ctx.pairLead c s k pr ts go).Canon := by
  unfold Ctx.pairLead
  dsimp only
  split
  · exact mismatch_canon h ..
  · split
    · exact stallWeave_canon h ..
    · exact hgo _ (modPair_canon h ..)

theorem pairTrail_canon (h : s.Canon) {go : List PairStore → State} (hgo : ∀ a0, (go a0).Canon) (c k pr ts) :
    (Ctx.pairTrail c s k pr ts go).Canon := by
  unfold Ctx.pairTrail
  split
  · dsimp only
    split
    · exact mismatch_canon h ..
    · exact stallWeave_canon h ..
  · split
    · exact mismatch_canon h ..
    · exact hgo _

theorem pairStore_canon (h : s.Canon) (c k pr op len tags group) :
    (Ctx.pairStore c s k pr op len tags group).Canon := by
  grind [Ctx.pairStore, stallWeave_canon, performAny_canon, accTrap_canon, pairLead_canon, pairLines_canon,
      pairTrail_canon, twinLines_canon, twinStores_canon, modPair_canon, consume_canon, passAccess_canon, hold_canon,
      State.Canon, AccResCanon]

theorem passBoth_canon (h : s.Canon) (w a b len lane yields) : (s.passBoth w a b len lane yields).Canon :=
  passAccess_canon (passAccess_canon h ..) ..

theorem passPair_canon (h : s.Canon) (w a b len lane yields) : (s.passPair w a b len lane yields).Canon :=
  checkpoint_canon (checkpoint_canon (passBoth_canon h ..) _) _

theorem holdBoth_canon (h : s.Canon) (c k o lp a b len va tags lane yields) :
    (Ctx.holdBoth c s k o lp a b len va tags lane yields).Canon := by
  grind [Ctx.holdBoth, modPair_canon, reportFault_canon, holdSync_canon, blankPend_canon, fresh_canon, passBoth_canon,
      State.Canon]

theorem trapBoth_canon (h : s.Canon) (k o w i) : (s.trapBoth k o w i).Canon :=
  enterTrap_canon (enterTrap_canon (modPair_canon h ..) ..) ..

theorem pairHold_canon (h : s.Canon) (c k pr op rank) : (Ctx.pairHold c s k pr op rank).Canon := by
  unfold Ctx.pairHold
  dsimp only
  split
  · exact mismatch_canon h ..
  · refine waitPair_canon ?_ _
    split <;> exact h

theorem followLead_canon (h : s.Canon) (a b) : (s.followLead a b).Canon := by
  unfold State.followLead
  refine foldl_canon (fun _ _ ht => ?_) _ h
  split <;> exact ht

/-- The atomic of a pair: the lead performs it, and the trail in its own scratchpad (22 R402). -/
theorem pairAtomicDo_canon (h : s.Canon) (lp tp a b) : AccResCanon (s.pairAtomicDo lp tp a b).1 := by
  have lead := perform_canon h lp a
  unfold State.pairAtomicDo
  cases hr : s.perform lp a with
  | done s1 res =>
    have trail := perform_canon (lead s1 res hr) tp (scratchLanes { b with clock := a.clock })
    grind [followLead_canon, AccResCanon]
  | _ => grind [AccResCanon]

theorem pairAtomic_canon (h : s.Canon) (c : Ctx) (k pr op len tags) : (c.pairAtomic s k pr op len tags).Canon := by
  unfold Ctx.pairAtomic
  extract_lets lead rank
  split
  · exact stallWeave_canon h ..
  split
  · exact waitPair_canon h ..
  split
  · exact pairHold_canon h ..
  split
  · exact mismatch_canon h ..
  extract_lets a b
  split
  · next o _ _ lp tp _ _ =>
    have done := pairAtomicDo_canon h lp tp a b
    grind [trapBoth_canon, purgePour_canon, holdBoth_canon, modPair_canon, sendResult_canon, passPair_canon,
        AccResCanon]
  · exact h

/-- The issue of an access: alone, as a store of a pair, or as an atomic of a pair. -/
theorem issue_canon (h : s.Canon) (c op len tags group) : (Ctx.issue c s op len tags group).Canon := by
  grind [Ctx.issue, issueSolo_canon, pairStore_canon, pairAtomic_canon, perform_canon, stallWeave_canon,
      passAccess_canon, sendResult_canon, State.Canon, AccResCanon]

theorem laneLoad_canon (h : s.Canon) (i r d a off bytes words signed) :
    OutCanon (s.laneLoad i r d a off bytes words signed) := by
  unfold State.laneLoad
  refine laneOp_canon h (fun _ _ _ ht => ?_) ..
  split
  · exact consume_canon ht _
  · exact issue_canon ht ..

theorem laneStore_canon (h : s.Canon) (i r sd a k l off bytes) :
    OutCanon (s.laneStore i r sd a k l off bytes) := by
  unfold State.laneStore
  refine laneOp_canon h (fun _ _ _ ht => ?_) ..
  split
  · exact consume_canon ht _
  · exact issue_canon ht ..

theorem execStp_canon (h : s.Canon) (sd a b l) : OutCanon (execStp sd a b l s) := by
  grind [execStp, laneWeave_canon, trapWeave_canon, consume_canon, issue_canon, trapEngine_canon, State.Canon,
      OutCanon]

theorem laneAtomic_canon (h : s.Canon) (i f sc d a b l) : OutCanon (s.laneAtomic i f sc d a b l) := by
  unfold State.laneAtomic
  refine laneOp_canon h (fun _ _ _ ht => ?_) ..
  split
  · exact consume_canon ht _
  · exact issue_canon ht ..

theorem engAccess_canon (h : s.Canon) {k : State → Loc → State} (hk : ∀ t x, t.Canon → (k t x).Canon) (e x a write) :
    (s.engAccess e x a write k).Canon := by
  unfold State.engAccess
  dsimp only
  split
  · exact trapEngine_canon h ..
  · split
    · exact stallEngine_canon (reportFault_canon h ..) ..
    · split
      · exact h
      · refine hk _ _ ?_
        split
        · exact cacheAll_canon h ..
        · exact touchLoc_canon (cacheAll_canon h ..) ..

theorem execGld_canon (h : s.Canon) (r d a o) : OutCanon (execGld r d a o s) := by
  unfold execGld
  dsimp only
  split
  · refine groupWeave_canon h (fun _ _ _ ht => ?_) ..
    split
    · exact consume_canon ht _
    · exact issue_canon ht ..
  · refine groupEngine_canon h _ _ (fun _ _ ht => ?_)
    split
    · exact consumeE_canon ht _
    · refine engAccess_canon ht (fun _ _ hu => ?_) ..
      refine afterEngine_canon ?_ ..
      refine addPend_canon ?_ ..
      split <;> exact hu
  · exact h

theorem execGst_canon (h : s.Canon) (r sd a o l) : OutCanon (execGst r sd a o l s) := by
  unfold execGst
  grind [groupWeave_canon, consume_canon, issue_canon, groupEngine_canon, consumeE_canon, engAccess_canon,
      touchPart_canon, wf_storeAt, wf_setPoison, remoteStore_canon, afterEngine_canon, State.Canon, OutCanon]

theorem deliver_canon (h : s.Canon) (p flip) : (s.deliver p flip).Canon := by
  grind [State.deliver, injectAll_canon, modFibre_canon, acquireClock_canon, modEngine_canon, State.Canon,
      foldl_canon]

theorem execLoadResultArrival_canon (h : s.Canon) (id) : OutCanon (execLoadResultArrival id s) := by
  unfold execLoadResultArrival
  split
  · exact deliver_canon h ..
  · exact h

theorem execAtomicResultArrival_canon (h : s.Canon) (id) : OutCanon (execAtomicResultArrival id s) := by
  unfold execAtomicResultArrival
  split
  · exact deliver_canon h ..
  · exact h

theorem dropHeld_canon (h : s.Canon) (w) : (s.dropHeld w).Canon := h
theorem fillPend_canon (h : s.Canon) (id ws) : (s.fillPend id ws).Canon := h
theorem finishHeld_canon (h : s.Canon) (w res) : (s.finishHeld w res).Canon := h
theorem reHold_canon (h : s.Canon) (p w va) : (s.reHold p w va).Canon := reportFault_canon h ..
theorem keepHeld_canon (h : s.Canon) (w) : (s.keepHeld w).Canon := h

theorem trapHeld_canon (h : s.Canon) (w i) : (s.trapHeld w i).Canon := by
  unfold State.trapHeld
  refine foldl_canon (fun _ _ ht => ?_) _ (dropHeld_canon h _)
  dsimp only
  split
  · exact ht
  · exact trapWeave_canon ht ..

theorem replayPairAtomic_canon (h : s.Canon) (hd lp b pb) : (s.replayPairAtomic hd lp b pb).Canon := by
  have perf (lp tp a b) := pairAtomicDo_canon h lp tp a b
  grind [State.replayPairAtomic, dropHeld_canon, trapHeld_canon, purgePour_canon, reHold_canon, finishHeld_canon,
      fillPend_canon, checkpoint_canon, AccResCanon]

theorem replay_canon (h : s.Canon) (w) : (s.replay w).Canon := by
  unfold State.replay
  grind [dropHeld_canon, replayPairAtomic_canon, performAny_canon, twinLines_canon, twinStores_canon, trapHeld_canon,
      purgePour_canon, reHold_canon, keepHeld_canon, finishHeld_canon, State.Canon, AccResCanon]

/-! ### Shape registers and blocks (04 R102, R103) -/

theorem touchRead_canon (h : s.Canon) (p a n tags) : (s.touchRead p a n tags).Canon := by
  unfold State.touchRead
  split
  · exact h
  · exact foldl_canon (fun _ _ ht => touchLoc_canon ht ..) _ h

theorem modBar_canon (h : s.Canon) (key g) : (s.modBar key g).Canon := by
  grind [State.modBar, touch_canon, wf_store, setSync_canon, State.Canon]

theorem arriveBar_canon (h : s.Canon) (key c) : (s.arriveBar key c).Canon :=
  modBar_canon (setSync_canon h ..) ..

/-! ### Shape-register words (12 R269, R277, R278) -/

theorem execShset_canon (h : s.Canon) (n a b l) : OutCanon (execShset n a b l s) := by
  unfold execShset
  refine groupOp_canon h (fun _ _ _ ht => ?_) (fun _ _ _ ht => ?_) _
  · split
    · exact consume_canon ht _
    · split
      · exact trapG_canon ht ..
      · split
        · exact stallWeave_canon ht ..
        · exact after_canon (modPour_canon ht ..) ..
  · split
    · exact consumeE_canon ht _
    · split
      · exact trapEngine_canon ht ..
      · split <;> exact ht

theorem execShget_canon (h : s.Canon) (d n b l) : OutCanon (execShget d n b l s) := by
  unfold execShget
  refine groupOp_canon h (fun _ _ _ ht => ?_) (fun _ _ _ ht => ?_) _
  · split
    · exact consume_canon ht _
    · split
      · exact trapG_canon ht ..
      · split
        · exact stallWeave_canon ht ..
        · exact finishIn_canon ht ..
  · split
    · exact consumeE_canon ht _
    · split
      · exact trapEngine_canon ht ..
      · split <;> exact ht

theorem engShape_canon (h : s.Canon) {k : State → List Loc → State} (hk : ∀ t x, t.Canon → (k t x).Canon)
    (e x a write) :
    (s.engShape e x a write k).Canon := by
  unfold State.engShape
  dsimp only
  split
  · exact trapEngine_canon h ..
  · split
    · exact stallEngine_canon (reportFault_canon h ..) ..
    · split
      · exact h
      · refine hk _ _ ?_
        split
        · exact h
        · exact foldl_canon (fun _ _ ht => touchLoc_canon ht ..) _ h

theorem execShld_canon (h : s.Canon) (n a) : OutCanon (execShld n a s) := by
  grind [execShld, modPour_canon, groupOp_canon, consume_canon, stallWeave_canon, perform_canon, accTrap_canon,
      hold_canon, after_canon, consumeE_canon, stallEngine_canon, engShape_canon, afterEngine_canon, State.Canon,
      AccResCanon, OutCanon]

theorem execShst_canon (h : s.Canon) (n a) : OutCanon (execShst n a s) := by
  grind [execShst, groupOp_canon, consume_canon, stallWeave_canon, issue_canon, consumeE_canon, stallEngine_canon,
      engShape_canon, wf_storeAt, remoteStore_canon, afterEngine_canon, State.Canon, foldl_canon, OutCanon]

/-! ### The walks of copies (04 R104, R105, 12 R271) -/

theorem touchSource_canon (h : s.Canon) (p y src) : (s.touchSource p y src).Canon := by
  unfold State.touchSource
  split
  · exact h
  · exact foldl_canon (fun _ _ ht => touchPlace_canon ht ..) _ h

theorem wf_settlePoison {m : Memory} (h : m.wf = true) (d : Landed) (k) : (d.settlePoison m k).wf = true := by
  grind [Landed.settlePoison, wf_setPoison, wf_setFlips]

theorem wf_settleTag {m : Memory} (h : m.wf = true) (d : Landed) (g k) : (d.settleTag g m k).wf = true := by
  grind [Landed.settleTag, wf_setTag]

theorem wf_settleRow (h : s.mem.wf = true) (p d g r) : (s.settleRow p d g r).wf = true := by
  unfold State.settleRow
  split
  · exact h
  · refine wf_foldl (fun m i hm => ?_) _ h
    grind [wf_setTag]

/-- An element that lands: what its granules hold is corrected, then its bytes, poison and tags are written (22 R398). -/
theorem land_canon (h : s.Canon) (p g d e ls) : (s.land p g d e ls).1.Canon := by
  unfold State.land
  extract_lets keys d' u m v
  have touched : u.Canon := foldl_canon (fun t k ht => touch_canon ht k 1) keys h
  have landed : v.Canon :=
    wf_foldl (fun m k hm => wf_settleTag (wf_settlePoison hm d' k) d' g k) keys (wf_putEl touched e ls)
  split
  · exact wf_settleRow landed p d' g _
  · exact landed

theorem writeEmits_canon (p g es d) (h : s.Canon) {t d' e} (hr : s.writeEmits p g es d = .ok (t, d', e)) :
    t.Canon := by
  induction es generalizing s d with
  | nil => grind [State.writeEmits]
  | cons e es ih => grind [State.writeEmits, land_canon]

/-! ### Copies and puts (12 R265 to R275) -/

theorem writeToken_canon (h : s.Canon) (id v acq) : (s.writeToken id v acq).Canon := by
  grind [State.writeToken, modFibre_canon, modEngine_canon, State.Canon, foldl_canon]

theorem enqueue_canon (h : s.Canon) (c) : (s.enqueue c).Canon := by
  unfold State.enqueue
  dsimp only
  split <;> exact h

theorem copyIssue_canon (h : s.Canon) (i k d a) : OutCanon (s.copyIssue i k d a) := by
  unfold State.copyIssue
  refine groupOp_canon h (fun _ _ _ ht => ?_) (fun _ _ _ ht => ?_) _
  · split
    · exact consume_canon ht _
    · split
      · exact waitPair_canon ht _
      · exact stallWeave_canon ht ..
      · split
        · exact stallWeave_canon ht ..
        · exact after_canon (pushLatch_canon (enqueue_canon (addPend_canon ht ..) _) ..) ..
  · split
    · exact consumeE_canon ht _
    · split
      · exact ht
      · exact afterEngine_canon (enqueue_canon (addPend_canon ht ..) _) ..

theorem endBar_canon (h : s.Canon) (c code) : (s.endBar c code).Canon := by
  unfold State.endBar
  split
  · exact h
  · split
    · exact h
    · split
      · refine arriveBar_canon ?_ ..
        split
        · exact h
        · exact modBar_canon h ..
      · exact modBar_canon h ..

theorem landBytes_canon (h : s.Canon) (c n) : (s.landBytes c n).Canon := by
  unfold State.landBytes
  split
  · exact h
  · split
    · exact h
    · split
      · exact h
      · exact modBar_canon h ..

theorem countFabric_canon (h : s.Canon) (code) : (s.countFabric code).Canon := by
  unfold State.countFabric
  split <;> exact h

theorem endCmd_canon (h : s.Canon) (c code) : (s.endCmd c code).Canon := by
  grind [State.endCmd, countFabric_canon, writeToken_canon, endBar_canon, State.Canon]

theorem mismatchCmd_canon (h : s.Canon) (k c) : (s.mismatchCmd k c).Canon := by
  unfold State.mismatchCmd
  refine mismatch_canon ?_ ..
  split <;> exact h

theorem failCmd_canon (h : s.Canon) (c code) : (s.failCmd c code).Canon := by
  grind [State.failCmd, writeToken_canon, countFabric_canon, modPair_canon, mismatchCmd_canon, State.Canon]

theorem modCmd_canon (h : s.Canon) (id g) : (s.modCmd id g).Canon := h

theorem beginWalk_canon (h : s.Canon) (c pl) : (s.beginWalk c pl).Canon := by
  unfold State.beginWalk
  dsimp only
  split
  · split
    · exact modBar_canon (modCmd_canon h ..) ..
    · exact h
  · exact h

theorem cmdWait_canon (h : s.Canon) (c w stage) : (s.cmdWait c w stage).Canon := by
  unfold State.cmdWait
  split
  · exact modCmd_canon (reportFault_canon h ..) ..
  · exact h

theorem sendPut_canon (h : s.Canon) (c b d w o) : (s.sendPut c b d w o).Canon := by
  unfold State.sendPut
  dsimp only
  split
  · exact cmdWait_canon h ..
  · exact endCmd_canon h ..
  · exact modDev_canon (modCmd_canon (touchRead_canon h ..) ..) _

theorem goOn_canon (h : s.Canon) (c) : (s.goOn c).Canon := by
  unfold State.goOn
  split
  · split
    · exact sendPut_canon h ..
    · exact cmdWait_canon h ..
    · exact endCmd_canon h ..
  · exact beginWalk_canon h ..

theorem holdCmd_canon (h : s.Canon) (k p lead c) : (s.holdCmd k p lead c).Canon := by
  unfold State.holdCmd
  split
  · exact h
  · split
    · exact mismatchCmd_canon h ..
    · exact goOn_canon (modCmd_canon (modCmd_canon (modCmd_canon h ..) ..) ..) _

theorem passed_canon (h : s.Canon) (c leaves) : (s.passed c leaves).Canon := by
  unfold State.passed
  split
  · split
    · exact mismatchCmd_canon h ..
    · exact h
  · split
    · split
      · exact holdCmd_canon h ..
      · exact goOn_canon (modCmd_canon h ..) _
    · exact goOn_canon (modCmd_canon h ..) _

theorem blockRead_canon (h : s.Canon) (p a) : (s.blockRead p a).Canon := by
  unfold State.blockRead
  split
  · exact h
  · exact touchRead_canon h ..

theorem startCmd_canon (h : s.Canon) (c) : (s.startCmd c).Canon := by
  grind [State.startCmd, cmdWait_canon, failCmd_canon, blockRead_canon, passed_canon, touchRead_canon, State.Canon]

theorem execRunnerCommandStart_canon (h : s.Canon) (core) : OutCanon (execRunnerCommandStart core s) := by
  unfold execRunnerCommandStart
  split
  · exact h
  · split
    · exact h
    · exact startCmd_canon h _

theorem plainWalk_canon (p k g xs) {w : Walked} (h : w.s.Canon) {r} (hr : plainWalk p k g xs w = .ok r) :
    r.s.Canon := by
  induction xs generalizing w with
  | nil => grind [plainWalk]
  | cons x xs ih => grind [plainWalk, land_canon]

theorem write_canon {w : Walked} (h : w.s.Canon) (p g es) {r} (hr : w.write p g es = .ok r) : r.s.Canon := by
  grind [Walked.write, writeEmits_canon]

theorem runOps_canon (p sh rmode g os f) {w : Walked} (h : w.s.Canon) {r} (hr : runOps p sh rmode g os f w = .ok r) :
    r.2.s.Canon := by
  induction os generalizing f w with
  | nil => grind [runOps]
  | cons o os ih => cases o <;> grind [runOps, write_canon]

/-- The walk of a copy, plain or element by element through its operations. -/
theorem walkCmd_canon (h : s.Canon) (c k) {r} (hr : s.walkCmd c k = .ok r) : r.s.Canon := by
  unfold State.walkCmd at hr
  extract_lets p g sh pl src at hr
  split at hr
  · exact plainWalk_canon p k g _ (w := { s := s }) h hr
  split at hr
  · cases hr
  split at hr
  · cases hr
  next f w ran =>
    have walked : w.s.Canon := runOps_canon p sh _ g _ _ (w := { s := s }) h ran
    split at hr
    · cases hr
      exact walked
    extract_lets xs at hr
    split at hr
    · cases hr
    next u wrote =>
      cases hr
      have written : u.s.Canon := write_canon (w := { w with cs := xs.map (·.2) ++ w.cs }) walked p g _ wrote
      exact written

theorem cmdRelease_canon (h : s.Canon) (c dev) : (s.cmdRelease c dev).Canon := by
  unfold State.cmdRelease
  dsimp only
  split <;> exact h

theorem finishCopy_canon (h : s.Canon) (c) : (s.finishCopy c).Canon := by
  grind [State.finishCopy, touchSource_canon, cmdWait_canon, countConv_canon, cmdRelease_canon, endCmd_canon,
      landBytes_canon, walkCmd_canon, State.Canon]

theorem execCopyCompletion_canon (h : s.Canon) (cmd) : OutCanon (execCopyCompletion cmd s) := by
  unfold execCopyCompletion
  split
  · exact h
  · split
    · exact h
    · split
      · exact startCmd_canon h _
      · split
        · exact goOn_canon h _
        · exact finishCopy_canon h _

theorem execPutAcknowledgement_canon (h : s.Canon) (cmd ok) : OutCanon (execPutAcknowledgement cmd ok s) := by
  unfold execPutAcknowledgement
  split
  · exact h
  · dsimp only
    split
    · split <;> exact h
    · refine endCmd_canon ?_ ..
      split <;> exact h

theorem execWwait_canon (h : s.Canon) (a b l) : OutCanon (execWwait a b l s) := by
  grind [execWwait, groupOp_canon, consume_canon, waitPair_canon, stallWeave_canon, trapG_canon, reportFault_canon,
      checkpoint_canon, after_canon, acquire_canon, consumeE_canon, trapEngine_canon, stallEngine_canon,
      afterEngine_canon, acquireEngine_canon, State.Canon, OutCanon]

/-! ### Branches, windows and handlers (11 R224 to R233) -/

theorem engineTo_canon (h : s.Canon) (e pc) : (s.engineTo e pc).Canon := h

theorem execBr_canon (h : s.Canon) (o) : OutCanon (execBr o s) :=
  groupOp_canon h (fun _ _ _ ht => branchTo_canon ht ..) (fun _ _ _ ht => engineTo_canon ht ..) _

theorem execCall_canon (h : s.Canon) (o) : OutCanon (execCall o s) :=
  groupOp_canon h (fun _ _ _ ht => branchTo_canon (modFibres_canon ht ..) ..) (fun _ _ _ ht => engineTo_canon
    (modEngine_canon ht ..) ..) _

theorem recast_canon (h : s.Canon) (fs pc) : (s.recast fs pc).Canon := h

theorem recastTo_canon (h : s.Canon) (hdr fs pc) : (s.recastTo hdr fs pc).Canon := by
  unfold State.recastTo
  dsimp only
  split <;> exact h

theorem fallOn_canon (h : s.Canon) (w len) : (s.fallOn w len).Canon := after_canon h ..

theorem brp_canon (h : s.Canon) (c k sense target) : (Ctx.brp c s k sense target).Canon := by
  unfold Ctx.brp
  dsimp only
  split
  · exact branchTo_canon h ..
  · split
    · exact fallOn_canon h ..
    · split
      · exact waitPair_canon h _
      · refine checkpoint_canon ?_ _
        split
        · exact branchTo_canon (reMember_canon (recast_canon h ..) _) ..
        · exact fallOn_canon (reMember_canon (recastTo_canon h ..) _) ..

theorem execBrp_canon (h : s.Canon) (k sense o) : OutCanon (execBrp k sense o s) :=
  groupOp_canon h (fun _ _ _ ht => brp_canon ht ..) (fun _ _ _ ht => engineTo_canon ht ..) _

theorem execBru_canon (h : s.Canon) (a o) : OutCanon (execBru a o s) := by
  unfold execBru
  refine groupOp_canon h (fun _ _ _ ht => ?_) (fun _ _ _ ht => ?_) _
  · split
    · exact consume_canon ht _
    · split
      · exact branchTo_canon ht ..
      · exact fallOn_canon ht ..
  · split
    · exact consumeE_canon ht _
    · exact ht

theorem execBrx_canon (h : s.Canon) (a l) : OutCanon (execBrx a l s) := by
  unfold execBrx
  refine groupOp_canon h (fun _ _ _ ht => ?_) (fun _ _ _ ht => ?_) _
  · split
    · exact consume_canon ht _
    · exact branchTo_canon ht ..
  · split
    · exact consumeE_canon ht _
    · exact ht

theorem execRet_canon (h : s.Canon) : OutCanon (execRet s) :=
  groupOp_canon h (fun _ _ _ ht => branchTo_canon ht ..) (fun _ _ _ ht => engineTo_canon ht ..) _

theorem execYield_canon (h : s.Canon) : OutCanon (execYield s) :=
  groupOp_canon h (fun _ _ _ ht => after_canon ht ..) (fun _ _ _ ht => noEngine_canon ht ..) _

theorem execGuard_canon (h : s.Canon) (sense k n) : OutCanon (execGuard sense k n s) :=
  groupOp_canon h (fun _ _ _ ht => modWeave_canon (after_canon ht ..) ..) (fun _ _ _ ht => noEngine_canon ht ..) _

theorem execMemb_canon (h : s.Canon) (a l) : OutCanon (execMemb a l s) := by
  unfold execMemb
  refine groupOp_canon h (fun _ _ _ ht => ?_) (fun _ _ _ ht => noEngine_canon ht ..) _
  split
  · exact consume_canon ht _
  · exact after_canon (modWeave_canon ht ..) ..

theorem execTrap_canon (h : s.Canon) (code) : OutCanon (execTrap code s) :=
  groupOp_canon h (fun _ _ _ ht => trapWeave_canon ht ..) (fun _ _ _ ht => trapEngine_canon ht ..) _

theorem execHret_canon (h : s.Canon) : OutCanon (execHret s) :=
  groupOp_canon h (fun _ _ _ ht => hret_canon ht _) (fun _ _ _ ht => noEngine_canon ht ..) _

theorem execNop_canon (h : s.Canon) : OutCanon (execNop s) :=
  groupOp_canon h (fun _ _ _ ht => after_canon ht ..) (fun _ _ _ ht => afterEngine_canon ht ..) _

theorem execGet_canon (h : s.Canon) (d r) : OutCanon (execGet d r s) :=
  groupOp_canon h (fun _ _ _ ht => finishIn_canon ht ..) (fun _ _ _ ht => finishE_canon ht ..) _

theorem execSet_canon (h : s.Canon) (a r l) : OutCanon (execSet a r l s) := by
  unfold execSet
  refine groupOp_canon h (fun _ _ _ ht => ?_) (fun _ _ _ ht => ?_) _
  · split
    · exact consume_canon ht _
    · split
      · exact trapG_canon ht ..
      · refine after_canon ?_ ..
        split <;> exact ht
  · split
    · exact consumeE_canon ht _
    · refine afterEngine_canon ?_ ..
      split <;> exact ht

/-! ### What a core has free -/

theorem clearStack_canon (h : s.Canon) (p base) : (s.clearStack p base).Canon := by
  unfold State.clearStack
  split
  · exact h
  · exact wf_foldl (fun _ _ ht => wf_setTag ht ..) _ (wf_store h ..)

/-! ### Rejoin, recast and issue slots (02 R33 to R55) -/

theorem settleWeave_canon (h : s.Canon) (w) : (s.settleWeave w).Canon := by
  grind [State.settleWeave, reMember_canon, modCore_canon, modWeave_canon, spillWeave_canon, State.Canon]

theorem recheck_canon (h : s.Canon) (w) : (s.recheck w).Canon := by
  unfold State.recheck
  split
  · exact h
  · exact checkpoint_canon h _

theorem wake_canon (h : s.Canon) (w) : (s.wake w).Canon := by
  unfold State.wake
  dsimp only
  split
  · split
    · split
      · exact h
      · exact pickRunner_canon (modWeave_canon h ..) _
    · exact h
  · exact h

theorem recastOwn_canon (h : s.Canon) (fs) : (s.recastOwn fs).Canon := by
  unfold State.recastOwn
  split <;> exact h

theorem letGo_canon (h : s.Canon) (w fs) : (s.letGo w fs).Canon := modWeave_canon (recastOwn_canon h _) ..

theorem resumeWhole_canon (h : s.Canon) (w fs) : (s.resumeWhole w fs).Canon :=
  checkpoint_canon (wake_canon (settleWeave_canon (recastOwn_canon (modWeave_canon (modFibres_canon h ..) ..) _) _) _)
    _

theorem releaseIn_canon (h : s.Canon) (w fs) : (s.releaseIn w fs).Canon := by
  unfold State.releaseIn
  dsimp only
  split
  · exact recastOwn_canon (modFibres_canon h ..) _
  · split
    · exact recheck_canon (wake_canon (modFibres_canon h ..) _) _
    · split
      · exact recheck_canon (settleWeave_canon (letGo_canon (modFibres_canon h ..) ..) _) _
      · exact resumeWhole_canon (modFibres_canon h ..) ..

theorem loseFibres_canon (h : s.Canon) (w) : (s.loseFibres w).Canon := by
  unfold State.loseFibres
  dsimp only
  split
  · split
    · exact resumeWhole_canon h ..
    · exact recheck_canon (settleWeave_canon h _) _
  · split
    · exact resumeWhole_canon h ..
    · exact recheck_canon (settleWeave_canon h _) _

theorem releaseFibres_canon (h : s.Canon) (fs) : (s.releaseFibres fs).Canon :=
  foldl_canon (fun _ _ ht => releaseIn_canon ht ..) _ h

theorem owe_canon (h : s.Canon) (ws) : (s.owe ws).Canon := foldl_canon (fun _ _ ht => modWeave_canon ht ..) _ h

theorem releaseBars_canon (h : s.Canon) (pid) : (s.releaseBars pid).Canon := by
  unfold State.releaseBars
  dsimp only
  split
  · exact foldl_canon (fun _ _ ht => owe_canon ht _) _ h
  · exact releaseFibres_canon (foldl_canon (fun _ _ ht => setSync_canon (acquire_canon ht ..) ..) _ (foldl_canon (fun
        _ _ ht => owe_canon ht _) _ h)) _

theorem tryBar_canon (h : s.Canon) (pid) : (s.tryBar pid).Canon := by
  unfold State.tryBar
  split
  · split
    · exact releaseBars_canon h _
    · exact h
  · exact h

theorem tryRdv_canon (h : s.Canon) (pid) : (s.tryRdv pid).Canon := by
  unfold State.tryRdv
  dsimp only
  split
  · exact h
  · exact releaseFibres_canon (setSync_canon (foldl_canon (fun _ _ ht => modEngine_canon (acquireEngine_canon ht ..)
        ..) _ (acquire_canon h ..)) ..) _

theorem syncOp_canon (h : s.Canon) {body : State → State} (hbody : ∀ t, t.Canon → (body t).Canon) (c) :
    (Ctx.syncOp c s body).Canon := by
  unfold Ctx.syncOp
  split
  · exact waitPair_canon h _
  · exact stallWeave_canon h ..
  · exact checkpoint_canon (hbody _ h) _

theorem execBar_canon (h : s.Canon) : OutCanon (execBar s) :=
  groupOp_canon h (fun _ _ _ ht => syncOp_canon ht (fun _ hu => tryBar_canon (settleWeave_canon (pickRunner_canon
    (modFibres_canon (after_canon (foldl_canon (fun _ _ hu => release_canon hu ..) _ hu) ..) ..) _) _) _) _) (fun _ _
    _ ht => noEngine_canon ht ..) _

theorem execRdv_canon (h : s.Canon) : OutCanon (execRdv s) :=
  groupOp_canon h (fun _ _ _ ht => syncOp_canon ht (fun _ hu => tryRdv_canon (settleWeave_canon (pickRunner_canon
    (modFibres_canon (after_canon (release_canon hu ..) ..) ..) _) _) _) _) (fun _ _ _ ht => tryRdv_canon
    (modEngine_canon (afterEngine_canon (releaseEngine_canon ht ..) ..) ..) _) _

theorem modJ_canon (h : s.Canon) (w n g) : (s.modJ w n g).Canon := h

theorem resumeLevel_canon (h : s.Canon) (w n broken) : (s.resumeLevel w n broken).Canon := by
  grind [State.resumeLevel, acquireClock_canon, modFibres_canon, modJ_canon, recheck_canon, wake_canon,
      recastOwn_canon, letGo_canon, modWeave_canon, resumeWhole_canon, loseFibres_canon, settleWeave_canon,
      State.Canon, foldl_canon]

theorem tryLevel_canon (h : s.Canon) (w n) : (s.tryLevel w n).Canon := by
  unfold State.tryLevel
  split
  · split
    · split
      · exact resumeLevel_canon h ..
      · exact owe_canon h _
    · exact h
  · exact h

theorem payOwed_canon (h : s.Canon) (w) : (s.payOwed w).Canon := by
  unfold State.payOwed
  split
  · exact waitPair_canon h _
  · dsimp only
    split
    · exact checkpoint_canon (modWeave_canon h ..) _
    · exact tryBar_canon (foldl_canon (fun _ _ ht => foldl_canon (fun _ _ hu => tryLevel_canon hu ..) _ ht) _
          (checkpoint_canon (modWeave_canon h ..) _)) _

theorem trySerialFrom_canon (w n) (h : s.Canon) : (s.trySerialFrom w n).Canon := by
  induction n generalizing s with
  | zero => exact h
  | succ n ih => grind [State.trySerialFrom, pickRunner_canon, acquireClock_canon, goTo_canon, modWeave_canon,
      wake_canon, recheck_canon]

theorem trySerial_canon (h : s.Canon) (w) : (s.trySerial w).Canon := trySerialFrom_canon _ _ h

theorem execJarm_canon (h : s.Canon) (n) : OutCanon (execJarm n s) := by
  grind [execJarm, groupOp_canon, trapG_canon, after_canon, modWeave_canon, pickRunner_canon, modJ_canon,
      modFibres_canon, noEngine_canon, State.Canon, OutCanon]

theorem joinFibre_canon (h : s.Canon) (pid f n t resume) : (s.joinFibre pid f n t resume).Canon := by
  unfold State.joinFibre
  split
  · exact h
  · split
    · exact h
    · split <;> exact h

theorem joinSerial_canon (h : s.Canon) (c sr lane len) : (Ctx.joinSerial c s sr lane len).Canon :=
  settleWeave_canon (trySerial_canon (modWeave_canon (modFibres_canon (after_canon h ..) ..) ..) _) _

theorem execJoin_canon (h : s.Canon) (n a l) : OutCanon (execJoin n a l s) := by
  grind [execJoin, groupOp_canon, consume_canon, trapG_canon, syncOp_canon, joinSerial_canon, after_canon,
      joinFibre_canon, pickRunner_canon, settleWeave_canon, tryLevel_canon, noEngine_canon, State.Canon, foldl_canon,
      OutCanon]

theorem execJget_canon (h : s.Canon) (d n w) : OutCanon (execJget d n w s) :=
  groupOp_canon h (fun _ _ _ ht => finishIn_canon ht ..) (fun _ _ _ ht => noEngine_canon ht ..) _

theorem endLevels_canon (h : s.Canon) (pid f) : (s.endLevels pid f).Canon := by
  unfold State.endLevels
  split
  · exact h
  · refine foldl_canon (fun _ _ ht => ?_) _ h
    split <;> exact ht

theorem endFibres_canon (h : s.Canon) (pid w fs) : (s.endFibres pid w fs).Canon := by
  grind [State.endFibres, endLevels_canon, release_canon, dropPending_canon, mirrorCheck_canon, leaveHandler_canon,
      trySerial_canon, yieldWeave_canon, tryLevel_canon, settleWeave_canon, endIfDone_canon, tryRdv_canon,
      tryBar_canon, State.Canon, foldl_canon]

theorem pairEnd_canon (h : s.Canon) (c k pr) : (Ctx.pairEnd c s k pr).Canon := by
  grind [Ctx.pairEnd, waitPair_canon, mismatch_canon, modPair_canon, endFibres_canon, modWeave_canon,
      stallWeave_canon, State.Canon]

theorem execFend_canon (h : s.Canon) : OutCanon (execFend s) := by
  unfold execFend
  refine groupOp_canon h (fun _ _ _ ht => ?_) (fun _ _ _ ht => noEngine_canon ht ..) _
  split
  · exact stallWeave_canon ht ..
  · split
    · exact pairEnd_canon ht ..
    · exact endFibres_canon (modWeave_canon ht ..) ..

theorem execRejoinTimeout_canon (h : s.Canon) (weave j) : OutCanon (execRejoinTimeout weave j s) := by
  unfold execRejoinTimeout
  split
  · dsimp only
    split
    · split
      · exact h
      · split
        · exact owe_canon h _
        · exact resumeLevel_canon h ..
    · split
      · exact h
      · split
        · exact owe_canon h _
        · exact resumeLevel_canon h ..
  · exact h

theorem takeSlot_canon (h : s.Canon) (core quad) : ∀ a t, (s.takeSlot core quad) = some (a, t) → t.Canon := by
  grind [State.takeSlot, modWeave_canon, spillWeave_canon, State.Canon]

theorem execWeaveSlotGrant_canon (h : s.Canon) (core quad) : OutCanon (execWeaveSlotGrant core quad s) := by
  grind [execWeaveSlotGrant, takeSlot_canon, modWeave_canon, OutCanon]

theorem formWeave_canon (h : s.Canon) (pid core quad slot fs) :
    (s.formWeave pid core quad slot fs).2.Canon := by
  grind [State.formWeave, fresh_canon, modFibres_canon, checkpoint_canon, State.Canon]

theorem execRecastIssue_canon (h : s.Canon) (core quad) : OutCanon (execRecastIssue core quad s) := by
  grind [execRecastIssue, takeSlot_canon, formWeave_canon, OutCanon]

/-! ### Crews, barriers, FORK, CKPT and FENCE (11 R238 to R248) -/

theorem moveCrew_canon (h : s.Canon) (pid fs crew) : (s.moveCrew pid fs crew).Canon :=
  tryBar_canon (modFibres_canon h ..) _

theorem execCjoin_canon (h : s.Canon) (a l) : OutCanon (execCjoin a l s) := by
  unfold execCjoin
  refine groupOp_canon h (fun _ _ _ ht => ?_) (fun _ _ _ ht => noEngine_canon ht ..) _
  split
  · exact consume_canon ht _
  · split
    · exact trapG_canon ht ..
    · exact moveCrew_canon (after_canon ht ..) ..

theorem execCleave_canon (h : s.Canon) : OutCanon (execCleave s) :=
  groupOp_canon h (fun _ _ _ ht => moveCrew_canon (after_canon ht ..) ..) (fun _ _ _ ht => noEngine_canon ht ..) _

theorem execPbarr_canon (h : s.Canon) (a) : OutCanon (execPbarr a s) := by
  unfold execPbarr
  refine groupOp_canon h (fun _ _ _ ht => ?_) (fun _ _ _ ht => ?_) _
  · split
    · exact consume_canon ht _
    · split
      · exact trapG_canon ht ..
      · exact syncOp_canon ht (fun _ hu => after_canon (arriveBar_canon (modFibres_canon hu ..) ..) ..) _
  · split
    · exact consumeE_canon ht _
    · split
      · exact trapEngine_canon ht ..
      · exact afterEngine_canon (arriveBar_canon (modEngine_canon ht ..) ..) ..

theorem execPbwait_canon (h : s.Canon) (a p) : OutCanon (execPbwait a p s) := by
  grind [execPbwait, groupOp_canon, consume_canon, trapG_canon, waitPair_canon, stallWeave_canon, checkpoint_canon,
      after_canon, acquire_canon, consumeE_canon, trapEngine_canon, afterEngine_canon, acquireEngine_canon,
      stallEngine_canon, State.Canon, OutCanon]

theorem startEngine_canon (h : s.Canon) (pid p k pc arg mode clock) :
    (s.startEngine pid p k pc arg mode clock).Canon :=
  h

theorem execFork_canon (h : s.Canon) (a l) : OutCanon (execFork a l s) := by
  grind [execFork, groupOp_canon, trapG_canon, consume_canon, waitPair_canon, stallWeave_canon, startEngine_canon,
      modWeave_canon, modFibres_canon, checkpoint_canon, after_canon, noEngine_canon, State.Canon, foldl_canon,
      OutCanon]

theorem execHalt_canon (h : s.Canon) : OutCanon (execHalt s) := by
  refine groupOp_canon h (fun t _ _ ht => ht) (fun t e x ht => ?_) _
  grind [stallEngine_canon, engMismatch_canon, releaseEngine_canon, tryRdv_canon, endIfDone_canon, State.Canon]

theorem fenceFibres_canon (h : s.Canon) (pid fs dev) : (s.fenceFibres pid fs dev).Canon := by
  unfold State.fenceFibres
  refine modFibres_canon ?_ ..
  split <;> exact h

theorem fenceEngine_canon (h : s.Canon) (pid e dev) : (s.fenceEngine pid e dev).Canon := by
  unfold State.fenceEngine
  dsimp only
  split
  · exact releaseEngine_canon (releaseEngine_canon (modEngine_canon h ..) ..) ..
  · exact releaseEngine_canon (modEngine_canon h ..) ..

theorem fenceOp_canon (h : s.Canon) (i dev) : OutCanon (s.fenceOp i dev) :=
  groupOp_canon h (fun _ _ _ ht => syncOp_canon ht (fun _ hu => after_canon (fenceFibres_canon hu ..) ..) _) (fun _ _
    _ ht => afterEngine_canon (fenceEngine_canon ht ..) ..) _

theorem execCkpt_canon (h : s.Canon) : OutCanon (execCkpt s) := by
  unfold execCkpt
  refine groupOp_canon h (fun _ _ _ ht => ?_) (fun _ _ _ ht => noEngine_canon ht ..) _
  split
  · exact after_canon ht ..
  · split
    · exact waitPair_canon ht _
    · exact checkpoint_canon (after_canon ht ..) _

/-! ### Spawns, ranges, edges and signals (11 R230, R244 to R247) -/

theorem spawnNum_canon (h : s.Canon) (pid p rank) : ∀ a t, (s.spawnNum pid p rank) = some (a, t) → t.Canon := by
  grind [State.spawnNum, modTask_canon, modPair_canon, State.Canon]

theorem spawnOne_canon (h : s.Canon) (pid p f pc clock) : (s.spawnOne pid p f pc clock).2.Canon := by
  have drawn := spawnNum_canon h pid p f.rank
  unfold State.spawnOne
  extract_lets live
  split
  · split
    · exact h
    · split
      · next u _ hu =>
        dsimp only [State.fresh]
        refine clearStack_canon ?_ p _
        exact canon_of_mem (drawn _ u hu) rfl
      · exact h
  · exact h

theorem spawnAll_canon (pid p pc ls) (h : s.Canon) : (s.spawnAll pid p pc ls).2.Canon := by
  induction ls generalizing s with
  | nil => exact h
  | cons e ls ih =>
    unfold State.spawnAll
    exact ih (spawnOne_canon h ..)

theorem execFspawn_canon (h : s.Canon) (d a l) : OutCanon (execFspawn d a l s) := by
  unfold execFspawn
  refine groupOp_canon h (fun _ _ _ ht => ?_) (fun _ _ _ ht => noEngine_canon ht ..) _
  split
  · exact consume_canon ht _
  · exact syncOp_canon ht (fun _ hu => after_canon (pushLatch_canon (addPend_canon (mirrorCheck_canon (modFibres_canon
        (spawnAll_canon _ _ _ _ hu) ..) _) ..) ..) ..) _

theorem meet_canon (h : s.Canon) (c k pr op rank) : MeetCanon (Ctx.meet c s k pr op rank) := by
  grind [Ctx.meet, waitPair_canon, pairHold_canon, mismatch_canon, State.Canon, MeetCanon]

/-- A word that performs a task operation, alone or together with the other member of its pair. -/
theorem taskOp_canon (h : s.Canon) (c : Ctx) (op len rank tags stall sync yields)
    {perform : State → Pour → MemOp → TaskRes} (hp : ∀ t p o, t.Canon → TaskResCanon (perform t p o)) :
    (c.taskOp s op len rank tags stall sync yields perform).Canon := by
  unfold Ctx.taskOp
  extract_lets wait send
  have sent {t : State} (ht : t.Canon) (o res) : (send t o res).Canon := by
    cases res with
    | nil => exact ht
    | cons w ws => exact sendResult_canon ht ..
  clear_value send wait
  split
  · exact waitPair_canon h ..
  · exact stallWeave_canon h ..
  split
  · grind [TaskResCanon, trapWeave_canon, consume_canon, stallWeave_canon, hold_canon, passAccess_canon]
  · next k pr _ =>
    have met := meet_canon h c k pr op rank
    split
    · next t ht => exact met t ht
    split
    · exact h
    split
    · exact trapBoth_canon h ..
    · exact purgePour_canon h ..
    · exact stallWeave_canon h ..
    · split
      · exact stallWeave_canon h ..
      · exact holdBoth_canon h ..
    · next u res done => exact passPair_canon (sent (sent (modPair_canon (hp _ _ _ h u res done) ..) ..) ..) ..

theorem engMeet_canon (h : s.Canon) (e x data) : EngMeetCanon (s.engMeet e x data) := by
  grind [State.engMeet, modPair_canon, engMismatch_canon, stallEngine_canon, State.Canon, EngMeetCanon]

theorem takeChunk_canon (h : s.Canon) (p x) : TaskResCanon (s.takeChunk p x) := by
  grind [State.takeChunk, modPart_canon, State.Canon, TaskResCanon]

theorem execRnext_canon (h : s.Canon) (d) : OutCanon (execRnext d s) := by
  grind [execRnext, groupOp_canon, trapG_canon, taskOp_canon, takeChunk_canon, noEngine_canon, State.Canon,
      TaskResCanon, OutCanon]

theorem putEdge_canon (h : s.Canon) (key e) : (s.putEdge key e).Canon := wf_store h ..

theorem edgePush_canon (h : s.Canon) (p op) : TaskResCanon (s.edgePush p op) := by
  unfold State.edgePush
  grind [touch_canon, cacheAll_canon, wf_storeAt, sign_canon, putEdge_canon, releaseOp_canon, State.Canon,
      TaskResCanon]

theorem edgeTake_canon (h : s.Canon) (p a) : TaskResCanon (s.edgeTake p a) := by
  grind [State.edgeTake, touchLoc_canon, touch_canon, cacheAll_canon, putEdge_canon, State.Canon, TaskResCanon]

theorem edgePop_canon (h : s.Canon) (p op) : TaskResCanon (s.edgePop p op) := by
  grind [State.edgePop, edgeTake_canon, setSync_canon, acquireOp_canon, State.Canon, TaskResCanon]

theorem execEpush_canon (h : s.Canon) (a b) : OutCanon (execEpush a b s) := by
  grind [execEpush, groupOp_canon, consume_canon, taskOp_canon, edgePush_canon, noEngine_canon, State.Canon,
      TaskResCanon, OutCanon]

theorem execEpop_canon (h : s.Canon) (d a) : OutCanon (execEpop d a s) := by
  grind [execEpop, groupOp_canon, consume_canon, taskOp_canon, edgePop_canon, noEngine_canon, State.Canon,
      TaskResCanon, OutCanon]

theorem spawnRecord_canon (h : s.Canon) (p bs) : ∀ a t, (s.spawnRecord p bs) = some (a, t) → t.Canon := by
  grind [State.spawnRecord, enter_canon, State.Canon]

theorem taskSpawn_canon (h : s.Canon) (p op) : TaskResCanon (s.taskSpawn p op) := by
  have read := perform_canon h p op
  have enters {t : State} (ht : t.Canon) (bs w u) (hu : ({ t with free := t.free + 1 } : State).spawnRecord p bs =
      some (w, u)) : u.Canon :=
    spawnRecord_canon (canon_of_mem (t := { t with free := t.free + 1 }) ht rfl) p bs w u hu
  intro t ws
  unfold State.taskSpawn
  split
  · nofun
  extract_lets glob cause
  split
  · nofun
  split
  · nofun
  · nofun
  · nofun
  next s2 res hs2 =>
    have read2 : s2.Canon := read s2 res hs2
    grind [recordAcc_canon, twinLines_canon]

theorem execTspawn_canon (h : s.Canon) (d a) : OutCanon (execTspawn d a s) := by
  refine groupOp_canon h (fun t c x ht => ?_) (fun t e x ht => ?_) _
  · grind [consume_canon, taskOp_canon, taskSpawn_canon]
  · split
    · exact trapEngine_canon ht ..
    extract_lets a l glob
    split
    · exact trapEngine_canon ht ..
    split
    · exact trapEngine_canon ht ..
    have read := touchLoc_canon ht l 64 false
    have enters {v : State} (hv : v.Canon) (n bs w y) :
        ({ v.cacheAll x.p [a] with free := n } : State).spawnRecord x.p bs = some (w, y) → y.Canon :=
      spawnRecord_canon (canon_of_mem (t := { v.cacheAll x.p [a] with free := n }) (cacheAll_canon hv ..) rfl) x.p bs
          w y
    grind [trapEngine_canon, addPend_canon, afterEngine_canon, reportFault_canon, stallEngine_canon, consumeE_canon,
        engMeet_canon, EngMeetCanon]

theorem taskSignal_canon (h : s.Canon) (p op) : TaskResCanon (s.taskSignal p op) := by
  grind [State.taskSignal, modFibres_canon, sign_canon, signal_canon, State.Canon, TaskResCanon]

theorem execTsig_canon (h : s.Canon) (a b l) : OutCanon (execTsig a b l s) := by
  grind [execTsig, groupOp_canon, consume_canon, taskOp_canon, taskSignal_canon, consumeE_canon, afterEngine_canon,
      modEngine_canon, engMeet_canon, signal_canon, State.Canon, TaskResCanon, EngMeetCanon, OutCanon]

theorem replayShld_canon (h : s.Canon) (p w n) : (s.replayShld p w n).Canon := by
  grind [State.replayShld, perform_canon, trapHeld_canon, purgePour_canon, dropHeld_canon, reHold_canon,
      keepHeld_canon, modPour_canon, State.Canon, AccResCanon]

theorem replayTask_canon (h : s.Canon) {perform : State → Pour → MemOp → TaskRes}
    (hperform : ∀ t x y, t.Canon → (TaskResCanon (perform t x y))) (p w) :
    (s.replayTask p w perform).Canon := by
  grind [State.replayTask, trapHeld_canon, purgePour_canon, dropHeld_canon, reHold_canon, keepHeld_canon,
      finishHeld_canon, checkpoint_canon, fillPend_canon, State.Canon, TaskResCanon]

/-- A held operation that is tried again (22 R392). -/
theorem replayAny_canon (h : s.Canon) (w) : (s.replayAny w).Canon := by
  grind [State.replayAny, dropHeld_canon, replayShld_canon, replayTask_canon, edgePush_canon, edgePop_canon,
      taskSpawn_canon, replay_canon, State.Canon, TaskResCanon]

theorem retryHeld_canon (h : s.Canon) (now) : (s.retryHeld now).Canon := by
  unfold State.retryHeld
  refine foldl_canon (fun _ _ ht => ?_) _ h
  split
  · exact replayAny_canon ht _
  · exact ht

/-! ### The matrix path (13 R279 to R295) -/

theorem modTile_canon (h : s.Canon) (core n g) : (s.modTile core n g).Canon := h

theorem spillTile_canon (h : s.Canon) (core n t) : (s.spillTile core n t).Canon := by
  unfold State.spillTile
  split
  · exact h
  · split
    · exact h
    · exact writeUnder_canon (writeUnder_canon (modPart_canon h ..) ..) ..

/-- A fill reads the tile's image and writes no memory of its own (13 R295). -/
theorem fillTile_canon (h : s.Canon) (core n o) : (s.fillTile core n o).Canon := by
  unfold State.fillTile
  dsimp only
  split
  · exact h
  · exact modPart_canon (modTile_canon (touch_canon h ..) ..) ..

theorem ownTile_canon (h : s.Canon) (part core n) : (s.ownTile part core n).Canon := by
  unfold State.ownTile
  dsimp only
  split
  · exact h
  · exact fillTile_canon (spillTile_canon h ..) ..

theorem eccError_canon (h : s.Canon) (e hard) : (s.eccError e hard).Canon := by
  unfold State.eccError
  grind [wf_setPoison, modCore_canon, wf_setFlips, rasAdd_canon, modTile_canon, State.Canon]

theorem ownTiles_canon (h : s.Canon) (part core first count) : (s.ownTiles part core first count).Canon :=
  foldl_canon (fun _ _ ht => ownTile_canon ht ..) _ h

theorem sendMat_canon (h : s.Canon) (core e len m) : (s.sendMat core e len m).Canon := h

theorem execMldw_canon (h : s.Canon) (a b l) : OutCanon (execMldw a b l s) := by
  unfold execMldw
  refine groupOp_canon h (fun _ _ _ ht => ht) (fun _ _ _ ht => ?_) _
  split
  · exact ht
  · split
    · exact consumeE_canon ht _
    · split
      · exact trapEngine_canon ht ..
      · exact ht

theorem mmulIssue_canon (h : s.Canon) (i d a b l resume) : OutCanon (s.mmulIssue i d a b l resume) := by
  refine groupOp_canon h (fun _ _ _ ht => ht) (fun t e x ht => ?_) _
  grind [stallEngine_canon, consumeE_canon, trapEngine_canon, sendMat_canon, touch_canon, modBar_canon,
      ownTiles_canon]

theorem execMzero_canon (h : s.Canon) (d l) : OutCanon (execMzero d l s) := by
  unfold execMzero
  refine groupOp_canon h (fun _ _ _ ht => ht) (fun _ _ _ ht => ?_) _
  split
  · exact ht
  · split
    · exact trapEngine_canon ht ..
    · exact afterEngine_canon (foldl_canon (fun _ _ hu => modTile_canon hu ..) _ (ownTiles_canon ht ..)) ..

theorem matDone_canon (h : s.Canon) (core) : (s.matDone core).Canon := h

theorem execMldwCompletion_canon (h : s.Canon) (core) : OutCanon (execMldwCompletion core s) := by
  unfold execMldwCompletion
  split
  · exact h
  · split
    · refine matDone_canon ?_ _
      refine modEngine_canon ?_ ..
      split
      · exact touch_canon (touch_canon h ..) ..
      · exact touch_canon h ..
    · exact h

theorem touchActs_canon (h : s.Canon) (p c d want) : (s.touchActs p c d want).Canon := by
  unfold State.touchActs
  split
  · exact h
  · exact foldl_canon (fun _ _ ht => touchPlace_canon ht ..) _ h

theorem applyChunk_canon (h : s.Canon) (core m w c k as) : (s.applyChunk core m w c k as).Canon :=
  foldl_canon (fun _ _ ht => foldl_canon (fun _ _ hu => modTile_canon hu ..) _ ht) _ h

theorem chunks_canon (core p m w n k) (h : s.Canon) : MmulResCanon (s.chunks core p m w n k) := by
  induction n generalizing s k with
  | zero => grind [State.chunks, MmulResCanon]
  | succ n ih => grind [State.chunks, touchActs_canon, applyChunk_canon, MmulResCanon]

theorem runMmul_canon (h : s.Canon) (core m p) {r} (hr : s.runMmul core m p = some r) : MmulResCanon r := by
  unfold State.runMmul at hr
  split at hr
  · cases hr
  · obtain ⟨w, -, rfl⟩ := Option.map_eq_some_iff.mp hr
    exact chunks_canon core p m w _ _ (ownTiles_canon h ..)

theorem matWait_canon (h : s.Canon) (core m chunk f) : (s.matWait core m chunk f).Canon := h

theorem execMmulCompletion_canon (h : s.Canon) (core) : OutCanon (execMmulCompletion core s) := by
  have ran (m p r) := runMmul_canon (r := r) h core m p
  grind [execMmulCompletion, MmulResCanon, arriveBar_canon, matDone_canon, matWait_canon, State.Canon, OutCanon]

theorem execMmulErrorCompletion_canon (h : s.Canon) (core) : OutCanon (execMmulErrorCompletion core s) := by
  have ran (m p r) := runMmul_canon (r := r) h core m p
  grind [execMmulErrorCompletion, MmulResCanon, modBar_canon, modEngine_canon, matDone_canon, reportFault_canon,
      State.Canon, OutCanon]

theorem pairDrain_canon (h : s.Canon) (core m) : (s.pairDrain core m).Canon := by
  grind [State.pairDrain, modCore_canon, engMismatch_canon, State.Canon]

theorem execMdrain_canon (h : s.Canon) (d a) : OutCanon (execMdrain d a s) := by
  refine groupOp_canon h (fun _ _ _ ht => ht) (fun t e x ht => ?_) _
  grind [stallEngine_canon, consumeE_canon, trapEngine_canon, sendMat_canon, touch_canon, ownTiles_canon,
      reportFault_canon, addPend_canon, pairDrain_canon]

theorem writeRow_canon (p b here i es n g) (h : s.Canon) : (s.writeRow p b here i es n g).1.Canon := by
  induction n generalizing s g with
  | zero => exact h
  | succ n ih => grind [State.writeRow, touchPart_canon, touchTags_canon, wf_storeAt, wf_setPoison, State.Canon]

theorem writeScales_canon (core p m b qs) (h : s.Canon) : (s.writeScales core p m b qs).s.Canon := by
  induction qs generalizing s with
  | nil => exact h
  | cons q qs ih => grind [State.writeScales, touch_canon, wf_store, wf_setPoison, State.Canon]

theorem writeStrips_canon (h : s.Canon) (m b i es) : (s.writeStrips m b i es).Canon := by
  unfold State.writeStrips
  split
  · exact h
  · split
    · exact h
    · refine foldl_canon (fun _ _ ht => ?_) _ h
      split
      · exact ht
      · dsimp only
        split <;> exact ht

theorem writeRows_canon (t core p m b n i) {d : Drained} (h : d.s.Canon) :
    (State.writeRows t core p m b n i d).s.Canon := by
  induction n generalizing d i with
  | zero => exact h
  | succ n ih => grind [State.writeRows, writeStrips_canon, writeRow_canon]

/-- A drain writes its rows and its scales as far as it comes (13 R290). -/
theorem runDrain_canon (h : s.Canon) (core p m) : (s.runDrain core p m).s.Canon := by
  grind [State.runDrain, ownTiles_canon, touch_canon, writeScales_canon, writeRows_canon, State.Canon]

theorem escalate_canon (h : s.Canon) (sv ref here core part rtag tile) :
    (s.escalate sv ref here core part rtag tile).Canon := by
  unfold State.escalate
  refine modDev_canon ?_ _
  split <;> exact h

theorem drainStatus_canon (h : s.Canon) (core p m) : (s.drainStatus core p m).Canon := by
  grind [State.drainStatus, touch_canon, wf_store, escalate_canon, modDev_canon, State.Canon]

theorem drainErr_canon (h : s.Canon) (p m code) : (s.drainErr p m code).Canon := by
  unfold State.drainErr
  split
  · exact h
  · exact wf_store h ..

theorem endDrainPend_canon (h : s.Canon) (m) : (s.endDrainPend m).Canon := by
  unfold State.endDrainPend
  split <;> exact h

theorem drainBar_canon (h : s.Canon) (p m code rows) : (s.drainBar p m code rows).Canon := by
  unfold State.drainBar
  dsimp only
  split
  · exact h
  · split
    · exact arriveBar_canon h ..
    · exact modBar_canon h ..

theorem endDrain_canon (h : s.Canon) (core p m code rows) : (s.endDrain core p m code rows).Canon := by
  grind [State.endDrain, drainStatus_canon, drainErr_canon, matDone_canon, endDrainPend_canon, drainBar_canon,
      wf_store, State.Canon]

theorem execMdrainCompletion_canon (h : s.Canon) (core) : OutCanon (execMdrainCompletion core s) := by
  grind [execMdrainCompletion, runDrain_canon, reportFault_canon, matWait_canon, endDrain_canon, countConv_canon,
      State.Canon, OutCanon]

theorem execMdrainErrorCompletion_canon (h : s.Canon) (core) : OutCanon (execMdrainErrorCompletion core s) := by
  grind [execMdrainErrorCompletion, runDrain_canon, endDrain_canon, countConv_canon, State.Canon, OutCanon]

theorem firmwareOp_canon (h : s.Canon) {body : Nat → Nat → Nat → Out} (hb : ∀ c p a, OutCanon (body c p a)) (i a) :
    OutCanon (s.firmwareOp i a body) := by
  unfold State.firmwareOp
  split
  · extract_lets pa
    generalize pa + 100480 = last
    split
    · trivial
    split
    · trivial
    · exact hb ..
  · exact groupOp_canon h (fun _ _ _ ht => ht) (fun _ _ _ ht => ht) _

theorem execMspill_canon (h : s.Canon) (d a) : OutCanon (execMspill d a s) := by
  grind [execMspill, firmwareOp_canon, wf_store, State.Canon, OutCanon]

theorem execMfill_canon (h : s.Canon) (d a) : OutCanon (execMfill d a s) := by
  grind [execMfill, firmwareOp_canon, touch_canon, modTile_canon, State.Canon, OutCanon]

/-! ### The image of a context (22 R396) -/

theorem writeArea_canon (h : s.Canon) (part pa bs) : (s.writeArea part pa bs).Canon :=
  foldl_canon (fun _ _ ht => writeCtx_canon ht ..) _ h

/-- The image of a context: its header, then pour by pour (22 R396). -/
theorem writeImage_canon (h : s.Canon) (part) : (s.writeImage part).Canon := by
  unfold State.writeImage
  extract_lets q save ps cs t recs slots u
  have touched : t.Canon := foldl_canon (fun v e hv => touch_canon hv _ _) ps h
  refine List.foldlRecOn (motive := fun a : State × Nat => a.1.Canon) _ _ (writeCtx_canon (writeCtx_canon touched ..)
      ..) fun a ha r _ => ?_
  grind [writeCtx_canon, writeArea_canon]

theorem touchArea_canon (h : s.Canon) (part pa n) : (s.touchArea part pa n).Canon := by
  unfold State.touchArea
  split
  · exact touch_canon h ..
  · exact h

theorem readScratch_canon (h : s.Canon) (p bs po) : (s.readScratch p bs po).Canon :=
  wf_foldl (fun _ _ ht => wf_setPoison ht ..) _ (wf_foldl (fun _ _ ht => wf_setTag ht ..) _ (wf_store h ..))

theorem readSection_canon (h : s.Canon) (pid p i bs po) : (s.readSection pid p i bs po).Canon := by
  unfold State.readSection
  dsimp only
  split
  · exact h
  · exact h
  · exact readScratch_canon h ..
  · exact foldl_canon (fun _ _ ht => modWeave_canon ht ..) _ h
  · exact foldl_canon (fun _ _ ht => modFibre_canon ht ..) _ h
  · exact h
  · exact foldl_canon (fun _ _ ht => modCmd_canon ht ..) _ h
  · exact h

theorem readPour_canon (h : s.Canon) (pid pa) : (s.readPour pid pa).Canon := by
  unfold State.readPour
  split
  · exact h
  · refine List.foldlRecOn (motive := fun a : State × Nat => a.1.Canon) _ _ h fun a ha e _ => ?_
    grind [touchArea_canon, readSection_canon]

theorem readImage_canon (h : s.Canon) (part) : (s.readImage part).Canon := by
  unfold State.readImage
  refine foldl_canon (fun _ _ ht => ?_) _ ?_
  · split
    · exact ht
    · dsimp only
      split <;> exact touchArea_canon ht ..
  · refine foldl_canon (fun _ _ ht => ?_) _ (touchArea_canon h ..)
    split
    · exact readPour_canon ht ..
    · exact ht

/-! ### The Crucible set (14 R305 to R316) -/

theorem cruHalt_canon (h : s.Canon) (k cause) : (s.cruHalt k cause).Canon := by
  unfold State.cruHalt
  split
  · exact h
  · exact purge_canon (modCore_canon (causeCode_canon h _) ..) ..

theorem cruStall_canon (h : s.Canon) (k kind fault) : (s.cruStall k kind fault).Canon := h

theorem cruWait_canon (h : s.Canon) (k va write) : (s.cruWait k va write).Canon := by
  unfold State.cruWait
  split
  · exact h
  · exact cruStall_canon (reportFault_canon h ..) ..

theorem cruNext_canon (h : s.Canon) (k g) : (s.cruNext k g).Canon := h

theorem cruOp_canon (h : s.Canon) {body : State → Nat → Crucible → State}
    (hbody : ∀ t x y, t.Canon → (body t x y).Canon) (bad badOp reads) :
    OutCanon (s.cruOp bad badOp reads body) := by
  unfold State.cruOp
  split
  · split
    · exact h
    · split
      · exact cruHalt_canon h ..
      · split
        · exact cruHalt_canon h ..
        · split
          · exact cruHalt_canon h ..
          · exact hbody _ _ _ h
  · exact h

theorem cruAccess_canon (h : s.Canon) {body : State → List Place → State}
    (hbody : ∀ t x, t.Canon → (body t x).Canon) (k c as write) :
    (s.cruAccess k c as write body).Canon := by
  unfold State.cruAccess
  split
  · exact cruHalt_canon h ..
  · split
    · exact cruHalt_canon h ..
    · exact cruWait_canon h ..
    · split
      · exact h
      · refine hbody _ _ ?_
        refine foldl_canon (fun _ _ ht => ?_) _ h
        split
        · exact cached_canon ht ..
        · exact ht

theorem cruStore_canon (h : s.Canon) (pl here bs poison) : (s.cruStore pl here bs poison).Canon := by
  unfold State.cruStore
  split
  · refine wf_foldl (fun _ _ ht => ?_) _ ?_
    · split
      · exact wf_setTag ht ..
      · exact ht
    · refine wf_foldl (fun _ _ ht => ?_) _ (wf_store (touchPart_canon h ..) ..)
      split
      · exact wf_setPoison ht ..
      · exact ht
  · refine wf_foldl (fun _ _ ht => ?_) _ (wf_store (touchPart_canon h ..) ..)
    split
    · exact wf_setPoison ht ..
    · exact ht

theorem cruScalar_canon (h : s.Canon) (d reads f) : OutCanon (s.cruScalar d reads f) :=
  cruOp_canon h (fun _ _ _ ht => cruNext_canon ht ..) ..

theorem execCldc_canon (h : s.Canon) (d a i) : OutCanon (execCldc d a i s) := by
  unfold execCldc
  refine cruOp_canon h (fun _ _ _ ht => ?_) ..
  refine cruAccess_canon ht (fun _ _ hu => ?_) ..
  split
  · exact cruNext_canon (touch_canon hu ..) ..
  · exact hu

theorem cruJump_canon (h : s.Canon) (k o) : (s.cruJump k o).Canon := h

theorem execCbnz_canon (h : s.Canon) (a o) : OutCanon (execCbnz a o s) := by
  unfold execCbnz
  refine cruOp_canon h (fun _ _ _ ht => ?_) ..
  split <;> exact ht

theorem execCjmp_canon (h : s.Canon) (o) : OutCanon (execCjmp o s) :=
  cruOp_canon h (fun _ _ _ ht => cruJump_canon ht ..) ..

theorem execCldy_canon (h : s.Canon) (d a b sv f) : OutCanon (execCldy d a b sv f s) := by
  unfold execCldy
  refine cruOp_canon h (fun _ _ _ ht => ?_) ..
  refine cruAccess_canon ht (fun _ _ hu => ?_) ..
  split
  · exact cruNext_canon (foldl_canon (fun _ _ hu => touch_canon hu ..) _ (touch_canon hu ..)) ..
  · exact hu

theorem execCsty_canon (h : s.Canon) (d a b m sv f) : OutCanon (execCsty d a b m sv f s) := by
  unfold execCsty
  refine cruOp_canon h (fun _ _ _ ht => ?_) ..
  refine cruAccess_canon ht (fun _ _ hu => ?_) ..
  split
  · exact cruNext_canon (countConv_canon (cruStore_canon (foldl_canon (fun _ _ hu => cruStore_canon hu ..) _ hu) ..)
        ..) ..
  · exact hu

theorem cruRow_canon (h : s.Canon) (bad d srcs f) : OutCanon (s.cruRow bad d srcs f) :=
  cruOp_canon h (fun _ _ _ ht => cruNext_canon ht ..) ..

theorem execCsplat_canon (h : s.Canon) (d a) : OutCanon (execCsplat d a s) :=
  cruOp_canon h (fun _ _ _ ht => cruNext_canon ht ..) ..

theorem execCcvt_canon (h : s.Canon) (d a b m f) : OutCanon (execCcvt d a b m f s) := by
  unfold execCcvt
  exact cruOp_canon h (fun _ _ _ ht => cruNext_canon (countConv_canon ht ..) ..) ..

theorem cruScatter_canon (k c b d fm cs n i) (h : s.Canon) : (s.cruScatter k c b d fm cs n i).Canon := by
  induction n generalizing s i with
  | zero => exact cruNext_canon h ..
  | succ n ih => grind [State.cruScatter, modCrucible_canon, cruWait_canon, cached_canon, cruStore_canon,
      cruHalt_canon]

theorem execCpair_canon (h : s.Canon) (d a b m f) : OutCanon (execCpair d a b m f s) := by
  unfold execCpair
  refine cruOp_canon h (fun _ _ _ ht => ?_) ..
  dsimp only
  split
  · exact cruHalt_canon ht ..
  · split
    · exact cruScatter_canon _ _ _ _ _ _ _ _ ht
    · refine cruAccess_canon ht (fun _ _ hu => ?_) ..
      split
      · exact cruScatter_canon _ _ _ _ _ _ _ _ (countConv_canon (cruStore_canon hu ..) ..)
      · exact hu

theorem execCepop_canon (h : s.Canon) (d a) : OutCanon (execCepop d a s) := by
  grind [execCepop, cruOp_canon, edgeTake_canon, cruHalt_canon, cruWait_canon, cruStall_canon, cruNext_canon,
      setSync_canon, State.Canon, TaskResCanon, OutCanon]

theorem execCtsig_canon (h : s.Canon) (a b) : OutCanon (execCtsig a b s) :=
  cruOp_canon h (fun _ _ _ ht => cruNext_canon (signal_canon ht ..) ..) ..

theorem execChalt_canon (h : s.Canon) : OutCanon (execChalt s) := by
  grind [execChalt, cruOp_canon, setSync_canon, modTask_canon, endTask_canon, State.Canon, OutCanon]

theorem execCfence_canon (h : s.Canon) : OutCanon (execCfence s) :=
  cruOp_canon h (fun _ _ _ ht => cruNext_canon (setSync_canon ht ..) ..) ..

/-! ### Placement (03 R65 to R71) -/

theorem ctxTouch_canon (h : s.Canon) (part a n) : (s.ctxTouch part a n).Canon := by
  unfold State.ctxTouch
  split
  · exact h
  · refine foldl_canon (fun _ _ ht => ?_) _ h
    split
    · exact touchWalk_canon (touchLoc_canon ht ..) ..
    · exact ht

theorem placedAt_canon (h : s.Canon) (part lvl) : (s.placedAt part lvl).Canon := h

/-- Each fibre that a pour makes clears the tags of its stack. -/
theorem makeFibres_canon (pid p clock n r) (h : s.Canon) {t} (ht : s.makeFibres pid p clock n r = some t) :
    t.Canon := by
  induction n generalizing s r with
  | zero =>
    cases ht
    exact h
  | succ n ih =>
    unfold State.makeFibres at ht
    extract_lets at ht
    split at ht
    · refine ih _ (clearStack_canon ?_ ..) ht
      exact h
    · cases ht

/-- A core that takes a pour answers a canonical state. -/
theorem tryCore_canon (h : s.Canon) (tid t hd k pair core) :
    ∀ a u, s.tryCore tid t hd k pair core = some (a, u) → u.Canon := by
  intro a u hu
  unfold State.tryCore at hu
  extract_lets s1 n at hu
  have checked : s1.Canon := mirrorCheck_canon h core
  split at hu
  · obtain ⟨v, made, hv⟩ := Option.map_eq_some_iff.mp hu
    cases hv
    refine makeFibres_canon _ _ _ _ _ ?_ made
    exact canon_of_mem checked rfl
  · cases hu

/-- What a choice among candidates takes is one of them. -/
theorem foldl_choice_mem {α : Type} {f : Option α → α → Option α} (hf : ∀ b e, f b e = some e ∨ f b e = b)
    (l : List α) {x : α} (hx : l.foldl f none = some x) :
    x ∈ l := by
  have kept : ∀ y, l.foldl f none = some y → y ∈ l :=
    List.foldlRecOn (motive := fun b => ∀ y, b = some y → y ∈ l) l f nofun fun b hb e he y hy => by
      rcases hf b e with new | old
      · rw [new] at hy
        cases hy
        exact he
      · exact hb y (old ▸ hy)
  exact kept x hx

/-- The core that placement chooses is one that took the pour. -/
theorem placeOn_canon (h : s.Canon) (tid t hd k pair but) :
    ∀ a b u, s.placeOn tid t hd k pair but = some (a, b, u) → u.Canon := by
  intro a b u hu
  obtain ⟨e, chosen, he⟩ := Option.map_eq_some_iff.mp hu
  cases he
  have cand := foldl_choice_mem (by grind) _ chosen
  obtain ⟨c, -, hc⟩ := List.mem_filterMap.mp cand
  split at hc
  · cases hc
  · obtain ⟨r, tried, rfl⟩ := Option.map_eq_some_iff.mp hc
    exact tryCore_canon h tid t hd k pair c r.1 r.2 tried

theorem launch_canon (h : s.Canon) (pid) : (s.launch pid).Canon := by
  unfold State.launch
  split
  · exact h
  · exact mirrorCheck_canon (foldl_canon (fun _ _ ht => formWeave_canon ht ..) _ h) _

theorem assayPour_canon (h : s.Canon) (tid t pid core) : (s.assayPour tid t pid core).Canon := by
  grind [State.assayPour, modPart_canon, modPour_canon, State.Canon]

theorem failPlacement_canon (h : s.Canon) (tid t) : (s.failPlacement tid t).Canon :=
  purge_canon (endTask_canon h ..) ..

theorem notePlaced_canon (h : s.Canon) (tid t hdr unit) : (s.notePlaced tid t hdr unit).Canon := by
  unfold State.notePlaced
  dsimp only
  split
  · split <;> exact h
  · exact h

theorem placeInstance_canon (h : s.Canon) (tid t hdr) : (s.placeInstance tid t hdr).Canon := h

theorem placePour_canon (h : s.Canon) (tid t hd) : ∀ u, s.placePour tid t hd = some u → u.Canon := by
  intro u hu
  unfold State.placePour at hu
  split at hu
  · dsimp only [State.fresh] at hu
    split at hu
    · cases hu
    next c lead s1 first =>
      have led : s1.Canon := placeOn_canon (canon_of_mem (t := { s with nextId := s.nextId + 1 }) h rfl) _ _ _ _ _ _ _
          _ _ first
      split at hu
      · cases hu
      next c' trail s2 second =>
        cases hu
        have paired := placeOn_canon led _ _ _ _ _ _ _ _ _ second
        refine launch_canon (launch_canon ?_ _) _
        exact canon_of_mem paired rfl
  · split at hu
    · cases hu
    next c pid s1 placed =>
      cases hu
      exact assayPour_canon (launch_canon (placeOn_canon h _ _ _ _ _ _ _ _ _ placed) _) ..

theorem block_canon (h : s.Canon) (part tid) : (s.block part tid).Canon := h

theorem placeHead_canon (h : s.Canon) (lvl tid t) : (s.placeHead lvl tid t).Canon := by
  have placed {u : State} (hu : u.Canon) (hd r) : ((u.notePlaced tid t hd r).placedAt t.part lvl).Canon :=
    placedAt_canon (notePlaced_canon hu ..) ..
  unfold State.placeHead
  extract_lets first hdr unit
  clear_value hdr unit
  split
  · exact block_canon h ..
  split
  · exact failPlacement_canon h ..
  split
  · exact failPlacement_canon h ..
  split
  · exact placed (placeInstance_canon h ..) ..
  split
  · exact block_canon h ..
  · next hu => exact placed (placePour_canon h _ _ _ _ hu) ..

theorem execPlacement_canon (h : s.Canon) (part) : OutCanon (execPlacement part s) := by
  unfold execPlacement
  split
  · exact h
  · split
    · exact h
    · dsimp only
      split
      · exact h
      · exact placeHead_canon (foldl_canon (fun _ _ ht => ctxTouch_canon ht ..) _ h) ..

/-! ### Arrivals on the fabric (08 R174, 22 R390) -/

theorem touchPut_canon (left ps) (h : s.Canon) : (s.touchPut left ps).Canon := by
  induction ps generalizing s left with
  | nil => exact h
  | cons pl ps ih => exact ih _ (touchPart_canon h ..)

theorem send_canon (h : s.Canon) (m) : (s.send m).Canon := h

theorem landPut_canon (h : s.Canon) (part p) : (s.landPut part p).Canon := by
  grind [State.landPut, send_canon, reportFault_canon, modPart_canon, touchPut_canon, wf_landGranules, State.Canon]

theorem execPutArrival_canon (h : s.Canon) (part p) : OutCanon (execPutArrival part p s) := landPut_canon h ..

theorem landWaiting_canon (h : s.Canon) (part fault fatal) : (s.landWaiting part fault fatal).Canon := by
  unfold State.landWaiting
  refine foldl_canon (fun _ _ ht => ?_) _ (modPart_canon h ..)
  split
  · exact ht
  · exact landPut_canon ht ..

theorem execFabricReadRequest_canon (h : s.Canon) (part win off len) :
    OutCanon (execFabricReadRequest part win off len s) := by
  unfold execFabricReadRequest
  split
  · exact h
  · split
    · exact h
    · dsimp only
      split
      · split <;> exact h
      · exact send_canon (foldl_canon (fun _ _ ht => touchLoc_canon ht ..) _ h) _

theorem execPurgeMessageReceived_canon (h : s.Canon) (port rtag) :
    OutCanon (execPurgeMessageReceived port rtag s) := by
  unfold execPurgeMessageReceived
  split
  · exact h
  · exact purgeHere_canon (notePurge_canon h ..) ..

theorem execRefreshWindowOpen_canon (h : s.Canon) (group) : OutCanon (execRefreshWindowOpen group s) := h

theorem execRefreshWindowClose_canon (h : s.Canon) (group) : OutCanon (execRefreshWindowClose group s) := by
  unfold execRefreshWindowClose
  split <;> exact h

theorem execMirrorCopyDone_canon (h : s.Canon) (core) : OutCanon (execMirrorCopyDone core s) := by
  unfold execMirrorCopyDone
  split <;> exact h

/-! ### Host registers (21 R361 to R369, 22 R388 to R392) -/

theorem execAppendPortCommit_canon (h : s.Canon) (part pf queue off data) :
    OutCanon (execAppendPortCommit part pf queue off data s) := by
  grind [execAppendPortCommit, modPart_canon, enter_canon, msix_canon, State.Canon, OutCanon]

theorem emptyRing_canon (h : s.Canon) (part queue) : (s.emptyRing part queue).Canon := h

theorem execQcfgWrite_canon (h : s.Canon) (part queue v) : OutCanon (execQcfgWrite part queue v s) := by
  grind [execQcfgWrite, modPart_canon, emptyRing_canon, State.Canon, OutCanon]

theorem execHostSignal_canon (h : s.Canon) (part v) : OutCanon (execHostSignal part v s) := signal_canon h ..

theorem execWeightStoreCopy_canon (h : s.Canon) (part v) : OutCanon (execWeightStoreCopy part v s) := by
  grind [execWeightStoreCopy, modPart_canon, State.Canon, OutCanon]

theorem wsCopy_canon (part src dst n) (h : s.Canon) : (s.wsCopy part src dst n).1.Canon := by
  induction n generalizing s src dst with
  | zero => exact h
  | succ n ih =>
    unfold State.wsCopy
    extract_lets ks keys t bs m
    have read : t.Canon := by
      unfold t
      split
      · exact h
      · exact foldl_canon (fun u k hu => touch_canon hu k 8) _ h
    split
    · exact h
    · exact ih _ _ (wf_storePoison read ..)

theorem execWeightStoreCopyDone_canon (h : s.Canon) (part) : OutCanon (execWeightStoreCopyDone part s) := by
  unfold execWeightStoreCopyDone
  dsimp only
  split
  · exact h
  · exact modPart_canon (wsCopy_canon _ _ _ _ h) ..

theorem execBindWrite_canon (h : s.Canon) (vf v) : OutCanon (execBindWrite vf v s) := by
  unfold execBindWrite
  split
  · exact h
  · dsimp only
    split
    · exact h
    · split
      · refine modDev_canon ?_ _
        split <;> exact h
      · exact h

theorem execPortsWrite_canon (h : s.Canon) (part v) : OutCanon (execPortsWrite part v s) := by
  unfold execPortsWrite
  dsimp only
  split <;> exact h

theorem execEscpopRead_canon (h : s.Canon) (width) : OutCanon (execEscpopRead width s) := by
  unfold execEscpopRead
  dsimp only
  split
  · exact h
  · split <;> exact h

theorem execSuspopRead_canon (h : s.Canon) (width) : OutCanon (execSuspopRead width s) := by
  unfold execSuspopRead
  dsimp only
  split
  · exact h
  · split <;> exact h

theorem execFunctionLevelReset_canon (h : s.Canon) (vf) : OutCanon (execFunctionLevelReset vf s) := by
  unfold execFunctionLevelReset
  dsimp only
  split
  · exact h
  · exact modPart_canon (foldl_canon (fun _ _ ht => purgeTag_canon (notePurge_canon ht ..) ..) _ h) ..

theorem execKeysetWrite_canon (h : s.Canon) (v) : OutCanon (execKeysetWrite v s) := h

theorem execInvalidation_canon (h : s.Canon) (part v) : OutCanon (execInvalidation part v s) := by
  unfold execInvalidation
  dsimp only
  split <;> exact h

theorem execInvalidationDone_canon (h : s.Canon) (part) : OutCanon (execInvalidationDone part s) := by
  unfold execInvalidationDone
  split <;> exact h

theorem execWinregWrite_canon (h : s.Canon) (part v) : OutCanon (execWinregWrite part v s) := by
  unfold execWinregWrite
  dsimp only
  split
  · exact h
  · split
    · exact h
    · split <;> exact h

theorem execSndregWrite_canon (h : s.Canon) (part v) : OutCanon (execSndregWrite part v s) := by
  unfold execSndregWrite
  dsimp only
  split
  · exact h
  · split <;> exact h

theorem answer_canon (h : s.Canon) (part f fatal) : (s.answer part f fatal).Canon := by
  unfold State.answer
  dsimp only
  split
  · exact foldl_canon (fun _ _ ht => purge_canon ht ..) _ (landWaiting_canon (modPart_canon h ..) ..)
  · exact landWaiting_canon (modPart_canon h ..) ..

theorem walkOn_canon (h : s.Canon) (part) : (s.walkOn part).Canon := by
  unfold State.walkOn
  split
  · exact h
  · exact foldl_canon (fun _ _ ht => answer_canon ht ..) _ h

theorem execFaultAnswer_canon (h : s.Canon) (part v) : OutCanon (execFaultAnswer part v s) := by
  unfold execFaultAnswer
  dsimp only
  split
  · exact answer_canon h ..
  · exact h

/-- Registers whose writes keep memory canonical. -/
def RegsCanon (rs : List RegW) : Prop := ∀ r ∈ rs, ∀ v s, s.Canon → (r.set v s).Canon

theorem RegsCanon.append {a b : List RegW} (ha : RegsCanon a) (hb : RegsCanon b) : RegsCanon (a ++ b) := fun r hr =>
  (List.mem_append.mp hr).elim (ha r) (hb r)

theorem ringRegs_canon (off mask get) {put : Ring → State → State} (hp : ∀ r s, s.Canon → (put r s).Canon) :
    RegsCanon (ringRegs off mask get put) := by
  intro r hr v s h
  simp only [ringRegs, List.mem_cons, List.not_mem_nil, or_false] at hr
  rcases hr with rfl | rfl | rfl <;> exact hp _ s h

theorem pfRegs_canon : RegsCanon pfRegs := by
  intro r hr v s h
  simp only [pfRegs, List.mem_cons, List.not_mem_nil, or_false] at hr
  rcases hr with rfl | rfl <;> exact h

theorem ctlRegs_canon (p) : RegsCanon (ctlRegs p) := by
  refine .append (fun r hr v s h => ?_) (ringRegs_canon _ _ _ fun _ _ h => h)
  simp only [List.mem_cons, List.not_mem_nil, or_false] at hr
  rcases hr with rfl | rfl | rfl | rfl | rfl <;> exact h

theorem blockRegs_canon (p) : RegsCanon (blockRegs p) := by
  refine .append (.append (.append (.append ?queues ?weights) ?breakpoints) (ringRegs_canon _ _ _ fun _ _ h => h))
    (ringRegs_canon _ _ _ fun _ _ h => h)
  case weights =>
    intro r hr v s h
    simp only [List.mem_cons, List.not_mem_nil, or_false] at hr
    rcases hr with rfl | rfl | rfl | rfl <;> exact h
  all_goals
    intro r hr v s h
    obtain ⟨i, -, rfl⟩ := List.mem_map.mp hr
    exact h

theorem writeRegs_canon {rs} (hr : RegsCanon rs) (h : s.Canon) (off data) : (writeRegs rs off data s).Canon := by
  refine List.foldlRecOn _ _ h fun t ht r mem => ?_
  split
  · exact hr r mem _ t ht
  · exact ht

/-! ### Starts and the voted control plane (21 R370 to R383) -/

theorem endContexts_canon (h : s.Canon) : s.endContexts.Canon := h

theorem train_canon (h : s.Canon) (cold step) : (s.train cold step).Canon := by
  unfold State.train
  split <;> exact h

/-- What a start leaves (21 R380). -/
theorem started_canon (h : s.Canon) (cold step) : (s.started cold step).Canon := by
  grind [State.started, endContexts_canon, wf_started, train_canon, State.Canon]

theorem beginStart_canon (h : s.Canon) (cold cause) : (s.beginStart cold cause).Canon := h

theorem trigger_canon (h : s.Canon) (cold cause request) : (s.trigger cold cause request).Canon := by
  grind [State.trigger, modDev_canon, beginStart_canon, State.Canon]

theorem execStartComplete_canon (h : s.Canon) (failed) : OutCanon (execStartComplete failed s) := by
  unfold execStartComplete
  split
  · exact h
  · split
    · exact h
    · dsimp only
      split
      · exact trigger_canon (modDev_canon (msix_canon (modDev_canon (started_canon h ..) _) ..) _) ..
      · exact msix_canon (modDev_canon (started_canon h ..) _) ..

/-- Power on filters the bytes and clears the rest of memory (21 R379). -/
theorem execPowerOn_canon (h : s.Canon) : OutCanon (execPowerOn s) := wf_filterBytes h _

theorem execConventionalReset_canon (h : s.Canon) : OutCanon (execConventionalReset s) := trigger_canon h ..

theorem execStartctlWrite_canon (h : s.Canon) (v) : OutCanon (execStartctlWrite v s) := by
  unfold execStartctlWrite
  dsimp only
  split
  · exact trigger_canon (modDev_canon h _) ..
  · exact h

theorem execManagementPortStartRequest_canon (h : s.Canon) (cold) :
    OutCanon (execManagementPortStartRequest cold s) := by
  unfold execManagementPortStartRequest
  split
  · exact trigger_canon h ..
  · exact h

theorem haltUnit_canon (h : s.Canon) : s.haltUnit.Canon := trigger_canon (endContexts_canon h) ..

theorem dissent_canon (h : s.Canon) (unit copies) : (s.dissent unit copies).Canon := by
  unfold State.dissent
  dsimp only
  split
  · exact h
  · split
    · split
      · exact h
      · exact haltUnit_canon h
    · split
      · exact haltUnit_canon h
      · split <;> exact h

theorem execVoteDissent_canon (h : s.Canon) (unit copies) : OutCanon (execVoteDissent unit copies s) := by
  unfold execVoteDissent
  split
  · exact h
  · exact dissent_canon h ..

theorem execResyncComplete_canon (h : s.Canon) (unit) : OutCanon (execResyncComplete unit s) := by
  unfold execResyncComplete
  dsimp only
  split <;> exact h

theorem execProbationEnd_canon (h : s.Canon) (unit) : OutCanon (execProbationEnd unit s) := by
  unfold execProbationEnd
  dsimp only
  split <;> exact h

theorem execInjectionArm_canon (h : s.Canon) (v) : OutCanon (execInjectionArm v s) := by
  grind [execInjectionArm, modDev_canon, injFire_canon, wf_setPoison, wf_setFlips, dissent_canon, State.Canon,
      OutCanon]

theorem execThermalFatal_canon (h : s.Canon) : OutCanon (execThermalFatal s) := by
  unfold execThermalFatal
  split <;> exact h

theorem execThermalRecoveryStart_canon (h : s.Canon) (hottest) : OutCanon (execThermalRecoveryStart hottest s) := by
  unfold execThermalRecoveryStart
  split <;> exact h

theorem execSensorPoll_canon (h : s.Canon) (r) : OutCanon (execSensorPoll r s) := h
theorem execPldmSensorRead_canon (h : s.Canon) (sensor) : OutCanon (execPldmSensorRead sensor s) := h
theorem execFirmwareUpdate_canon (h : s.Canon) (img) : OutCanon (execFirmwareUpdate img s) := h
theorem execActivateFirmware_canon (h : s.Canon) : OutCanon (execActivateFirmware s) := h
theorem execGetMeasurements_canon (h : s.Canon) : OutCanon (execGetMeasurements s) := h
theorem execGetChallenge_canon (h : s.Canon) (nonce) : OutCanon (execGetChallenge nonce s) := h
theorem execUnlock_canon (h : s.Canon) (sig) : OutCanon (execUnlock sig s) := h

theorem fireVote_canon (h : s.Canon) (unit) : (s.fireVote unit).Canon := by
  unfold State.fireVote
  dsimp only
  split
  · exact dissent_canon (modDev_canon (injFire_canon h) _) ..
  · exact h

theorem execFirmwareDebugCommand_canon (h : s.Canon) (c) : OutCanon (execFirmwareDebugCommand c s) := by
  unfold execFirmwareDebugCommand
  dsimp only
  split
  · exact h
  · split
    · exact h
    · exact modDev_canon (fireVote_canon (foldl_canon (fun _ _ ht => dispatchOn_canon ht _) _ (foldl_canon (fun _ _ ht
          => walkOn_canon ht _) _ (modDev_canon h _))) _) _
    · exact h
    · exact h
    · exact h

/-! ### Contexts (22 R393 to R396) -/

theorem execContextRun_canon (h : s.Canon) (part) : OutCanon (execContextRun part s) := by
  unfold execContextRun
  dsimp only
  split
  · exact h
  · exact modPart_canon (modPart_canon (fresh_canon (touch_canon h ..)) ..) ..

theorem execContextPreempt_canon (h : s.Canon) (part) : OutCanon (execContextPreempt part s) := by
  unfold execContextPreempt
  split <;> exact h

theorem takeOff_canon (h : s.Canon) (part g) : (s.takeOff part g).Canon :=
  foldl_canon (fun _ _ ht => mirrorCheck_canon (modCore_canon ht ..) _) _ h

theorem execContextSaved_canon (h : s.Canon) (part) : OutCanon (execContextSaved part s) := by
  grind [execContextSaved, takeOff_canon, writeImage_canon, modTask_canon, settleAges_canon, modPart_canon,
      State.Canon, foldl_canon, OutCanon]

theorem spillCore_canon (h : s.Canon) (part core) : (s.spillCore part core).Canon := by
  unfold State.spillCore
  refine foldl_canon (fun _ _ ht => ?_) _ h
  split
  · split
    · exact modTile_canon (spillTile_canon ht ..) ..
    · exact ht
  · exact ht

theorem placeEntry_canon (h : s.Canon) (part t i v) : (s.placeEntry part t i v).Canon := by
  unfold State.placeEntry
  dsimp only
  split
  · exact h
  · split
    · exact modPart_canon (foldl_canon (fun _ _ ht => spillCore_canon ht ..) _ h) ..
    · exact h
    · exact h

/-- Ranges put back leave a canonical map. -/
theorem wfD_putRanges {α : Type} [DecidableEq α] {d : α} (rs : List (Nat × Nat)) {m : SMap α}
    (h : SMap.wfD d m = true) (g : SMap α) :
    SMap.wfD d (putRanges d rs m g) = true :=
  List.foldlRecOn (motive := fun a => SMap.wfD d a = true) g _ (wfD_filter h _) fun _ ha e _ => wfD_putD ha e.1 e.2

/-- The same of memory with its ranges put back. -/
theorem wf_putRanges {m : Memory} (h : m.wf = true) (rs b t p f) :
    ({ m with bytes := putRanges 0#8 rs m.bytes b, tags := putRanges Config.noTag rs m.tags t,
              poison := putRanges false rs m.poison p, flips := putRanges 0#64 rs m.flips f } : Memory).wf = true := by
  obtain ⟨bytes, tags, poison, flips, bad⟩ := (wf_iff m).mp h
  exact (wf_iff _).mpr ⟨wfD_putRanges rs bytes b, wfD_putRanges rs tags t, wfD_putRanges rs poison p, wfD_putRanges rs
      flips f, bad⟩

/-- A restore puts back the ranges of scratchpad that the context had (03 R70). -/
theorem putBack_canon (h : s.Canon) (part g) : (s.putBack part g).Canon := by
  unfold State.putBack
  extract_lets s1 rs m s2 s3 s4
  have back : s2.Canon := wf_putRanges h rs _ _ _ _
  have mats : s3.Canon := foldl_canon (fun t e ht => modCore_canon ht ..) _ back
  have tasks : s4.Canon := foldl_canon (fun t _ ht => modTask_canon ht ..) _ mats
  exact foldl_canon (fun t _ ht => mirrorCheck_canon ht _) _ tasks

theorem purgeKept_canon (h : s.Canon) (g rtag) : (s.purgeKept g rtag).Canon := purgeIds_canon h _

theorem execContextRestoreDone_canon (h : s.Canon) (part) : OutCanon (execContextRestoreDone part s) := by
  unfold execContextRestoreDone
  dsimp only
  split
  · exact h
  · split
    · exact h
    · refine dispatchOn_canon ?_ _
      refine walkOn_canon ?_ _
      refine foldl_canon (fun _ _ ht => purgeKept_canon ht ..) _ ?_
      refine foldl_canon (fun _ _ ht => ?_) _ (flushFaults_canon (modPart_canon (readImage_canon (putBack_canon h ..)
          _) ..) _)
      split
      · exact answer_canon ht ..
      · exact ht

/-! ### Probability predicates and TAG (07 R148 to R159, 13 R298) -/

theorem tempGate_canon (h : s.Canon) {k : State → State} (hk : ∀ t, t.Canon → (k t).Canon) (c form ins) :
    (Ctx.tempGate c form s ins k).Canon := by
  unfold Ctx.tempGate
  dsimp only
  split
  · exact hk _ h
  · exact trap_canon h ..

theorem execQcmp_canon (h : s.Canon) (cond k a b l) : OutCanon (execQcmp cond k a b l s) :=
  laneOp_canon h (fun _ _ _ ht => tempGate_canon ht (fun _ hu => finish_canon (foldl_canon (fun _ _ hu =>
    modFibre_canon hu ..) _ hu) ..) ..) ..

theorem qBin_canon (h : s.Canon) (form d a b g) : OutCanon (s.qBin form d a b g) := by
  unfold State.qBin
  refine laneOp_canon h (fun _ _ _ ht => ?_) ..
  dsimp only
  split
  · exact trap_canon ht ..
  · exact finish_canon (foldl_canon (fun _ _ hu => modFibre_canon hu ..) _ ht) ..

theorem execQlogNot_canon (h : s.Canon) (d a) : OutCanon (execQlogNot d a s) :=
  laneOp_canon h (fun _ _ _ ht => finish_canon (foldl_canon (fun _ _ hu => modFibre_canon hu ..) _ ht) ..) ..

theorem execQblend_canon (h : s.Canon) (n d a k l) : OutCanon (execQblend n d a k l s) :=
  laneOp_canon h (fun _ _ _ ht => fpGate_canon ht (fun _ hu => finish_canon hu ..) ..) ..

theorem execQdraw_canon (h : s.Canon) (p a k l) : OutCanon (execQdraw p a k l s) := by
  unfold execQdraw
  refine laneOp_canon h (fun _ _ _ ht => ?_) ..
  split
  · exact consume_canon ht _
  · exact finish_canon (foldl_canon (fun _ _ hu => modFibre_canon hu ..) _ ht) ..

theorem qgrad_canon (h : s.Canon) (form k temp acc g) : OutCanon (s.qgrad form k temp acc g) := by
  unfold State.qgrad
  refine laneOp_canon h (fun _ _ _ ht => ?_) ..
  dsimp only
  split
  · exact tempGate_canon ht (fun _ hu => fpGate_canon hu (fun _ hu => finish_canon hu ..) ..) ..
  · exact fpGate_canon ht (fun _ hu => finish_canon hu ..) ..

theorem execQxferOut_canon (h : s.Canon) (d k) : OutCanon (execQxferOut d k s) :=
  laneOp_canon h (fun _ _ _ ht => finish_canon ht ..) ..

theorem execQxferIn_canon (h : s.Canon) (k a l) : OutCanon (execQxferIn k a l s) := by
  unfold execQxferIn
  refine laneOp_canon h (fun _ _ _ ht => ?_) ..
  dsimp only
  split
  · exact valueTrap_canon ht ..
  · exact finish_canon (foldl_canon (fun _ _ hu => modFibre_canon hu ..) _ ht) ..

theorem tagOp_canon (h : s.Canon) (form acc g) : OutCanon (s.tagOp form acc g) :=
  laneOp_canon h (fun _ _ _ ht => finish_canon ht ..) ..

theorem execTagWrite_canon (h : s.Canon) (n d a l) : OutCanon (execTagWrite n d a l s) := by
  unfold execTagWrite
  refine laneOp_canon h (fun _ _ _ ht => ?_) ..
  dsimp only
  split
  · exact valueTrap_canon ht ..
  · exact finish_canon ht ..

/-! ### Debug and registers that a plain write stores (23 R407 to R418) -/

theorem dbgAnswer_canon (h : s.Canon) (part r) : (s.dbgAnswer part r).Canon := h

theorem finishStop_canon (h : s.Canon) (pid r) : (s.finishStop pid r).Canon := by
  unfold State.finishStop
  split
  · exact h
  · refine foldl_canon (fun _ _ ht => ?_) _ ?_
    · split
      · exact takeFree_canon (foldl_canon (fun _ _ hu => trace_canon hu ..) _ ht)
      · exact ht
    · split
      · exact dbgAnswer_canon (trace_canon (foldl_canon (fun _ _ ht => modPour_canon ht ..) _ h) ..) ..
      · exact trace_canon (foldl_canon (fun _ _ ht => modPour_canon ht ..) _ h) ..

theorem stopPour_canon (h : s.Canon) (pid r) : (s.stopPour pid r).Canon := by
  unfold State.stopPour
  split
  · exact h
  · split
    · exact h
    · dsimp only
      split
      · exact finishStop_canon h ..
      · exact foldl_canon (fun _ _ ht => modPour_canon ht ..) _ h

theorem execBkpt_canon (h : s.Canon) (code) : OutCanon (execBkpt code s) := by
  unfold execBkpt
  refine groupOp_canon h (fun _ _ _ ht => ?_) (fun _ _ _ ht => ?_) _
  · split
    · exact after_canon ht ..
    · exact stopPour_canon (after_canon ht ..) ..
  · dsimp only
    split
    · exact ht
    · exact stopPour_canon (afterEngine_canon ht ..) ..

theorem runPour_canon (h : s.Canon) (pid m) : (s.runPour pid m).Canon := by
  grind [State.runPour, releaseBars_canon, modPour_canon, State.Canon, foldl_canon]

theorem execStepEnd_canon (h : s.Canon) (pour) : OutCanon (execStepEnd pour s) := by
  unfold execStepEnd
  split
  · exact h
  · dsimp only
    split
    · split
      · exact finishStop_canon h ..
      · exact h
    · split
      · exact stopPour_canon h ..
      · exact h
    · exact h

theorem execStepLimitExpiry_canon (h : s.Canon) (pour) : OutCanon (execStepLimitExpiry pour s) := by
  unfold execStepLimitExpiry
  split
  · exact h
  · split
    · split
      · exact stopPour_canon h ..
      · exact h
    · exact h

theorem dbgWrite_canon (h : s.Canon) (pid r data tag) : (s.dbgWrite pid r data tag).Canon := by
  unfold State.dbgWrite
  split
  · exact h
  · exact h
  · exact h
  · split <;> exact h
  · exact h
  · exact h

theorem dbgDiscard_canon (h : s.Canon) (r) : (s.dbgDiscard r).Canon := by
  unfold State.dbgDiscard
  dsimp only
  split <;> exact h

theorem dbgRegOp_canon (h : s.Canon) (part pid p c) : (s.dbgRegOp part pid p c).Canon := by
  unfold State.dbgRegOp
  split
  · exact h
  · split
    · exact h
    · dsimp only
      split
      · exact h
      · refine dbgAnswer_canon ?_ ..
        refine foldl_canon (fun _ _ ht => ?_) _ h
        refine dbgWrite_canon ?_ ..
        split
        · exact dbgDiscard_canon ht _
        · exact ht

theorem dbgStop_canon (h : s.Canon) (part pid p) : (s.dbgStop part pid p).Canon := by
  unfold State.dbgStop
  split
  · exact h
  · exact foldl_canon (fun _ _ ht => modPour_canon ht ..) _ (dbgAnswer_canon h ..)
  · exact stopPour_canon (dbgAnswer_canon h ..) ..

theorem debug_canon (h : s.Canon) (part cmd) : (s.debug part cmd).Canon := by
  grind [State.debug, dbgAnswer_canon, dbgStop_canon, runPour_canon, dbgRegOp_canon, State.Canon]

theorem commitDbg_canon (h : s.Canon) (part cmd) : (s.commitDbg part cmd).Canon :=
  debug_canon (modPart_canon h ..) ..

theorem debugAs_canon (h : s.Canon) (part cmd op) : OutCanon (s.debugAs part cmd op) := by
  unfold State.debugAs
  split
  · exact commitDbg_canon h ..
  · exact h

theorem execDbgIllegal_canon (h : s.Canon) (part cmd) : OutCanon (execDbgIllegal part cmd s) := by
  unfold execDbgIllegal
  split
  · exact commitDbg_canon h ..
  · exact h

theorem writeDbgcmd_canon (h : s.Canon) (p off data) : (s.writeDbgcmd p off data).Canon := by
  have reg : RegsCanon [dbgcmdReg p] := by
    intro r hr v s h
    cases List.mem_singleton.mp hr
    exact h
  grind [State.writeDbgcmd, writeRegs_canon, debug_canon]

theorem execRegisterWrite_canon (h : s.Canon) (t off data) : OutCanon (execRegisterWrite t off data s) := by
  unfold execRegisterWrite
  split
  case h_1 => exact writeRegs_canon pfRegs_canon h off data
  case h_2 p =>
    have written : (writeRegs (ctlRegs p) off data s).Canon := writeRegs_canon (ctlRegs_canon p) h off data
    exact flushFaults_canon written p
  case h_3 p pf =>
    have written : (writeRegs (blockRegs p) off data s).Canon := writeRegs_canon (blockRegs_canon p) h off data
    split
    · exact flushFaults_canon (writeDbgcmd_canon written p off data) p
    · exact h

theorem execProfileSample_canon (h : s.Canon) (core seen served queued) :
    OutCanon (execProfileSample core seen served queued s) := by
  unfold execProfileSample
  split
  · exact h
  · exact modPart_canon (ringPut_canon (modCore_canon h ..) ..) ..

/-! ### Steps within a cycle -/

theorem orElse_canon {o : Out} (ho : OutCanon o) (h : s.Canon) : (o.orElse s).Canon := by
  cases o with
  | next t => exact ho
  | _ => exact h

/-! ### Uniform arithmetic (11 R249 to R252) -/

theorem uniOp_canon (h : s.Canon) (form g) : OutCanon (s.uniOp form g) :=
  groupOp_canon h (fun _ _ _ ht => finishG_canon ht ..) (fun _ _ _ ht => finishE_canon ht ..) _

theorem uni2_canon (h : s.Canon) (form f) : OutCanon (s.uni2 form f) := uniOp_canon h ..

theorem gcmp_canon (h : s.Canon) (form k g) : OutCanon (s.gcmp form k g) := by
  unfold State.gcmp
  refine groupOp_canon h (fun _ _ _ ht => ?_) (fun _ _ _ ht => ?_) _
  · split
    · exact consume_canon ht _
    · exact after_canon (modFibres_canon ht ..) ..
  · split
    · exact consumeE_canon ht _
    · exact ht

theorem execGadd64_canon (h : s.Canon) (n d a b l) : OutCanon (execGadd64 n d a b l s) := uniOp_canon h ..

/-! ### The Assay Unit (24 R419 to R424) -/

theorem logWeave_canon (h : s.Canon) (part w) : (s.logWeave part w).Canon := logRow_canon h ..
theorem addSlots_canon (h : s.Canon) (part xs) : (s.addSlots part xs).Canon := h

theorem logResult_canon (h : t.Canon) (part q w mark) : (State.logResult t part q w mark).Canon := by
  unfold State.logResult
  split
  · exact h
  · dsimp only
    split
    · refine logRow_canon ?_ ..
      split
      · exact foldl_canon (fun _ _ ht => logWeave_canon ht ..) _ h
      · exact h
    · refine addSlots_canon ?_ ..
      refine logRow_canon ?_ ..
      split
      · exact foldl_canon (fun _ _ ht => logWeave_canon ht ..) _ h
      · exact h

theorem logIssues_canon (h : t.Canon) (s part pid) : (State.logIssues t s part pid).Canon := by
  grind [State.logIssues, logRow_canon, logResult_canon, addSlots_canon, State.Canon, foldl_canon]

theorem logResults_canon (h : t.Canon) (s part m) : (State.logResults t s part m).Canon := by
  unfold State.logResults
  refine foldl_canon (fun _ _ ht => ?_) _ h
  split
  · exact ht
  · exact modPart_canon (logWrite_canon ht ..) ..

theorem countWord_canon (h : t.Canon) (s part pid) : (State.countWord t s part pid).Canon := by
  unfold State.countWord
  split
  · split <;> exact h
  · exact h

theorem logWeaves_canon (h : t.Canon) (s part pid) : (State.logWeaves t s part pid).Canon := by
  unfold State.logWeaves
  refine foldl_canon (fun _ _ ht => logWeave_canon ht ..) _ ?_
  refine foldl_canon (fun _ _ ht => ?_) _ h
  split
  · exact logRow_canon ht ..
  · exact ht

theorem logStep_canon (h : t.Canon) (s part m) : (State.logStep t s part m).Canon := by
  unfold State.logStep
  dsimp only
  split
  · split
    · exact h
    · exact logWeaves_canon (countWord_canon (logResults_canon (logIssues_canon h ..) ..) ..) ..
  · split
    · exact h
    · exact logWeaves_canon (countWord_canon (logResults_canon (logIssues_canon h ..) ..) ..) ..

theorem logAll_canon (h : t.Canon) (s) : (State.logAll t s).Canon := by
  unfold State.logAll
  refine foldl_canon (fun _ _ ht => ?_) _ h
  split
  · exact logStep_canon ht ..
  · exact ht

theorem beginReplay_canon (h : s.Canon) (part m rcore) : (s.beginReplay part m rcore).Canon := by
  unfold State.beginReplay
  dsimp only [State.fresh]
  split
  · exact h
  next pid t ht => exact canon_of_mem (tryCore_canon (canon_of_mem (t := { s with nextId := s.nextId + 1 }) h rfl) _ _
      _ _ _ _ _ _ ht) rfl

theorem suspect_canon (h : s.Canon) (m sigr rcore part) : (s.suspect m sigr rcore part).Canon :=
  modDev_canon (msix_canon (modPart_canon h ..) ..) _

theorem execAssayReplay_canon (h : s.Canon) (part rcore _sigr) : OutCanon (execAssayReplay part rcore _sigr s) := by
  unfold execAssayReplay
  grind [beginReplay_canon, modPart_canon, dropReplay_canon, suspect_canon, State.Canon, OutCanon]

theorem execAssayAbandon_canon (h : s.Canon) (part) : OutCanon (execAssayAbandon part s) := by
  unfold execAssayAbandon
  split
  · exact h
  · split
    · exact abandon_canon h _
    · exact h

/-! ### Every instruction -/

/-- Every instruction keeps the form. -/
theorem exec_canon (i : Instr) (h : s.Canon) : OutCanon (exec i s) := by
  unfold exec
  cases i with
  | iadd | isub | imul | imulhs | imulhz | imins | imaxs | iminz | imaxz | and | or | xor | shl | shr | sar =>
    exact intOp_canon h ..
  | iaddi | shimShl | shimShr | shimSar | uniNot | uniNeg | uniAbs | uniPopc | uniClz | uniBrev | uniSext8 |
      uniSext16 | uniBswap =>
    exact intUni_canon h ..
  | icmps | icmpz => exact cmpOp_canon h ..
  | fadd | fsub | fmul | fmin | fmax => exact fp2_canon h ..
  | ffma | hadd2 | hfma2 | badd2 | bfma2 => exact fpOp_canon h ..
  | fabs | fneg | frcp | frsq | fsqrt | fexp2 | flog2 | frint | ffloor | fceil => exact fp1_canon h ..
  | shfx | shfn | shfup | shfdn => exact shuffle_canon h ..
  | voteBallot | voteAny | voteAll => exact vote_canon h ..
  | ld32 | ld64 | ld128 | ldnZ8 | ldnS8 | ldnZ16 | ldnS16 => exact laneLoad_canon h ..
  | st32 | st64 | st128 | stnB8 | stnB16 => exact laneStore_canon h ..
  | atadd | atmaxs | atmaxz | atexch | atcas => exact laneAtomic_canon h ..
  | qlogAnd | qlogOr => exact qBin_canon h ..
  | qgradRamp | qgradLogi | qgradAndp | qgradOrp | qgradNot | qgradBlendq => exact qgrad_canon h ..
  | tagRead | tagMark | tagCopy => exact tagOp_canon h ..
  | fencePour | fenceDev => exact fenceOp_canon h ..
  | rcopy | rpat | put => exact copyIssue_canon h ..
  | mmul | mmulResume => exact mmulIssue_canon h ..
  | gadd | gsub | gmul | gand | gor | gxor | gshl | gshr | gsar | gaddi => exact uni2_canon h ..
  | gcmps | gcmpz => exact gcmp_canon h ..
  | cmovc | caddc | csubc | cmulc => exact cruScalar_canon h ..
  | cfma | cmul | cadd | csub | cmax | cmin | crsq | csqrt => exact cruRow_canon h ..
  | dbgStop | dbgStep | dbgRun | dbgRegrd | dbgRegwr | dbgRegwrf => exact debugAs_canon h ..
  | imad => exact execImad_canon h ..
  | iadd64 => exact execIadd64_canon h ..
  | uniMov => exact execUniMov_canon h ..
  | fcmp => exact execFcmp_canon h ..
  | cvt => exact execCvt_canon h ..
  | selp => exact execSelp_canon h ..
  | xchb => exact execXchb_canon h ..
  | rhad => exact execRhad_canon h ..
  | stp => exact execStp_canon h ..
  | qcmp => exact execQcmp_canon h ..
  | qlogNot => exact execQlogNot_canon h ..
  | qblend => exact execQblend_canon h ..
  | qdraw => exact execQdraw_canon h ..
  | qxferOut => exact execQxferOut_canon h ..
  | qxferIn => exact execQxferIn_canon h ..
  | tagWrite => exact execTagWrite_canon h ..
  | br => exact execBr_canon h ..
  | brp => exact execBrp_canon h ..
  | bru => exact execBru_canon h ..
  | call => exact execCall_canon h ..
  | ret => exact execRet_canon h ..
  | brx => exact execBrx_canon h ..
  | fend => exact execFend_canon h ..
  | fspawn => exact execFspawn_canon h ..
  | yield => exact execYield_canon h ..
  | guard => exact execGuard_canon h ..
  | memb => exact execMemb_canon h ..
  | jarm => exact execJarm_canon h ..
  | join => exact execJoin_canon h ..
  | jget => exact execJget_canon h ..
  | cjoin => exact execCjoin_canon h ..
  | cleave => exact execCleave_canon h ..
  | bar => exact execBar_canon h ..
  | pbarr => exact execPbarr_canon h ..
  | pbwait => exact execPbwait_canon h ..
  | fork => exact execFork_canon h ..
  | rdv => exact execRdv_canon h ..
  | rnext => exact execRnext_canon h ..
  | epush => exact execEpush_canon h ..
  | epop => exact execEpop_canon h ..
  | tspawn => exact execTspawn_canon h ..
  | tsig => exact execTsig_canon h ..
  | ckpt => exact execCkpt_canon h ..
  | gld => exact execGld_canon h ..
  | gst => exact execGst_canon h ..
  | wwait => exact execWwait_canon h ..
  | shld => exact execShld_canon h ..
  | shst => exact execShst_canon h ..
  | shset => exact execShset_canon h ..
  | shget => exact execShget_canon h ..
  | mldw => exact execMldw_canon h ..
  | mdrain => exact execMdrain_canon h ..
  | mzero => exact execMzero_canon h ..
  | mspill => exact execMspill_canon h ..
  | mfill => exact execMfill_canon h ..
  | trap => exact execTrap_canon h ..
  | hret => exact execHret_canon h ..
  | get => exact execGet_canon h ..
  | set => exact execSet_canon h ..
  | bkpt => exact execBkpt_canon h ..
  | nop => exact execNop_canon h ..
  | halt => exact execHalt_canon h ..
  | gadd64 => exact execGadd64_canon h ..
  | cldy => exact execCldy_canon h ..
  | csty => exact execCsty_canon h ..
  | cldc => exact execCldc_canon h ..
  | cbnz => exact execCbnz_canon h ..
  | cjmp => exact execCjmp_canon h ..
  | csplat => exact execCsplat_canon h ..
  | ccvt => exact execCcvt_canon h ..
  | cpair => exact execCpair_canon h ..
  | cepop => exact execCepop_canon h ..
  | ctsig => exact execCtsig_canon h ..
  | chalt => exact execChalt_canon h ..
  | cfence => exact execCfence_canon h ..
  | recastIssue => exact execRecastIssue_canon h ..
  | weaveSlotGrant => exact execWeaveSlotGrant_canon h ..
  | rejoinTimeout => exact execRejoinTimeout_canon h ..
  | placement => exact execPlacement_canon h ..
  | runnerCommandStart => exact execRunnerCommandStart_canon h ..
  | copyCompletion => exact execCopyCompletion_canon h ..
  | putArrival => exact execPutArrival_canon h ..
  | putAcknowledgement => exact execPutAcknowledgement_canon h ..
  | loadResultArrival => exact execLoadResultArrival_canon h ..
  | mldwCompletion => exact execMldwCompletion_canon h ..
  | mmulCompletion => exact execMmulCompletion_canon h ..
  | mmulErrorCompletion => exact execMmulErrorCompletion_canon h ..
  | mdrainCompletion => exact execMdrainCompletion_canon h ..
  | mdrainErrorCompletion => exact execMdrainErrorCompletion_canon h ..
  | refreshWindowOpen => exact execRefreshWindowOpen_canon h ..
  | refreshWindowClose => exact execRefreshWindowClose_canon h ..
  | appendPortCommit => exact execAppendPortCommit_canon h ..
  | qcfgWrite => exact execQcfgWrite_canon h ..
  | hostSignal => exact execHostSignal_canon h ..
  | weightStoreCopy => exact execWeightStoreCopy_canon h ..
  | weightStoreCopyDone => exact execWeightStoreCopyDone_canon h ..
  | bindWrite => exact execBindWrite_canon h ..
  | functionLevelReset => exact execFunctionLevelReset_canon h ..
  | invalidation => exact execInvalidation_canon h ..
  | invalidationDone => exact execInvalidationDone_canon h ..
  | winregWrite => exact execWinregWrite_canon h ..
  | sndregWrite => exact execSndregWrite_canon h ..
  | faultAnswer => exact execFaultAnswer_canon h ..
  | purgeMessageReceived => exact execPurgeMessageReceived_canon h ..
  | contextRun => exact execContextRun_canon h ..
  | contextRestoreDone => exact execContextRestoreDone_canon h ..
  | contextPreempt => exact execContextPreempt_canon h ..
  | contextSaved => exact execContextSaved_canon h ..
  | injectionArm => exact execInjectionArm_canon h ..
  | resyncComplete => exact execResyncComplete_canon h ..
  | powerOn => exact execPowerOn_canon h ..
  | conventionalReset => exact execConventionalReset_canon h ..
  | startctlWrite => exact execStartctlWrite_canon h ..
  | startComplete => exact execStartComplete_canon h ..
  | stepEnd => exact execStepEnd_canon h ..
  | stepLimitExpiry => exact execStepLimitExpiry_canon h ..
  | dbgIllegal => exact execDbgIllegal_canon h ..
  | assayAbandon => exact execAssayAbandon_canon h ..
  | registerWrite => exact execRegisterWrite_canon h ..
  | mirrorCopyDone => exact execMirrorCopyDone_canon h ..
  | atomicResultArrival => exact execAtomicResultArrival_canon h ..
  | getMeasurements => exact execGetMeasurements_canon h ..
  | getChallenge => exact execGetChallenge_canon h ..
  | unlock => exact execUnlock_canon h ..
  | firmwareUpdate => exact execFirmwareUpdate_canon h ..
  | activateFirmware => exact execActivateFirmware_canon h ..
  | pldmSensorRead => exact execPldmSensorRead_canon h ..
  | sensorPoll => exact execSensorPoll_canon h ..
  | thermalRecoveryStart => exact execThermalRecoveryStart_canon h ..
  | thermalFatal => exact execThermalFatal_canon h ..
  | managementPortStartRequest => exact execManagementPortStartRequest_canon h ..
  | firmwareDebugCommand => exact execFirmwareDebugCommand_canon h ..
  | suspopRead => exact execSuspopRead_canon h ..
  | escpopRead => exact execEscpopRead_canon h ..
  | portsWrite => exact execPortsWrite_canon h ..
  | keysetWrite => exact execKeysetWrite_canon h ..
  | assayReplay => exact execAssayReplay_canon h ..
  | profileSample => exact execProfileSample_canon h ..
  | fabricReadRequest => exact execFabricReadRequest_canon h ..
  | voteDissent => exact execVoteDissent_canon h ..
  | probationEnd => exact execProbationEnd_canon h ..

/-! ### A core cycle (02 R43, R55) -/

theorem touchCode_canon (h : s.Canon) (part code pc n) : (s.touchCode part code pc n).Canon := by
  unfold State.touchCode
  split
  · exact h
  · refine foldl_canon (fun _ _ ht => ?_) _ h
    split
    · exact touchWalk_canon (touchLoc_canon ht ..) ..
    · exact ht

theorem undecoded_canon (h : s.Canon) (w word) : (s.undecoded w word).Canon := by
  unfold State.undecoded
  split
  · exact h
  · dsimp only
    split
    · exact after_canon h ..
    · exact trapWeave_canon h ..

theorem fetchTrap_canon (h : s.Canon) (w f) : (s.fetchTrap w f).Canon := by
  unfold State.fetchTrap
  split
  · exact h
  · dsimp only
    split
    · exact h
    · exact trapWeave_canon h ..
    · exact trapWeave_canon h ..
    · exact stallWeave_canon (reportFault_canon h ..) ..
    · exact stallWeave_canon h ..

theorem fetchTrapEngine_canon (h : s.Canon) (e v p f) : (s.fetchTrapEngine e v p f).Canon := by
  unfold State.fetchTrapEngine
  split
  · exact h
  · exact trapEngine_canon h ..
  · exact trapEngine_canon h ..
  · exact stallEngine_canon (reportFault_canon h ..) ..
  · exact h

theorem fetchTrapCru_canon (h : s.Canon) (k c f) : (s.fetchTrapCru k c f).Canon := by
  unfold State.fetchTrapCru
  split
  · exact h
  · exact cruHalt_canon h ..
  · exact cruHalt_canon h ..
  · exact cruStall_canon (reportFault_canon h ..) ..
  · exact h

theorem grantSlots_canon (core quad n) (h : s.Canon) : (s.grantSlots core quad n).Canon := by
  induction n generalizing s with
  | zero => exact h
  | succ n ih => grind [State.grantSlots, orElse_canon, execWeaveSlotGrant_canon]

theorem issueRecast_canon (core quad n) (h : s.Canon) : (s.issueRecast core quad n).Canon := by
  induction n generalizing s with
  | zero => exact h
  | succ n ih => grind [State.issueRecast, orElse_canon, execRecastIssue_canon]

theorem settleSlots_canon (h : s.Canon) : s.settleSlots.Canon :=
  foldl_canon (fun _ _ ht => issueRecast_canon _ _ _ (grantSlots_canon _ _ _ ht)) _ h

/-- What is due before a cycle passes, in its order. -/
theorem settleDue_canon (h : s.Canon) : s.settleDue.Canon := by
  unfold State.settleDue
  refine foldl_canon (fun _ _ ht => ?_) _ (foldl_canon (fun _ _ ht => orElse_canon (execAssayAbandon_canon ht _) ht) _
      (foldl_canon (fun _ _ ht => orElse_canon (execStepLimitExpiry_canon ht _) ht) _ (foldl_canon (fun _ _ ht =>
      orElse_canon (execStepEnd_canon ht _) ht) _ (foldl_canon (fun _ _ ht => orElse_canon (execRejoinTimeout_canon ht
      ..) ht) _ (settleSlots_canon h)))))
  dsimp only
  split
  · refine orElse_canon ?_ ht
    split
    · exact execProbationEnd_canon ht _
    · exact execResyncComplete_canon ht _
  · exact ht

theorem passCycle_canon (h : s.Canon) : s.passCycle.Canon := by
  grind [State.passCycle, retryHeld_canon, settleDue_canon, State.Canon]

/-! ### One step (log 2) -/

theorem weaveWord_canon (h : s.Canon) (w) : OutCanon (s.weaveWord w) := by
  unfold State.weaveWord
  split
  · exact h
  · split
    · exact payOwed_canon h _
    · split
      · exact exec_canon _ (touchCode_canon h ..)
      · exact undecoded_canon (touchCode_canon h ..) ..
      · exact fetchTrap_canon h ..

theorem engineWord_canon (h : s.Canon) (e) : OutCanon (s.engineWord e) := by
  unfold State.engineWord
  split
  · exact h
  · split
    · exact h
    · split
      · exact exec_canon _ (touchCode_canon h ..)
      · exact trapEngine_canon (touchCode_canon h ..) ..
      · exact fetchTrapEngine_canon h ..

theorem crucibleWord_canon (h : s.Canon) (k) : OutCanon (s.crucibleWord k) := by
  unfold State.crucibleWord
  split
  · exact h
  · split
    · split
      · exact exec_canon _ (touchCode_canon h ..)
      · exact cruHalt_canon (touchCode_canon h ..) ..
    · exact fetchTrapCru_canon h ..

theorem lookAgain_canon (h : s.Canon) : s.lookAgain.Canon := h

theorem runWeave_canon (h : s.Canon) (w) : OutCanon (s.runWeave w) := by
  unfold State.runWeave
  split
  · exact h
  · split
    · exact h
    · split
      · exact stopPour_canon (yieldWeave_canon h _) ..
      · exact weaveWord_canon h _

theorem runEngine_canon (h : s.Canon) (e) : OutCanon (s.runEngine e) := by
  unfold State.runEngine
  split
  · exact h
  · split
    · exact engineWord_canon h _
    · exact h

theorem runCrucible_canon (h : s.Canon) (k) : OutCanon (s.runCrucible k) := by
  unfold State.runCrucible
  split
  · exact h
  · split
    · exact crucibleWord_canon h _
    · exact h

theorem runFirmware_canon (h : s.Canon) (core part w) : OutCanon (s.runFirmware core part w) := by
  unfold State.runFirmware
  split
  · exact exec_canon _ h
  · exact exec_canon _ h
  · exact h

/-- Whatever a turn names, it keeps the form. -/
theorem turnStep_canon (h : s.Canon) (t) : OutCanon (s.turnStep t) := by
  unfold State.turnStep
  split
  · exact runWeave_canon h _
  · exact runEngine_canon h _
  · exact runCrucible_canon h _
  · exact h
  · exact runFirmware_canon h ..
  · split
    · exact exec_canon _ h
    · exact h
  · exact wf_store h ..
  · exact placeEntry_canon h ..
  · exact wf_spoilTag h _
  · split
    · exact eccError_canon h ..
    · exact h
  · exact passCycle_canon h

theorem comeTo_canon (h : s.Canon) (n) : (s.comeTo n).Canon := retryHeld_canon h _

theorem cue_canon (h : s.Canon) (t) : (s.cue t).Canon := by
  unfold State.cue
  split
  · exact h
  · refine comeTo_canon ?_ _
    split
    · exact lookAgain_canon (passCycle_canon h)
    · exact h

theorem cued_canon (h : s.Canon) (t) : (s.cued t).Canon := by
  grind [State.cued, logAll_canon, cue_canon, State.Canon]

/-- What follows a turn: the stalls are looked at again and samples log it. -/
theorem follow_canon {o : Out} (ho : OutCanon o) : OutCanon (s.follow o) := by
  cases o with
  | next t => exact canon_of_mem (logAll_canon (lookAgain_canon ho) s) rfl
  | _ => trivial

theorem thenCycle_canon (t) {o : Out} (ho : OutCanon o) : OutCanon (thenCycle t o) := by
  cases o with
  | next s => cases t with
    | cycle => exact ho
    | _ => exact passCycle_canon ho
  | _ => trivial

/-- One step, from the agenda or from the turns that may come next. -/
theorem oneStep_canon (h : s.Canon) : OutCanon s.oneStep := by
  unfold State.oneStep
  split
  · next t rest _ =>
    have cued : (State.cued { s with agenda := rest } t).Canon :=
      cued_canon (s := { s with agenda := rest }) (canon_of_mem h rfl) t
    exact follow_canon (turnStep_canon cued t)
  · extract_lets t u
    have cued : u.Canon := cued_canon h t
    exact follow_canon (thenCycle_canon t (turnStep_canon cued t))

end

/-- Settles O60: the turn of a step keeps the form, whatever it is, and so does what comes before and after it. -/
theorem memoryStaysCanonical : Obligations.MemoryStaysCanonical := by
  intro s t canonical stepped
  have next : OutCanon (step s) := oneStep_canon canonical
  rw [stepped] at next
  exact next

end Sys2Proof.Proofs

namespace Sys2Proof.Proofs

/-!
PROOFS. Probability predicates and TAG (07 R148 to R159, 13 R296 to R298): what each shape of these words does once the word is
ready, and whether a lane traps on its value, its temperature or a met dependence.
-/

open Sys2Proof.Machine Sys2Proof.Laws

section

variable {s : State} {c : Ctx} {h : Form} {acc : Bool}

/-! ## Movements of one word -/

/-- A movement of one word keeps the prior tag of the first word of D under OFF. -/
theorem moved_one (m : BitVec 2) (old : List Reg) (w : Reg) : moved m old [w] = [{ w with tag := moveTag m w.tag (head1 old).tag }] :=
  rfl

theorem moveTag_self (m : BitVec 2) (t : Tag) : moveTag m t t = t := ite_self t

/-! ## Traps that lanes take on what they read -/

/-- Where no lane meets a trap's condition, the word goes on. -/
theorem ite_lanes_none {ins : SMap LaneIn} {p : Nat × LaneIn → Bool} {trap go : State} (clear : ∀ x ∈ ins, p x = false) :
    (if !(ins.filter p).isEmpty then trap else go) = go := by
  have empty : ins.filter p = [] := List.filter_eq_nil_iff.mpr fun x m => Bool.eq_false_iff.mp (clear x m)
  rw [empty]
  rfl

/-- Where some lane meets a trap's condition, the word traps. -/
theorem ite_lanes_some {ins : SMap LaneIn} {p : Nat × LaneIn → Bool} {trap go : State} (met : ∃ x ∈ ins, p x = true) :
    (if !(ins.filter p).isEmpty then trap else go) = trap := by
  obtain ⟨x, m, t⟩ := met
  refine if_pos ?_
  rw [Bool.not_eq_true', List.isEmpty_eq_false_iff_exists_mem]
  exact ⟨x, List.mem_filter.mpr ⟨m, t⟩⟩

/-- 07 R150: without an invalid temperature the word goes on. -/
theorem tempGate_clear {u : State} {ins : SMap LaneIn} {k : State → State} (valid : ∀ x ∈ ins, tempBad x.2.f.temp = false) :
    c.tempGate h u ins k = k u := by
  have empty : (ins.filter fun e => tempBad e.2.f.temp) = [] :=
    List.filter_eq_nil_iff.mpr fun x m => Bool.eq_false_iff.mp (valid x m)
  unfold Ctx.tempGate
  rw [empty]
  rfl

/-- A word that uses the temperature in some forms alone goes on where those find it valid. -/
theorem tempGate_ite {u : State} {ins : SMap LaneIn} {k : State → State} {temp : Bool}
    (valid : temp = true → ∀ x ∈ ins, tempBad x.2.f.temp = false) : (if temp then c.tempGate h u ins k else k u) = k u := by
  split
  next uses => exact tempGate_clear (valid uses)
  next => rfl

/-! ## Products and co-products (07 R152, R154) -/

/-- QLOG.AND and QLOG.OR, each with its function of the codes. -/
def productWords : List ((BitVec 4 → BitVec 4 → BitVec 4 → Instr) × (BitVec 16 → BitVec 16 → BitVec 16)) :=
  [(.qlogAnd, qAnd), (.qlogOr, qOr)]

/-- The form of a QLOG of two operands. -/
def productForm (i : Instr) (d a b : BitVec 4) : Form :=
  { instr := i, badOp := decide (7 < d.toNat) || decide (7 < a.toNat) || decide (7 < b.toNat) }

theorem exec_productWord {e} (he : e ∈ productWords) (d a b : BitVec 4) :
    exec (e.1 d a b) s = s.qBin (productForm (e.1 d a b) d a b) d a b e.2 := by
  simp only [productWords, List.mem_cons, List.not_mem_nil, or_false] at he
  rcases he with rfl | rfl
  case inl => exact exec_qlogAnd s
  case inr => exact exec_qlogOr s

/-- Whether the source sets of two q registers of a fibre meet (07 R154). -/
def sourcesMeet (a b : BitVec 4) (f : Fibre) : Bool := (f.qr a.toNat).srcs &&& (f.qr b.toNat).srcs != 0#8

/-- What a QLOG of two operands leaves in qD (07 R152). -/
def productOf (c : Ctx) (d a b : BitVec 4) (g : BitVec 16 → BitVec 16 → BitVec 16) (f : Fibre) : QReg :=
  let x := f.qr a.toNat
  let y := f.qr b.toNat
  { code := g x.code y.code, srcs := x.srcs ||| y.srcs, dep := x.dep || y.dep || sourcesMeet a b f,
    poison := x.poison || y.poison, tag := qTag c f false [] d.toNat }

theorem qBin_ready {d a b : BitVec 4} (g : BitVec 16 → BitVec 16 → BitVec 16) (r : LaneReady s c h [])
    (clear : ∀ x ∈ s.laneIns c h false [], (sourcesMeet a b x.2.f && x.2.f.qmode.getLsbD 1) = false) :
    s.qBin h d a b g = .next (s.laneMod c h false [] fun _ f => f.setQ d.toNat (productOf c d a b g f)) :=
  (laneOp_ready false _ r).trans (congrArg Host.Outcome.next (ite_lanes_none clear))

/-- 07 R154: the trap is taken on the state as the operands were read, and names the lanes that enable it and meet it. -/
theorem qBin_trap {d a b : BitVec 4} (g : BitVec 16 → BitVec 16 → BitVec 16) (r : LaneReady s c h [])
    (met : ∃ x ∈ s.laneIns c h false [], (sourcesMeet a b x.2.f && x.2.f.qmode.getLsbD 1) = true) :
    s.qBin h d a b g = .next (c.trap (s.laneRead c h false []) h (s.laneIns c h false []) cDepend
      (((s.laneIns c h false []).filter fun x => sourcesMeet a b x.2.f && x.2.f.qmode.getLsbD 1).map (·.2.f.lane)) []) :=
  (laneOp_ready false _ r).trans (congrArg Host.Outcome.next (ite_lanes_some met))

/-! ## Blends and gradients (07 R155, R157) -/

/-- A code strictly between the two exact ones blends. -/
theorem blends_eq (q : BitVec 16) :
    (decide (0 < q.toNat) && decide (q.toNat < 65535)) = !decide (q = 0#16 ∨ q = 0xFFFF#16) := by
  rw [Bool.eq_iff_iff]
  simp only [Bool.and_eq_true, decide_eq_true_eq, Bool.not_eq_true', decide_eq_false_iff_not]
  bv_omega

/-- The rounded blend of D and A by the fraction in qK. -/
def blendOf (k : BitVec 4) (x : LaneIn) : FRes := blendR (x.f.qr k.toNat).code.toNat x.a0.val.toNat x.d0.val.toNat

/-- The flags of a QBLEND: the moving cases raise none. -/
def blendFlags (k : BitVec 4) (x : LaneIn) : Flags :=
  if (x.f.qr k.toNat).code = 0#16 ∨ (x.f.qr k.toNat).code = 0xFFFF#16 then 0#5 else (blendOf k x).2

/-- The result of a QBLEND: D at code 0, A at code 65535, else the blend. -/
def blendResult (c : Ctx) (k : BitVec 4) (x : LaneIn) : List Reg :=
  let q := x.f.qr k.toNat
  if q.code = 0#16 then [{ val := x.d0.val, tag := x.d0.tag, poison := x.d0.poison || q.poison }]
  else if q.code = 0xFFFF#16 then
    [{ val := x.a0.val, tag := moveTag x.f.tagmode x.a0.tag x.d0.tag, poison := x.a0.poison || q.poison }]
  else
    let v := BitVec.ofNat 32 (blendOf k x).1
    [{ val := v, poison := poi [x.a0, x.d0] || q.poison,
       tag := tagpick x.f.tagmode c.here (special32 v) (tagOps special32 [x.a0, x.d0]) x.d0.tag }]

/-- A floating word of one destination word, marked also by the poison of a q register. -/
theorem fpWord_marked {d : BitVec 8} (hd : h.dst = some (d, 1)) (f : Fibre) (v : Word) (sp : Bool) (ops : List TagOp)
    (read : List Reg) (p : Bool) :
    { fpWord c h (laneIn c h f) v sp ops read with poison := (fpWord c h (laneIn c h f) v sp ops read).poison || p } =
      { val := v, tag := tagpick f.tagmode c.here sp ops (laneIn c h f).d0.tag, poison := poi read || p : Reg } := by
  unfold fpWord
  rw [oldTags_one hd (c := c)]
  rfl

/-- The form of a QBLEND: the code says which of A and D a lane reads. -/
def blendForm (n : BitVec 1) (d a : BitVec 8) (k : BitVec 4) (l : Word) : Form :=
  { qgradForm (.qblend n d a k l) n d a k l with reads := .blend k.toNat }

/-- A ready QBLEND whose lanes meet no floating trap. -/
theorem execQblend_ready {n : BitVec 1} {d a : BitVec 8} {k : BitVec 4} {l : Word} (r : LaneReady s c (blendForm n d a k l) [])
    (quiet : NoFpTrap (s.laneIns c (blendForm n d a k l) true []) (blendFlags k)) :
    execQblend n d a k l s = .next (s.laneBoth c (blendForm n d a k l) true []
      (fun x f => { f with fpmode := f.fpmode ||| (((blendFlags k x).zeroExtend 32) <<< 8) }) (blendResult c k)) := by
  unfold execQblend
  simp only [blends_eq, Bool.not_eq_true', decide_eq_false_iff_not, ite_not]
  refine (laneOp_ready true _ r).trans (congrArg Host.Outcome.next ((fpGate_clear quiet).trans ?_))
  refine congrArg (c.finish (blendForm n d a k l) _) (List.map_congr_left fun e m => ?_)
  unfold blendResult
  by_cases zero : (e.2.f.qr k.toNat).code = 0#16
  · simp [zero, moved_one, moveTag_self, LaneIn.d0]
  by_cases one : (e.2.f.qr k.toNat).code = 0xFFFF#16
  · simp [one, moved_one, LaneIn.d0]
  · simp only [zero, one, or_self, if_false]
    rw [inputs_of_mem m]
    exact congrArg (fun w => (e.1, [w])) (fpWord_marked rfl ..)

/-- The words of QGRAD: whether a form uses the temperature, whether it reads D, and its function. -/
def gradWords : List ((BitVec 1 → BitVec 8 → BitVec 8 → BitVec 4 → Word → Instr) × Bool × Bool × (FVal → Nat → Nat → Nat → FRes)) :=
  [(.qgradRamp, true, false, gradRamp), (.qgradLogi, true, false, gradLogi), (.qgradAndp, false, false, gradAndp),
    (.qgradOrp, false, false, gradOrp), (.qgradNot, false, false, gradNot), (.qgradBlendq, false, true, gradBlendq)]

theorem exec_gradWord {e} (he : e ∈ gradWords) (n : BitVec 1) (d a : BitVec 8) (k : BitVec 4) (l : Word) :
    exec (e.1 n d a k l) s = s.qgrad (qgradForm (e.1 n d a k l) n d a k l) k e.2.1 e.2.2.1 e.2.2.2 := by
  simp only [gradWords, List.mem_cons, List.not_mem_nil, or_false] at he
  rcases he with rfl | rfl | rfl | rfl | rfl | rfl
  · exact exec_qgradRamp s
  · exact exec_qgradLogi s
  · exact exec_qgradAndp s
  · exact exec_qgradOrp s
  · exact exec_qgradNot s
  · exact exec_qgradBlendq s

/-- The rounded factor times g in a lane (07 R157). -/
def gradOf (g : FVal → Nat → Nat → Nat → FRes) (k : BitVec 4) (x : LaneIn) : FRes :=
  g x.f.temp (x.f.qr k.toNat).code.toNat x.a0.val.toNat x.d0.val.toNat

/-- The result of a QGRAD; `read` says which words it computes from. -/
def gradWord (c : Ctx) (g : FVal → Nat → Nat → Nat → FRes) (k : BitVec 4) (read : LaneIn → List Reg) (x : LaneIn) : Reg :=
  let v := BitVec.ofNat 32 (gradOf g k x).1
  { val := v, poison := poi (read x) || (x.f.qr k.toNat).poison,
    tag := tagpick x.f.tagmode c.here (special32 v) (tagOps special32 (read x)) x.d0.tag }

/-- A ready QGRAD whose lanes meet no invalid temperature that it would use, and no floating trap. -/
theorem qgrad_ready {d : BitVec 8} (hd : h.dst = some (d, 1)) {k : BitVec 4} {temp : Bool} {g : FVal → Nat → Nat → Nat → FRes}
    (r : LaneReady s c h []) (valid : temp = true → ∀ x ∈ s.laneIns c h acc [], tempBad x.2.f.temp = false)
    (quiet : NoFpTrap (s.laneIns c h acc []) fun x => (gradOf g k x).2) :
    s.qgrad h k temp acc g = .next (s.laneBoth c h acc []
      (fun x f => { f with fpmode := f.fpmode ||| (((gradOf g k x).2.zeroExtend 32) <<< 8) })
      fun x => [gradWord c g k (fun x => if acc then [x.a0, x.d0] else [x.a0]) x]) := by
  refine (laneOp_ready acc _ r).trans (congrArg Host.Outcome.next ((tempGate_ite valid).trans ((fpGate_clear quiet).trans ?_)))
  refine congrArg (c.finish h _) (List.map_congr_left fun e m => ?_)
  rw [inputs_of_mem m]
  exact congrArg (fun w => (e.1, [w])) (fpWord_marked hd ..)

/-! ## Transfers and tags (07 R149, 13 R298) -/

theorem toNat_append_fields (a : BitVec 7) (b : BitVec 1) (c : BitVec 8) (d : BitVec 16) :
    (a ++ b ++ c ++ d).toNat = d.toNat + c.toNat * 2 ^ 16 + b.toNat * 2 ^ 24 + a.toNat * 2 ^ 25 := by
  rw [BitVec.toNat_append, BitVec.toNat_append, BitVec.toNat_append, ← Nat.shiftLeft_add_eq_or_of_lt d.isLt,
    ← Nat.shiftLeft_add_eq_or_of_lt c.isLt, ← Nat.shiftLeft_add_eq_or_of_lt b.isLt]
  simp only [Nat.shiftLeft_eq]
  omega

/-- The image of a q register is its fields side by side. -/
theorem image_eq_append (q : QReg) : q.image = 0#7 ++ BitVec.ofBool q.dep ++ q.srcs ++ q.code := by
  have code := q.code.isLt
  have srcs := q.srcs.isLt
  refine BitVec.eq_of_toNat_eq (Eq.trans ?_ (toNat_append_fields ..).symm)
  unfold QReg.image
  rw [BitVec.toNat_ofBool, BitVec.toNat_ofNat, BitVec.toNat_ofNat]
  cases q.dep
  · simp only [Bool.toNat_false, Bool.false_eq_true, if_false]
    omega
  · simp only [Bool.toNat_true, if_true]
    omega

/-- A ready TAG.READ, TAG.MARK or TAG.COPY. -/
theorem tagOp_ready (g : Ctx → LaneIn → Reg) (r : LaneReady s c h []) :
    s.tagOp h acc g = .next (s.laneEnd c h acc [] fun x =>
      [{ g c x with tag := moveTag x.f.tagmode (g c x).tag x.d0.tag, parity := false }]) :=
  laneOp_ready acc _ r

/-- A value below a bound has nothing above it. -/
theorem above_eq_false {v b : Nat} (below : v < b) : (v / b != 0) = false := by
  rw [Nat.div_eq_of_lt below]
  rfl

end

/-- Settles O13: the lanes that enable the trap and meet it are named, on the state as the operands were read. -/
theorem dependenceTrapIsPrecise : Obligations.DependenceTrapIsPrecise := by
  unfold Obligations.DependenceTrapIsPrecise
  intro mk hmk s c d a b h ins met ready trapping
  obtain ⟨e, he, rfl⟩ := List.mem_map.mp (show mk ∈ productWords.map Prod.fst from hmk)
  exact (exec_productWord he d a b).trans (qBin_trap e.2 ready trapping)

/-- Settles O12: each word's own trap is ruled out by its hypothesis, and what is left changes each active lane's fibre. -/
theorem softPredicateResults : Obligations.SoftPredicateResults := by
  unfold Obligations.SoftPredicateResults
  refine ⟨fun s c cond k a b l ready valid => ?qcmp, fun e he s c d a b ready clear => ?product,
    fun s c d a ready => ?not, fun s c p a k l ready clean => ?draw, fun s c k a l ready below => ?load⟩
  case qcmp =>
    exact (exec_qcmp s).trans ((laneOp_ready false _ ready).trans (congrArg Host.Outcome.next (tempGate_clear valid)))
  case product => exact (exec_productWord he d a b).trans (qBin_ready e.2 ready clear)
  case not => exact (exec_qlogNot s).trans (laneOp_ready false _ ready)
  case draw =>
    refine (exec_qdraw s).trans ((laneOp_ready false _ ready).trans (congrArg Host.Outcome.next (if_neg fun poisoned => ?_)))
    obtain ⟨x, m, bad⟩ := List.any_eq_true.mp poisoned
    exact Bool.noConfusion ((clean x m).symm.trans bad)
  case load =>
    exact (exec_qxferIn s).trans ((laneOp_ready false _ ready).trans
      (congrArg Host.Outcome.next (ite_lanes_none fun x m => above_eq_false (below x m))))

/-- Settles O14: no lane traps, so the sticky flags and the results follow. -/
theorem softBlendAndGradients : Obligations.SoftBlendAndGradients := by
  unfold Obligations.SoftBlendAndGradients
  refine ⟨fun s c n d a k l ready quiet => ?blend, fun e he s c n d a k l ready valid quiet => ?grad⟩
  case blend => exact (exec_qblend s).trans (execQblend_ready ready quiet)
  case grad => exact (exec_gradWord he n d a k l).trans (qgrad_ready rfl ready valid quiet)

/-- Settles O15: the transfer writes the image, and each TAG form its word under the movement's tag. -/
theorem softTransferAndTagResults : Obligations.SoftTransferAndTagResults := by
  unfold Obligations.SoftTransferAndTagResults
  refine ⟨fun s c d k ready => ?out, fun s c n d a l ready => ?read, fun s c n d a l ready below => ?write,
    fun s c n d ready => ?mark, fun s c n d a l ready => ?copy⟩
  case out =>
    refine (exec_qxferOut s).trans ((laneOp_ready false _ ready).trans ?_)
    simp only [image_eq_append, moved_one]
    rfl
  case read => exact (exec_tagRead s).trans (tagOp_ready (fun c x => { val := x.a0.tag.zeroExtend 32, tag := c.here }) ready)
  case write =>
    exact (exec_tagWrite s).trans ((laneOp_ready true _ ready).trans
      (congrArg Host.Outcome.next (ite_lanes_none fun x m => above_eq_false (below x m))))
  case mark => exact (exec_tagMark s).trans (tagOp_ready (fun c x => { x.d0 with tag := c.here }) ready)
  case copy => exact (exec_tagCopy s).trans (tagOp_ready (fun _ x => { x.d0 with tag := x.a0.tag }) ready)

end Sys2Proof.Proofs

namespace Sys2Proof.Proofs

/-!
PROOFS. One step (log 2): the fetch of a word and the turns of its parties (02 R33, 09 R185, R199, R200), and the order of a core
cycle within which a turn comes about.
-/

open Sys2Proof.Machine Sys2Proof.Laws

section

variable {s t : State} {w e k n part nwords pc : Nat} {once : Bool} {code : BitVec 64} {x l : Word} {i : Instr} {rest : List Turn}

/-! ## The fetch of a word (09 R185, 22 R387) -/

/-- Only a key of the weight store is in a refresh group (04 R94). -/
theorem wsGroup_eq_none {key : Nat} (other : sortOfKey key ≠ .ws) : wsGroup key = none := by
  unfold wsGroup
  split
  · exact absurd ‹_› other
  · rfl

/-- A code word whose page permits the fetch, and which no refresh window holds up, is the four bytes at its place. -/
theorem fetch1_executable {va : Nat} {lf : Leaf} {pl : Place} (inside : pc < nwords) (global : aperture (codeAddr code pc) = .global va)
    (walked : s.walk part va = .leaf lf) (executable : lf.x = true) (place : s.globalLoc part va false = .mem pl)
    (other : sortOfKey pl.key ≠ .ws) :
    s.fetch1 part code nwords pc = .word (BitVec.ofNat 32 (s.mem.readNat pl.key 4)) 0#32 := by
  simp [State.fetch1, Nat.not_le.mpr inside, global, walked, executable, place, wsGroup_eq_none other]

theorem fetch_bare {y : Word} (word : s.fetch1 part code nwords pc = .word x y) (bare : takesLiteral x = false) :
    s.fetch part code nwords pc = (.word x 0#32, decodeWord x 0#32) := by
  simp [State.fetch, word, bare]

theorem fetch_literal {y z : Word} (word : s.fetch1 part code nwords pc = .word x y) (takes : takesLiteral x = true)
    (next : s.fetch1 part code nwords (pc + 1) = .word l z) : s.fetch part code nwords pc = (.word x l, decodeWord x l) := by
  simp [State.fetch, word, takes, next]

/-- An instruction that a fetch gives is what its words decode to. -/
theorem decodeWord_of_fetch (fetched : s.fetch part code nwords pc = (.word x l, some i)) : decodeWord x l = some i := by
  cases word : s.fetch1 part code nwords pc with
  | word x' y =>
    cases takes : takesLiteral x' with
    | false =>
      obtain ⟨⟨rfl, rfl⟩, decoded⟩ : (x' = x ∧ 0#32 = l) ∧ decodeWord x' 0#32 = some i := by
        simpa only [Prod.mk.injEq, Fetched.word.injEq] using (fetch_bare word takes).symm.trans fetched
      exact decoded
    | true =>
      cases next : s.fetch1 part code nwords (pc + 1) with
      | word l' z =>
        obtain ⟨⟨rfl, rfl⟩, decoded⟩ : (x' = x ∧ l' = l) ∧ decodeWord x' l' = some i := by
          simpa only [Prod.mk.injEq, Fetched.word.injEq] using (fetch_literal word takes next).symm.trans fetched
        exact decoded
      | _ => simp [State.fetch, word, takes, next] at fetched
  | _ => simp [State.fetch, word] at fetched

/-! ## What checking the code's granules keeps (22 R398) -/

theorem touchTags_kept (s : State) (key n : Nat) : Kept s (s.touchTags key n) := by
  unfold State.touchTags
  split
  · exact Kept.refl s
  · refine Kept.foldl (fun t i => ?_) _ s
    split
    · exact ⟨rfl, rfl, rfl, rfl, rfl⟩
    · exact Kept.refl t

theorem touchPlace_kept (s : State) (pl : Place) (n : Nat) (reads : Bool) : Kept s (s.touchPlace pl n reads) := by
  unfold State.touchPlace
  dsimp only
  split
  · exact (touch_kept ..).trans (touchTags_kept ..)
  · exact touch_kept ..

theorem touchLoc_kept (s : State) (at_ : Loc) (n : Nat) (tags : Bool) : Kept s (s.touchLoc at_ n tags) := by
  unfold State.touchLoc
  split
  · split
    · exact Kept.refl s
    · exact touchPlace_kept ..
  · exact Kept.refl s

theorem touchWalk_kept (s : State) (part va : Nat) : Kept s (s.touchWalk part va) := by
  unfold State.touchWalk
  dsimp only
  split
  · exact Kept.refl s
  · exact Kept.foldl (fun _ _ => touch_kept ..) _ s

theorem touchCode_kept (s : State) (part : Nat) (code : BitVec 64) (pc n : Nat) : Kept s (s.touchCode part code pc n) := by
  unfold State.touchCode
  split
  · exact Kept.refl s
  · refine Kept.foldl (fun t i => ?_) _ s
    split
    · exact (touchLoc_kept ..).trans (touchWalk_kept ..)
    · exact Kept.refl t

theorem movers_of_kept (kept : Kept s t) (w : Nat) : t.movers w = s.movers w := by
  simp only [State.movers, State.byLane, State.members, State.weave?, kept.weaves, kept.fibres]

theorem actives_of_kept (kept : Kept s t) (w : Nat) : t.actives w = s.actives w := by
  simp only [State.actives, movers_of_kept kept, State.weave?, kept.weaves]

/-- Memory work leaves what executes as it was. -/
theorem ctxOf_of_kept (kept : Kept s t) (w : Nat) : t.ctxOf w = s.ctxOf w := by
  simp only [State.ctxOf, movers_of_kept kept, actives_of_kept kept, State.weave?, State.pour?, kept.weaves, kept.pours]

/-! ## The turn of a weave (02 R33, 09 R200) -/

/-- A word that decodes to nothing traps in every active lane, which shows it. -/
theorem undecoded_active {c : Ctx} (ctx : s.ctxOf w = some c) (active : c.acts ≠ []) (x : Word) :
    s.undecoded w x = s.trapWeave w
      { cause := undecodedCause x, mask := laneMask c.acts, pc := c.pc
        addrs := c.acts.map fun e => (e.2.lane, x.zeroExtend 64) } := by
  simp [State.undecoded, ctx, active]

section Weave

variable {c : Ctx} (ctx : s.ctxOf w = some c)
include ctx

theorem runWeave_issues (issues : s.canIssue w = true) (picked : s.quadPick c.v.core c.v.quad = some w)
    (passes : s.compares c.pid c.pc = false) : s.runWeave w = s.weaveWord w := by
  simp [State.runWeave, ctx, issues, picked, passes]

theorem weaveWord_owes (owes : c.v.owes = true) : s.weaveWord w = .next (s.payOwed w) := by
  simp [State.weaveWord, ctx, owes]

theorem weaveWord_decoded (paid : c.v.owes = false)
    (fetched : s.fetch c.p.part c.p.code c.p.hdr.nwords c.pc = (.word x l, some i)) :
    s.weaveWord w = exec i { s.touchCode c.p.part c.p.code c.pc (if i.hasLiteral then 2 else 1) with turn := .weave w } := by
  simp [State.weaveWord, ctx, paid, fetched]

theorem weaveWord_undecoded (paid : c.v.owes = false) (active : c.acts ≠ [])
    (fetched : s.fetch c.p.part c.p.code c.p.hdr.nwords c.pc = (.word x l, none)) :
    s.weaveWord w = .next ((s.touchCode c.p.part c.p.code c.pc 1).trapWeave w
      { cause := undecodedCause x, mask := laneMask c.acts, pc := c.pc
        addrs := c.acts.map fun e => (e.2.lane, x.zeroExtend 64) }) := by
  have still := (ctxOf_of_kept (touchCode_kept s c.p.part c.p.code c.pc 1) w).trans ctx
  rw [← undecoded_active still active]
  simp [State.weaveWord, ctx, paid, fetched]

end Weave

/-! ## The turns of engines and Crucibles (03 R80, 14 R305) -/

section Engine

variable {v : Engine} {p : Pour} (engine : s.engine? e = some v) (pour : s.pour? v.pour = some p) (ready : s.engineReady v = true)
include engine pour ready

theorem runEngine_decoded (fetched : s.fetch p.part p.code p.hdr.nwords v.pc = (.word x l, some i)) :
    s.runEngine e = exec i { s.touchCode p.part p.code v.pc (if i.hasLiteral then 2 else 1) with turn := .engine e } := by
  simp [State.runEngine, State.engineWord, engine, pour, ready, fetched]

theorem runEngine_undecoded (fetched : s.fetch p.part p.code p.hdr.nwords v.pc = (.word x l, none)) :
    s.runEngine e = .next ((s.touchCode p.part p.code v.pc 1).trapEngine e cIllegal) := by
  simp [State.runEngine, State.engineWord, engine, pour, ready, fetched]

end Engine

section Crucible

variable {c : Crucible} (crucible : s.crucible? k = some c) (ready : s.crucibleReady k c = true) (fetched : s.fetchCru c = .word x l)
include crucible ready fetched

theorem runCrucible_decoded (decoded : decodeCrucible x = some i) :
    s.runCrucible k = exec i { s.touchCode c.part c.code c.pc 1 with turn := .crucible k } := by
  simp [State.runCrucible, State.crucibleWord, crucible, ready, fetched, decoded]

theorem runCrucible_undecoded (undecoded : decodeCrucible x = none) :
    s.runCrucible k = .next ((s.touchCode c.part c.code c.pc 1).cruHalt k cIllegal) := by
  simp [State.runCrucible, State.crucibleWord, crucible, ready, fetched, undecoded]

end Crucible

/-! ## Events and firmware's words (log 3, log 29) -/

theorem turnStep_event (wf : i.unitsWf = true) (goes : s.unitStalls i = false) :
    s.turnStep (.event i) = exec i { s with turn := .none } := by
  simp [State.turnStep, wf, goes]

theorem turnStep_event_idle (idle : i.unitsWf = false ∨ s.unitStalls i = true) : s.turnStep (.event i) = .next s := by
  rcases idle with absent | stalls
  · simp [State.turnStep, absent]
  · simp [State.turnStep, stalls]

/-- 13 R294: firmware executes the spill and the fill of a tile. -/
theorem runFirmware_tile {core : Nat} (decoded : decodeWord x 0#32 = some i) (tile : ∃ d a, i = .mspill d a ∨ i = .mfill d a) :
    s.runFirmware core part x = exec i { s with turn := .firmware core part } := by
  obtain ⟨d, a, rfl | rfl⟩ := tile
  · simp [State.runFirmware, decoded]
  · simp [State.runFirmware, decoded]

/-! ## The order of a core cycle -/

theorem isPast_iff : s.isPast n once = true ↔ n < s.beat ∨ (once = true ∧ n / 16 = s.beat / 16) := by
  simp [State.isPast]

theorem cue_unplaced {u : Turn} (unplaced : s.place u = none) : s.cue u = s := by
  simp [State.cue, unplaced]

theorem cue_passed {u : Turn} (placed : s.place u = some (n, once)) (passed : s.isPast n once = true) :
    s.cue u = s.passCycle.lookAgain.comeTo n := by
  simp [State.cue, placed, passed]

theorem cue_ahead {u : Turn} (placed : s.place u = some (n, once)) (ahead : s.isPast n once = false) : s.cue u = s.comeTo n := by
  simp [State.cue, placed, ahead]

theorem cued_unplaced {u : Turn} (unplaced : s.place u = none) : s.cued u = s := by
  simp [State.cued, unplaced]

/-- No sample logs where there is none. -/
theorem logAll_unsampled (unsampled : (t.parts.all fun e => e.2.sample.isNone) = true) (s : State) : t.logAll s = t := by
  have none : ∀ e ∈ t.parts, e.2.sample = none := by simpa using unsampled
  calc t.logAll s = t.parts.foldl (fun u _ => u) t := List.foldl_ext _ _ t fun u e m => by simp only [none e m]
    _ = t := List.foldl_fixed t.parts

theorem cued_unsampled {u : Turn} {at_ : Nat × Bool} (placed : s.place u = some at_)
    (unsampled : ((s.cue u).parts.all fun e => e.2.sample.isNone) = true) : s.cued u = { s.cue u with turn := .none } := by
  simp only [State.cued, placed]
  exact logAll_unsampled (t := { s.cue u with turn := .none }) unsampled s

/-- A map whose function leaves every member leaves the list. -/
theorem map_eq_self {α : Type} {f : α → α} {xs : List α} (same : ∀ a ∈ xs, f a = a) : xs.map f = xs :=
  (List.map_congr_left same).trans xs.map_id

/-- Where nobody stalls there is nothing to look at again. -/
theorem lookAgain_unstalled (weaves : (t.weaves.all fun e => e.2.stall.isNone) = true)
    (engines : (t.engines.all fun e => e.2.stall.isNone) = true) (crucibles : (t.crucibles.all fun e => e.2.stall.isNone) = true) :
    t.lookAgain = t := by
  simp only [List.all_eq_true, Option.isNone_iff_eq_none] at weaves engines crucibles
  unfold State.lookAgain
  dsimp only
  rw [map_eq_self fun e (m : e ∈ t.weaves) => by simp only [weaves e m],
    map_eq_self fun e (m : e ∈ t.engines) => by simp only [engines e m],
    map_eq_self fun e (m : e ∈ t.crucibles) => by simp only [crucibles e m]]

/-! ## One step -/

/-- What the agenda names comes about at its place, and is followed by what follows it. -/
theorem step_named {u : Turn} (agenda : s.agenda = u :: rest) :
    step s = (State.cued { s with agenda := rest } u).follow ((State.cued { s with agenda := rest } u).turnStep u) := by
  simp only [step, State.oneStep, agenda]

theorem step_unnamed (agenda : s.agenda = []) :
    step s = (s.cued s.pickTurn).follow (thenCycle s.pickTurn ((s.cued s.pickTurn).turnStep s.pickTurn)) := by
  simp only [step, State.oneStep, agenda]

/-- A step in terms of what its turn does. -/
theorem step_of_turnStep {u : Turn} {o : Out} (agenda : s.agenda = u :: rest)
    (turn : (State.cued { s with agenda := rest } u).turnStep u = o) :
    step s = (State.cued { s with agenda := rest } u).follow o :=
  (step_named agenda).trans (congrArg _ turn)

end

/-- Settles O54: the step is its turn at its place, and each turn that may come about runs the word that its fetch decodes. -/
theorem stepRunsTheDecodedInstruction : Obligations.StepRunsTheDecodedInstruction := by
  unfold Obligations.StepRunsTheDecodedInstruction
  refine ⟨?weave, ?undecoded, ?owes, ?engine, ?crucible, ?event, ?firmware, fun s agenda => step_unnamed agenda, fun s t => ?order,
    fun s t => ⟨fun f => rfl, fun r => rfl, fun weaves engines crucibles unsampled => ?follow⟩, ?fetch1, ?fetch⟩
  case weave =>
    intro s rest w c x l i agenda u ctx issues picked passes paid fetched
    have turn := (runWeave_issues ctx issues picked passes).trans (weaveWord_decoded ctx paid fetched)
    exact ⟨decodeWord_of_fetch fetched, step_of_turnStep agenda turn⟩
  case undecoded =>
    intro s rest w c x l agenda u ctx issues picked passes paid active fetched
    have turn := (runWeave_issues ctx issues picked passes).trans (weaveWord_undecoded ctx paid active fetched)
    exact step_of_turnStep agenda turn
  case owes =>
    intro s rest w c agenda u ctx issues picked passes owes
    have turn := (runWeave_issues ctx issues picked passes).trans (weaveWord_owes ctx owes)
    exact step_of_turnStep agenda turn
  case engine =>
    intro s rest e v p x l i agenda u engine pour ready
    exact ⟨fun fetched => ⟨decodeWord_of_fetch fetched, step_of_turnStep agenda (runEngine_decoded engine pour ready fetched)⟩,
      fun fetched => step_of_turnStep agenda (runEngine_undecoded engine pour ready fetched)⟩
  case crucible =>
    intro s rest k c x l i agenda u crucible ready fetched
    exact ⟨fun decoded => step_of_turnStep agenda (runCrucible_decoded crucible ready fetched decoded),
      fun undecoded => step_of_turnStep agenda (runCrucible_undecoded crucible ready fetched undecoded)⟩
  case event =>
    intro s rest i agenda u
    exact ⟨fun wf goes => step_of_turnStep agenda (turnStep_event wf goes),
      fun idle => step_of_turnStep agenda (turnStep_event_idle idle)⟩
  case firmware =>
    intro s rest core part x i agenda decoded tile
    have named := step_named agenda
    rw [cued_unplaced rfl] at named
    exact named.trans (congrArg _ (runFirmware_tile decoded tile))
  case order =>
    refine ⟨cue_unplaced, fun n once placed notBefore again => ?_, fun n once placed passed => ?_, cued_unplaced,
      fun x placed unsampled => cued_unsampled placed unsampled⟩
    · refine cue_ahead placed (Bool.eq_false_iff.mpr fun past => ?_)
      rcases isPast_iff.mp past with before | ⟨single, same⟩
      · exact Nat.not_le.mpr before notBefore
      · rcases again with several | apart
        · exact Bool.noConfusion (several.symm.trans single)
        · exact apart same
    · exact cue_passed placed (isPast_iff.mpr passed)
  case follow =>
    simp only [State.follow, lookAgain_unstalled weaves engines crucibles, logAll_unsampled unsampled]
  case fetch1 =>
    intro s part nwords pc va code lf pl inside global walked executable place other
    exact fetch1_executable inside global walked executable place other
  case fetch =>
    intro s part nwords pc code x y z l word
    exact ⟨fetch_bare word, fetch_literal word⟩

end Sys2Proof.Proofs

namespace Sys2Proof.Proofs

/-!
PROOFS. The encoding of instruction words (09 R182, R185, R192 to R198, 14 R306, R307): decoding what the encoder gives, for every
instruction and for the words that the spec lists.
-/

open Sys2Proof.Machine Sys2Proof.Laws

/-! ## The round trip of every instruction (09 R182, R185, 14 R306) -/

/-- The decoder reads every encoded instruction back; a step of the machine, the host or the fabric has no word to read. -/
theorem roundTrip (i : Instr) : RoundTrip.Statement i := by
  cases i with
  | iadd n d a b l => exact RoundTrip.iadd n d a b l
  | isub n d a b l => exact RoundTrip.isub n d a b l
  | imul n d a b l => exact RoundTrip.imul n d a b l
  | imulhs n d a b l => exact RoundTrip.imulhs n d a b l
  | imulhz n d a b l => exact RoundTrip.imulhz n d a b l
  | imad n d a b l => exact RoundTrip.imad n d a b l
  | imins n d a b l => exact RoundTrip.imins n d a b l
  | imaxs n d a b l => exact RoundTrip.imaxs n d a b l
  | iminz n d a b l => exact RoundTrip.iminz n d a b l
  | imaxz n d a b l => exact RoundTrip.imaxz n d a b l
  | and n d a b l => exact RoundTrip.and n d a b l
  | or n d a b l => exact RoundTrip.or n d a b l
  | xor n d a b l => exact RoundTrip.xor n d a b l
  | shl n d a b l => exact RoundTrip.shl n d a b l
  | shr n d a b l => exact RoundTrip.shr n d a b l
  | sar n d a b l => exact RoundTrip.sar n d a b l
  | iaddi n d a i l => exact RoundTrip.iaddi n d a i l
  | shimShl n d a s1 l => exact RoundTrip.shimShl n d a s1 l
  | shimShr n d a s1 l => exact RoundTrip.shimShr n d a s1 l
  | shimSar n d a s1 l => exact RoundTrip.shimSar n d a s1 l
  | icmps c k a b l => exact RoundTrip.icmps c k a b l
  | icmpz c k a b l => exact RoundTrip.icmpz c k a b l
  | iadd64 n d a b l => exact RoundTrip.iadd64 n d a b l
  | uniMov n d a l => exact RoundTrip.uniMov n d a l
  | uniNot n d a l => exact RoundTrip.uniNot n d a l
  | uniNeg n d a l => exact RoundTrip.uniNeg n d a l
  | uniAbs n d a l => exact RoundTrip.uniAbs n d a l
  | uniPopc n d a l => exact RoundTrip.uniPopc n d a l
  | uniClz n d a l => exact RoundTrip.uniClz n d a l
  | uniBrev n d a l => exact RoundTrip.uniBrev n d a l
  | uniSext8 n d a l => exact RoundTrip.uniSext8 n d a l
  | uniSext16 n d a l => exact RoundTrip.uniSext16 n d a l
  | uniBswap n d a l => exact RoundTrip.uniBswap n d a l
  | fadd n d a b l => exact RoundTrip.fadd n d a b l
  | fsub n d a b l => exact RoundTrip.fsub n d a b l
  | fmul n d a b l => exact RoundTrip.fmul n d a b l
  | ffma n d a b l => exact RoundTrip.ffma n d a b l
  | fmin n d a b l => exact RoundTrip.fmin n d a b l
  | fmax n d a b l => exact RoundTrip.fmax n d a b l
  | fcmp c k a b l => exact RoundTrip.fcmp c k a b l
  | fabs n d a l => exact RoundTrip.fabs n d a l
  | fneg n d a l => exact RoundTrip.fneg n d a l
  | frcp n d a l => exact RoundTrip.frcp n d a l
  | frsq n d a l => exact RoundTrip.frsq n d a l
  | fsqrt n d a l => exact RoundTrip.fsqrt n d a l
  | fexp2 n d a l => exact RoundTrip.fexp2 n d a l
  | flog2 n d a l => exact RoundTrip.flog2 n d a l
  | frint n d a l => exact RoundTrip.frint n d a l
  | ffloor n d a l => exact RoundTrip.ffloor n d a l
  | fceil n d a l => exact RoundTrip.fceil n d a l
  | hadd2 n d a b l => exact RoundTrip.hadd2 n d a b l
  | hfma2 n d a b l => exact RoundTrip.hfma2 n d a b l
  | badd2 n d a b l => exact RoundTrip.badd2 n d a b l
  | bfma2 n d a b l => exact RoundTrip.bfma2 n d a b l
  | cvt n d a v l => exact RoundTrip.cvt n d a v l
  | selp n d a s1 k l => exact RoundTrip.selp n d a s1 k l
  | shfx n d a b l => exact RoundTrip.shfx n d a b l
  | shfn n d a b l => exact RoundTrip.shfn n d a b l
  | shfup n d a b l => exact RoundTrip.shfup n d a b l
  | shfdn n d a b l => exact RoundTrip.shfdn n d a b l
  | xchb n s1 => exact RoundTrip.xchb n s1
  | voteBallot n d k => exact RoundTrip.voteBallot n d k
  | voteAny n d k => exact RoundTrip.voteAny n d k
  | voteAll n d k => exact RoundTrip.voteAll n d k
  | rhad n d a b l => exact RoundTrip.rhad n d a b l
  | ld32 r d a o => exact RoundTrip.ld32 r d a o
  | ld64 r d a o => exact RoundTrip.ld64 r d a o
  | ld128 r d a o => exact RoundTrip.ld128 r d a o
  | ldnZ8 r d a => exact RoundTrip.ldnZ8 r d a
  | ldnS8 r d a => exact RoundTrip.ldnS8 r d a
  | ldnZ16 r d a => exact RoundTrip.ldnZ16 r d a
  | ldnS16 r d a => exact RoundTrip.ldnS16 r d a
  | st32 r s1 a o l => exact RoundTrip.st32 r s1 a o l
  | st64 r s1 a o l => exact RoundTrip.st64 r s1 a o l
  | st128 r s1 a o => exact RoundTrip.st128 r s1 a o
  | stnB8 r s1 a l => exact RoundTrip.stnB8 r s1 a l
  | stnB16 r s1 a l => exact RoundTrip.stnB16 r s1 a l
  | stp s1 a b l => exact RoundTrip.stp s1 a b l
  | atadd c d a b l => exact RoundTrip.atadd c d a b l
  | atmaxs c d a b l => exact RoundTrip.atmaxs c d a b l
  | atmaxz c d a b l => exact RoundTrip.atmaxz c d a b l
  | atexch c d a b l => exact RoundTrip.atexch c d a b l
  | atcas c d a b l => exact RoundTrip.atcas c d a b l
  | qcmp c k a b l => exact RoundTrip.qcmp c k a b l
  | qlogAnd d a b => exact RoundTrip.qlogAnd d a b
  | qlogOr d a b => exact RoundTrip.qlogOr d a b
  | qlogNot d a => exact RoundTrip.qlogNot d a
  | qblend n d a k l => exact RoundTrip.qblend n d a k l
  | qdraw p a k l => exact RoundTrip.qdraw p a k l
  | qgradRamp n d a k l => exact RoundTrip.qgradRamp n d a k l
  | qgradLogi n d a k l => exact RoundTrip.qgradLogi n d a k l
  | qgradAndp n d a k l => exact RoundTrip.qgradAndp n d a k l
  | qgradOrp n d a k l => exact RoundTrip.qgradOrp n d a k l
  | qgradNot n d a k l => exact RoundTrip.qgradNot n d a k l
  | qgradBlendq n d a k l => exact RoundTrip.qgradBlendq n d a k l
  | qxferOut d k => exact RoundTrip.qxferOut d k
  | qxferIn k a l => exact RoundTrip.qxferIn k a l
  | tagRead n d a l => exact RoundTrip.tagRead n d a l
  | tagWrite n d a l => exact RoundTrip.tagWrite n d a l
  | tagMark n d => exact RoundTrip.tagMark n d
  | tagCopy n d a l => exact RoundTrip.tagCopy n d a l
  | br o => exact RoundTrip.br o
  | brp k s1 o => exact RoundTrip.brp k s1 o
  | bru a o => exact RoundTrip.bru a o
  | call o => exact RoundTrip.call o
  | ret => exact RoundTrip.ret
  | brx a l => exact RoundTrip.brx a l
  | fend => exact RoundTrip.fend
  | fspawn d a l => exact RoundTrip.fspawn d a l
  | yield => exact RoundTrip.yield
  | guard s1 k n => exact RoundTrip.guard s1 k n
  | memb a l => exact RoundTrip.memb a l
  | jarm n => exact RoundTrip.jarm n
  | join n a l => exact RoundTrip.join n a l
  | jget d n w => exact RoundTrip.jget d n w
  | cjoin a l => exact RoundTrip.cjoin a l
  | cleave => exact RoundTrip.cleave
  | bar => exact RoundTrip.bar
  | pbarr a => exact RoundTrip.pbarr a
  | pbwait a p => exact RoundTrip.pbwait a p
  | fork a l => exact RoundTrip.fork a l
  | rdv => exact RoundTrip.rdv
  | rnext d => exact RoundTrip.rnext d
  | epush a b => exact RoundTrip.epush a b
  | epop d a => exact RoundTrip.epop d a
  | tspawn d a => exact RoundTrip.tspawn d a
  | tsig a b l => exact RoundTrip.tsig a b l
  | ckpt => exact RoundTrip.ckpt
  | gld r d a o => exact RoundTrip.gld r d a o
  | gst r s1 a o l => exact RoundTrip.gst r s1 a o l
  | fencePour => exact RoundTrip.fencePour
  | fenceDev => exact RoundTrip.fenceDev
  | rcopy d a => exact RoundTrip.rcopy d a
  | rpat d a => exact RoundTrip.rpat d a
  | put d a => exact RoundTrip.put d a
  | wwait a b l => exact RoundTrip.wwait a b l
  | shld n a => exact RoundTrip.shld n a
  | shst n a => exact RoundTrip.shst n a
  | shset n a b l => exact RoundTrip.shset n a b l
  | shget d n b l => exact RoundTrip.shget d n b l
  | mldw a b l => exact RoundTrip.mldw a b l
  | mmul d a b l => exact RoundTrip.mmul d a b l
  | mmulResume d a b l => exact RoundTrip.mmulResume d a b l
  | mdrain d a => exact RoundTrip.mdrain d a
  | mzero d l => exact RoundTrip.mzero d l
  | mspill d a => exact RoundTrip.mspill d a
  | mfill d a => exact RoundTrip.mfill d a
  | trap c => exact RoundTrip.trap c
  | hret => exact RoundTrip.hret
  | get d r => exact RoundTrip.get d r
  | set a r l => exact RoundTrip.set a r l
  | bkpt c => exact RoundTrip.bkpt c
  | nop => exact RoundTrip.nop
  | halt => exact RoundTrip.halt
  | gadd n d a b l => exact RoundTrip.gadd n d a b l
  | gsub n d a b l => exact RoundTrip.gsub n d a b l
  | gmul n d a b l => exact RoundTrip.gmul n d a b l
  | gand n d a b l => exact RoundTrip.gand n d a b l
  | gor n d a b l => exact RoundTrip.gor n d a b l
  | gxor n d a b l => exact RoundTrip.gxor n d a b l
  | gshl n d a b l => exact RoundTrip.gshl n d a b l
  | gshr n d a b l => exact RoundTrip.gshr n d a b l
  | gsar n d a b l => exact RoundTrip.gsar n d a b l
  | gaddi n d a i l => exact RoundTrip.gaddi n d a i l
  | gcmps c k a b l => exact RoundTrip.gcmps c k a b l
  | gcmpz c k a b l => exact RoundTrip.gcmpz c k a b l
  | gadd64 n d a b l => exact RoundTrip.gadd64 n d a b l
  | cldy d a b s1 f => exact RoundTrip.cldy d a b s1 f
  | csty d a b m s1 f => exact RoundTrip.csty d a b m s1 f
  | cldc d a i => exact RoundTrip.cldc d a i
  | cmovc d a u => exact RoundTrip.cmovc d a u
  | caddc d a b s1 => exact RoundTrip.caddc d a b s1
  | csubc d a b => exact RoundTrip.csubc d a b
  | cmulc d a b => exact RoundTrip.cmulc d a b
  | cbnz a o => exact RoundTrip.cbnz a o
  | cjmp o => exact RoundTrip.cjmp o
  | cfma d a b => exact RoundTrip.cfma d a b
  | cmul d a b => exact RoundTrip.cmul d a b
  | cadd d a b => exact RoundTrip.cadd d a b
  | csub d a b => exact RoundTrip.csub d a b
  | cmax d a b => exact RoundTrip.cmax d a b
  | cmin d a b => exact RoundTrip.cmin d a b
  | crsq d a => exact RoundTrip.crsq d a
  | csqrt d a => exact RoundTrip.csqrt d a
  | csplat d a => exact RoundTrip.csplat d a
  | ccvt d a b m f => exact RoundTrip.ccvt d a b m f
  | cpair d a b m f => exact RoundTrip.cpair d a b m f
  | cepop d a => exact RoundTrip.cepop d a
  | ctsig a b => exact RoundTrip.ctsig a b
  | chalt => exact RoundTrip.chalt
  | cfence => exact RoundTrip.cfence
  | _ => exact fun _ _ word => nomatch word

/-- Settles O59: the round trip of each constructor is its own lemma of the family RoundTrip. -/
theorem everyEncodedInstructionDecodes : Obligations.EveryEncodedInstructionDecodes :=
  fun i w wf word => roundTrip i wf w word

/-! ## Tables of words -/

/-- A Greoskane word decodes where its instruction encodes to it (09 R185). -/
theorem decodeWord_of_encodeWord {i : Instr} {w : Word} (wf : i.wf = true) (greoskane : i.isCrucible = false)
    (word : encodeWord i = some w) : decodeWord w i.literal = some i := by
  have trip := roundTrip i wf w word
  rw [greoskane] at trip
  exact trip.1

/-- A Crucible word decodes by the Crucible's map where its instruction encodes to it (14 R306). -/
theorem decodeCrucible_of_encodeWord {i : Instr} {w : Word} (wf : i.wf = true) (crucible : i.isCrucible = true)
    (word : encodeWord i = some w) : decodeCrucible w = some i := by
  have trip := roundTrip i wf w word
  rw [crucible] at trip
  exact trip

/-- So a table of words with their literals needs only the encoder. -/
theorem table_decodes {table : List (Word × Word × Instr)}
    (encodes : ∀ e ∈ table, (e.2.2.wf = true ∧ e.2.2.isCrucible = false) ∧ encodeWord e.2.2 = some e.1 ∧ e.2.2.literal = e.2.1) :
    ∀ e ∈ table, decodeWord e.1 e.2.1 = some e.2.2 ∧ encodeWord e.2.2 = some e.1 ∧ e.2.2.literal = e.2.1 := by
  intro e listed
  obtain ⟨⟨wf, greoskane⟩, word, literal⟩ := encodes e listed
  exact ⟨literal ▸ decodeWord_of_encodeWord wf greoskane word, word, literal⟩

theorem crucibleTable_decodes {table : List (Word × Instr)}
    (encodes : ∀ e ∈ table, (e.2.wf = true ∧ e.2.isCrucible = true) ∧ encodeWord e.2 = some e.1) :
    ∀ e ∈ table, decodeCrucible e.1 = some e.2 := by
  intro e listed
  obtain ⟨⟨wf, crucible⟩, word⟩ := encodes e listed
  exact decodeCrucible_of_encodeWord wf crucible word

/-- Settles O55: the encoder gives the listed words, and the round trip decodes them. -/
theorem encodedWordsDecode : Obligations.EncodedWordsDecode :=
  ⟨table_decodes (by decide), crucibleTable_decodes (by decide)⟩

end Sys2Proof.Proofs

namespace Sys2Proof.Proofs

/-!
PROOFS. The two parts that every lane word with a vector result shares: the reads of its operands mark registers alone, and its
result reaches the latch window and the banks (09 R182, R186 to R189).
-/

section

open Sys2Proof.Machine Sys2Proof.Laws

variable {s t u : State} {f g g' : Fibre}

/-! ## What stays as it was -/

theorem untouched_refl (s : State) : Untouched s s := by constructor <;> rfl

theorem untouched_trans (a : Untouched s t) (b : Untouched t u) : Untouched s u where
  mem := b.mem.trans a.mem
  pours := b.pours.trans a.pours
  engs := b.engs.trans a.engs
  crus := b.crus.trans a.crus
  tasks := b.tasks.trans a.tasks
  parts := b.parts.trans a.parts
  pend := b.pend.trans a.pend
  held := b.held.trans a.held
  cmds := b.cmds.trans a.cmds
  pairs := b.pairs.trans a.pairs
  sync := b.sync.trans a.sync
  hist := b.hist.trans a.hist
  clk := b.clk.trans a.clk
  turn := b.turn.trans a.turn

/-- A fold of changes, each of which leaves the rest as it was, leaves it so. -/
theorem untouched_foldl {β : Type} {step : State → β → State} (each : ∀ t x, Untouched t (step t x)) (l : List β) (s : State) :
    Untouched s (l.foldl step s) :=
  List.foldlRecOn (motive := Untouched s) l step (untouched_refl s) fun _ before x _ => untouched_trans before (each _ x)

theorem modFibre_untouched (s : State) (k φ) : Untouched s (s.modFibre k φ) := by constructor <;> rfl
theorem modFibres_untouched (s : State) (ks φ) : Untouched s (s.modFibres ks φ) := by constructor <;> rfl
theorem modWeave_untouched (s : State) (w φ) : Untouched s (s.modWeave w φ) := by constructor <;> rfl
theorem modCore_untouched (s : State) (c φ) : Untouched s (s.modCore c φ) := by constructor <;> rfl

/-! ## Registers of a window -/

/-- What a register reads after a word of the window is replaced; beyond the window nothing is written. -/
theorem reg_putReg (f : Fibre) (r : Nat) (v : Reg) (j : Nat) :
    (f.putReg r v).reg j = if r = j ∧ r < f.win.length then v else f.reg j := by
  simp only [Fibre.reg, Fibre.putReg, List.getD_eq_getElem?_getD, List.getElem?_set]
  by_cases here : r = j
  · subst here
    by_cases inside : r < f.win.length
    · simp [inside]
    · simp [inside]
  · simp [here]

/-- Writing a register replaces its word, and drops the token that it held. -/
theorem reg_setReg (f : Fibre) (r : Nat) (v : Reg) (j : Nat) :
    (f.setReg r v).reg j = if r = j ∧ r < f.win.length then v else f.reg j :=
  reg_putReg f r v j

theorem setReg_length (f : Fibre) (r : Nat) (v : Reg) : (f.setReg r v).win.length = f.win.length := List.length_set

theorem frame_refl (d k : Nat) (f : Fibre) : FibreFrame d k f f := ⟨rfl, fun _ _ => rfl⟩

theorem frame_trans {d k : Nat} (a : FibreFrame d k f g) (b : FibreFrame d k g g') : FibreFrame d k f g' where
  rest := b.rest.trans (by rw [a.rest])
  regs r outside := (b.regs r outside).trans (a.regs r outside)

/-- A frame around fewer registers is one around more. -/
theorem frame_mono {d k d' k' : Nat} (a : FibreFrame d k f g) (first : d' ≤ d) (last : d + k ≤ d' + k') : FibreFrame d' k' f g :=
  ⟨a.rest, fun r outside => a.regs r (by omega)⟩

theorem setReg_frame (f : Fibre) (r : Nat) (v : Reg) : FibreFrame r 1 f (f.setReg r v) := by
  refine ⟨rfl, fun j outside => ?_⟩
  rw [reg_setReg, if_neg (by omega)]

/-- Successive writes change the registers that they name. -/
theorem setRegs_frame (f : Fibre) (d : Nat) (ws : List Reg) : FibreFrame d ws.length f (f.setRegs d ws) := by
  induction ws generalizing f d with
  | nil => exact frame_refl d 0 f
  | cons v vs ih =>
    have first : FibreFrame d (v :: vs).length f (f.setReg d v) := frame_mono (setReg_frame f d v) (by omega) (by simp)
    have others : FibreFrame d (v :: vs).length (f.setReg d v) (f.setRegs d (v :: vs)) :=
      frame_mono (ih (f.setReg d v) (d + 1)) (by omega) (by simp only [List.length_cons]; omega)
    exact frame_trans first others

/-- Successive writes within the window are read back. -/
theorem reg_setRegs (f : Fibre) (d : Nat) (ws : List Reg) (fits : d + ws.length ≤ f.win.length) {i : Nat} (inside : i < ws.length) :
    (f.setRegs d ws).reg (d + i) = ws[i] := by
  induction ws generalizing f d i with
  | nil => exact absurd inside (by simp)
  | cons v vs ih =>
    have within : d + (vs.length + 1) ≤ f.win.length := fits
    cases i with
    | zero =>
      calc (f.setRegs d (v :: vs)).reg d = (f.setReg d v).reg d := (setRegs_frame (f.setReg d v) (d + 1) vs).regs d (by omega)
        _ = v := by rw [reg_setReg, if_pos ⟨rfl, by omega⟩]
    | succ i =>
      have later := ih (f.setReg d v) (d + 1) (by rw [setReg_length]; omega) (Nat.lt_of_succ_lt_succ inside)
      rw [Nat.add_assoc, Nat.add_comm 1 i] at later
      exact later

/-! ## What reading operands marks (04 R99, 22 R399) -/

/-- The registers of a fibre hold the same data and tags. -/
def SameWords (f g : Fibre) : Prop := ∀ r, (g.reg r).val = (f.reg r).val ∧ (g.reg r).tag = (f.reg r).tag

/-- The second state is the first but for what reads mark: the parity and poison of registers, the clocks of fibres that acquire
what a completed token carries, and the counts of cores. -/
structure ReadsOnly (s t : State) : Prop where
  rest  : Untouched s t
  words : ∀ k f, s.fibre? k = some f → ∃ g, t.fibre? k = some g ∧ SameWords f g

theorem sameWords_refl (f : Fibre) : SameWords f f := fun _ => ⟨rfl, rfl⟩

/-- A word with the data and the tag of the one it replaces. -/
theorem sameWords_putReg {r : Nat} {v : Reg} (val : v.val = (f.reg r).val) (tag : v.tag = (f.reg r).tag) :
    SameWords f (f.putReg r v) := by
  intro j
  rw [reg_putReg]
  split
  · next here => exact here.1 ▸ ⟨val, tag⟩
  · exact ⟨rfl, rfl⟩

theorem readsOnly_refl (s : State) : ReadsOnly s s := ⟨untouched_refl s, fun _ f living => ⟨f, living, sameWords_refl f⟩⟩

theorem readsOnly_trans (a : ReadsOnly s t) (b : ReadsOnly t u) : ReadsOnly s u where
  rest := untouched_trans a.rest b.rest
  words k f living := by
    obtain ⟨g, stays, same⟩ := a.words k f living
    obtain ⟨g', still, same'⟩ := b.words k g stays
    exact ⟨g', still, fun r => ⟨(same' r).1.trans (same r).1, (same' r).2.trans (same r).2⟩⟩

theorem readsOnly_foldl {β : Type} {step : State → β → State} (each : ∀ t x, ReadsOnly t (step t x)) (l : List β) (s : State) :
    ReadsOnly s (l.foldl step s) :=
  List.foldlRecOn (motive := ReadsOnly s) l step (readsOnly_refl s) fun _ before x _ => readsOnly_trans before (each _ x)

theorem readsOnly_modFibre {k : Nat} {φ : Fibre → Fibre} (same : ∀ f, s.fibre? k = some f → SameWords f (φ f)) :
    ReadsOnly s (s.modFibre k φ) where
  rest := modFibre_untouched s k φ
  words j f living := by
    by_cases this : j = k
    · subst this
      exact ⟨φ f, (modFibre_same s j φ).trans (congrArg _ living), same f living⟩
    · exact ⟨f, (modFibre_other s k φ this).trans living, sameWords_refl f⟩

theorem readsOnly_modCore (s : State) (c φ) : ReadsOnly s (s.modCore c φ) :=
  ⟨modCore_untouched s c φ, fun _ f living => ⟨f, living, sameWords_refl f⟩⟩

/-- The acquire of a completed token changes the fibre's clock and region alone (04 R99). -/
theorem acquireClock_readsOnly (s : State) (ks : List Nat) (c : Clock) : ReadsOnly s (s.acquireClock ks c) where
  rest := modFibres_untouched s ks _
  words k f living := by
    rw [State.acquireClock, modFibres_fibre?, living]
    split
    · exact ⟨_, rfl, sameWords_refl f⟩
    · exact ⟨f, rfl, sameWords_refl f⟩

theorem tokenRead_readsOnly (s : State) (fs : List Nat) (code : BitVec 8) (k : Nat) : ReadsOnly s (s.tokenRead fs code k) := by
  unfold State.tokenRead
  split
  · exact readsOnly_refl s
  · refine readsOnly_foldl (fun t _ => ?_) fs s
    split
    · exact readsOnly_refl t
    · refine readsOnly_foldl (fun t _ => ?_) _ t
      split
      · exact readsOnly_refl t
      · exact acquireClock_readsOnly t _ _

/-- Replacing a word that a fibre holds by one of the same data and tag, with a count in its core. -/
theorem mark_readsOnly {k r : Nat} {v : Reg} (living : s.fibre? k = some f) (core : Nat) (count : CoreSt → CoreSt)
    (val : v.val = (f.reg r).val) (tag : v.tag = (f.reg r).tag) :
    ReadsOnly s ((s.modFibre k fun f => f.putReg r v).modCore core count) := by
  refine readsOnly_trans (readsOnly_modFibre fun g there => ?_) (readsOnly_modCore _ core count)
  cases living.symm.trans there
  exact sameWords_putReg val tag

/-- The check of parity corrects or marks words without a change of data or tag (22 R399). -/
theorem parityRead_readsOnly (s : State) (core : Nat) (readers others : List Nat) (code : BitVec 8) (k : Nat) :
    ReadsOnly s (s.parityRead core readers others code k) := by
  unfold State.parityRead
  split
  · exact readsOnly_refl s
  · refine readsOnly_foldl (fun t _ => readsOnly_foldl (fun t _ => ?_) _ t) _ s
    split
    · exact readsOnly_refl t
    · next living =>
      dsimp only
      split
      · exact readsOnly_refl t
      · split <;> exact mark_readsOnly living core _ rfl rfl

theorem readRegs_readsOnly (s : State) (core : Nat) (dark fs : List Nat) (code : BitVec 8) (k : Nat) :
    ReadsOnly s (s.readRegs core dark fs code k) :=
  readsOnly_trans (parityRead_readsOnly s core fs dark code k) (tokenRead_readsOnly _ fs code k)

theorem readOpt_readsOnly (s : State) (core : Nat) (dark fs : List Nat) (o : Option (SKind × BitVec 8)) :
    ReadsOnly s (s.readOpt core dark fs o) := by
  unfold State.readOpt
  split
  · exact readRegs_readsOnly s core dark fs _ _
  · exact readsOnly_refl s

/-- Reading the operands of a lane word (09 R182): A, B, D where the word reads it, and what it names beside its fields. -/
theorem laneRead_readsOnly (s : State) (c : Ctx) (h : Form) (acc : Bool) (extra : List (BitVec 8 × Nat)) :
    ReadsOnly s (s.laneRead c h acc extra) := by
  unfold State.laneRead
  dsimp only
  refine readsOnly_trans ?_ (readsOnly_foldl (fun t e => readRegs_readsOnly t _ _ _ e.1 e.2) extra _)
  have sources := readsOnly_trans (readOpt_readsOnly s c.p.core (c.dark s h) (c.who h (·.a)) h.a)
    (readOpt_readsOnly _ c.p.core (c.dark s h) (c.who h (·.b)) h.b)
  split
  · split
    · exact readsOnly_trans sources (readRegs_readsOnly _ _ _ _ _ _)
    · exact sources
  · exact sources

/-! ## The results of a word, with no injection armed (22 R405) -/

theorem injects_unarmed (unarmed : s.dev.injarm = false) (p trail kind pc lane) : s.injects p trail kind pc lane = false := by
  simp [State.injects, unarmed]

theorem inject_unarmed (unarmed : s.dev.injarm = false) (pid pc lane ws) : s.inject pid pc lane ws = (ws, s) := by
  unfold State.inject
  split
  · simp [injects_unarmed unarmed]
  · rfl

theorem injectAll_unarmed (unarmed : s.dev.injarm = false) (pid pc : Nat) (res : SMap (List Reg)) :
    s.injectAll pid pc res = (res, s) := by
  induction res with
  | nil => rfl
  | cons e rest ih => simp [State.injectAll, inject_unarmed unarmed, ih]

/-- A result goes to the latch window and to the banks as it is (09 R188, R189). -/
theorem result_unarmed (unarmed : s.dev.injarm = false) (w pid pc code nw size res) :
    s.result w pid pc code nw size res = (s.pushLatch w code size res).writeDest code nw res := by
  unfold State.result
  rw [injectAll_unarmed unarmed, ite_self]

theorem finish_unarmed {c : Ctx} {h : Form} {d : BitVec 8} {k : Nat} (dst : h.dst = some (d, k)) (unarmed : s.dev.injarm = false)
    (res : SMap (List Reg)) :
    c.finish h s res = ((s.pushLatch c.w d k res).writeDest d (h.nw == 1#1) res).after c.w h.len true false := by
  unfold Ctx.finish
  rw [dst]
  exact congrArg (fun t => State.after t c.w h.len true false) (result_unarmed unarmed ..)

/-! ## What the banks of a fibre take (09 R186, R189) -/

/-- The results that stand for a fibre, in the order in which they are written. -/
def resultsOf (res : SMap (List Reg)) (k : Nat) : List (List Reg) := (res.filter fun e => e.1 == k).map (·.2)

/-- A fibre once its results stand in its window, which a word that is `.NW` or names 240 leaves as it was. -/
def banked (code : BitVec 8) (nw : Bool) (res : SMap (List Reg)) (k : Nat) (f : Fibre) : Fibre :=
  if nw || decide (240 ≤ code.toNat) then f else (resultsOf res k).foldl (fun f ws => f.setRegs code.toNat ws) f

theorem resultsOf_cons_same (res : SMap (List Reg)) (k : Nat) (ws : List Reg) : resultsOf ((k, ws) :: res) k = ws :: resultsOf res k := by
  simp [resultsOf]

theorem resultsOf_cons_other (res : SMap (List Reg)) {j k : Nat} (other : j ≠ k) (ws : List Reg) :
    resultsOf ((j, ws) :: res) k = resultsOf res k := by
  simp [resultsOf, other]

theorem mem_of_get? {α : Type} {m : SMap α} {k : Nat} {v : α} (found : SMap.get? m k = some v) : (k, v) ∈ m := by
  induction m with
  | nil => cases found
  | cons e m ih =>
    obtain ⟨j, w⟩ := e
    rw [SMap.get?] at found
    split at found
    · next this =>
      cases found
      exact this ▸ List.mem_cons_self
    · exact List.mem_cons_of_mem _ (ih found)

/-- A fibre whose name is not listed has no result. -/
theorem resultsOf_of_not_mem {res : SMap (List Reg)} {k : Nat} (absent : k ∉ res.map (·.1)) : resultsOf res k = [] := by
  rw [resultsOf, List.map_eq_nil_iff, List.filter_eq_nil_iff]
  exact fun e listed named => absent (List.mem_map.mpr ⟨e, listed, eq_of_beq named⟩)

theorem get?_eq_none_iff {α : Type} (m : SMap α) (k : Nat) : SMap.get? m k = none ↔ k ∉ m.map (·.1) := by
  induction m with
  | nil => simp [SMap.get?]
  | cons e m ih =>
    obtain ⟨j, v⟩ := e
    by_cases this : j = k
    · simp [SMap.get?, this]
    · simp [SMap.get?, this, ih, Ne.symm this]

/-- Where names are listed once, the result that is found is the only one. -/
theorem resultsOf_of_get? {res : SMap (List Reg)} {k : Nat} {ws : List Reg} (once : (res.map (·.1)).Nodup)
    (found : SMap.get? res k = some ws) : resultsOf res k = [ws] := by
  induction res with
  | nil => cases found
  | cons e res ih =>
    obtain ⟨j, vs⟩ := e
    obtain ⟨absent, once⟩ := List.nodup_cons.mp once
    by_cases this : j = k
    · subst this
      rw [SMap.get?, if_pos rfl] at found
      cases found
      rw [resultsOf_cons_same, resultsOf_of_not_mem absent]
    · rw [SMap.get?, if_neg this] at found
      rw [resultsOf_cons_other res this, ih once found]

theorem banked_nw (code : BitVec 8) (res : SMap (List Reg)) (k : Nat) (f : Fibre) : banked code true res k f = f := rfl

theorem banked_of_get?_none {code : BitVec 8} {nw : Bool} {res : SMap (List Reg)} {k : Nat} (f : Fibre)
    (absent : SMap.get? res k = none) : banked code nw res k f = f := by
  rw [banked, resultsOf_of_not_mem ((get?_eq_none_iff res k).mp absent), List.foldl_nil, ite_self]

/-- Results of `n` words change the `n` registers from D. -/
theorem banked_frame {code : BitVec 8} {nw : Bool} {res : SMap (List Reg)} {n : Nat} (size : ∀ e ∈ res, e.2.length = n)
    (k : Nat) (f : Fibre) : FibreFrame code.toNat n f (banked code nw res k f) := by
  unfold banked
  split
  · exact frame_refl ..
  · refine List.foldlRecOn (motive := FibreFrame code.toNat n f) _ _ (frame_refl ..) fun g before ws listed => ?_
    obtain ⟨e, mem, rfl⟩ := List.mem_map.mp listed
    exact frame_trans before (size e (List.mem_filter.mp mem).1 ▸ setRegs_frame g code.toNat e.2)

/-- A result whose registers lie in the window is read from D on. -/
theorem reg_banked {code : BitVec 8} {res : SMap (List Reg)} {k : Nat} {ws : List Reg} (window : code.toNat < 240)
    (once : (res.map (·.1)).Nodup) (found : SMap.get? res k = some ws) (fits : code.toNat + ws.length ≤ f.win.length) {i : Nat}
    (inside : i < ws.length) : (banked code false res k f).reg (code.toNat + i) = ws[i] := by
  have writes : banked code false res k f = f.setRegs code.toNat ws := by
    rw [banked, resultsOf_of_get? once found, if_neg (by simpa using window)]
    rfl
  rw [writes, reg_setRegs f code.toNat ws fits inside]

theorem writeDest_fibre? (s : State) (code : BitVec 8) (nw : Bool) (res : SMap (List Reg)) (k : Nat) :
    (s.writeDest code nw res).fibre? k = (s.fibre? k).map (banked code nw res k) := by
  unfold State.writeDest banked
  split
  · exact (congrFun Option.map_id (s.fibre? k)).symm
  · induction res generalizing s with
    | nil => exact (congrFun Option.map_id (s.fibre? k)).symm
    | cons e res ih =>
      obtain ⟨j, ws⟩ := e
      rw [List.foldl_cons, ih]
      by_cases this : j = k
      · subst this
        rw [modFibre_same, Option.map_map, resultsOf_cons_same]
        rfl
      · rw [modFibre_other _ _ _ (Ne.symm this), resultsOf_cons_other res this]

theorem writeDest_weaves (s : State) (code : BitVec 8) (nw : Bool) (res : SMap (List Reg)) :
    (s.writeDest code nw res).weaves = s.weaves := by
  unfold State.writeDest
  split
  · rfl
  · exact List.foldlRecOn (motive := fun t : State => t.weaves = s.weaves) res _ rfl fun _ before _ _ => before

theorem writeDest_untouched (s : State) (code : BitVec 8) (nw : Bool) (res : SMap (List Reg)) :
    Untouched s (s.writeDest code nw res) := by
  unfold State.writeDest
  split
  · exact untouched_refl s
  · exact untouched_foldl (fun t e => modFibre_untouched t e.1 _) res s

/-- The newest entry of the latch window holds, at each lane of the weave with a result, that result (09 R188). -/
theorem pushLatch_newest {w : Nat} {v : Weave} (code : BitVec 8) (size : Nat) (res : SMap (List Reg)) (weave : s.weave? w = some v) :
    ∃ v' e rest, (s.pushLatch w code size res).weave? w = some v' ∧ v'.latches = e :: rest ∧ e.size = size ∧ e.dead = false ∧
      ∀ x ∈ s.byLane w, ∀ ws, SMap.get? res x.1 = some ws → (x.2.lane, ws) ∈ e.words := by
  refine ⟨_, _, _, (modWeave_same ..).trans (congrArg _ weave), rfl, rfl, rfl, fun x member ws found => ?_⟩
  refine List.mem_map.mpr ⟨x, member, ?_⟩
  rw [found]

/-! ## The progress of a weave -/

theorem after_untouched (s : State) (w len : Nat) (lane : Bool) : Untouched s (s.after w len lane false) := by
  unfold State.after
  dsimp only
  rw [if_neg Bool.false_ne_true]
  have moved (ks : List Nat) (n : Nat) (φ : Weave → Weave) : Untouched s ((s.goTo ks n).modWeave w φ) :=
    untouched_trans (modFibres_untouched s ks _) (modWeave_untouched _ w φ)
  split
  · exact moved ..
  · exact untouched_trans (moved ..) (untouched_trans (modWeave_untouched ..) (modCore_untouched ..))

/-- A fibre keeps all but its word (02 R33). -/
theorem after_fibre? {k : Nat} (living : s.fibre? k = some f) (w len : Nat) (lane : Bool) :
    ∃ pc, (s.after w len lane false).fibre? k = some { f with pc := pc } := by
  have moved (ks : List Nat) (n : Nat) : ∃ pc, (s.goTo ks n).fibre? k = some { f with pc := pc } := by
    rw [State.goTo, modFibres_fibre?, living]
    split
    · exact ⟨n, rfl⟩
    · exact ⟨f.pc, rfl⟩
  unfold State.after
  dsimp only
  rw [if_neg Bool.false_ne_true]
  split <;> exact moved _ _

theorem modWeave_found {w : Nat} {v : Weave} (weave : s.weave? w = some v) (φ : Weave → Weave) :
    (s.modWeave w φ).weave? w = some (φ v) :=
  (modWeave_same s w φ).trans (congrArg _ weave)

/-- A word that is no yield point leaves the latch window (02 R54). -/
theorem after_latches {w : Nat} {v : Weave} (weave : s.weave? w = some v) (len : Nat) (lane : Bool) :
    ∃ v', (s.after w len lane false).weave? w = some v' ∧ v'.latches = v.latches := by
  unfold State.after
  dsimp only
  rw [if_neg Bool.false_ne_true, modWeave_found (s := s.goTo _ _) weave]
  exact ⟨_, modWeave_found (modWeave_found (s := s.goTo _ _) weave _) _, rfl⟩

/-! ## The end of a lane word -/

section Finish

variable {c : Ctx} {h : Form} {d : BitVec 8} {k : Nat} (dst : h.dst = some (d, k)) (unarmed : s.dev.injarm = false)
include dst unarmed

theorem finish_untouched (res : SMap (List Reg)) : Untouched s (c.finish h s res) := by
  rw [finish_unarmed dst unarmed]
  have pushed : Untouched s (s.pushLatch c.w d k res) := modWeave_untouched s c.w _
  exact untouched_trans (untouched_trans pushed (writeDest_untouched _ d _ res)) (after_untouched _ c.w h.len true)

/-- A fibre has its results in its window and stands at some word; all else is as it was. -/
theorem finish_fibre? (res : SMap (List Reg)) {i : Nat} (living : s.fibre? i = some f) :
    ∃ pc, (c.finish h s res).fibre? i = some { banked d (h.nw == 1#1) res i f with pc := pc } := by
  rw [finish_unarmed dst unarmed]
  refine after_fibre? ?_ c.w h.len true
  rw [writeDest_fibre?]
  exact congrArg _ living

theorem finish_newest (res : SMap (List Reg)) {v : Weave} (weave : s.weave? c.w = some v) :
    ∃ v' e rest, (c.finish h s res).weave? c.w = some v' ∧ v'.latches = e :: rest ∧ e.size = k ∧ e.dead = false ∧
      ∀ x ∈ s.byLane c.w, ∀ ws, SMap.get? res x.1 = some ws → (x.2.lane, ws) ∈ e.words := by
  rw [finish_unarmed dst unarmed]
  obtain ⟨v', e, rest, pushed, latches, entry⟩ := pushLatch_newest d k res weave
  have written : ((s.pushLatch c.w d k res).writeDest d (h.nw == 1#1) res).weave? c.w = some v' := by
    rw [State.weave?, writeDest_weaves]
    exact pushed
  obtain ⟨v'', stands, same⟩ := after_latches written h.len true
  exact ⟨v'', e, rest, stands, same.trans latches, entry⟩

end Finish

/-! ## O57 and O58 -/

/-- Settles O57: the entry that `pushLatch` makes stays the newest, and each fibre's window is `banked`. -/
theorem resultsReachLatchAndRegister : Obligations.ResultsReachLatchAndRegister := by
  intro t c v h d k res dst unarmed weave once size
  refine ⟨finish_newest dst unarmed res weave, fun nw i f living => ?_, fun banks window i f ws living found fits => ?_⟩
  · obtain ⟨pc, ends⟩ := finish_fibre? (c := c) dst unarmed res living
    rw [nw] at ends
    exact ⟨_, ends, fun _ => rfl⟩
  · obtain ⟨pc, ends⟩ := finish_fibre? (c := c) dst unarmed res living
    rw [banks] at ends
    have words : ws.length = k := size (i, ws) (mem_of_get? found)
    refine ⟨_, ends, fun j inside => ?_⟩
    have within : j < ws.length := words ▸ inside
    rw [List.getElem?_eq_getElem within]
    exact congrArg some (reg_banked window once found (words ▸ fits) within)

/-- Settles O58: each read marks alone, and of a fibre only its word and what is `banked` change. -/
theorem laneWordsChangeOnlyTheirDestination : Obligations.LaneWordsChangeOnlyTheirDestination := by
  refine ⟨fun s c h acc extra => ?_, fun t c h d k res dst unarmed size => ⟨finish_untouched dst unarmed res, fun i f living => ?_⟩⟩
  · obtain ⟨rest, words⟩ := laneRead_readsOnly s c h acc extra
    exact ⟨rest, words⟩
  · obtain ⟨pc, ends⟩ := finish_fibre? (c := c) dst unarmed res living
    obtain ⟨rest, regs⟩ := banked_frame (nw := h.nw == 1#1) size i f
    refine ⟨_, ends, ⟨by rw [rest], regs⟩, fun absent r => ?_⟩
    show (banked d (h.nw == 1#1) res i f).reg r = f.reg r
    rw [banked_of_get?_none f absent]

end

end Sys2Proof.Proofs

namespace Sys2Proof.Proofs

/-!
PROOFS. Lane arithmetic (10 R202 to R216): the integer and floating functions as the spec writes them, what each lane word does once
it is ready, and the traps and the consumed poison of those that take them.
-/

section

open Sys2Proof.Machine Sys2Proof.Laws

variable {s : State} {c : Ctx} {h : Form} {acc : Bool} {extra : List (BitVec 8 × Nat)}

/-! ## Results as a lane writes them -/

/-- The prior tags of a destination are those of the words read from it. -/
theorem oldTags_getD (f : Fibre) (i : Nat) : (oldTags f h).getD i Config.noTag = ((laneIn c h f).d.getD i {}).tag := by
  unfold oldTags laneIn
  cases h.dst with
  | none => rfl
  | some e => exact List.getD_map (d := ({} : Reg)) (f := Reg.tag) ..

/-- An integer result: `here`, or the prior tag of its own word under OFF (06 R139). -/
theorem intWord_eq (f : Fibre) (i : Nat) (v : Word) (read : List Reg) :
    intWord c h (laneIn c h f) i v read =
      { val := v, tag := moveTag f.tagmode c.here ((laneIn c h f).d.getD i {}).tag, poison := poi read } := by
  unfold intWord
  rw [tagpick_plain]
  exact congrArg (fun t => ({ val := v, tag := moveTag f.tagmode c.here t, poison := poi read } : Reg)) (oldTags_getD f i)

/-- A floating result: its tag is chosen over the operands (05 R122). -/
theorem fpWord_eq (f : Fibre) (v : Word) (sp : Bool) (ops : List TagOp) (read : List Reg) :
    fpWord c h (laneIn c h f) v sp ops read =
      { val := v, tag := tagpick f.tagmode c.here sp ops (laneIn c h f).d0.tag, poison := poi read } :=
  congrArg (fun t => ({ val := v, tag := tagpick f.tagmode c.here sp ops t, poison := poi read } : Reg)) (oldTags_getD f 0)

/-- A ready word whose body ends with the results of the active lanes; `same` says what each lane's result is. -/
theorem laneOp_results {body : State → Ctx → SMap LaneIn → State} {each : Nat × LaneIn → Nat × List Reg}
    {res : LaneIn → List Reg} (ready : LaneReady s c h extra)
    (ends : body (s.laneRead c h acc extra) c (s.laneIns c h acc extra) =
      c.finish h (s.laneRead c h acc extra) ((s.laneIns c h acc extra).map each))
    (same : ∀ k f, each (k, laneIn c h f) = (k, res (laneIn c h f))) :
    s.laneOp h acc extra body = .next (s.laneEnd c h acc extra res) := by
  refine (laneOp_ready acc body ready).trans (congrArg Host.Outcome.next (ends.trans ?_))
  refine congrArg (c.finish h _) (List.map_congr_left fun e m => ?_)
  obtain ⟨k, x⟩ := e
  rw [show x = laneIn c h x.f from inputs_of_mem m]
  exact same k x.f

end

section

open Sys2Proof.Machine Sys2Proof.Laws

variable {s : State}

/-! ## Integer functions (10 R205, R206, R208) -/

section

variable (a b : Word)

theorem minS_eq : minS a b = BitVec.ofInt 32 (min a.toInt b.toInt) := by
  unfold minS
  split
  next le => rw [min_eq_left le, BitVec.ofInt_toInt]
  next gt => rw [min_eq_right (not_le.mp gt).le, BitVec.ofInt_toInt]

theorem maxS_eq : maxS a b = BitVec.ofInt 32 (max a.toInt b.toInt) := by
  unfold maxS
  split
  next le => rw [max_eq_right le, BitVec.ofInt_toInt]
  next gt => rw [max_eq_left (not_le.mp gt).le, BitVec.ofInt_toInt]

theorem minZ_eq : minZ a b = BitVec.ofNat 32 (min a.toNat b.toNat) := by
  unfold minZ
  split
  next le => rw [min_eq_left le, BitVec.ofNat_toNat, BitVec.setWidth_eq]
  next gt => rw [min_eq_right (not_le.mp gt).le, BitVec.ofNat_toNat, BitVec.setWidth_eq]

theorem maxZ_eq : maxZ a b = BitVec.ofNat 32 (max a.toNat b.toNat) := by
  unfold maxZ
  split
  next le => rw [max_eq_right le, BitVec.ofNat_toNat, BitVec.setWidth_eq]
  next gt => rw [max_eq_left (not_le.mp gt).le, BitVec.ofNat_toNat, BitVec.setWidth_eq]

theorem shiftLeft_eq_ofNat (k : Nat) : a <<< k = BitVec.ofNat 32 (a.toNat * 2 ^ k) :=
  BitVec.eq_of_toNat_eq (by rw [BitVec.toNat_shiftLeft, Nat.shiftLeft_eq, BitVec.toNat_ofNat])

theorem ushiftRight_eq_ofNat (k : Nat) : a >>> k = BitVec.ofNat 32 (a.toNat / 2 ^ k) := by
  rw [← Nat.shiftRight_eq_div_pow, ← BitVec.toNat_ushiftRight, BitVec.ofNat_toNat, BitVec.setWidth_eq]

theorem sarW_eq : sarW a b = BitVec.ofInt 32 (a.toInt / 2 ^ min b.toNat 31) :=
  BitVec.sshiftRight_eq.trans (congrArg _ (Int.shiftRight_eq_div_pow ..))

theorem shlW_eq : shlW a b = if b.toNat < 32 then BitVec.ofNat 32 (a.toNat * 2 ^ b.toNat) else 0#32 := by
  rw [shlW, shiftLeft_eq_ofNat]

theorem shrW_eq : shrW a b = if b.toNat < 32 then BitVec.ofNat 32 (a.toNat / 2 ^ b.toNat) else 0#32 := by
  rw [shrW, ushiftRight_eq_ofNat]

/-- The amount of a SHIM is always below 32 (10 R206). -/
theorem toNat_amount (k : BitVec 5) : (k.zeroExtend 32).toNat = k.toNat := BitVec.toNat_setWidth_of_le (by decide)

theorem shlW_amount (k : BitVec 5) : shlW a (k.zeroExtend 32) = BitVec.ofNat 32 (a.toNat * 2 ^ k.toNat) := by
  rw [shlW_eq, toNat_amount, if_pos k.isLt]

theorem shrW_amount (k : BitVec 5) : shrW a (k.zeroExtend 32) = BitVec.ofNat 32 (a.toNat / 2 ^ k.toNat) := by
  rw [shrW_eq, toNat_amount, if_pos k.isLt]

theorem sarW_amount (k : BitVec 5) : sarW a (k.zeroExtend 32) = BitVec.ofInt 32 (a.toInt / 2 ^ k.toNat) := by
  rw [sarW_eq, toNat_amount, min_eq_left (Nat.le_of_lt_succ k.isLt)]

theorem not_eq_ofNat : ~~~a = BitVec.ofNat 32 (2 ^ 32 - 1 - a.toNat) := by
  rw [← BitVec.toNat_not, BitVec.ofNat_toNat, BitVec.setWidth_eq]

theorem neg_eq_ofInt : -a = BitVec.ofInt 32 (-a.toInt) := by
  rw [BitVec.ofInt_neg, BitVec.ofInt_toInt]

theorem absW_eq : absW a = BitVec.ofNat 32 a.toInt.natAbs := by
  rw [← BitVec.ofInt_natCast, absW]
  split
  next neg => rw [Int.ofNat_natAbs_of_nonpos neg.le, neg_eq_ofInt]
  next pos => rw [Int.natAbs_of_nonneg (not_lt.mp pos), BitVec.ofInt_toInt]

/-- Counting bit by bit is counting the set bits. -/
theorem popNat_eq (n x : Nat) : popNat n x = ((List.range n).filter fun i => x.testBit i).length := by
  induction n generalizing x with
  | zero => rfl
  | succ n ih =>
    have shifted : (fun i => x.testBit i) ∘ Nat.succ = fun i => (x / 2).testBit i := funext fun i => Nat.testBit_succ ..
    rw [popNat, ih, List.range_succ_eq_map, List.filter_cons, List.filter_map, shifted, Nat.testBit_zero]
    rcases Nat.mod_two_eq_zero_or_one x with even | odd
    · simp [even]
    · simp [odd, Nat.add_comm]

theorem popcW_eq : popcW a = BitVec.ofNat 32 ((List.range 32).filter fun i => a.getLsbD i).length :=
  congrArg (BitVec.ofNat 32) (popNat_eq 32 a.toNat)

/-! ## Bit 31 of a word (10 R212) -/

theorem ofNat_mod_eq_clearSign : BitVec.ofNat 32 (a.toNat % 2 ^ 31) = a &&& 0x7FFFFFFF#32 := by
  refine BitVec.eq_of_toNat_eq ?_
  rw [BitVec.toNat_and, BitVec.toNat_ofNat]
  show _ = a.toNat &&& (2 ^ 31 - 1)
  rw [Nat.and_two_pow_sub_one_eq_mod]
  omega

theorem ofNat_add_eq_flipSign : BitVec.ofNat 32 ((a.toNat + 2 ^ 31) % 2 ^ 32) = a ^^^ 0x80000000#32 := by
  refine BitVec.eq_of_getLsbD_eq fun i below => ?_
  rw [BitVec.getLsbD_xor, show (0x80000000#32) = BitVec.twoPow 32 31 from rfl, BitVec.getLsbD_twoPow, BitVec.getLsbD_ofNat,
    Nat.testBit_mod_two_pow, Nat.add_comm]
  rcases Nat.lt_or_eq_of_le (Nat.le_of_lt_succ below) with low | rfl
  · rw [Nat.testBit_two_pow_add_gt low]
    simp [below, low.ne', BitVec.testBit_toNat]
  · rw [Nat.testBit_two_pow_add_eq]
    simp [BitVec.testBit_toNat]

end

/-- The words of two integer operands, each with its function (10 R205). -/
def integerWords : List ((BitVec 1 → BitVec 8 → BitVec 8 → BitVec 8 → Word → Instr) × (Word → Word → Word)) :=
  [(.iadd, fun a b => a + b), (.isub, fun a b => a - b), (.imul, fun a b => a * b),
    (.imulhs, fun a b => BitVec.ofInt 32 (a.toInt * b.toInt / 2 ^ 32)),
    (.imulhz, fun a b => BitVec.ofNat 32 (a.toNat * b.toNat / 2 ^ 32)),
    (.imins, fun a b => BitVec.ofInt 32 (min a.toInt b.toInt)), (.imaxs, fun a b => BitVec.ofInt 32 (max a.toInt b.toInt)),
    (.iminz, fun a b => BitVec.ofNat 32 (min a.toNat b.toNat)), (.imaxz, fun a b => BitVec.ofNat 32 (max a.toNat b.toNat)),
    (.and, fun a b => a &&& b), (.or, fun a b => a ||| b), (.xor, fun a b => a ^^^ b),
    (.shl, fun a b => if b.toNat < 32 then BitVec.ofNat 32 (a.toNat * 2 ^ b.toNat) else 0#32),
    (.shr, fun a b => if b.toNat < 32 then BitVec.ofNat 32 (a.toNat / 2 ^ b.toNat) else 0#32),
    (.sar, fun a b => BitVec.ofInt 32 (a.toInt / 2 ^ min b.toNat 31))]

theorem exec_integerWord {e} (he : e ∈ integerWords) (n : BitVec 1) (d a b : BitVec 8) (l : Word) :
    exec (e.1 n d a b l) s = s.intOp (intForm (e.1 n d a b l) n d a b l) e.2 := by
  simp only [integerWords, List.mem_cons, List.not_mem_nil, or_false] at he
  rcases he with rfl | rfl | rfl | rfl | rfl | rfl | rfl | rfl | rfl | rfl | rfl | rfl | rfl | rfl | rfl
  · exact exec_iadd s
  · exact exec_isub s
  · exact exec_imul s
  · exact exec_imulhs s
  · exact exec_imulhz s
  · exact (exec_imins s).trans (congrArg (s.intOp _) (funext₂ minS_eq))
  · exact (exec_imaxs s).trans (congrArg (s.intOp _) (funext₂ maxS_eq))
  · exact (exec_iminz s).trans (congrArg (s.intOp _) (funext₂ minZ_eq))
  · exact (exec_imaxz s).trans (congrArg (s.intOp _) (funext₂ maxZ_eq))
  · exact exec_and s
  · exact exec_or s
  · exact exec_xor s
  · exact (exec_shl s).trans (congrArg (s.intOp _) (funext₂ shlW_eq))
  · exact (exec_shr s).trans (congrArg (s.intOp _) (funext₂ shrW_eq))
  · exact (exec_sar s).trans (congrArg (s.intOp _) (funext₂ sarW_eq))

/-- The words of one integer operand, each with its function of the immediate byte and A (10 R206, R208). -/
def unaryWords : List ((BitVec 1 → BitVec 8 → BitVec 8 → BitVec 8 → Word → Instr) × (BitVec 8 → Word → Word)) :=
  [(fun n d a i l => .iaddi n d a i l, fun i a => a + i.signExtend 32),
    (fun n d a i l => .shimShl n d a (i.extractLsb' 0 5) l, fun i a => BitVec.ofNat 32 (a.toNat * 2 ^ (i.extractLsb' 0 5).toNat)),
    (fun n d a i l => .shimShr n d a (i.extractLsb' 0 5) l, fun i a => BitVec.ofNat 32 (a.toNat / 2 ^ (i.extractLsb' 0 5).toNat)),
    (fun n d a i l => .shimSar n d a (i.extractLsb' 0 5) l, fun i a => BitVec.ofInt 32 (a.toInt / 2 ^ (i.extractLsb' 0 5).toNat)),
    (fun n d a _ l => .uniNot n d a l, fun _ a => BitVec.ofNat 32 (2 ^ 32 - 1 - a.toNat)),
    (fun n d a _ l => .uniNeg n d a l, fun _ a => BitVec.ofInt 32 (-a.toInt)),
    (fun n d a _ l => .uniAbs n d a l, fun _ a => BitVec.ofNat 32 a.toInt.natAbs),
    (fun n d a _ l => .uniPopc n d a l, fun _ a => BitVec.ofNat 32 ((List.range 32).filter fun i => a.getLsbD i).length),
    (fun n d a _ l => .uniClz n d a l, fun _ a => BitVec.ofNat 32 (if a = 0#32 then 32 else 31 - Nat.log2 a.toNat)),
    (fun n d a _ l => .uniBrev n d a l, fun _ a => a.reverse),
    (fun n d a _ l => .uniSext8 n d a l, fun _ a => (a.extractLsb' 0 8).signExtend 32),
    (fun n d a _ l => .uniSext16 n d a l, fun _ a => (a.extractLsb' 0 16).signExtend 32),
    (fun n d a _ l => .uniBswap n d a l, fun _ a =>
      a.extractLsb' 0 8 ++ a.extractLsb' 8 8 ++ a.extractLsb' 16 8 ++ a.extractLsb' 24 8)]

theorem exec_unaryWord {e} (he : e ∈ unaryWords) (n : BitVec 1) (d a i : BitVec 8) (l : Word) :
    exec (e.1 n d a i l) s = s.intUni (uniForm (e.1 n d a i l) n d a l) (e.2 i) := by
  simp only [unaryWords, List.mem_cons, List.not_mem_nil, or_false] at he
  rcases he with rfl | rfl | rfl | rfl | rfl | rfl | rfl | rfl | rfl | rfl | rfl | rfl | rfl
  · exact exec_iaddi s
  · exact (exec_shimShl s).trans (congrArg (s.intUni _) (funext fun a => shlW_amount a _))
  · exact (exec_shimShr s).trans (congrArg (s.intUni _) (funext fun a => shrW_amount a _))
  · exact (exec_shimSar s).trans (congrArg (s.intUni _) (funext fun a => sarW_amount a _))
  · exact (exec_uniNot s).trans (congrArg (s.intUni _) (funext not_eq_ofNat))
  · exact (exec_uniNeg s).trans (congrArg (s.intUni _) (funext neg_eq_ofInt))
  · exact (exec_uniAbs s).trans (congrArg (s.intUni _) (funext absW_eq))
  · exact (exec_uniPopc s).trans (congrArg (s.intUni _) (funext popcW_eq))
  · exact exec_uniClz s
  · exact exec_uniBrev s
  · exact exec_uniSext8 s
  · exact exec_uniSext16 s
  · exact exec_uniBswap s

/-! ## Compare conditions (09 R193) -/

theorem ordering_eq (x y : Int) : (some (compare x y) == some Ordering.eq) = decide (x = y) := by
  rw [Bool.eq_iff_iff]
  simp

theorem ordering_ne (x y : Int) : (some (compare x y) != some Ordering.eq) = decide (x ≠ y) := by
  rw [bne, ordering_eq, decide_not]

theorem ordering_lt (x y : Int) : (some (compare x y) == some Ordering.lt) = decide (x < y) := by
  rw [Bool.eq_iff_iff]
  simp [Int.compare_eq_lt]

theorem ordering_gt (x y : Int) : (some (compare x y) == some Ordering.gt) = decide (x > y) := by
  rw [Bool.eq_iff_iff]
  simp [Int.compare_eq_gt]

theorem ordering_le (x y : Int) :
    (some (compare x y) == some Ordering.lt || some (compare x y) == some Ordering.eq) = decide (x ≤ y) := by
  rw [ordering_lt, ordering_eq, Bool.eq_iff_iff]
  simp only [Bool.or_eq_true, decide_eq_true_eq]
  omega

theorem ordering_ge (x y : Int) :
    (some (compare x y) == some Ordering.gt || some (compare x y) == some Ordering.eq) = decide (x ≥ y) := by
  rw [ordering_gt, ordering_eq, Bool.eq_iff_iff]
  simp only [Bool.or_eq_true, decide_eq_true_eq]
  omega

/-- The condition codes, each with the relation that it names between integers, which are never unordered (09 R193). -/
def integerConditions : List (BitVec 4 × (Int → Int → Bool)) :=
  [(0, fun a b => decide (a = b)), (1, fun a b => decide (a ≠ b)), (2, fun a b => decide (a < b)),
    (3, fun a b => decide (a ≤ b)), (4, fun a b => decide (a > b)), (5, fun a b => decide (a ≥ b)),
    (6, fun _ _ => false), (7, fun _ _ => true), (8, fun a b => decide (a = b)), (9, fun a b => decide (a < b)),
    (10, fun a b => decide (a ≤ b)), (11, fun a b => decide (a > b)), (12, fun a b => decide (a ≥ b))]

theorem condHolds_compare {e} (he : e ∈ integerConditions) (x y : Int) : condHolds e.1 (some (compare x y)) = e.2 x y := by
  simp only [integerConditions, List.mem_cons, List.not_mem_nil, or_false] at he
  rcases he with rfl | rfl | rfl | rfl | rfl | rfl | rfl | rfl | rfl | rfl | rfl | rfl | rfl
  · exact ordering_eq x y
  · exact ordering_ne x y
  · exact ordering_lt x y
  · exact ordering_le x y
  · exact ordering_gt x y
  · exact ordering_ge x y
  · rfl
  · rfl
  · exact ordering_eq x y
  · exact ordering_lt x y
  · exact ordering_le x y
  · exact ordering_gt x y
  · exact ordering_ge x y

theorem compare_natCast (x y : Nat) : compare (x : Int) (y : Int) = compare x y := by
  simp only [Int.compare_eq_ite_lt, Nat.compare_eq_ite_lt, Int.ofNat_lt]

theorem condHolds_ordS {e} (he : e ∈ integerConditions) :
    (fun a b => condHolds e.1 (ordS a b)) = fun a b => e.2 a.toInt b.toInt :=
  funext₂ fun _ _ => condHolds_compare he _ _

theorem condHolds_ordZ {e} (he : e ∈ integerConditions) :
    (fun a b => condHolds e.1 (ordZ a b)) = fun a b => e.2 a.toNat b.toNat :=
  funext₂ fun a b => (congrArg (fun o => condHolds e.1 (some o)) (compare_natCast a.toNat b.toNat).symm).trans (condHolds_compare he _ _)

/-! ## Floating words (10 R204, R210, R212, R213) -/

/-- The floating words of two operands or three: whether D is read, the test of a special word, and the function. -/
def floatingWords : List ((BitVec 1 → BitVec 8 → BitVec 8 → BitVec 8 → Word → Instr) × Bool × (Word → Bool)
    × (Word → Word → Word → Word → Word × Flags)) :=
  [(.fadd, false, special32, fun m a b _ => fp32Of (faddR fFP32 m a.toNat b.toNat)),
    (.fsub, false, special32, fun m a b _ => fp32Of (fsubR fFP32 m a.toNat b.toNat)),
    (.fmul, false, special32, fun m a b _ => fp32Of (fmulR fFP32 m a.toNat b.toNat)),
    (.ffma, true, special32, fun m a b d => fp32Of (ffmaR fFP32 m a.toNat b.toNat d.toNat)),
    (.fmin, false, special32, fun m a b _ => fp32Of (fminmaxR false m a.toNat b.toNat)),
    (.fmax, false, special32, fun m a b _ => fp32Of (fminmaxR true m a.toNat b.toNat)),
    (.hadd2, false, specialPair fFP16, fun m a b _ => packed2 (fun x y _ => faddR fFP16 m x y) a b 0#32),
    (.hfma2, true, specialPair fFP16, fun m a b d => packed2 (ffmaR fFP16 m) a b d),
    (.badd2, false, specialPair fBF16, fun m a b _ => packed2 (fun x y _ => faddR fBF16 m x y) a b 0#32),
    (.bfma2, true, specialPair fBF16, fun m a b d => packed2 (ffmaR fBF16 m) a b d)]

theorem exec_floatingWord {e} (he : e ∈ floatingWords) (n : BitVec 1) (d a b : BitVec 8) (l : Word) :
    exec (e.1 n d a b l) s = s.fpOp (intForm (e.1 n d a b l) n d a b l) e.2.1 e.2.2.1
      (fun x => e.2.2.2 x.f.fpmode x.a0.val x.b0.val x.d0.val)
      fun x => if e.2.1 then [x.a0, x.b0, x.d0] else [x.a0, x.b0] := by
  simp only [floatingWords, List.mem_cons, List.not_mem_nil, or_false] at he
  rcases he with rfl | rfl | rfl | rfl | rfl | rfl | rfl | rfl | rfl | rfl
  · exact exec_fadd s
  · exact exec_fsub s
  · exact exec_fmul s
  · exact exec_ffma s
  · exact exec_fmin s
  · exact exec_fmax s
  · exact exec_hadd2 s
  · exact exec_hfma2 s
  · exact exec_badd2 s
  · exact exec_bfma2 s

/-- The functions of FUNI that round (10 R212). -/
def roundedWords : List ((BitVec 1 → BitVec 8 → BitVec 8 → Word → Instr) × (Word → Nat → FRes)) :=
  [(.frcp, frcpR), (.frsq, frsqR), (.fsqrt, fsqrtR), (.fexp2, fexp2R), (.flog2, flog2R), (.frint, frintR none),
    (.ffloor, frintR (some mRDN)), (.fceil, frintR (some mRUP))]

theorem exec_roundedWord {e} (he : e ∈ roundedWords) (n : BitVec 1) (d a : BitVec 8) (l : Word) :
    exec (e.1 n d a l) s = s.fp1 (uniForm (e.1 n d a l) n d a l) e.2 := by
  simp only [roundedWords, List.mem_cons, List.not_mem_nil, or_false] at he
  rcases he with rfl | rfl | rfl | rfl | rfl | rfl | rfl | rfl
  · exact exec_frcp s
  · exact exec_frsq s
  · exact exec_fsqrt s
  · exact exec_fexp2 s
  · exact exec_flog2 s
  · exact exec_frint s
  · exact exec_ffloor s
  · exact exec_fceil s

/-- FUNI's shape, with its function of words whichever way it is written. -/
theorem fp1_eq {h : Form} {f : Word → Nat → FRes} {g : Word → Word → Word × Flags} (same : ∀ m a, fp32Of (f m a.toNat) = g m a) :
    s.fp1 h f = s.fpOp h false special32 (fun x => g x.f.fpmode x.a0.val) fun x => [x.a0] := by
  obtain rfl : (fun m (a : Word) => fp32Of (f m a.toNat)) = g := funext₂ same
  rfl

/-- The functions of FUNI: two change bit 31 alone (10 R212). -/
def functionWords : List ((BitVec 1 → BitVec 8 → BitVec 8 → Word → Instr) × (Word → Word → Word × Flags)) :=
  (.fabs, fun _ a => (a &&& 0x7FFFFFFF#32, 0#5)) :: (.fneg, fun _ a => (a ^^^ 0x80000000#32, 0#5)) ::
    roundedWords.map fun w => (w.1, fun m a => fp32Of (w.2 m a.toNat))

theorem exec_functionWord {e} (he : e ∈ functionWords) (n : BitVec 1) (d a : BitVec 8) (l : Word) :
    exec (e.1 n d a l) s = s.fpOp (uniForm (e.1 n d a l) n d a l) false special32 (fun x => e.2 x.f.fpmode x.a0.val)
      fun x => [x.a0] := by
  rw [functionWords, List.mem_cons, List.mem_cons, List.mem_map] at he
  rcases he with rfl | rfl | ⟨w, hw, rfl⟩
  · exact (exec_fabs s).trans (fp1_eq fun _ a => congrArg (·, 0#5) (ofNat_mod_eq_clearSign a))
  · exact (exec_fneg s).trans (fp1_eq fun _ a => congrArg (·, 0#5) (ofNat_add_eq_flipSign a))
  · exact (exec_roundedWord hw n d a l).trans (fp1_eq fun _ _ => rfl)

end

section

open Sys2Proof.Machine Sys2Proof.Laws

variable {s : State} {c : Ctx} {h : Form} {acc : Bool}

/-! ## Traps of enabled flags (10 R204) -/

/-- A word that comes to the floating gate takes its trap, where a lane raises a flag that it enables. -/
theorem fpTrapTaken_of_gate {i : Instr} {fl : LaneIn → Flags} {body : State → Ctx → SMap LaneIn → State} {go : State → State}
    (meaning : exec i s = s.laneOp h acc [] body)
    (gate : body (s.laneRead c h acc []) c (s.laneIns c h acc []) =
      c.fpGate h (s.laneRead c h acc []) (s.laneIns c h acc []) fl go) : FpTrapTaken i s c h acc fl :=
  fun ready met => meaning.trans ((laneOp_ready acc body ready).trans (congrArg Host.Outcome.next (gate.trans (fpGate_trap met))))

/-- A code at one of its ends blends nothing, and raises no flag. -/
theorem blends_ite (q : BitVec 16) (fl : Flags) :
    (if decide (0 < q.toNat) && decide (q.toNat < 65535) then fl else 0#5) =
      if q.toNat = 0 ∨ q.toNat = 65535 then 0#5 else fl := by
  have bound : q.toNat < 65536 := q.isLt
  by_cases ends : q.toNat = 0 ∨ q.toNat = 65535
  · rw [if_pos ends, if_neg]
    simp only [Bool.and_eq_true, decide_eq_true_eq]
    omega
  · rw [if_neg ends, if_pos]
    simp only [Bool.and_eq_true, decide_eq_true_eq]
    omega

/-! ## Poison of compares (10 R203) -/

/-- A poisoned word among those read is what a compare looks for. -/
theorem any_poisoned {ins : SMap LaneIn} (met : ∃ x ∈ ins, ∃ r ∈ x.2.a ++ x.2.b, r.poison = true) :
    (ins.any fun x => poi (x.2.a ++ x.2.b)) = true := by
  obtain ⟨x, m, r, n, p⟩ := met
  exact List.any_eq_true.mpr ⟨x, m, List.any_eq_true.mpr ⟨r, n, p⟩⟩

/-! ## Conversions (10 R214, R215) -/

/-- The fields of a CVT's byte: the pair above the mode (09 R195). -/
theorem bits_pair (v : BitVec 8) : bits v.toNat 3 5 = v.toNat / 8 := Nat.mod_eq_of_lt (by have := v.isLt; omega)

theorem bits_mode (v : BitVec 8) : bits v.toNat 0 3 = v.toNat % 8 := by simp [bits]

theorem exactPair_eq (pair : Nat) :
    exactPair pair = (decide (9 ≤ pair ∧ pair ≤ 13) || pair == 27 || pair == 28) := by
  rw [exactPair, Bool.decide_and]

end

section

open Sys2Proof.Machine Sys2Proof.Laws

/-- Settles O1: every integer word of two operands is `intOp` of its function. -/
theorem integerResultInEachLane : Obligations.IntegerResultInEachLane := by
  unfold Obligations.IntegerResultInEachLane
  intro e he s c n d a b l h ready
  exact (exec_integerWord he n d a b l).trans (intOp_ready rfl e.2 ready)

/-- Settles O2: every integer word of one operand is `intUni` of its function. -/
theorem integerUnaryResultInEachLane : Obligations.IntegerUnaryResultInEachLane := by
  unfold Obligations.IntegerUnaryResultInEachLane
  intro e he s c n d a i l h ready
  exact (exec_unaryWord he n d a i l).trans (intUni_ready rfl (e.2 i) ready)

/-- Settles O3: sums tag each word with `here`, movements carry the tag of the word that they move. -/
theorem accumulateAddPairAndSelect : Obligations.AccumulateAddPairAndSelect := by
  unfold Obligations.AccumulateAddPairAndSelect
  refine ⟨fun s c n d a b l ready => ?imad, fun s c n d a b l ready => ?iadd64, fun s c n d a l ready => ?mov,
    fun s c n d a sense k l ready => ?selp⟩
  case imad =>
    exact (exec_imad s).trans (laneOp_results ready rfl fun j _ => congrArg (fun w => (j, [w])) (intWord_eq ..))
  case iadd64 =>
    exact (exec_iadd64 s).trans (laneOp_results ready rfl fun j _ =>
      congrArg₂ (fun lo hi => (j, [lo, hi])) (intWord_eq ..) (intWord_eq ..))
  case mov => exact (exec_uniMov s).trans (laneOp_results ready rfl fun _ _ => rfl)
  case selp =>
    refine (exec_selp s).trans (laneOp_results ready rfl fun j f => ?_)
    simp only [beq_iff_eq, moved_one]
    rfl

/-- Settles O4: a condition over the ordering of two integers is the relation that it names. -/
theorem integerComparesWritePredicates : Obligations.IntegerComparesWritePredicates := by
  unfold Obligations.IntegerComparesWritePredicates
  intro e he
  refine ⟨fun s c k a b l ready clean => ?signed, fun s c k a b l ready clean => ?unsigned⟩
  case signed =>
    exact (exec_icmps s).trans ((congrArg (s.cmpOp _ k) (condHolds_ordS he)).trans (cmpOp_ready k _ ready clean))
  case unsigned =>
    exact (exec_icmpz s).trans ((congrArg (s.cmpOp _ k) (condHolds_ordZ he)).trans (cmpOp_ready k _ ready clean))

/-- Settles O5: no lane traps, so the sticky flags and the results follow. -/
theorem floatingResultInEachLane : Obligations.FloatingResultInEachLane := by
  unfold Obligations.FloatingResultInEachLane
  intro e he s c n d a b l h r read ready quiet
  exact (exec_floatingWord he n d a b l).trans (fpOp_ready rfl e.2.1 e.2.2.1 r read ready quiet)

/-- Settles O6: FABS and FNEG change bit 31 alone, and the other functions round. -/
theorem floatingFunctionInEachLane : Obligations.FloatingFunctionInEachLane := by
  unfold Obligations.FloatingFunctionInEachLane
  intro e he s c n d a l h r ready quiet
  exact (exec_functionWord he n d a l).trans (fpOp_ready rfl false special32 r _ ready quiet)

/-- Settles O7: a clean compare without a trap writes its predicate; a conversion counts on the core and raises nothing. -/
theorem floatingCompareAndConversion : Obligations.FloatingCompareAndConversion := by
  unfold Obligations.FloatingCompareAndConversion
  refine ⟨fun s c cond k a b l ready clean quiet => ?compare, fun s c n d a v l ready => ?convert⟩
  case compare =>
    refine (exec_fcmp s).trans ((laneOp_ready false _ ready).trans (congrArg Host.Outcome.next ?_))
    exact (if_neg (Bool.eq_false_iff.mp clean)).trans (fpGate_clear quiet)
  case convert =>
    refine (exec_cvt s).trans ?_
    unfold execCvt
    simp only [bits_pair, bits_mode, exactPair_eq]
    refine (laneOp_ready _ _ ready).trans (congrArg Host.Outcome.next (congrArg (c.finish _ _) (List.map_congr_left fun e m => ?_)))
    rw [inputs_of_mem m]
    exact congrArg (fun w => (e.1, [w])) (fpWord_eq ..)

/-- Settles O8: each word comes to the floating gate on the state as its operands were read. -/
theorem enabledFlagTraps : Obligations.EnabledFlagTraps := by
  unfold Obligations.EnabledFlagTraps
  refine ⟨fun e he s c n d a b l => ?binary, fun e he s c n d a l => ?unary, fun s c cond k a b l clean => ?compare,
    fun s c n d a k l => ?blend, fun e he s c n d a k l valid => ?gradient⟩
  case binary =>
    obtain ⟨w, hw, rfl⟩ := List.mem_map.mp (show e ∈ floatingWords.map fun w => (w.1, w.2.1, w.2.2.2) from he)
    exact fpTrapTaken_of_gate (exec_floatingWord hw n d a b l) rfl
  case unary => exact fpTrapTaken_of_gate (exec_roundedWord he n d a l) rfl
  case compare => exact fpTrapTaken_of_gate (exec_fcmp s) (if_neg (Bool.eq_false_iff.mp clean))
  case blend =>
    exact fpTrapTaken_of_gate (exec_qblend s) (congrArg (fun fl => c.fpGate _ _ _ fl _) (funext fun x => blends_ite _ _))
  case gradient => exact fpTrapTaken_of_gate (exec_gradWord he n d a k l) (tempGate_ite valid)

/-- Settles O9: the poison is met before anything is written. -/
theorem poisonedCompareIsConsumed : Obligations.PoisonedCompareIsConsumed := by
  unfold Obligations.PoisonedCompareIsConsumed
  intro mk hmk s c cond k a b l h ready met
  have bad := any_poisoned met
  simp only [List.mem_cons, List.not_mem_nil, or_false] at hmk
  rcases hmk with rfl | rfl | rfl
  · exact (exec_icmps s).trans (cmpOp_poisoned k _ ready bad)
  · exact (exec_icmpz s).trans (cmpOp_poisoned k _ ready bad)
  · exact (exec_fcmp s).trans ((laneOp_ready false _ ready).trans (congrArg Host.Outcome.next (if_pos bad)))

end

end Sys2Proof.Proofs

namespace Sys2Proof.Proofs

/-!
PROOFS. Cross-lane words (10 R217 to R221): what a lane takes in a shuffle, a vote, an exchange and a rotation.
-/

section

open Sys2Proof.Machine Sys2Proof.Laws

variable {s : State} {c : Ctx} {h : Form}

/-! ## Shuffles and votes (10 R218, R220) -/

/-- The shuffles, each with the lane that it takes its word from (10 R218). -/
def shuffleWords : List ((BitVec 1 → BitVec 8 → BitVec 8 → BitVec 8 → Word → Instr) × (Nat → Nat → Int)) :=
  [(.shfx, fun l b => ((l ^^^ b : Nat) : Int)), (.shfn, fun _ b => (b : Int)),
    (.shfup, fun l b => (l : Int) - b), (.shfdn, fun l b => (l : Int) + b)]

theorem exec_shuffleWord {e} (he : e ∈ shuffleWords) (n : BitVec 1) (d a b : BitVec 8) (l : Word) :
    ∃ source : Int → Int → Int, (∀ l b : Nat, source l b = e.2 l b) ∧
      exec (e.1 n d a b l) s = s.shuffle (intForm (e.1 n d a b l) n d a b l) source := by
  simp only [shuffleWords, List.mem_cons, List.not_mem_nil, or_false] at he
  rcases he with rfl | rfl | rfl | rfl
  · exact ⟨_, fun _ _ => rfl, exec_shfx s⟩
  · exact ⟨_, fun _ _ => rfl, exec_shfn s⟩
  · exact ⟨_, fun _ _ => rfl, exec_shfup s⟩
  · exact ⟨_, fun _ _ => rfl, exec_shfdn s⟩

/-- The word that a lane takes in a shuffle: that of lane `m`, where both contribute, else its own. -/
def shuffled (c : Ctx) (ins : SMap LaneIn) (m : Int) (x : LaneIn) : Reg :=
  if 0 ≤ m ∧ m ≤ 31 ∧ c.contributes m.toNat = true ∧ c.contributes x.f.lane = true then
    ((atLane ins m.toNat).map LaneIn.a0).getD x.a0
  else x.a0

theorem shuffle_ready {source : Int → Int → Int} {g : Nat → Nat → Int} (same : ∀ l b : Nat, source l b = g l b)
    (ready : LaneReady s c h []) :
    s.shuffle h source = .next (s.laneEnd c h false [] fun x =>
      let r := shuffled c (s.laneIns c h false []) (g x.f.lane x.b0.val.toNat) x
      [{ val := r.val, tag := moveTag x.f.tagmode r.tag x.d0.tag, poison := r.poison }]) := by
  refine laneOp_results ready rfl fun k f => ?_
  dsimp only
  rw [same]
  refine congrArg (fun r : Reg => (k, moved f.tagmode (laneIn c h f).d [{ r with parity := false }])) ?_
  unfold shuffled
  simp only [Bool.and_eq_true, decide_eq_true_eq, and_assoc]
  cases atLane (s.laneIns c h false []) (g (laneIn c h f).f.lane (laneIn c h f).b0.val.toNat).toNat <;> rfl

/-- The votes, each with its word of the contributing lanes and of those whose predicate holds (10 R220). -/
def voteWords : List ((BitVec 1 → BitVec 8 → BitVec 4 → Instr) × (BitVec 32 → BitVec 32 → Word)) :=
  [(.voteBallot, fun _ m => m), (.voteAny, fun _ m => if m = 0#32 then 0#32 else 1#32),
    (.voteAll, fun all m => if m = all then 1#32 else 0#32)]

theorem exec_voteWord {e} (he : e ∈ voteWords) (n : BitVec 1) (d : BitVec 8) (k : BitVec 4) :
    exec (e.1 n d k) s = s.vote { instr := e.1 n d k, nw := n, dst := some (d, 1) } k e.2 := by
  simp only [voteWords, List.mem_cons, List.not_mem_nil, or_false] at he
  rcases he with rfl | rfl | rfl
  · exact exec_voteBallot s
  · exact exec_voteAny s
  · exact exec_voteAll s

theorem vote_ready (k : BitVec 4) (g : BitVec 32 → BitVec 32 → Word) (ready : LaneReady s c h []) :
    s.vote h k g = .next (s.laneEnd c h false [] fun x =>
      [{ val := g (c.ballot k.toNat).1 (c.ballot k.toNat).2, tag := moveTag x.f.tagmode c.here x.d0.tag, poison := false }]) :=
  laneOp_results ready rfl fun j _ => congrArg (fun w => (j, [w])) (intWord_eq ..)

/-! ## The exchange (10 R219) -/

/-- Each lane of a contributing pair is given the other's words (10 R219). -/
theorem mem_exchanged {n : BitVec 8} {k : Nat} {ins : SMap LaneIn} {e : Nat × LaneIn} (m : e ∈ ins) {x : LaneIn}
    (other : atLane ins (e.2.f.lane ^^^ 2 ^ k) = some x) (own : c.contributes e.2.f.lane = true)
    (theirs : c.contributes (e.2.f.lane ^^^ 2 ^ k) = true) :
    (e.1, (moves k e.2.f.lane).map fun i => x.f.reg (n.toNat + (i ^^^ 2 ^ k))) ∈ c.exchanged n k ins := by
  refine List.mem_filterMap.mpr ⟨e, m, ?_⟩
  dsimp only
  rw [own, theirs, other]
  rfl

theorem mem_moves {k lane i : Nat} : i ∈ moves k lane ↔ i < 32 ∧ i.testBit k ≠ lane.testBit k := by
  simp [moves]

/-- Writes to the registers `n + i`, for each `i` of a list, the words `g i`. -/
def setRegsAt (n : Nat) (g : Nat → Reg) (is : List Nat) (f : Fibre) : Fibre := is.foldl (fun f i => f.setReg (n + i) (g i)) f

theorem setRegsAt_frame {is : List Nat} (inside : ∀ i ∈ is, i < 32) (n : Nat) (g : Nat → Reg) (f : Fibre) :
    FibreFrame n 32 f (setRegsAt n g is f) := by
  induction is generalizing f with
  | nil => exact frame_refl n 32 f
  | cons i is ih =>
    have here : i < 32 := inside i List.mem_cons_self
    exact frame_trans (frame_mono (setReg_frame f (n + i) (g i)) (by omega) (by omega))
      (ih (fun j m => inside j (List.mem_cons_of_mem i m)) _)

theorem reg_setRegsAt {n : Nat} {is : List Nat} {f : Fibre} (fits : ∀ i ∈ is, n + i < f.win.length) (g : Nat → Reg) (j : Nat) :
    (setRegsAt n g is f).reg (n + j) = if j ∈ is then g j else f.reg (n + j) := by
  induction is generalizing f with
  | nil => rfl
  | cons i is ih =>
    have here : n + i < f.win.length := fits i List.mem_cons_self
    have later : ∀ k ∈ is, n + k < (f.setReg (n + i) (g i)).win.length := fun k m => by
      rw [setReg_length]
      exact fits k (List.mem_cons_of_mem i m)
    refine (ih later).trans ?_
    rw [reg_setReg]
    by_cases again : j ∈ is
    · rw [if_pos again, if_pos (List.mem_cons_of_mem i again)]
    · by_cases this : i = j
      · subst this
        rw [if_neg again, if_pos ⟨rfl, here⟩, if_pos List.mem_cons_self]
      · rw [if_neg again, if_neg (by omega), if_neg (by simp [again, Ne.symm this])]

/-- The words land one by one, each in the register of its own index. -/
theorem landWords_eq (f : Fibre) (k n : Nat) (g : Nat → Reg) :
    f.landWords k n ((moves k f.lane).map g) = setRegsAt n g (moves k f.lane) f := by
  rw [Fibre.landWords, ← List.map_prod_left_eq_zip, List.foldl_map]
  rfl

/-- A register of the block whose bit differs from the lane's holds the word given for it; the others stay. -/
theorem reg_landWords {f : Fibre} {n : Nat} (fits : n + 32 ≤ f.win.length) (k : Nat) (g : Nat → Reg) {i : Nat} (below : i < 32) :
    (f.landWords k n ((moves k f.lane).map g)).reg (n + i) = if i.testBit k = f.lane.testBit k then f.reg (n + i) else g i := by
  have inside : ∀ j ∈ moves k f.lane, n + j < f.win.length := fun j m => by
    have := (mem_moves.mp m).1
    omega
  rw [landWords_eq, reg_setRegsAt inside]
  by_cases stays : i.testBit k = f.lane.testBit k
  · rw [if_pos stays, if_neg fun m => (mem_moves.mp m).2 stays]
  · rw [if_neg stays, if_pos (mem_moves.mpr ⟨below, stays⟩)]

/-- Outside the block of 32 registers nothing changes. -/
theorem landWords_frame (f : Fibre) (k n : Nat) (g : Nat → Reg) :
    FibreFrame n 32 f (f.landWords k n ((moves k f.lane).map g)) := by
  rw [landWords_eq]
  exact setRegsAt_frame (fun i m => (mem_moves.mp m).1) n g f

/-! Reading operands leaves the device, and with it the armed injection, as it was (22 R405). -/

theorem foldl_dev {β : Type} {step : State → β → State} (each : ∀ t x, (step t x).dev = t.dev) (l : List β) (s : State) :
    (l.foldl step s).dev = s.dev :=
  List.foldlRecOn (motive := fun t => t.dev = s.dev) l step rfl fun _ before x _ => (each _ x).trans before

theorem tokenRead_dev (s : State) (fs : List Nat) (code : BitVec 8) (k : Nat) : (s.tokenRead fs code k).dev = s.dev := by
  unfold State.tokenRead
  split
  · rfl
  · refine foldl_dev (fun t _ => ?_) fs s
    split
    · rfl
    · refine foldl_dev (fun t _ => ?_) _ t
      split <;> rfl

theorem parityRead_dev (s : State) (core : Nat) (readers others : List Nat) (code : BitVec 8) (k : Nat) :
    (s.parityRead core readers others code k).dev = s.dev := by
  unfold State.parityRead
  split
  · rfl
  · refine foldl_dev (fun t _ => foldl_dev (fun t _ => ?_) _ t) _ s
    split
    · rfl
    · dsimp only
      split
      · rfl
      · split <;> rfl

theorem readRegs_dev (s : State) (core : Nat) (dark fs : List Nat) (code : BitVec 8) (k : Nat) :
    (s.readRegs core dark fs code k).dev = s.dev :=
  (tokenRead_dev _ fs code k).trans (parityRead_dev s core fs dark code k)

theorem readOpt_dev (s : State) (core : Nat) (dark fs : List Nat) (o : Option (SKind × BitVec 8)) :
    (s.readOpt core dark fs o).dev = s.dev := by
  cases o with
  | none => rfl
  | some e => exact readRegs_dev s core dark fs _ _

theorem laneRead_dev (s : State) (c : Ctx) (h : Form) (acc : Bool) (extra : List (BitVec 8 × Nat)) :
    (s.laneRead c h acc extra).dev = s.dev := by
  refine (foldl_dev (fun t e => readRegs_dev t _ _ _ e.1 e.2) extra _).trans ?_
  split
  · split <;> simp only [readRegs_dev, readOpt_dev]
  · simp only [readOpt_dev]

/-- The form of an XCHB in the window of a weave's pour. -/
def xchbForm (c : Ctx) (n : BitVec 8) (st : BitVec 3) : Form :=
  { instr := .xchb n st, bad := decide (4 < st.toNat), reads := .exch n.toNat st.toNat
    badOp := decide (240 ≤ n.toNat) || decide (c.p.hdr.regs < n.toNat + 32) }

/-- An XCHB of a weave is a lane word over the registers of its block. -/
theorem exec_xchb_weave (turn : s.turn = .weave c.w) (ctx : s.ctxOf c.w = some c) (n : BitVec 8) (st : BitVec 3) :
    exec (.xchb n st) s = s.laneOp (xchbForm c n st) false (xchbRegs n) fun u c' ins =>
      let injected := u.injectAll c'.pid c'.pc (c'.exchanged n st.toNat ins)
      c'.finish (xchbForm c n st)
        (injected.1.foldl (fun t e => t.modFibre e.1 fun f => f.landWords st.toNat n.toNat e.2) injected.2) [] := by
  rw [exec_xchb, execXchb, State.laneOp, turn]
  dsimp only
  rw [ctx]
  rfl

/-- A ready XCHB with no injection armed lands the words exchanged, as the operands were read. -/
theorem exec_xchb_ready {n : BitVec 8} {st : BitVec 3} (ready : LaneReady s c (xchbForm c n st) (xchbRegs n))
    (unarmed : s.dev.injarm = false) :
    exec (.xchb n st) s = .next (c.finish (xchbForm c n st)
      ((c.exchanged n st.toNat (s.laneIns c (xchbForm c n st) false (xchbRegs n))).foldl
        (fun t e => t.modFibre e.1 fun f => f.landWords st.toNat n.toNat e.2) (s.laneRead c (xchbForm c n st) false (xchbRegs n))) []) := by
  have quiet : (s.laneRead c (xchbForm c n st) false (xchbRegs n)).dev.injarm = false := by rw [laneRead_dev, unarmed]
  rw [exec_xchb_weave ready.turn ready.ctx, laneOp_ready false _ ready]
  dsimp only
  rw [injectAll_unarmed quiet]
  rfl

/-! ## The rotation (10 R221) -/

/-- The element that a lane gives to a rotation; one that does not contribute counts as +0. -/
def rotationElement : Option LaneIn → FVal
  | some x => dec x.a0.val.toNat fFP32
  | none => .fin false 0 0 false

theorem rotationElement_eq (o : Option LaneIn) :
    rotationElement o = (o.map fun x => dec x.a0.val.toNat fFP32).getD (.fin false 0 0 false) := by
  cases o <;> rfl

/-- The 32 elements of a rotation, by lane. -/
def rotationElements (cs : SMap LaneIn) : List FVal :=
  (List.range 32).map fun i => ((atLane cs i).map fun x => dec x.a0.val.toNat fFP32).getD (.fin false 0 0 false)

/-- The lanes whose element a rotation negates. -/
def rotationSigns (cs : SMap LaneIn) : BitVec 32 :=
  laneMask ((cs.filter fun e => e.2.b0.val.getLsbD 0).map fun e => (e.1, e.2.f))

/-- A lane's word of the rotation of the elements `xs`, which the lanes `cs` contribute. -/
def rotated (c : Ctx) (cs : SMap LaneIn) (xs : List FVal) (x : LaneIn) : Reg :=
  let v := BitVec.ofNat 32 ((rht32 xs (rotationSigns cs).toNat).getD x.f.lane 0)
  { val := v, poison := poi (cs.flatMap fun e => [e.2.a0, e.2.b0]),
    tag := tagpick x.f.tagmode c.here (special32 v) (cs.map fun e => (special32 e.2.a0.val, e.2.a0.tag)) x.d0.tag }

/-- The form of an RHAD: the lanes that contribute read. -/
def rotationForm (n : BitVec 1) (d a b : BitVec 8) (l : Word) : Form :=
  { intForm (.rhad n d a b l) n d a b l with reads := .member }

theorem execRhad_ready {n : BitVec 1} {d a b : BitVec 8} {l : Word} (ready : LaneReady s c (rotationForm n d a b l) []) :
    execRhad n d a b l s = .next (s.laneEnd c (rotationForm n d a b l) false [] fun x =>
      let cs := (s.laneIns c (rotationForm n d a b l) false []).filter fun e => c.contributes e.2.f.lane
      [rotated c cs (rotationElements cs) x]) := by
  refine laneOp_results ready rfl fun k f => ?_
  refine congrArg (fun w => (k, [w])) ((fpWord_eq (h := rotationForm n d a b l) ..).trans ?_)
  refine congrArg (fun xs => rotated c _ xs (laneIn c (rotationForm n d a b l) f)) (List.map_congr_left fun i _ => ?_)
  exact rotationElement_eq _

end

section

open Sys2Proof.Machine Sys2Proof.Laws

/-- Settles O10: a shuffle moves the word of its source lane, a vote computes one word for all. -/
theorem crossLaneResults : Obligations.CrossLaneResults := by
  unfold Obligations.CrossLaneResults
  refine ⟨fun e he s c n d a b l ready => ?shuffle, fun e he s c n d k ready => ?vote⟩
  case shuffle =>
    obtain ⟨source, same, meaning⟩ := exec_shuffleWord he n d a b l
    exact meaning.trans (shuffle_ready same ready)
  case vote => exact (exec_voteWord he n d k).trans (vote_ready k e.2 ready)

/-- Settles O11: what a lane is given is the other's words, each lands in the register of its index, and no injection changes them. -/
theorem butterflyAndRotation : Obligations.ButterflyAndRotation := by
  unfold Obligations.ButterflyAndRotation
  refine ⟨fun c n k ins e m x other own theirs => mem_exchanged m other own theirs, fun f x k n _ fits => ?land,
    fun s c n st ready unarmed => ?exchange, fun s c n d a b l ready => ?rotate⟩
  case land => exact ⟨fun i below => reg_landWords fits k _ below, fun r outside => (landWords_frame f k n _).regs r (by omega)⟩
  case exchange => exact exec_xchb_ready ready unarmed
  case rotate => exact (exec_rhad s).trans (execRhad_ready ready)

end

end Sys2Proof.Proofs

namespace Sys2Proof.Proofs

/-!
PROOFS. Control (11 R222 to R228, R231 to R233, R249 to R252): what a group word does once it is ready and reads nothing poisoned, on
a weave and on an engine, and from that the branches, the uniform arithmetic, the windows and an engine's control registers.
-/

section

open Sys2Proof.Machine Sys2Proof.Laws

variable {s t : State} {c : Ctx} {h : Form} {l0 : Nat × Fibre} {e : Nat} {v : Engine} {p : Pour}

/-! ## Group words that go on -/

/-- Where no word read is poisoned, nothing is consumed. -/
theorem ite_clean {rs : List Reg} {consumed go : State} (clean : poi rs = false) : (if poi rs then consumed else go) = go :=
  if_neg (Bool.eq_false_iff.mp clean)

/-- A ready group word that names no source runs on the state as it stands. -/
theorem groupOp_bare {fib : State → Ctx → LaneIn → State} {eng : State → Nat → EngIn → State} (noA : h.a = none) (noB : h.b = none)
    (ready : GroupReady s c h l0) : s.groupOp h fib eng = .next (fib s c (s.leadIn c h l0)) := by
  rw [groupOp_ready fib eng ready, groupRead_none noA noB]

/-- A ready group word that consumes poison, where the lowest active lane reads none. -/
theorem groupOp_clean {read : LaneIn → List Reg} {body : State → Ctx → LaneIn → State} {eng : State → Nat → EngIn → State}
    (ready : GroupReady s c h l0) (clean : poi (read (s.leadIn c h l0)) = false) :
    s.groupOp h (fun s c x => if poi (read x) then c.consume s else body s c x) eng =
      .next (body (s.groupRead c h l0) c (s.leadIn c h l0)) :=
  (groupOp_ready _ eng ready).trans (congrArg Host.Outcome.next (ite_clean clean))

/-- The same of an engine's word. -/
theorem groupOp_eng_clean {read : EngIn → List Reg} {fib : State → Ctx → LaneIn → State} {body : State → Nat → EngIn → State}
    (ready : EngReady s e v p h) (clean : poi (read (engIn v p h)) = false) :
    s.groupOp h fib (fun s e x => if poi (read x) then consumeE s e else body s e x) = .next (body s e (engIn v p h)) :=
  (groupOp_eng fib _ ready).trans (congrArg Host.Outcome.next (ite_clean clean))

/-! ## Branches (11 R224 to R228, 02 R40) -/

section Divergence

variable {k target : Nat} {sense : Bool}

/-- 11 R226: a BRP that every active fibre takes is a branch. -/
theorem brp_taken (agree : (c.acts.filter fun e => e.2.p k != sense) = []) : c.brp s k sense target = s.branchTo c.w target := by
  simp [Ctx.brp, agree]

/-- A BRP that no active fibre takes falls on. -/
theorem brp_untaken (no : (c.acts.filter fun e => e.2.p k != sense) ≠ []) (agree : (c.acts.filter fun e => e.2.p k == sense) = []) :
    c.brp s k sense target = s.after c.w 1 false true := by
  simp [Ctx.brp, State.fallOn, no, agree]

/-- 02 R40: where the active fibres disagree, the smaller side leaves, on a tie the taking side. -/
theorem brp_diverges (no : (c.acts.filter fun e => e.2.p k != sense) ≠ []) (yes : (c.acts.filter fun e => e.2.p k == sense) ≠ [])
    (matched : s.unmatched c.w = false) : c.brp s k sense target = State.checkpoint
      (if (c.acts.filter fun e => e.2.p k != sense).length < (c.acts.filter fun e => e.2.p k == sense).length then
        ((s.recast ((c.acts.filter fun e => e.2.p k != sense).map (·.1)) (c.pc + 1)).reMember c.w).branchTo c.w target
      else ((s.recastTo c.p.hdr ((c.acts.filter fun e => e.2.p k == sense).map (·.1)) target).reMember c.w).after c.w 1 false true)
      c.w := by
  simp only [Ctx.brp, State.fallOn, matched, List.isEmpty_eq_false_iff.mpr no, List.isEmpty_eq_false_iff.mpr yes,
    Bool.false_eq_true, if_false]

end Divergence

/-- A BRU takes its branch at a nonzero word. -/
theorem ite_nonzero {α : Type} (a : Word) (yes no : α) : (if a != 0#32 then yes else no) = if a = 0#32 then no else yes := by
  simp only [bne_iff_ne, ne_eq, ite_not]

/-! ## Uniform arithmetic (11 R249 to R252) -/

/-- 11 R249: a uniform word of a fibre's destination. -/
theorem uniWord_eq (f : Fibre) (i : Nat) (w : Word) (marked : Bool) : uniWord c h f i w marked =
    { val := w, poison := marked, tag := moveTag f.tagmode c.here ((laneIn c h f).d.getD i {}).tag } := by
  unfold uniWord
  rw [tagpick_plain, oldTags_getD (c := c)]

/-- A ready uniform computation writes its words to every active lane. -/
theorem uniOp_ready (g : List Reg → List Reg → List Word) (ready : GroupReady s c h l0) :
    let x := s.leadIn c h l0
    s.uniOp h g = .next (c.finishG h (s.groupRead c h l0) (((s.groupRead c h l0).actives c.w).map fun e =>
      (e.1, (g x.a x.b).zipIdx.map fun y => { val := y.1, poison := poi (x.a ++ x.b),
                                              tag := moveTag e.2.tagmode c.here ((laneIn c h e.2).d.getD y.2 {}).tag }))) := by
  refine (groupOp_ready _ _ ready).trans ?_
  simp only [uniWord_eq]

/-- A ready uniform computation of an engine writes its words to the k registers of its destination. -/
theorem uniOp_eng (g : List Reg → List Reg → List Word) (ready : EngReady s e v p h) :
    let x := engIn v p h
    s.uniOp h g = .next (finishE h s e ((g x.a x.b).map fun y => { val := y, poison := poi (x.a ++ x.b) })) :=
  groupOp_eng _ _ ready

/-- A ready uniform compare of clean words. -/
theorem gcmp_ready (k : BitVec 4) (g : Word → Word → Bool) (ready : GroupReady s c h l0)
    (clean : poi ((s.leadIn c h l0).a ++ (s.leadIn c h l0).b) = false) :
    s.gcmp h k g = .next (((s.groupRead c h l0).modFibres c.ids fun f =>
      f.setP k.toNat (g (s.leadIn c h l0).a0.val (s.leadIn c h l0).b0.val)).after c.w h.len false false) :=
  groupOp_clean (read := fun x => x.a ++ x.b) ready clean

theorem gcmp_eng (k : BitVec 4) (g : Word → Word → Bool) (ready : EngReady s e v p h)
    (clean : poi ((engIn v p h).a ++ (engIn v p h).b) = false) :
    s.gcmp h k g = .next ((s.modEngine e fun w =>
      { w with pred := setPred w.pred k.toNat (g (engIn v p h).a0.val (engIn v p h).b0.val) }).afterEngine e h.len) :=
  groupOp_eng_clean (read := fun x => x.a ++ x.b) ready clean

/-- The uniform words of two operands, each with its function; the shifts are those of 10 R205. -/
def uniformWords (shl shr sar : Word → Word → Word) :
    List ((BitVec 1 → BitVec 8 → BitVec 8 → BitVec 8 → Word → Instr) × (Word → Word → Word)) :=
  [(.gadd, fun a b => a + b), (.gsub, fun a b => a - b), (.gmul, fun a b => a * b), (.gand, fun a b => a &&& b),
    (.gor, fun a b => a ||| b), (.gxor, fun a b => a ^^^ b), (.gshl, shl), (.gshr, shr), (.gsar, sar)]

theorem exec_uniformWord {g} (hg : g ∈ uniformWords shlW shrW sarW) (n : BitVec 1) (d a b : BitVec 8) (l : Word) :
    exec (g.1 n d a b l) s = s.uni2 (intForm (g.1 n d a b l) n d a b l) g.2 := by
  simp only [uniformWords, List.mem_cons, List.not_mem_nil, or_false] at hg
  rcases hg with rfl | rfl | rfl | rfl | rfl | rfl | rfl | rfl | rfl
  · exact exec_gadd s
  · exact exec_gsub s
  · exact exec_gmul s
  · exact exec_gand s
  · exact exec_gor s
  · exact exec_gxor s
  · exact exec_gshl s
  · exact exec_gshr s
  · exact exec_gsar s

/-- The uniform compares, each with its ordering. -/
def uniformCompares : List ((BitVec 4 → BitVec 4 → BitVec 8 → BitVec 8 → Word → Instr) × (Word → Word → Option Ordering)) :=
  [(.gcmps, ordS), (.gcmpz, ordZ)]

theorem exec_uniformCompare {g} (hg : g ∈ uniformCompares) (cond k : BitVec 4) (a b : BitVec 8) (l : Word) :
    exec (g.1 cond k a b l) s = s.gcmp (cmpForm (g.1 cond k a b l) cond a b l) k fun a b => condHolds cond (g.2 a b) := by
  simp only [uniformCompares, List.mem_cons, List.not_mem_nil, or_false] at hg
  rcases hg with rfl | rfl
  · exact exec_gcmps s
  · exact exec_gcmpz s

/-- 11 R250: GADDI adds its immediate byte, signed. -/
theorem exec_immediate (n : BitVec 1) (d a i : BitVec 8) (l : Word) :
    exec (.gaddi n d a i l) s = s.uniOp (uniForm (.gaddi n d a i l) n d a l) fun a _ => [(head1 a).val + i.signExtend 32] :=
  exec_gaddi s

/-- A word of one source is poisoned where that source is. -/
theorem poi_leadIn_uniForm (i : Instr) (n : BitVec 1) (d a : BitVec 8) (l : Word) :
    poi ((s.leadIn c (uniForm i n d a l) l0).a ++ (s.leadIn c (uniForm i n d a l) l0).b) =
      poi (s.leadIn c (uniForm i n d a l) l0).a :=
  congrArg poi (List.append_nil _)

theorem poi_engIn_uniForm (i : Instr) (n : BitVec 1) (d a : BitVec 8) (l : Word) :
    poi ((engIn v p (uniForm i n d a l)).a ++ (engIn v p (uniForm i n d a l)).b) = poi (engIn v p (uniForm i n d a l)).a :=
  congrArg poi (List.append_nil _)

/-! ## The control registers of an engine (09 R196) -/

/-- 04 R95: the phase of a refresh group within the die's. -/
theorem wsrefAt_eq (clk : Nat) : wsrefAt clk = BitVec.ofNat 32
    (if clk % 14080 < 1760 then 1760 - clk % 14080 + clk % 56320 / 14080 * 2 ^ 16 + 2 ^ 18
      else 14080 - clk % 14080 + (clk % 56320 / 14080 + 1) % 4 * 2 ^ 16) := by
  unfold wsrefAt refreshPhase
  dsimp only
  rw [Nat.mod_mod_of_dvd clk (by decide : 14080 ∣ 56320), apply_ite (BitVec.ofNat 32)]

/-- The registers that an engine may name. -/
theorem engCr_cases {r : BitVec 8} (named : engCr r.toNat = true) : r = 0x06#8 ∨ r = 0x07#8 ∨ r = 0x0E#8 ∨ r = 0x0F#8 ∨ r = 0x10#8 := by
  simp only [engCr, Bool.or_eq_true, beq_iff_eq] at named
  bv_omega

/-- A GET that an engine completes names a register that it has. -/
theorem engCr_of_ready {i : Instr} {r : Nat} {dst : Option (BitVec 8 × Nat)}
    (ready : EngReady s e v p { s.crForm i r with dst := dst }) : engCr r = true := by
  have ops := ready.ops
  simp only [Form.engBad, State.crForm, ready.turn, Bool.or_eq_false_iff, Bool.true_and, Bool.not_eq_false'] at ops
  obtain ⟨⟨⟨⟨named, -⟩, -⟩, -⟩, -⟩ := ops
  exact named

/-- What an engine reads of each register that it may name. -/
theorem sharedReg_engine {r : BitVec 8} (named : engCr r.toNat = true) : s.sharedReg p none r.toNat =
    if r = 0x06#8 then (s.core p.core).cycOff + BitVec.ofNat 32 s.clk else if r = 0x07#8 then (s.core p.core).ufz
      else if r = 0x0E#8 then p.late
      else if r = 0x0F#8 then BitVec.ofNat 32 ((if (s.core p.core).mirror then 1 else 0) + (s.core p.core).fixed.toNat * 2 ^ 16)
      else wsrefAt s.clk := by
  rcases engCr_cases named with rfl | rfl | rfl | rfl | rfl <;> rfl

end

section

open Sys2Proof.Machine Sys2Proof.Laws

/-- Settles O23: each branch is `branchTo` at its target, and the three outcomes of a BRP follow which sides are empty. -/
theorem branchesMoveTheWeave : Obligations.BranchesMoveTheWeave := by
  unfold Obligations.BranchesMoveTheWeave
  refine ⟨fun s c l0 o ready => ?br, fun s c l0 o ready => ?call, fun s c l0 ready => ?ret, fun s c l0 a l ready clean => ?brx,
    fun s c l0 a o ready clean => ?bru, fun s c l0 k sense o ready => ?brp⟩
  case br => exact (exec_br s).trans (groupOp_bare rfl rfl ready)
  case call => exact (exec_call s).trans (groupOp_bare rfl rfl ready)
  case ret => exact (exec_ret s).trans (groupOp_bare rfl rfl ready)
  case brx => exact (exec_brx s).trans (groupOp_clean (read := LaneIn.a) ready clean)
  case bru =>
    refine (exec_bru s).trans ((groupOp_clean (read := LaneIn.a) ready clean).trans ?_)
    exact congrArg Host.Outcome.next (ite_nonzero ..)
  case brp =>
    have runs := (exec_brp s).trans (groupOp_bare rfl rfl ready)
    exact ⟨fun agree => runs.trans (congrArg Host.Outcome.next (brp_taken agree)),
      fun no agree => runs.trans (congrArg Host.Outcome.next (brp_untaken no agree)),
      fun no yes matched => runs.trans (congrArg Host.Outcome.next (brp_diverges no yes matched))⟩

/-- Settles O25: one computation over what the lowest active lane reads, tagged in each lane by `uniWord_eq`. -/
theorem uniformArithmeticCompletes : Obligations.UniformArithmeticCompletes := by
  unfold Obligations.UniformArithmeticCompletes
  refine ⟨fun g hg s c l0 n d a b l ready => ?two, fun s c l0 n d a i l ready => ?immediate,
    fun s c l0 n d a b l ready => ?pair, fun g hg s c l0 cond k a b l ready clean => ?compare⟩
  case two =>
    have listed : g ∈ uniformWords shlW shrW sarW := by
      rw [funext₂ shlW_eq, funext₂ shrW_eq, funext₂ sarW_eq]
      exact hg
    exact (exec_uniformWord listed n d a b l).trans (uniOp_ready _ ready)
  case immediate =>
    refine (exec_immediate n d a i l).trans ((uniOp_ready _ ready).trans ?_)
    rw [poi_leadIn_uniForm]
    rfl
  case pair => exact (exec_gadd64 s).trans (uniOp_ready add64 ready)
  case compare => exact (exec_uniformCompare hg cond k a b l).trans (gcmp_ready k _ ready clean)

/-- Settles O26: each is its body on the state as l0's operands were read. -/
theorem windowsYieldsAndNothing : Obligations.WindowsYieldsAndNothing := by
  unfold Obligations.WindowsYieldsAndNothing
  refine ⟨fun s c l0 ready => ?yield, fun s c l0 sense k n ready => ?guard, fun s c l0 a l ready clean => ?memb,
    fun s c l0 ready => ?nop⟩
  case yield => exact (exec_yield s).trans (groupOp_bare rfl rfl ready)
  case guard => exact (exec_guard s).trans (groupOp_bare rfl rfl ready)
  case memb => exact (exec_memb s).trans (groupOp_clean (read := LaneIn.a) ready clean)
  case nop => exact (exec_nop s).trans (groupOp_bare rfl rfl ready)

/-- Settles O24: each word's body over the engine's own registers. -/
theorem engineControlCompletes : Obligations.EngineControlCompletes := by
  unfold Obligations.EngineControlCompletes
  refine ⟨fun s e v p => ⟨fun o ready => ?br, fun o ready => ?call, fun ready => ?ret, fun a l ready clean => ?brx,
      fun a o ready clean => ?bru, fun k sense o ready => ?brp, fun ready => ?nop⟩,
    fun g hg s e v p n d a b l ready => ?two, fun s e v p n d a i l ready => ?immediate,
    fun s e v p n d a b l ready => ?pair, fun g hg s e v p cond k a b l ready clean => ?compare,
    fun s e v p d r ready => ?get, fun s e v p a l ready clean => ?set⟩
  case br => exact (exec_br s).trans (groupOp_eng _ _ ready)
  case call => exact (exec_call s).trans (groupOp_eng _ _ ready)
  case ret => exact (exec_ret s).trans (groupOp_eng _ _ ready)
  case brx => exact (exec_brx s).trans (groupOp_eng_clean (read := EngIn.a) ready clean)
  case bru =>
    refine (exec_bru s).trans ((groupOp_eng_clean (read := EngIn.a) ready clean).trans ?_)
    exact congrArg (fun pc => Host.Outcome.next (s.engineTo e pc)) (ite_nonzero ..)
  case brp =>
    refine (exec_brp s).trans ((groupOp_eng _ _ ready).trans ?_)
    simp only [beq_iff_eq]
    rfl
  case nop => exact (exec_nop s).trans (groupOp_eng _ _ ready)
  case two => exact (exec_uniformWord hg n d a b l).trans (uniOp_eng _ ready)
  case immediate =>
    refine (exec_immediate n d a i l).trans ((uniOp_eng _ ready).trans ?_)
    rw [poi_engIn_uniForm]
    rfl
  case pair => exact (exec_gadd64 s).trans (uniOp_eng add64 ready)
  case compare => exact (exec_uniformCompare hg cond k a b l).trans (gcmp_eng k _ ready clean)
  case get =>
    have read := sharedReg_engine (s := s) (p := p) (engCr_of_ready ready)
    rw [wsrefAt_eq] at read
    exact (exec_get s).trans ((groupOp_eng _ _ ready).trans (congrArg (fun w : Word =>
      Host.Outcome.next ((s.modEngine e fun u => u.setK d.toNat [{ val := w }]).afterEngine e 1)) read))
  case set => exact (exec_set s).trans (groupOp_eng_clean (read := EngIn.a) ready clean)

end

end Sys2Proof.Proofs

namespace Sys2Proof.Proofs

/-!
PROOFS. Synchronization (11 R229, R230, R234 to R243, R248, 12 R264): rejoin levels, crews, barriers and meetings, FORK, fences, and the
end and the spawns of fibres.
-/

section

open Sys2Proof.Machine Sys2Proof.Laws

variable {s t : State} {c : Ctx} {h : Form} {l0 : Nat × Fibre} {e : Nat} {v : Engine} {p : Pour}

/-- 06 R137: one word supplied to each active lane, with the prior tag of its destination under OFF. -/
theorem supply_one (g : Fibre → Word) : c.supply h s (fun f => [g f]) = (s.actives c.w).map fun e =>
    (e.1, [{ val := g e.2, tag := suppliedTag e.2 ((laneIn c h e.2).d.getD 0 {}).tag }]) := by
  unfold Ctx.supply
  simp only [oldTags_getD (c := c)]
  rfl

/-- A ready synchronizing word that names no source and has nothing to wait for (12 R255, 22 R402). -/
theorem syncOp_bare {body : Ctx → State → State} {eng : State → Nat → EngIn → State} (noA : h.a = none) (noB : h.b = none)
    (ready : GroupReady s c h l0) (free : s.syncWait c.w = none) :
    s.groupOp h (fun s c _ => c.syncOp s (body c)) eng = .next ((body c s).checkpoint c.w) :=
  (groupOp_bare noA noB ready).trans (congrArg Host.Outcome.next (syncOp_none free))

/-! ## Rejoin registers (02 R45, R53; 11 R234, R235) -/

/-- 02 R45: the words of a rejoin register. -/
theorem jregWord_eq (r : JReg) (w : BitVec 8) : r.word w.toNat = if w = 0#8 then r.expect else if w = 1#8 then r.arrived
    else if w = 2#8 then BitVec.ofNat 32 (r.state.toNat + 4 * r.gen.toNat + 1024 * r.limit.toNat) else r.elapsed := by
  unfold JReg.word
  split
  case h_1 zero => rw [if_pos (by bv_omega)]
  case h_2 one => rw [if_neg (by bv_omega), if_pos (by bv_omega)]
  case h_3 two => rw [if_neg (by bv_omega), if_neg (by bv_omega), if_pos (by bv_omega), Nat.mul_comm 4, Nat.mul_comm 1024]
  case h_4 zero one two => rw [if_neg (by bv_omega), if_neg (by bv_omega), if_neg (by bv_omega)]

/-- 02 R46: some fibre's depth would pass the kernel's. -/
theorem any_deep_iff {limit : Nat} {ms : SMap Fibre} :
    (ms.any fun e => decide (limit < e.2.depth + 1)) = true ↔ ∃ e ∈ ms, limit < e.2.depth + 1 := by
  simp [List.any_eq_true]

/-- The level of serial mode that the JOIN of the lowest active lane meets, with the lane. -/
def metLevel (c : Ctx) : Option (Serial × Nat) :=
  c.acts.head?.bind fun e => ((c.v.levelOf e.2.lane).filter fun sr => sr.meets e.1 e.2).map fun sr => (sr, e.2.lane)

theorem metLevel_none (lead : c.acts.head? = some l0) (unmet : ∀ sr, c.v.levelOf l0.2.lane = some sr → sr.meets l0.1 l0.2 = false) :
    metLevel c = none := by
  unfold metLevel
  rw [lead]
  cases level : c.v.levelOf l0.2.lane with
  | none => simp [level]
  | some sr => simp [level, unmet sr level]

theorem metLevel_some {sr : Serial} (lead : c.acts.head? = some l0) (level : c.v.levelOf l0.2.lane = some sr)
    (met : sr.meets l0.1 l0.2 = true) : metLevel c = some (sr, l0.2.lane) := by
  simp [metLevel, lead, level, met]

/-- Where a filter keeps nothing, the branch for what it keeps is not taken. -/
theorem not_any_filtered {α : Type} {q : α → Bool} {l : List α} (clear : ∀ x ∈ l, q x = false) : ¬ (!(l.filter q).isEmpty) = true := by
  rw [List.filter_eq_nil_iff.mpr fun x m => Bool.eq_false_iff.mp (clear x m)]
  exact Bool.false_ne_true

/-! ## FORK (03 R79, 11 R242) -/

/-- A kernel has an engine section. -/
theorem hasSection_iff {a b : Option Nat} : ¬ (a.isNone && b.isNone) = true ↔ a ≠ none ∨ b ≠ none := by
  simp [Option.isNone_iff_eq_none, ← not_and_or]

end

section

open Sys2Proof.Machine Sys2Proof.Laws

/-- Settles O32: without a held access or a pair the fibres end; the spawns answer every lane before the word goes on. -/
theorem fibresEndAndSpawn : Obligations.FibresEndAndSpawn := by
  unfold Obligations.FibresEndAndSpawn
  refine ⟨fun s c l0 ready idle solo => ?fend, fun s c l0 d a l ready clean free => ?fspawn⟩
  case fend =>
    refine (exec_fend s).trans ((groupOp_bare rfl rfl ready).trans (congrArg Host.Outcome.next ?_))
    rw [idle, solo]
    rfl
  case fspawn =>
    refine (exec_fspawn s).trans ((groupOp_clean (read := LaneIn.a) ready clean).trans (congrArg Host.Outcome.next ?_))
    refine (syncOp_none free).trans ?_
    simp only [oldTags_getD (c := c)]
    rfl

/-- Settles O33: whether a fibre concerned would pass the kernel's depth decides between the register and serial mode. -/
theorem rejoinRegistersArmAndRead : Obligations.RejoinRegistersArmAndRead := by
  unfold Obligations.RejoinRegistersArmAndRead
  refine ⟨fun s c l0 n ready unarmed uncounted => ?jarm, fun s c l0 d n w ready => ?jget⟩
  case jarm =>
    have idle := Bool.or_eq_false_iff.mpr ⟨beq_false_of_ne unarmed, beq_false_of_ne uncounted⟩
    have runs := (exec_jarm s).trans ((groupOp_bare rfl rfl ready).trans
      (congrArg Host.Outcome.next (if_neg (Bool.eq_false_iff.mp idle))))
    refine ⟨fun shallow => runs.trans (congrArg Host.Outcome.next (if_neg fun past => ?_)),
      fun deep => ⟨fun plain => ?enter, fun sr rest serial => ?nest⟩⟩
    · obtain ⟨e, m, deeper⟩ := any_deep_iff.mp past
      exact Nat.not_lt.mpr (shallow e m) deeper
    all_goals
      refine runs.trans (congrArg Host.Outcome.next ((if_pos (any_deep_iff.mpr deep)).trans ?_))
    case enter =>
      rw [plain]
      rfl
    case nest =>
      rw [serial]
      rfl
  case jget =>
    refine (exec_jget s).trans ((groupOp_bare rfl rfl ready).trans ?_)
    simp only [supply_one, jregWord_eq]
    rfl

/-- Settles O34: the level that the lowest active lane meets decides between the parking of each fibre and the runner's arrival. -/
theorem joinResolvesEachFibre : Obligations.JoinResolvesEachFibre := by
  unfold Obligations.JoinResolvesEachFibre
  intro s c l0 n a l h u t ready clean below free
  have runs := (exec_join s (n := n) (a := a) (l := l)).trans ((groupOp_clean (read := LaneIn.a) ready clean).trans
    (congrArg Host.Outcome.next (if_neg (show ¬ 65535 < t by omega))))
  refine ⟨fun unmet named => runs.trans (congrArg Host.Outcome.next ?park),
    fun sr level met names => runs.trans (congrArg Host.Outcome.next ?arrive)⟩
  case park =>
    have plain := metLevel_none ready.lead unmet
    unfold metLevel at plain
    rw [plain]
    refine (if_neg (not_any_filtered fun e m => ?_)).trans (syncOp_none free)
    obtain ⟨k, link, jreg⟩ := named e m
    simp [link, jreg]
  case arrive =>
    have serial := metLevel_some ready.lead level met
    unfold metLevel at serial
    rw [serial]
    exact (if_neg (not_not.mpr names)).trans (syncOp_none free)

/-- Settles O35: with nothing to wait for, each is its body and, of BAR and RDV, the checkpoint after it. -/
theorem crewsBarriersAndMeetings : Obligations.CrewsBarriersAndMeetings := by
  unfold Obligations.CrewsBarriersAndMeetings
  refine ⟨fun s c l0 a l ready clean below => ?cjoin, fun s c l0 ready => ?cleave, fun s c l0 ready free => ?bar,
    fun s c l0 ready free => ?rdv, fun s e v p ready => ?engine⟩
  case cjoin =>
    refine (exec_cjoin s).trans ((groupOp_clean (read := LaneIn.a) ready clean).trans (congrArg Host.Outcome.next ?_))
    exact if_neg (Nat.not_lt.mpr (Nat.le_of_lt_succ below))
  case cleave => exact (exec_cleave s).trans (groupOp_bare rfl rfl ready)
  case bar => exact (exec_bar s).trans (syncOp_bare rfl rfl ready free)
  case rdv => exact (exec_rdv s).trans (syncOp_bare rfl rfl ready free)
  case engine => exact (exec_rdv s).trans (groupOp_eng _ _ ready)

/-- Settles O36: a barrier's key, the phase and the free engines decide; then each is its body and its checkpoint. -/
theorem phaseBarriersForkAndFences : Obligations.PhaseBarriersForkAndFences := by
  unfold Obligations.PhaseBarriersForkAndFences
  refine ⟨fun s c l0 a key ready clean found free => ?pbarr,
    fun s c l0 a ph key ready clean found free passed => ?pbwait,
    fun s c l0 a l ready has clean free => ?fork, fun s c l0 ready solo => ?ckpt,
    fun e he s c l0 ready free => ?fence,
    fun s e v p a ph key found => ⟨fun ready clean => ?engineArrives, fun ready clean passed => ?engineWaits⟩,
    fun e he s k v p ready => ?engineFence⟩
  case pbarr =>
    refine (exec_pbarr s).trans ((groupOp_clean (read := LaneIn.a) ready clean).trans (congrArg Host.Outcome.next ?_))
    rw [found]
    exact syncOp_none free
  case pbwait =>
    refine (exec_pbwait s).trans ((groupOp_clean (read := LaneIn.a) ready clean).trans (congrArg Host.Outcome.next ?_))
    rw [found]
    dsimp only
    rw [free]
    exact if_pos (beq_iff_eq.mpr passed)
  case fork =>
    have runs := (exec_fork s (a := a) (l := l)).trans (groupOp_ready _ _ ready)
    simp only [if_neg (hasSection_iff.mpr has), ite_clean clean, free] at runs
    refine ⟨fun all => runs.trans (congrArg Host.Outcome.next (if_neg fun short => ?_)), fun ⟨e, m, busy⟩ => ?_⟩
    · obtain ⟨e, m, busy⟩ := List.length_filter_lt_length_iff_exists.mp short
      exact busy (all e m)
    · refine runs.trans (congrArg Host.Outcome.next
        ((if_pos (List.length_filter_lt_length_iff_exists.mpr ⟨e, m, Bool.eq_false_iff.mp busy⟩)).trans ?_))
      simp only [List.isEmpty_iff]
  case ckpt =>
    refine (exec_ckpt s).trans ((groupOp_bare rfl rfl ready).trans (congrArg Host.Outcome.next ?_))
    rw [solo]
    rfl
  case fence =>
    simp only [List.mem_cons, List.not_mem_nil, or_false] at he
    rcases he with rfl | rfl
    · exact (exec_fencePour s).trans (syncOp_bare rfl rfl ready free)
    · exact (exec_fenceDev s).trans (syncOp_bare rfl rfl ready free)
  case engineArrives =>
    refine (exec_pbarr s).trans ((groupOp_eng_clean (read := EngIn.a) ready clean).trans (congrArg Host.Outcome.next ?_))
    rw [show barKey (engIn v p _).p (pairAddr (engIn v p _).a) = .ok key from found]
    rfl
  case engineWaits =>
    have reached : barKey (engIn v p { instr := .pbwait a ph, a := some (.ap, a) }).p
        (pairAddr (engIn v p { instr := .pbwait a ph, a := some (.ap, a) }).a) = .ok key := found
    refine (exec_pbwait s).trans ((groupOp_eng_clean (read := EngIn.a) ready clean).trans (congrArg Host.Outcome.next ?_))
    rw [reached]
    exact if_pos (beq_iff_eq.mpr passed)
  case engineFence =>
    simp only [List.mem_cons, List.not_mem_nil, or_false] at he
    rcases he with rfl | rfl
    · exact (exec_fencePour s).trans (groupOp_eng _ _ ready)
    · exact (exec_fenceDev s).trans (groupOp_eng _ _ ready)

end

end Sys2Proof.Proofs

namespace Sys2Proof.Proofs

/-!
PROOFS. Drawing and passing work (11 R244 to R247): range units, graph edges, records and signals, outside a pair.
-/

section

open Sys2Proof.Machine Sys2Proof.Laws

variable {s t : State} {c : Ctx} {h : Form} {l0 : Nat × Fibre} {e : Nat} {v : Engine} {p : Pour} {op : MemOp}

/-! ## Operations that a pair performs once (22 R402) -/

/-- Such an operation outside a pair, with nothing to wait for: its words, where it has any, go to the scoreboard, and the weave goes on. -/
theorem taskOp_done {len rank : Nat} {tags : SMap Word} {stall : StallKind} {sync yields : Bool}
    {perform : State → Pour → MemOp → TaskRes} {res : List Reg} (free : sync = true → s.syncWait c.w = none)
    (log : sync = false → op.kind = .rnext ∨ s.logWait op = none) (solo : s.pairOf c.pid = none)
    (done : perform s c.p op = .done t res) : c.taskOp s op len rank tags stall sync yields perform =
      (if res.isEmpty then t else t.sendResult op (op.acts.map fun f => (f, res))).passAccess c.w op len false yields := by
  have wait : (if sync then s.syncWait c.w else if op.kind = .rnext then none
      else (s.logWait op).map fun k => (k, true)) = none := by
    cases sync with
    | true => exact free rfl
    | false =>
      rcases log rfl with draw | idle
      · simp [draw]
      · simp [idle]
  unfold Ctx.taskOp
  dsimp only
  rw [wait]
  dsimp only
  rw [solo]
  dsimp only
  rw [done]
  cases res <;> rfl

/-- The one access of a group word is that of the lowest active lane. -/
theorem groupMem_head {kind : MemKind} {rlx : Bool} {dest : Nat} {x : LaneIn} {data : List Reg} (lead : c.acts.head? = some l0) :
    (c.groupMem h kind rlx dest x 0 data).lanes.head? = some { fibre := l0.1, lane := x.f.lane, addr := pairAddr x.a, data := data,
                                                               words := x.a ++ x.b ++ x.d } := by
  simp [Ctx.groupMem, lead]

/-! ## Range units (03 R78) -/

/-- 03 R78: the chunk that a unit gives, and the unit once it is taken. -/
theorem takeChunk_some {r : Nat} {u : Range} (unit : s.rangeOf p = some (r, u)) : s.takeChunk p op =
    .done (s.modPart p.part fun q => { q with ranges := SMap.put q.ranges r u.next.2.2 }) [{ val := u.next.1 }, { val := u.next.2.1 }] := by
  rw [State.takeChunk, unit]

/-! ## Graph edges (03 R74, R75) -/

section Edges

variable {l : LaneAcc} {key : Nat} {d : Edge} {pl : Place} (lane : op.lanes.head? = some l)
  (desc : s.edgeAt p.part l.addr = .ok key d)
include lane desc

/-- 03 R74: a push into an edge with room stores its words at the tail, and is a release. -/
theorem edgePush_done (room : 0 < d.free) (slot : s.edgeSlot p.part d d.tail true = .mem pl) :
    let t := (s.cacheAll p [l.addr, d.slot d.tail]).touch key 64
    let t := State.sign { t with mem := storeAt t.mem pl 16 l.data } p.part op.pour l.addr 16 (wordsBytes l.data)
    s.edgePush p op = .done ((t.putEdge key { d with free := d.free - 1, tail := (d.tail + 1) % 2 ^ 32, filled := d.filled + 1 }).releaseOp
      op (.edge key d.tail)) [] := by
  unfold State.edgePush
  rw [lane]
  dsimp only
  rw [desc]
  dsimp only
  rw [if_neg (Nat.pos_iff_ne_zero.mp room), slot]

/-- 03 R74, R75: a pop of an edge with an entry takes the head's words and what its push released. -/
theorem edgePop_done (filled : 0 < d.filled) (slot : s.edgeSlot p.part d d.head false = .mem pl)
    (shut : s.locRefresh (.mem pl) = false) :
    let t := ((s.cacheAll p [l.addr, d.slot d.head]).touch key 64).touchLoc (.mem pl) 16
    s.edgePop p op = .done (((t.putEdge key { d with filled := d.filled - 1, head := (d.head + 1) % 2 ^ 32, free := d.free + 1 }).acquireOp
      op (.edge key d.head)).setSync (.edge key d.head) []) (loadWords t.mem pl pl.key 4) := by
  have source : s.edgeKey p.part l.addr = .edge key d.head := by rw [State.edgeKey, desc]
  unfold State.edgePop
  rw [lane]
  dsimp only
  unfold State.edgeTake
  rw [desc]
  dsimp only
  rw [if_neg (Nat.pos_iff_ne_zero.mp filled), slot]
  dsimp only
  rw [if_neg (Bool.eq_false_iff.mp shut), source]

end Edges

/-! ## Pairs stay as they were -/

theorem pairOf_of_pairs (same : t.pairs = s.pairs) (pid : Nat) : t.pairOf pid = s.pairOf pid := by
  rw [State.pairOf, same]
  rfl

/-- What every step of a fold keeps, the fold keeps. -/
theorem foldl_keeps {α β : Type} (π : State → α) {step : State → β → State} (each : ∀ t x, π (step t x) = π t) (l : List β)
    (s : State) : π (l.foldl step s) = π s :=
  List.foldlRecOn (motive := fun t => π t = π s) l step rfl fun _ before x _ => (each _ x).trans before

theorem touch_pairs (s : State) (k n : Nat) : (s.touch k n).pairs = s.pairs := by
  unfold State.touch
  split
  · rfl
  · refine foldl_keeps State.pairs (fun t i => ?_) _ s
    split
    · dsimp only
      split <;> rfl
    · rfl

theorem touchPart_pairs (s : State) (k n : Nat) : (s.touchPart k n).pairs = s.pairs := by
  unfold State.touchPart
  split
  · rfl
  · dsimp only
    split <;> split <;> simp only [touch_pairs]

theorem touchTags_pairs (s : State) (k n : Nat) : (s.touchTags k n).pairs = s.pairs := by
  unfold State.touchTags
  split
  · rfl
  · refine foldl_keeps State.pairs (fun t i => ?_) _ s
    split <;> rfl

theorem touchPlace_pairs (s : State) (pl : Place) (n : Nat) (reads : Bool) : (s.touchPlace pl n reads).pairs = s.pairs := by
  unfold State.touchPlace
  dsimp only
  split
  · rw [touchTags_pairs, touch_pairs]
  · exact touch_pairs ..

theorem touchWalk_pairs (s : State) (part va : Nat) : (s.touchWalk part va).pairs = s.pairs := by
  unfold State.touchWalk
  dsimp only
  split
  · rfl
  · exact foldl_keeps State.pairs (fun t pa => touch_pairs t _ _) _ s

theorem cached_pairs (s : State) (part va : Nat) : (s.cached part va).pairs = s.pairs := by
  unfold State.cached
  split
  · exact touchWalk_pairs s part va
  · rfl

theorem reached_pairs (s : State) (p : Pour) (op : MemOp) : (s.reached p op).pairs = s.pairs := by
  refine (foldl_keeps State.pairs (fun t e => ?lane) _ _).trans (foldl_keeps State.pairs (fun t a => ?address) _ s)
  case lane =>
    split
    · split
      · exact touchPart_pairs ..
      · exact touchPlace_pairs ..
    · rfl
  case address =>
    split
    · exact cached_pairs ..
    · rfl

theorem writeSlot_pairs (s : State) (tid : Nat) : (s.writeSlot tid).pairs = s.pairs := by
  unfold State.writeSlot
  split
  · rfl
  · split
    · rfl
    · split
      · rfl
      · dsimp only
        split
        · split <;> rfl
        · rfl

theorem enter_pairs (s : State) (r : Task) : (s.enter r).2.pairs = s.pairs := by
  unfold State.enter
  dsimp only
  split
  · rfl
  · split
    · rfl
    · exact writeSlot_pairs ..

theorem spawnRecord_pairs {bs : List Byte} {hd : Word} (entered : s.spawnRecord p bs = some (hd, t)) : t.pairs = s.pairs := by
  unfold State.spawnRecord at entered
  split at entered
  · cases entered
    exact enter_pairs ..
  · cases entered

theorem recordAcc_pairs (s : State) (p : Pour) (op : MemOp) (ks : List (LaneAcc × Nat × Nat)) : (s.recordAcc p op ks).pairs = s.pairs := by
  have lines (s : State) : (s.addLines op ks).pairs = s.pairs := by
    unfold State.addLines
    split
    · rfl
    · exact foldl_keeps State.pairs (fun t e => by rfl) ks s
  refine (lines _).trans (foldl_keeps State.pairs (fun t e => ?_) ks s)
  split <;> rfl

/-- An engine outside a pair meets no other. -/
theorem engMeet_alone {x : EngIn} {data : List Word} (solo : s.pairOf x.v.pour = none) : s.engMeet e x data = .alone := by
  rw [State.engMeet, solo]

/-! ## TSIG (11 R247) -/

/-- 03 R61: a signal releases the stores of the word's fibres. -/
theorem taskSignal_done {l : LaneAcc} (lane : op.lanes.head? = some l) :
    let hd := (l.data.getD 0 {}).val
    let amount := (l.data.getD 1 {}).val
    s.taskSignal p op = .done (((s.modFibres op.acts Fibre.newRegion).sign p.part op.pour (hd.zeroExtend 64) 8
      (bytesOfWord amount ++ bytesOfWord hd)).signal p.part hd amount (s.releasedBy op.acts)) [] := by
  rw [State.taskSignal, lane]

/-! ## TSPAWN (11 R246) -/

/-- Where the one access of a word leads. -/
def firstLoc : List (LaneAcc × Loc) → Loc
  | e :: _ => e.2
  | [] => .fatal

/-- A TSPAWN outside a pair enters the record that its image holds. -/
theorem taskSpawn_done {l : LaneAcc} {va : Nat} {hd : Word} (kind : op.kind = .tspawn) (pour : op.pour = c.pid)
    (lane : op.lanes.head? = some l) (reach : AccessReady s c op) (global : aperture l.addr = .global va) :
    let v := s.reached c.p op
    let loc := firstLoc (v.laneLocs c.p op false)
    (v.placeBytes loc 64).2 = false → s.locRefresh loc = false →
      ({ v with free := v.free + 1 } : State).spawnRecord c.p (v.placeBytes loc 64).1 = some (hd, t) →
      s.taskSpawn c.p op = .done (t.recordAcc c.p op (checkedLanes op (v.laneLocs c.p op false) false)) [{ val := hd }] := by
  intro v loc clean shut entered
  have solo (ks) : (t.recordAcc c.p op ks).pairOf op.pour = none := by
    rw [pour, ← reach.solo]
    exact pairOf_of_pairs (((recordAcc_pairs ..).trans (spawnRecord_pairs entered)).trans (reached_pairs ..)) _
  unfold State.taskSpawn
  rw [lane]
  dsimp only
  rw [global]
  dsimp only
  rw [perform_tspawn reach kind]
  refine (if_neg Bool.false_ne_true).trans ((if_neg (Bool.eq_false_iff.mp shut)).trans ((if_neg (Bool.eq_false_iff.mp clean)).trans ?_))
  split
  next refused => cases refused.symm.trans entered
  next same =>
    cases same.symm.trans entered
    rw [solo]

end

section

open Sys2Proof.Machine Sys2Proof.Laws

/-- Settles O37: the descriptor and the slot are reached, so the push or the pop is performed at issue. -/
theorem graphEdgesPushAndPop : Obligations.GraphEdgesPushAndPop := by
  unfold Obligations.GraphEdgesPushAndPop
  refine ⟨fun s c l0 a b key e pl ready clean free solo desc room slot => ?push,
    fun s c l0 d a key e pl ready clean free solo desc filled slot shut => ?pop⟩
  case push =>
    refine (exec_epush s).trans ((groupOp_clean (read := fun x => x.a ++ x.b) ready clean).trans (congrArg Host.Outcome.next ?_))
    exact (taskOp_done (fun _ => free) (fun off => Bool.noConfusion off) solo
      (edgePush_done (groupMem_head ready.lead) desc room slot)).trans rfl
  case pop =>
    refine (exec_epop s).trans ((groupOp_clean (read := LaneIn.a) ready clean).trans (congrArg Host.Outcome.next ?_))
    exact (taskOp_done (fun _ => free) (fun off => Bool.noConfusion off) solo
      (edgePop_done (groupMem_head ready.lead) desc filled slot shut)).trans rfl

/-- Settles O38: outside a pair each operation is performed once for the weave, or for the engine, at issue. -/
theorem workIsDrawnSpawnedAndSignalled : Obligations.WorkIsDrawnSpawnedAndSignalled := by
  unfold Obligations.WorkIsDrawnSpawnedAndSignalled
  refine ⟨fun s c l0 d ready => ⟨fun without => ?rangeless, fun r u unit solo => ?draw⟩,
    fun s t c l0 d a hd va ready clean reach global sound shut entered => ?spawn,
    fun s c l0 a b l ready clean free solo => ?signal,
    fun s t e v p d a l hd va ready clean global reach sound solo entered kept => ?engineSpawn,
    fun s e v p a b l ready clean solo => ?engineSignal⟩
  case rangeless =>
    refine (exec_rnext s).trans ((groupOp_bare rfl rfl ready).trans (congrArg Host.Outcome.next (if_pos ?_)))
    rw [without]
    rfl
  case draw =>
    refine (exec_rnext s).trans ((groupOp_bare rfl rfl ready).trans (congrArg Host.Outcome.next ((if_neg ?_).trans ?_)))
    · rw [unit]
      exact Bool.false_ne_true
    · exact (taskOp_done (fun on => Bool.noConfusion on) (fun _ => .inl rfl) solo (takeChunk_some unit)).trans rfl
  case spawn =>
    rw [BitVec.add_zero] at global
    refine (exec_tspawn s).trans ((groupOp_clean (read := LaneIn.a) ready clean).trans (congrArg Host.Outcome.next ?_))
    exact (taskOp_done (fun on => Bool.noConfusion on) (fun _ => .inr reach.log) reach.solo
      (taskSpawn_done rfl rfl (groupMem_head ready.lead) reach global sound shut entered)).trans rfl
  case signal =>
    refine (exec_tsig s).trans ((groupOp_clean (read := fun x => x.a ++ x.b) ready clean).trans (congrArg Host.Outcome.next ?_))
    exact (taskOp_done (fun _ => free) (fun off => Bool.noConfusion off) solo (taskSignal_done (groupMem_head ready.lead))).trans rfl
  case engineSpawn =>
    refine (exec_tspawn s).trans ((groupOp_eng_clean (read := EngIn.a) ready clean).trans (congrArg Host.Outcome.next ?_))
    dsimp only
    rw [reach.place, reach.fault, global]
    refine (if_neg Bool.false_ne_true).trans ?_
    split
    next va => exact absurd rfl (reach.page va)
    next =>
      refine (if_neg (Bool.eq_false_iff.mp reach.window)).trans ((if_neg (Bool.eq_false_iff.mp sound)).trans ?_)
      rw [engMeet_alone solo]
      dsimp only
      split
      next refused => cases refused.symm.trans entered
      next same =>
        cases same.symm.trans entered
        rw [kept]
  case engineSignal =>
    refine (exec_tsig s).trans ((groupOp_eng_clean (read := fun x => x.a ++ x.b) ready clean).trans (congrArg Host.Outcome.next ?_))
    rw [engMeet_alone solo]
    rfl

end

end Sys2Proof.Proofs

namespace Sys2Proof.Proofs

/-!
PROOFS. Accesses to memory (12 R253 to R263): what an access does once nothing stops it, for the kinds that the laws of accesses leave
out, and the trap of an access whose address is no multiple of its width.
-/

section

open Sys2Proof.Machine Sys2Proof.Laws

variable {s t u : State} {c : Ctx} {op : MemOp} {p : Pour} {n len : Nat} {tags : SMap Word} {group : Bool}

/-! ## The issue of an access outside a pair (12 R254, R255) -/

theorem performAny_plain (kind : op.kind ≠ .stp) : s.performAny p op = (s.perform p op, none) := by
  unfold State.performAny
  split
  · contradiction
  · rfl

/-- An access that faults before it writes traps the weave. -/
theorem issue_fault {f : AccFault} (solo : s.pairOf c.pid = none) (log : s.logWait op = none)
    (faults : s.performAny c.p op = (.fault f, none)) : c.issue s op len tags group = c.accTrap s op f tags group := by
  rw [Ctx.issue, solo]
  dsimp only
  rw [Ctx.issueSolo, log]
  dsimp only
  rw [faults]
  rfl

/-- An access that is performed goes on with its result. -/
theorem issue_performed {res : SMap (List Reg)} (solo : s.pairOf c.pid = none) (log : s.logWait op = none)
    (shut : s.refreshWait c.p op = false) (done : s.performAny c.p op = (.done t res, none)) :
    c.issue s op len tags group = (t.sendResult op res).passAccess c.w op len (!group) false := by
  rw [Ctx.issue, solo]
  dsimp only
  rw [Ctx.issueSolo, log]
  dsimp only
  rw [done]
  exact if_neg (Bool.eq_false_iff.mp shut)

/-- An access without a result sends none. -/
theorem sendResult_none {res : SMap (List Reg)} (silent : op.kind.resWords = 0) : s.sendResult op res = s := if_pos silent

/-! ## Misaligned addresses (12 R254 item 3) -/

/-- The address with which a place of an access is reached. -/
def reachedAt (e : Bool × LaneAcc × Loc) : BitVec 64 := if e.1 then e.2.1.addr2 else e.2.1.addr

/-- Where every address is canonical, one that is no multiple of the access's width comes first. -/
theorem firstStop_misaligned {xs : List (Bool × LaneAcc × Loc)} (canon : ∀ e ∈ xs, e.2.2 ≠ .noncanon)
    (off : ∃ e ∈ xs, (reachedAt e).toNat % op.kind.align ≠ 0) :
    firstStop op xs = some (faultAt cMisalign (xs.filter fun e => (reachedAt e).toNat % op.kind.align != 0)) := by
  have within : xs.filter (fun e => e.2.2 == .noncanon) = [] :=
    List.filter_eq_nil_iff.mpr fun e m => by simpa using canon e m
  have met : (xs.filter fun e => (reachedAt e).toNat % op.kind.align != 0) ≠ [] := by
    obtain ⟨e, m, misfit⟩ := off
    exact List.ne_nil_of_mem (List.mem_filter.mpr ⟨m, bne_iff_ne.mpr misfit⟩)
  have nonempty : (xs.filter fun e => (reachedAt e).toNat % op.kind.align != 0).isEmpty = false := List.isEmpty_eq_false_iff.mpr met
  unfold reachedAt at nonempty ⊢
  unfold firstStop
  simp only [List.findSome?_cons, within, nonempty, List.isEmpty_nil, if_true, Bool.false_eq_true, if_false]

/-- Of an access of two addresses, a lane that meets it at the transposed one alone shows that one. -/
theorem faultAt_both (cause : Nat) (es fs : List (LaneAcc × Loc)) :
    faultAt cause (es.map (fun e => (false, e)) ++ fs.map fun e => (true, e)) =
      { cause := cause, lanes := (es.map (·.1.lane) ++ fs.map (·.1.lane)).eraseDups
        trans := (es.map (·.1.lane) ++ fs.map (·.1.lane)).eraseDups.filter fun l => !(es.map (·.1.lane)).contains l } := by
  have plain (l : Nat) : ((es.map (fun e => (false, e)) ++ fs.map fun e => (true, e)).any fun e => !e.1 && e.2.1.lane == l) =
      (es.map (·.1.lane)).contains l := by
    rw [Bool.eq_iff_iff]
    simp
  unfold faultAt
  simp only [plain, List.map_append, List.map_map]
  rfl

/-- Each lane that an access meets at its plain address shows that address. -/
theorem faultAt_plain (cause : Nat) (es : List (LaneAcc × Loc)) :
    faultAt cause (es.map fun e => (false, e)) = { cause := cause, lanes := (es.map (·.1.lane)).eraseDups } := by
  have plain : ((es.map (·.1.lane)).eraseDups.filter fun l => !(es.map (·.1.lane)).contains l) = [] :=
    List.filter_eq_nil_iff.mpr fun l m => by simpa using List.mem_eraseDups.mp m
  simpa only [List.map_nil, List.append_nil, plain] using faultAt_both cause es []

/-- The fault of an access that is misaligned in some lane: exactly the lanes that are. -/
theorem addrFaults_misaligned (off : Misaligned s c op n) (align : op.kind.align = n) :
    addrFaults op (s.laneLocs c.p op false) =
      some { cause := cMisalign, lanes := ((op.lanes.filter fun x => x.addr.toNat % n != 0).map (·.lane)).eraseDups } := by
  obtain ⟨l, there, misfit⟩ := off.some
  refine (firstStop_misaligned (fun e m => ?canon) ?met).trans (congrArg some ?_)
  case canon =>
    obtain ⟨x, listed, rfl⟩ := List.mem_map.mp m
    exact off.canon x listed
  case met =>
    exact ⟨_, List.mem_map_of_mem (List.mem_map_of_mem there), align.symm ▸ misfit⟩
  rw [List.filter_map, faultAt_plain, align]
  unfold State.laneLocs
  rw [List.filter_map, List.map_map]
  rfl

theorem perform_addrFault {f : AccFault} (faults : addrFaults op (s.laneLocs p op false) = some f) : s.perform p op = .fault f := by
  unfold State.perform
  dsimp only
  rw [faults]

/-- An access that is misaligned in some lane traps the weave. -/
theorem issue_misaligned (off : Misaligned s c op n) (align : op.kind.align = n) (kind : op.kind ≠ .stp) :
    c.issue s op len tags group = c.accTrap s op
      { cause := cMisalign, lanes := ((op.lanes.filter fun x => x.addr.toNat % n != 0).map (·.lane)).eraseDups } tags group :=
  issue_fault off.solo off.log ((performAny_plain kind).trans (by rw [perform_addrFault (addrFaults_misaligned off align)]))

/-- A lane access names the lanes that are misaligned, each active lane with its own address. -/
theorem issue_misaligned_lanes (off : Misaligned s c op n) (align : op.kind.align = n) (kind : op.kind ≠ .stp) (pc : op.pc = c.pc) :
    c.issue s op len tags false = c.misaligned s op n tags := by
  rw [issue_misaligned off align kind, Ctx.misaligned, ← pc]
  rfl

/-- The misalignment trap of a group word: every lane of a list, each with the one address. -/
def misalignedIn (c : Ctx) (s : State) (lanes : List Nat) (a : BitVec 64) (tags : SMap Word) : State :=
  s.trapWeave c.w { cause := cMisalign, mask := maskOf lanes, pc := c.pc, addrs := lanes.map fun n => (n, a), tags := tags
                    other := lanes.map fun n => (n, 0#32) }

/-- The trap of a group access is raised in every active lane, with the address of its first. -/
theorem accTrap_misaligned_group {a : BitVec 64} {lanes : List Nat} (pc : op.pc = c.pc) (acts : op.acts = c.ids)
    (lead : op.lanes.head?.map (·.addr) = some a) : c.accTrap s op { cause := cMisalign, lanes := lanes } tags true =
      misalignedIn c s (c.ids.filterMap fun f => (s.fibre? f).map (·.lane)) a tags := by
  obtain ⟨l, first, rfl⟩ := Option.map_eq_some_iff.mp lead
  rw [misalignedIn, Ctx.accTrap, State.accInfo, if_pos rfl, acts, first, ← pc]
  rfl

theorem issue_misaligned_group {a : BitVec 64} (off : Misaligned s c op n) (align : op.kind.align = n) (kind : op.kind ≠ .stp)
    (pc : op.pc = c.pc) (acts : op.acts = c.ids) (lead : op.lanes.head?.map (·.addr) = some a) :
    c.issue s op len tags true = misalignedIn c s (c.ids.filterMap fun f => (s.fibre? f).map (·.lane)) a tags :=
  (issue_misaligned off align kind).trans (accTrap_misaligned_group pc acts lead)

end

end Sys2Proof.Proofs

namespace Sys2Proof.Proofs

section

open Sys2Proof.Machine Sys2Proof.Laws

variable {s t u : State} {c : Ctx} {h : Form} {op : MemOp} {p : Pour} {l0 : Nat × Fibre} {n len : Nat} {tags : SMap Word}

/-! ## The words of lane accesses -/

/-- A ready lane word that consumes poison, where no active lane reads any. -/
theorem laneOp_clean {acc : Bool} {extra : List (BitVec 8 × Nat)} {poisoned : Nat × LaneIn → Bool}
    {body : State → Ctx → SMap LaneIn → State} (ready : LaneReady s c h extra) (clean : (s.laneIns c h acc extra).any poisoned = false) :
    s.laneOp h acc extra (fun s c ins => if ins.any poisoned then c.consume s else body s c ins) =
      .next (body (s.laneRead c h acc extra) c (s.laneIns c h acc extra)) :=
  (laneOp_ready acc _ ready).trans (congrArg Host.Outcome.next (if_neg (Bool.eq_false_iff.mp clean)))

/-- The lane loads, each with the scale of its offset, its bytes, its words and its sign (12 R258). -/
def laneLoads : List ((BitVec 1 → BitVec 8 → BitVec 8 → BitVec 8 → Instr) × Nat × Nat × Nat × Bool) :=
  [(.ld32, 4, 4, 1, false), (.ld64, 8, 8, 2, false), (.ld128, 16, 16, 4, false), (fun r d a _ => .ldnZ8 r d a, 0, 1, 1, false),
    (fun r d a _ => .ldnS8 r d a, 0, 1, 1, true), (fun r d a _ => .ldnZ16 r d a, 0, 2, 1, false),
    (fun r d a _ => .ldnS16 r d a, 0, 2, 1, true)]

theorem exec_laneLoads {e} (he : e ∈ laneLoads) (r : BitVec 1) (d a o : BitVec 8) :
    exec (e.1 r d a o) s = s.laneLoad (e.1 r d a o) r d a (o.toNat * e.2.1) e.2.2.1 e.2.2.2.1 e.2.2.2.2 := by
  simp only [laneLoads, List.mem_cons, List.not_mem_nil, or_false] at he
  rcases he with rfl | rfl | rfl | rfl | rfl | rfl | rfl
  · exact exec_ld32 s
  · exact exec_ld64 s
  · exact exec_ld128 s
  · exact exec_ldnZ8 s
  · exact exec_ldnS8 s
  · exact exec_ldnZ16 s
  · exact exec_ldnS16 s

/-- The lane stores, each with the kind of its data, the scale of its offset and its bytes (12 R259). -/
def laneStores : List ((BitVec 1 → BitVec 8 → BitVec 8 → BitVec 8 → Word → Instr) × SKind × Nat × Nat) :=
  [(.st32, .s, 4, 4), (.st64, .ws, 8, 8), (fun r d a o _ => .st128 r d a o, .xs, 16, 16),
    (fun r d a _ l => .stnB8 r d a l, .s, 0, 1), (fun r d a _ l => .stnB16 r d a l, .s, 0, 2)]

/-- `ST128` takes no literal (09 R185). -/
theorem exec_laneStores {e} (he : e ∈ laneStores) (r : BitVec 1) (d a o : BitVec 8) (w : Word) :
    let l := if e.2.1 = .xs then 0#32 else w
    exec (e.1 r d a o l) s = s.laneStore (e.1 r d a o l) r d a e.2.1 l (o.toNat * e.2.2.1) e.2.2.2 := by
  simp only [laneStores, List.mem_cons, List.not_mem_nil, or_false] at he
  rcases he with rfl | rfl | rfl | rfl | rfl
  · exact exec_st32 s
  · exact exec_st64 s
  · exact exec_st128 s
  · exact exec_stnB8 s
  · exact exec_stnB16 s

/-- The atomics, each with what it does (12 R262). -/
def atomics : List ((BitVec 1 → BitVec 8 → BitVec 8 → BitVec 8 → Word → Instr) × AtomKind) :=
  [(.atadd, .add), (.atmaxs, .maxs), (.atmaxz, .maxz), (.atexch, .exch), (.atcas, .cas)]

theorem exec_atomics {e} (he : e ∈ atomics) (sc : BitVec 1) (d a b : BitVec 8) (l : Word) :
    exec (e.1 sc d a b l) s = s.laneAtomic (e.1 sc d a b l) e.2 sc d a b l := by
  simp only [atomics, List.mem_cons, List.not_mem_nil, or_false] at he
  rcases he with rfl | rfl | rfl | rfl | rfl
  · exact exec_atadd s
  · exact exec_atmaxs s
  · exact exec_atmaxz s
  · exact exec_atexch s
  · exact exec_atcas s

/-! ## The words of group accesses (12 R263, R277) -/

/-- A ready group word that consumes poison, where the lowest active lane reads none. -/
theorem groupOp_unpoisoned {poisoned : LaneIn → Bool} {body : State → Ctx → LaneIn → State} {eng : State → Nat → EngIn → State}
    (ready : GroupReady s c h l0) (clean : poisoned (s.leadIn c h l0) = false) :
    s.groupOp h (fun s c x => if poisoned x then c.consume s else body s c x) eng =
      .next (body (s.groupRead c h l0) c (s.leadIn c h l0)) :=
  (groupOp_ready _ eng ready).trans (congrArg Host.Outcome.next (if_neg (Bool.eq_false_iff.mp clean)))

/-- `GLD` as a group word. -/
theorem exec_gld_groupOp (r : BitVec 1) (d a o : BitVec 8) : exec (.gld r d a o) s =
    let h : Form := { instr := .gld r d a o, dst := some (d, 1), a := some (.ap, a) }
    s.groupOp h
      (fun s c x => if poi x.a then c.consume s
        else c.issue s (c.groupMem h .gld (r == 1#1) d.toNat x (o.toNat * 4) []) h.len (c.groupTags h x) true)
      fun s e x => if poi x.a then consumeE s e
        else s.engAccess e x (pairAddr x.a + BitVec.ofNat 64 (o.toNat * 4)) false fun s l =>
          ((State.addPend (match l with | .peer _ _ _ _ => { s with free := s.free + 1 } | _ => s) .load (.engine e d.toNat
            ((s.loadLane .gld l).map fun w => { w with tag := Config.noTag })) x.v.pour x.v.pc).2).afterEngine e h.len :=
  rfl

/-- What a `GST` of an engine stores, at its place or at a peer. -/
def engStore (s : State) (x : EngIn) (word : Word) : Loc → State
  | .mem pl =>
    let t := s.touchPart pl.key 4
    { t with mem := if poi x.b then (storeAt t.mem pl 4 x.b).setPoison pl.key true else storeAt t.mem pl 4 x.b }
  | .peer dv wn of g => s.remoteStore x.p { kind := .gst, rlx := true, weave := 0, pour := x.v.pour, pc := x.v.pc, here := x.here,
                                            dest := 240, lanes := [], word := word } (engRank x.v.kind) dv wn of g 4 x.b
  | _ => s

/-- `GST` as a group word. -/
theorem exec_gst_groupOp (r : BitVec 1) (d a o : BitVec 8) (w : Word) : exec (.gst r d a o w) s =
    let h : Form := { instr := .gst r d a o w, a := some (.ap, a), b := some (.s, d), lit := w }
    s.groupOp h
      (fun s c x => if poi x.a || poi x.b then c.consume s
        else c.issue s (c.groupMem h .gst (r == 1#1) 240 x (o.toNat * 4) x.b) h.len (c.groupTags h x) true)
      fun s e x => if poi x.a then consumeE s e
        else s.engAccess e x (pairAddr x.a + BitVec.ofNat 64 (o.toNat * 4)) true fun s l => (engStore s x h.word l).afterEngine e h.len :=
  rfl

/-- The first of the three pieces of an access of 96 bytes lies where it does. -/
theorem shapePieces_first {a : BitVec 64} (lead : op.lanes.head?.map (·.addr) = some a) :
    (shapePieces op).lanes.head?.map (·.addr) = some a := by
  obtain ⟨l, first, rfl⟩ := Option.map_eq_some_iff.mp lead
  obtain ⟨rest, lanes⟩ := List.head?_eq_some_iff.mp first
  unfold shapePieces
  rw [lanes]
  exact congrArg some (BitVec.add_zero _)

/-! ## STP (12 R260, R261) -/

/-- The form of an STP: its B field names the transposed address beside the data of its D field. -/
def stpForm (c : Ctx) (d a b : BitVec 8) (l : Word) : Form :=
  { instr := .stp d a b l, a := some (.ap, a), b := some (.s, d), lit := l, badOp := srcBad c.p.hdr.regs c.v.latches .ap b }

/-- What a lane reads of an STP's second address. -/
def stpSecond (c : Ctx) (b : BitVec 8) (x : LaneIn) : List Reg := readSrc x.f c.p.idx c.v.latches 2 b 0#32

/-- The captured access of an STP. -/
def stpOp (s : State) (c : Ctx) (d a b : BitVec 8) (l : Word) : MemOp :=
  c.laneMem (stpForm c d a b l) .stp false 240 (s.laneIns c (stpForm c d a b l) false [(b, 2)]) 0 (·.b) (stpSecond c b) fun _ => {}

/-- The weave of a context is the one that the state names. -/
theorem weave?_of_ctxOf {w : Nat} (ctx : s.ctxOf w = some c) : s.weave? w = some c.v := by
  unfold State.ctxOf at ctx
  split at ctx
  · cases ctx
  next weave =>
    split at ctx
    · cases ctx
    · split at ctx <;> cases ctx
      exact weave

/-- A ready STP that reads no lost latch and no poison issues its access. -/
theorem exec_stp_ready {d a b : BitVec 8} {l : Word} (ready : LaneReady s c (stpForm c d a b l) [(b, 2)])
    (kept : latchLost c.v.latches b = false)
    (clean : ((s.laneIns c (stpForm c d a b l) false [(b, 2)]).any
      fun x => poi x.2.a || poi x.2.b || poi (stpSecond c b x.2)) = false) :
    exec (.stp d a b l) s = .next (c.issue (s.laneRead c (stpForm c d a b l) false [(b, 2)]) (stpOp s c d a b l)
      (stpForm c d a b l).len (laneTags (stpForm c d a b l) (s.laneIns c (stpForm c d a b l) false [(b, 2)])) false) := by
  have asLane : exec (.stp d a b l) s = s.laneOp (stpForm c d a b l) false [(b, 2)] fun s c' ins =>
      if latchLost c'.v.latches b then
        s.trapWeave c'.w { c'.latchTrap (stpForm c d a b l) false with addrs := c'.acts.map fun e => (e.2.lane, 1#64) }
      else if ins.any fun e => poi e.2.a || poi e.2.b || poi (stpSecond c' b e.2) then c'.consume s
      else c'.issue s (c'.laneMem (stpForm c d a b l) .stp false 240 ins 0 (·.b) (stpSecond c' b) fun _ => {})
        (stpForm c d a b l).len (laneTags (stpForm c d a b l) ins) false := by
    rw [exec_stp, execStp, State.laneOp, ready.turn]
    dsimp only
    rw [ready.ctx, weave?_of_ctxOf ready.ctx]
    rfl
  refine asLane.trans ((laneOp_ready false _ ready).trans (congrArg Host.Outcome.next ?_))
  exact (if_neg (Bool.eq_false_iff.mp kept)).trans (if_neg (Bool.eq_false_iff.mp clean))

end

end Sys2Proof.Proofs

namespace Sys2Proof.Proofs

section

open Sys2Proof.Machine Sys2Proof.Laws

variable {s t u : State} {c : Ctx} {h : Form} {op : MemOp} {p : Pour} {l0 : Nat × Fibre} {e n len : Nat} {v : Engine} {tags : SMap Word}

/-! ## Misaligned addresses of STP, of group words and of engines -/

/-- The places of an access's lanes, by the lane. -/
theorem laneLocs_filter (second : Bool) (q : LaneAcc → Bool) :
    ((s.laneLocs p op second).filter fun e => q e.1).map (·.1.lane) = (op.lanes.filter q).map (·.lane) := by
  unfold State.laneLocs
  rw [List.filter_map, List.map_map]
  rfl

/-- An STP that is misaligned in some lane, at either address (12 R254 item 3, R260). -/
theorem issue_misaligned_stp (kind : op.kind = .stp) (pc : op.pc = c.pc) (solo : s.pairOf c.pid = none) (log : s.logWait op = none)
    (canon : ∀ x ∈ s.laneLocs c.p op false ++ s.laneLocs c.p op true, x.2 ≠ .noncanon) :
    let m1 := (op.lanes.filter fun x => x.addr.toNat % 4 != 0).map (·.lane)
    let m2 := (op.lanes.filter fun x => x.addr2.toNat % 4 != 0).map (·.lane)
    m1 ++ m2 ≠ [] → c.issue s op len tags false = s.trapWeave c.w
      { cause := cMisalign, mask := maskOf ((m1 ++ m2).eraseDups), pc := c.pc, tags := tags
        addrs := op.lanes.map fun x => (x.lane, if (m1 ++ m2).contains x.lane && !m1.contains x.lane then x.addr2 else x.addr) } := by
  intro m1 m2 off
  have stop : firstStop op ((s.laneLocs c.p op false).map (fun e => (false, e)) ++ (s.laneLocs c.p op true).map fun e => (true, e)) =
      some { cause := cMisalign, lanes := (m1 ++ m2).eraseDups, trans := (m1 ++ m2).eraseDups.filter fun l => !m1.contains l } := by
    refine (firstStop_misaligned ?canon ?met).trans (congrArg some ?_)
    case canon =>
      intro e m
      rcases List.mem_append.mp m with m | m <;> obtain ⟨x, listed, rfl⟩ := List.mem_map.mp m
      · exact canon x (List.mem_append_left _ listed)
      · exact canon x (List.mem_append_right _ listed)
    case met =>
      obtain ⟨lane, listed⟩ := List.exists_mem_of_ne_nil _ off
      rcases List.mem_append.mp listed with listed | listed <;>
        obtain ⟨x, there, -⟩ := List.mem_map.mp listed <;>
        obtain ⟨there, misfit⟩ := List.mem_filter.mp there
      · exact ⟨_, List.mem_append_left _ (List.mem_map_of_mem (List.mem_map_of_mem there)), by rw [kind]; exact bne_iff_ne.mp misfit⟩
      · exact ⟨_, List.mem_append_right _ (List.mem_map_of_mem (List.mem_map_of_mem there)), by rw [kind]; exact bne_iff_ne.mp misfit⟩
    rw [kind, List.filter_append, List.filter_map, List.filter_map, faultAt_both]
    have first : ((s.laneLocs c.p op false).filter fun e => e.1.addr.toNat % 4 != 0).map (·.1.lane) = m1 :=
      laneLocs_filter false fun x => x.addr.toNat % 4 != 0
    have second : ((s.laneLocs c.p op true).filter fun e => e.1.addr2.toNat % 4 != 0).map (·.1.lane) = m2 :=
      laneLocs_filter true fun x => x.addr2.toNat % 4 != 0
    rw [← first, ← second]
    rfl
  have faults : s.performAny c.p op = (.fault { cause := cMisalign, lanes := (m1 ++ m2).eraseDups
                                                trans := (m1 ++ m2).eraseDups.filter fun l => !m1.contains l }, none) := by
    rw [State.performAny, kind]
    dsimp only
    unfold State.performStp
    dsimp only
    rw [stop]
  have shown (x : Nat) : ((m1 ++ m2).eraseDups.filter fun l => !m1.contains l).contains x = ((m1 ++ m2).contains x && !m1.contains x) := by
    rw [Bool.eq_iff_iff]
    simp
  rw [issue_fault solo log faults, ← pc]
  simp only [Ctx.accTrap, State.accInfo, AccFault.info, shown, Bool.false_eq_true, if_false]

/-- An operation that a pair performs once, outside a pair and with nothing to wait for, that faults traps every active lane. -/
theorem taskOp_fault {cause rank : Nat} {a : BitVec 64} {f : AccFault} {stall : StallKind} {sync yields : Bool}
    {perform : State → Pour → MemOp → TaskRes} (free : sync = true → s.syncWait c.w = none)
    (log : sync = false → s.logWait op = none) (solo : s.pairOf c.pid = none)
    (faults : perform s c.p op = .fault cause a f) :
    c.taskOp s op len rank tags stall sync yields perform = s.trapWeave c.w (c.taskTrap cause a f tags) := by
  have wait : (if sync then s.syncWait c.w else if op.kind = .rnext then none
      else (s.logWait op).map fun k => (k, true)) = none := by
    cases sync with
    | true => exact free rfl
    | false => simp [log rfl]
  unfold Ctx.taskOp
  dsimp only
  rw [wait]
  dsimp only
  rw [solo]
  dsimp only
  rw [faults]

/-- A fault of such an operation with no other access to name. -/
theorem taskTrap_misaligned {a : BitVec 64} {f : AccFault} (alone : f.other = []) :
    s.trapWeave c.w (c.taskTrap cMisalign a f tags) = misalignedIn c s (c.acts.map (·.2.lane)) a tags := by
  unfold misalignedIn Ctx.taskTrap maskOf Ctx.mask laneMask
  simp only [alone, List.foldl_map, List.map_map]
  rfl

theorem edgeAt_misaligned {part : Nat} {a : BitVec 64} (off : a.toNat % 64 ≠ 0) : s.edgeAt part a = .fault cMisalign := if_pos off

theorem edgePush_misaligned {l : LaneAcc} (lane : op.lanes.head? = some l) (off : l.addr.toNat % 64 ≠ 0) :
    s.edgePush p op = .fault cMisalign l.addr ⟨cMisalign, [], [], []⟩ := by
  unfold State.edgePush
  rw [lane]
  dsimp only
  rw [edgeAt_misaligned off]

theorem edgePop_misaligned {l : LaneAcc} (lane : op.lanes.head? = some l) (off : l.addr.toNat % 64 ≠ 0) :
    s.edgePop p op = .fault cMisalign l.addr ⟨cMisalign, [], [], []⟩ := by
  unfold State.edgePop
  rw [lane]
  dsimp only
  rw [State.edgeTake, edgeAt_misaligned off]

/-- The image of a record that is misaligned, in whichever aperture it lies. -/
theorem taskSpawn_misaligned {l : LaneAcc} (kind : op.kind = .tspawn) (lanes : op.lanes = [l]) (off : Misaligned s c op 64) :
    ∃ f : AccFault, f.other = [] ∧ s.taskSpawn c.p op = .fault cMisalign l.addr f := by
  obtain ⟨x, there, misfit⟩ := off.some
  rw [lanes, List.mem_singleton] at there
  subst there
  unfold State.taskSpawn
  rw [lanes, List.head?_cons]
  dsimp only
  rw [perform_addrFault (addrFaults_misaligned off (by rw [kind]; rfl))]
  split
  case h_3 => exact ⟨{ cause := cMisalign, lanes := _ }, rfl, rfl⟩
  all_goals exact ⟨⟨cMisalign, [], [], []⟩, rfl, by rw [if_pos misfit]; rfl⟩

/-- An engine's access at a canonical address that is no multiple of its alignment (12 R254). -/
theorem engFault_misaligned {a : BitVec 64} {align : Nat} {write : Bool} {l : Loc} (off : a.toNat % align ≠ 0) (canon : l ≠ .noncanon) :
    engFault s p a align write l = some cMisalign := by
  unfold engFault
  split
  · contradiction
  · exact if_pos off

theorem engAccess_misaligned {x : EngIn} {a : BitVec 64} {write : Bool} {k : State → Loc → State} (off : a.toNat % 4 ≠ 0)
    (canon : s.locate x.p none a 4 write ≠ .noncanon) : s.engAccess e x a write k = s.trapEngine e cMisalign := by
  unfold State.engAccess
  dsimp only
  rw [engFault_misaligned off canon]

/-- The first of an access's three pieces is as far off as the access. -/
theorem engShape_misaligned {x : EngIn} {a : BitVec 64} {write : Bool} {k : State → List Loc → State} (off : a.toNat % 32 ≠ 0)
    (canon : s.locate x.p none a 32 write ≠ .noncanon) : s.engShape e x a write k = s.trapEngine e cMisalign := by
  have first : engFault s x.p (a + BitVec.ofNat 64 (32 * 0)) 32 write (s.locate x.p none (a + BitVec.ofNat 64 (32 * 0)) 32 write) =
      some cMisalign := by
    rw [Nat.mul_zero, BitVec.add_zero]
    exact engFault_misaligned off canon
  have found : (((List.range 3).map fun i => a + BitVec.ofNat 64 (32 * i)).zip (((List.range 3).map fun i => a + BitVec.ofNat 64 (32 * i)).map
      fun q => s.locate x.p none q 32 write)).findSome? (fun e => engFault s x.p e.1 32 write e.2) = some cMisalign := by
    rw [List.range_succ_eq_map]
    simp only [List.map_cons, List.zip_cons_cons, List.findSome?_cons, first]
  unfold State.engShape
  dsimp only
  rw [found]

end

end Sys2Proof.Proofs

namespace Sys2Proof.Proofs
section

open Sys2Proof.Machine Sys2Proof.Laws

/-- Settles O20: the first check that the access meets is that of its alignment. -/
theorem misalignedAccessTraps : Obligations.MisalignedAccessTraps := by
  unfold Obligations.MisalignedAccessTraps
  refine ⟨fun e he s c r d a o ready clean off => ?load, fun e he s c r d a o l ready clean off => ?store,
    fun s c d a b l ready kept clean solo log canon off => ?stp, fun e he s c sc d a b l ready clean off => ?atomic,
    fun s c l0 r d a o w => ⟨fun ready clean off => ?gld, fun ready clean off => ?gst⟩,
    fun s e v p r d a o w => ⟨fun ⟨ready, clean, off, canon⟩ => ?engineGld, fun ⟨ready, clean, off, canon⟩ => ?engineGst⟩,
    fun s c l0 n d a b => ⟨fun ready clean idle off => ?shld, fun ready clean idle off => ?shst, fun ready clean off => ?tspawn,
      fun ready clean free solo off => ?epush, fun ready clean free solo off => ?epop⟩,
    fun s e v p n d a => ⟨fun idle => ⟨fun ⟨ready, clean, off, canon⟩ => ?engineShld, fun ⟨ready, clean, off, canon⟩ => ?engineShst⟩,
      fun ⟨ready, clean, off, canon⟩ => ?engineTspawn⟩⟩
  case load =>
    have listed : e ∈ laneLoads := by
      simp only [laneLoads, List.mem_cons, List.not_mem_nil, or_false] at he ⊢
      tauto
    exact (exec_laneLoads listed r d a o).trans ((laneOp_clean ready clean).trans (congrArg Host.Outcome.next
      (issue_misaligned_lanes off rfl nofun rfl)))
  case store =>
    have listed : e ∈ laneStores := by
      simp only [laneStores, List.mem_cons, List.not_mem_nil, or_false] at he ⊢
      tauto
    exact (exec_laneStores listed r d a o l).trans ((laneOp_clean ready clean).trans (congrArg Host.Outcome.next
      (issue_misaligned_lanes off rfl nofun rfl)))
  case stp =>
    exact (exec_stp_ready ready kept clean).trans (congrArg Host.Outcome.next (issue_misaligned_stp rfl rfl solo log canon off))
  case atomic =>
    exact (exec_atomics he sc d a b l).trans ((laneOp_clean ready clean).trans (congrArg Host.Outcome.next
      (issue_misaligned_lanes off rfl nofun rfl)))
  case gld =>
    exact (exec_gld_groupOp r d a o).trans ((groupOp_clean (read := LaneIn.a) ready clean).trans (congrArg Host.Outcome.next
      (issue_misaligned_group off rfl nofun rfl rfl rfl)))
  case gst =>
    exact (exec_gst_groupOp r d a o w).trans ((groupOp_unpoisoned ready clean).trans (congrArg Host.Outcome.next
      (issue_misaligned_group off rfl nofun rfl rfl rfl)))
  case engineGld =>
    exact (exec_gld_groupOp r d a o).trans ((groupOp_eng_clean (read := EngIn.a) ready clean).trans (congrArg Host.Outcome.next
      (engAccess_misaligned off canon)))
  case engineGst =>
    exact (exec_gst_groupOp r d a o w).trans ((groupOp_eng_clean (read := EngIn.a) ready clean).trans (congrArg Host.Outcome.next
      (engAccess_misaligned off canon)))
  case shld =>
    refine (exec_shld s).trans ((groupOp_clean (read := LaneIn.a) ready clean).trans (congrArg Host.Outcome.next
      ((if_neg (Bool.eq_false_iff.mp idle)).trans ?_)))
    dsimp only
    rw [off.log]
    dsimp only
    rw [perform_addrFault (addrFaults_misaligned off rfl)]
    exact accTrap_misaligned_group rfl rfl (shapePieces_first (congrArg some (BitVec.add_zero _)))
  case shst =>
    refine (exec_shst s).trans ((groupOp_clean (read := LaneIn.a) ready clean).trans (congrArg Host.Outcome.next
      ((if_neg (Bool.eq_false_iff.mp idle)).trans ?_)))
    dsimp only at off ⊢
    split at off
    next remote =>
      rw [if_pos remote]
      exact issue_misaligned_group off rfl nofun rfl rfl (congrArg some (BitVec.add_zero _))
    next local_ =>
      rw [if_neg local_]
      exact issue_misaligned_group off rfl nofun rfl rfl (shapePieces_first (congrArg some (BitVec.add_zero _)))
  case tspawn =>
    obtain ⟨f, alone, faults⟩ := taskSpawn_misaligned rfl rfl off
    refine (exec_tspawn s).trans ((groupOp_clean (read := LaneIn.a) ready clean).trans (congrArg Host.Outcome.next ?_))
    refine (taskOp_fault (fun on => Bool.noConfusion on) (fun _ => off.log) off.solo faults).trans ((taskTrap_misaligned alone).trans ?_)
    exact congrArg (fun a => misalignedIn c _ _ a _) (BitVec.add_zero _)
  case epush =>
    refine (exec_epush s).trans ((groupOp_clean (read := fun x => x.a ++ x.b) ready clean).trans (congrArg Host.Outcome.next ?_))
    exact (taskOp_fault (fun _ => free) (fun sync => Bool.noConfusion sync) solo
      (edgePush_misaligned (groupMem_head ready.lead) off)).trans (taskTrap_misaligned rfl)
  case epop =>
    refine (exec_epop s).trans ((groupOp_clean (read := LaneIn.a) ready clean).trans (congrArg Host.Outcome.next ?_))
    exact (taskOp_fault (fun _ => free) (fun sync => Bool.noConfusion sync) solo
      (edgePop_misaligned (groupMem_head ready.lead) off)).trans (taskTrap_misaligned rfl)
  case engineShld =>
    exact (exec_shld s).trans ((groupOp_eng_clean (read := EngIn.a) ready clean).trans (congrArg Host.Outcome.next
      ((if_neg (Bool.eq_false_iff.mp idle)).trans (engShape_misaligned off canon))))
  case engineShst =>
    exact (exec_shst s).trans ((groupOp_eng_clean (read := EngIn.a) ready clean).trans (congrArg Host.Outcome.next
      ((if_neg (Bool.eq_false_iff.mp idle)).trans (engShape_misaligned off canon))))
  case engineTspawn =>
    refine (exec_tspawn s).trans ((groupOp_eng_clean (read := EngIn.a) ready clean).trans (congrArg Host.Outcome.next ?_))
    dsimp only
    split
    next cause found =>
      cases (engFault_misaligned off canon).symm.trans found
      rfl
    next found => cases (engFault_misaligned off canon).symm.trans found

end
end Sys2Proof.Proofs

namespace Sys2Proof.Proofs

/-!
PROOFS. What a lane store leaves as it was (12 R259): a byte outside those that are stored reads as before, whatever errors its granule
holds (22 R398).
-/

section

open Sys2Proof.Machine Sys2Proof.Laws

variable {m m' : Memory} {k : Nat}

/-! ## What a read of a byte depends on (22 R398) -/

theorem get?_putD_other {α : Type} [DecidableEq α] (d : α) (x : SMap α) (v : α) {i j : Nat} (other : j ≠ i) :
    SMap.get? (SMap.putD d x i v) j = SMap.get? x j := by
  unfold SMap.putD
  split
  · exact get?_erase_other x other
  · exact get?_put_other x v other

/-- A byte reads as before where it and the errors and the poison of its granule are as before. -/
theorem read1_congr (byte : m'.byte k = m.byte k) (flips : SMap.get? m'.flips (granOf k) = SMap.get? m.flips (granOf k))
    (poison : SMap.get? m'.poison (granOf k) = SMap.get? m.poison (granOf k)) : m'.read1 k = m.read1 k := by
  unfold Memory.read1 Memory.residual Memory.syndrome SMap.getD
  rw [byte, flips, poison]

theorem setBytes_poison (m : Memory) (a : Nat) (bs : List Byte) : (m.setBytes a bs).poison = m.poison := by
  induction bs generalizing m a with
  | nil => rfl
  | cons b bs ih => exact ih (m.setByte a b) (a + 1)

/-- Bytes written elsewhere. -/
theorem read1_setBytes {a : Nat} {bs : List Byte} (outside : k < a ∨ a + bs.length ≤ k) : (m.setBytes a bs).read1 k = m.read1 k := by
  refine read1_congr ?_ (by rw [setBytes_flips]) (by rw [setBytes_poison])
  rw [byte_setBytes, if_neg (by omega)]

/-- The errors and the poison of another granule taken away. -/
theorem read1_unmark {a : Nat} (other : granOf k ≠ granOf a) (f : BitVec 64) : ((m.setPoison a false).setFlips a f).read1 k = m.read1 k :=
  read1_congr rfl (get?_putD_other 0#64 m.flips f other) (get?_putD_other false m.poison false other)

theorem readBytes_length (m : Memory) (a n : Nat) : (m.readBytes a n).length = n := by
  induction n generalizing a with
  | zero => rfl
  | succ n ih => exact congrArg (· + 1) (ih (a + 1))

theorem readBytes_getD (m : Memory) (a : Nat) {n i : Nat} (inside : i < n) : (m.readBytes a n).getD i 0#8 = m.read1 (a + i) := by
  induction n generalizing a i with
  | zero => cases inside
  | succ n ih =>
    cases i with
    | zero => rfl
    | succ i => exact (ih (a + 1) (Nat.lt_of_succ_lt_succ inside)).trans (congrArg m.read1 (by omega))

/-- A granule without errors reads what it holds. -/
theorem read1_of_unflipped (clean : SMap.get? m.flips (granOf k) = none) : m.read1 k = m.byte k := by
  unfold Memory.read1
  rw [clean]

theorem get?_flips_setFlips_zero (m : Memory) (a : Nat) : SMap.get? (m.setFlips a 0#64).flips (granOf a) = none :=
  get?_erase_same m.flips (granOf a)

/-- A correction in place changes what a granule holds, not what it reads as. -/
theorem read1_scrub (m : Memory) (a k : Nat) : (m.scrub a).1.read1 k = m.read1 k := by
  unfold Memory.scrub
  split
  · rfl
  split
  · dsimp only
    by_cases same : granOf k = granOf a
    · have clean : SMap.get? (((m.setFlips a 0#64).setPoison a false).setBytes (granOf a) (m.readBytes (granOf a) 8)).flips (granOf k) =
          none := by
        rw [setBytes_flips, same]
        exact get?_flips_setFlips_zero m a
      have within : granOf a ≤ k ∧ k < granOf a + 8 := by
        unfold granOf at same ⊢
        omega
      rw [read1_of_unflipped clean, byte_setBytes, readBytes_length, if_pos within, readBytes_getD m _ (by omega)]
      exact congrArg m.read1 (by omega)
    · refine (read1_setBytes ?_).trans (read1_unmark same 0#64)
      rw [readBytes_length]
      unfold granOf at same ⊢
      omega
  · rfl

/-- A store leaves what is read outside its bytes: a granule that it covers whole lies inside, and of any other it corrects what it
finds. -/
theorem read1_store_outside {a : Nat} {bs : List Byte} (outside : k < a ∨ a + bs.length ≤ k) : (m.store a bs).read1 k = m.read1 k := by
  refine (read1_setBytes outside).trans ?_
  refine List.foldlRecOn (motive := fun x : Memory => x.read1 k = m.read1 k) _ _ rfl fun x before i _ => ?_
  dsimp only
  split
  next whole =>
    refine (read1_unmark ?_ 0#64).trans before
    unfold granOf
    omega
  · split
    · exact (read1_scrub x _ k).trans before
    · exact before

/-- Tags are no part of what a byte reads as (06 R135). -/
theorem read1_storeTags (pl : Place) (ws : List Reg) : (storeTags m pl ws).read1 k = m.read1 k := by
  unfold storeTags
  split
  · rfl
  split
  · exact List.foldlRecOn (motive := fun x : Memory => x.read1 k = m.read1 k) _ _ rfl fun _ before _ _ => before
  · refine List.foldlRecOn (motive := fun x : Memory => x.read1 k = m.read1 k) _ _ rfl fun _ before _ _ => ?_
    dsimp only
    split <;> exact before

theorem read1_storeAt {pl : Place} {n : Nat} (ws : List Reg) (outside : k < pl.key ∨ pl.key + n ≤ k) :
    (storeAt m pl n ws).read1 k = m.read1 k := by
  refine (read1_storeTags pl ws).trans (read1_store_outside ?_)
  have := List.length_take_le n (wordsBytes ws)
  omega

end

end Sys2Proof.Proofs

namespace Sys2Proof.Proofs

section

open Sys2Proof.Machine Sys2Proof.Laws

variable {s t u : State} {K : Nat → Prop} {p : Pour} {op : MemOp}

/-! ## What stays as it was -/

/-- The accumulators of every core are as they were. -/
def SameTiles (s t : State) : Prop := ∀ i, (t.core i).tiles = (s.core i).tiles

theorem sameTiles_trans (a : SameTiles s t) (b : SameTiles t u) : SameTiles s u := fun i => (b i).trans (a i)

theorem sameTiles_foldl {β : Type} {step : State → β → State} (each : ∀ t x, SameTiles t (step t x)) (l : List β) (s : State) :
    SameTiles s (l.foldl step s) :=
  List.foldlRecOn (motive := SameTiles s) l step (fun _ => rfl) fun _ before x _ => sameTiles_trans before (each _ x)

theorem modCore_sameTiles {g : CoreSt → CoreSt} (keeps : ∀ x, (g x).tiles = x.tiles) (s : State) (c : Nat) : SameTiles s (s.modCore c g) := by
  intro i
  by_cases here : i = c
  · rw [here, modCore_same]
    exact keeps _
  · rw [modCore_other s c g here]

/-- Reading operands counts in a core what parity finds (22 R399), and leaves its accumulators. -/
theorem readRegs_sameTiles (s : State) (core : Nat) (dark fs : List Nat) (code : BitVec 8) (n : Nat) :
    SameTiles s (s.readRegs core dark fs code n) := by
  unfold State.readRegs
  refine sameTiles_trans (t := s.parityRead core fs dark code n) ?parity ?token
  case parity =>
    unfold State.parityRead
    split
    · exact fun _ => rfl
    refine sameTiles_foldl (fun t _ => sameTiles_foldl (fun t _ => ?_) _ t) _ s
    split
    · exact fun _ => rfl
    dsimp only
    split
    · exact fun _ => rfl
    split
    · exact sameTiles_trans (t := t.modFibre _ _) (fun _ => rfl) (modCore_sameTiles (fun _ => by rfl) _ _)
    · exact sameTiles_trans (t := t.modFibre _ _) (fun _ => rfl) (modCore_sameTiles (fun _ => by rfl) _ _)
  case token =>
    unfold State.tokenRead
    split
    · exact fun _ => rfl
    refine sameTiles_foldl (fun t _ => ?_) fs _
    split
    · exact fun _ => rfl
    refine sameTiles_foldl (fun t _ => ?_) _ t
    split <;> exact fun _ => rfl

theorem readOpt_sameTiles (s : State) (core : Nat) (dark fs : List Nat) (o : Option (SKind × BitVec 8)) :
    SameTiles s (s.readOpt core dark fs o) := by
  cases o with
  | none => exact fun _ => rfl
  | some e => exact readRegs_sameTiles s core dark fs _ _

theorem laneRead_sameTiles (s : State) (c : Ctx) (h : Form) (extra : List (BitVec 8 × Nat)) : SameTiles s (s.laneRead c h false extra) := by
  refine sameTiles_trans ?_ (sameTiles_foldl (fun t e => readRegs_sameTiles t _ _ _ e.1 e.2) extra _)
  have sources := sameTiles_trans (readOpt_sameTiles s c.p.core (c.dark s h) (c.who h (·.a)) h.a)
    (readOpt_sameTiles _ c.p.core (c.dark s h) (c.who h (·.b)) h.b)
  split
  · exact sources
  · exact sources

/-- The bytes at some keys read as before, and the registers of fibres, pours with their shape registers, engines, Crucible instances and
accumulators are as before. -/
structure Spares (K : Nat → Prop) (s t : State) : Prop where
  read  : ∀ k, K k → t.mem.read1 k = s.mem.read1 k
  wins  : ∀ f, (t.fibre? f).map (·.win) = (s.fibre? f).map (·.win)
  pours : t.pours = s.pours
  engs  : t.engines = s.engines
  crus  : t.crucibles = s.crucibles
  tiles : SameTiles s t

theorem spares_refl (K : Nat → Prop) (s : State) : Spares K s s := ⟨fun _ _ => rfl, fun _ => rfl, rfl, rfl, rfl, fun _ => rfl⟩

theorem spares_trans (a : Spares K s t) (b : Spares K t u) : Spares K s u where
  read k m := (b.read k m).trans (a.read k m)
  wins f := (b.wins f).trans (a.wins f)
  pours := b.pours.trans a.pours
  engs := b.engs.trans a.engs
  crus := b.crus.trans a.crus
  tiles := sameTiles_trans a.tiles b.tiles

theorem spares_foldl_mem {β : Type} {step : State → β → State} {l : List β} (each : ∀ t, ∀ x ∈ l, Spares K t (step t x)) (s : State) :
    Spares K s (l.foldl step s) :=
  List.foldlRecOn (motive := Spares K s) l step (spares_refl K s) fun _ before x m => spares_trans before (each _ x m)

theorem spares_foldl {β : Type} {step : State → β → State} (each : ∀ t x, Spares K t (step t x)) (l : List β) (s : State) :
    Spares K s (l.foldl step s) :=
  spares_foldl_mem (fun t x _ => each t x) s

theorem modFibre_spares {g : Fibre → Fibre} (keeps : ∀ v, (g v).win = v.win) (s : State) (f : Nat) : Spares K s (s.modFibre f g) where
  read _ _ := rfl
  wins i := by
    by_cases here : i = f
    · subst here
      rw [modFibre_same, Option.map_map]
      exact congrArg (fun φ => (s.fibre? i).map φ) (funext keeps)
    · rw [modFibre_other s f g here]
  pours := rfl
  engs := rfl
  crus := rfl
  tiles _ := rfl

theorem modFibres_spares {g : Fibre → Fibre} (keeps : ∀ v, (g v).win = v.win) (s : State) (fs : List Nat) :
    Spares K s (s.modFibres fs g) where
  read _ _ := rfl
  wins i := by
    rw [modFibres_fibre?]
    split
    · rw [Option.map_map]
      exact congrArg (fun φ => (s.fibre? i).map φ) (funext keeps)
    · rfl
  pours := rfl
  engs := rfl
  crus := rfl
  tiles _ := rfl

theorem modWeave_spares (s : State) (w : Nat) (g : Weave → Weave) : Spares K s (s.modWeave w g) :=
  ⟨fun _ _ => rfl, fun _ => rfl, rfl, rfl, rfl, fun _ => rfl⟩

theorem modCore_spares {g : CoreSt → CoreSt} (keeps : ∀ x, (g x).tiles = x.tiles) (s : State) (c : Nat) : Spares K s (s.modCore c g) :=
  ⟨fun _ _ => rfl, fun _ => rfl, rfl, rfl, rfl, modCore_sameTiles keeps s c⟩

theorem modPart_spares (s : State) (i : Nat) (g : Part → Part) : Spares K s (s.modPart i g) :=
  ⟨fun _ _ => rfl, fun _ => rfl, rfl, rfl, rfl, fun _ => rfl⟩

theorem modDev_spares (s : State) (g : Dev → Dev) : Spares K s (s.modDev g) := ⟨fun _ _ => rfl, fun _ => rfl, rfl, rfl, rfl, fun _ => rfl⟩

/-- A change of memory that leaves those bytes. -/
theorem setMem_spares {m : Memory} (read : ∀ k, K k → m.read1 k = s.mem.read1 k) : Spares K s { s with mem := m } :=
  ⟨read, fun _ => rfl, rfl, rfl, rfl, fun _ => rfl⟩

/-! ## What an access corrects, keeps and records (08 R163, 22 R389, R398) -/

theorem touch_spares (s : State) (a n : Nat) : Spares K s (s.touch a n) := by
  unfold State.touch
  split
  · exact spares_refl K s
  refine spares_foldl (fun t i => ?_) _ s
  split
  · have corrected : Spares K t { t with mem := (t.mem.scrub (a + i)).1 } := setMem_spares fun k _ => read1_scrub t.mem (a + i) k
    dsimp only
    split
    · exact spares_trans corrected (modCore_spares (fun _ => by rfl) _ _)
    · exact spares_trans corrected (modCore_spares (fun _ => by rfl) _ _)
    · exact spares_trans corrected (modDev_spares _ _)
    · exact spares_trans corrected (modDev_spares _ _)
    · exact corrected
  · exact spares_refl K t

theorem touchPart_spares (s : State) (a n : Nat) : Spares K s (s.touchPart a n) := by
  unfold State.touchPart
  split
  · exact spares_refl K s
  have first : Spares K s (if a % 8 ≠ 0 ∨ n < 8 then s.touch a 1 else s) := by
    split
    · exact touch_spares s a 1
    · exact spares_refl K s
  dsimp only
  split
  · exact spares_trans first (touch_spares _ _ 1)
  · exact first

theorem touchWalk_spares (s : State) (part va : Nat) : Spares K s (s.touchWalk part va) := by
  unfold State.touchWalk
  dsimp only
  split
  · exact spares_refl K s
  · exact spares_foldl (fun t pa => touch_spares t _ 8) _ s

theorem cacheAll_spares (s : State) (p : Pour) (as : List (BitVec 64)) : Spares K s (s.cacheAll p as) := by
  refine spares_foldl (fun t a => ?_) as s
  split
  · unfold State.cached
    split
    · exact spares_trans (touchWalk_spares t _ _) (modPart_spares _ _ _)
    · exact spares_refl K t
  · exact spares_refl K t

/-- A store has corrected its granules before it writes. -/
theorem reached_spares (store : op.kind.isStore = true) (s : State) (p : Pour) : Spares K s (s.reached p op) := by
  refine spares_trans (cacheAll_spares s p _) (spares_foldl (fun t e => ?_) _ _)
  split
  · rw [if_pos store]
    exact touchPart_spares t _ _
  · exact spares_refl K t

theorem recordAcc_spares (s : State) (p : Pour) (op : MemOp) (ks : List (LaneAcc × Nat × Nat)) : Spares K s (s.recordAcc p op ks) := by
  have lines (t : State) : Spares K t (t.addLines op ks) := by
    unfold State.addLines
    split
    · exact spares_refl K t
    · exact spares_foldl (fun t e => modFibre_spares (fun _ => by rfl) t _) ks t
  unfold State.recordAcc
  refine spares_trans (spares_foldl (fun t e => ?_) ks s) (lines _)
  split
  · exact spares_refl K t
  · exact ⟨fun _ _ => rfl, fun _ => rfl, rfl, rfl, rfl, fun _ => rfl⟩

/-! ## What a store writes (12 R259) -/

theorem sign_spares (s : State) (part pour : Nat) (a : BitVec 64) (width : Nat) (data : List Byte) :
    Spares K s (s.sign part pour a width data) := by
  unfold State.sign
  split
  · exact spares_refl K s
  · split
    · exact modPart_spares s _ _
    · exact spares_refl K s

/-- One lane's store leaves what lies outside its bytes. -/
theorem putLane_spares {n : Nat} {x : LaneAcc × Loc} (outside : ∀ k, K k → ∀ pl, x.2 = .mem pl → k < pl.key ∨ pl.key + n ≤ k) (s : State) :
    Spares K s (s.putLane p op n x) := by
  unfold State.putLane
  refine spares_trans (sign_spares s p.part op.pour x.1.addr n ((wordsBytes x.1.data).take n)) ?_
  dsimp only
  split
  next pl place => exact setMem_spares fun k m => read1_storeAt x.1.data (outside k m pl place)
  · exact ⟨fun _ _ => rfl, fun _ => rfl, rfl, rfl, rfl, fun _ => rfl⟩
  · exact spares_refl K _

theorem profile_spares (s : State) (op : MemOp) : Spares K s (s.profile op) := by
  unfold State.profile
  split
  · dsimp only
    split
    · exact spares_refl K s
    · exact modCore_spares (fun _ => by rfl) s _
  · exact spares_refl K s

/-- A word that is no yield point changes the words of its fibres and the turn of its quadrant. -/
theorem after_spares (s : State) (w len : Nat) (lane : Bool) : Spares K s (s.after w len lane false) := by
  have moved (ks : List Nat) (n : Nat) (φ : Weave → Weave) : Spares K s ((s.goTo ks n).modWeave w φ) :=
    spares_trans (modFibres_spares (fun _ => by rfl) s ks) (modWeave_spares _ w φ)
  unfold State.after
  dsimp only
  rw [if_neg Bool.false_ne_true]
  split
  · exact moved _ _ _
  · exact spares_trans (moved _ _ _) (spares_trans (modWeave_spares _ _ _) (modCore_spares (fun _ => by rfl) _ _))

/-- A store goes on without a result. -/
theorem passAccess_spares (silent : op.kind.resWords = 0) (s : State) (w len : Nat) (lane : Bool) :
    Spares K s (s.passAccess w op len lane false) := by
  unfold State.passAccess
  rw [if_pos silent]
  exact spares_trans (profile_spares s op) (after_spares _ w len lane)

end

end Sys2Proof.Proofs

namespace Sys2Proof.Proofs

/-!
PROOFS. Lane accesses and group accesses that are performed at their issue (12 R258 to R263): for each kind of access what its
performance comes to, and from that the words.
-/

section

open Sys2Proof.Machine Sys2Proof.Laws

variable {s t u : State} {c : Ctx} {h : Form} {op : MemOp} {p : Pour} {l0 : Nat × Fibre} {n len : Nat} {tags : SMap Word} {group : Bool}

/-! ## The performance of an access that nothing stops -/

/-- What an access comes to once nothing stops it depends on its kind alone. -/
theorem perform_gld (reach : AccessReady s c op) (kind : op.kind = .gld) :
    s.perform c.p op = .done (State.recorded (if (s.laneLocs c.p op false).any fun x => match x.2 with
          | .peer _ _ _ _ => true
          | _ => false then { s.reached c.p op with free := (s.reached c.p op).free + 1 } else s.reached c.p op)
        c.p op (s.laneLocs c.p op false))
      ((s.laneLocs c.p op false).map fun x => (x.1.fibre, (s.reached c.p op).loadLane op.kind x.2)) := by
  simp only [State.perform, reach.addr, reach.kind, reach.page, reach.order, kind]
  rfl

/-- A `GST` signs its word for a sample and stores it (24 R422). -/
theorem perform_gst (reach : AccessReady s c op) (kind : op.kind = .gst) :
    s.perform c.p op = .done ((s.laneLocs c.p op false).foldl (fun t x =>
        let t := t.sign c.p.part op.pour x.1.addr 4 (wordsBytes x.1.data)
        match x.2 with
        | .mem pl => { t with mem := storeAt t.mem pl 4 x.1.data }
        | .peer d w f g => t.remoteStore c.p op (t.rankOf x.1.fibre) d w f g 4 x.1.data
        | _ => t) (State.recorded (s.reached c.p op) c.p op (s.laneLocs c.p op false))) [] := by
  simp only [State.perform, reach.addr, reach.kind, reach.page, reach.order, kind]
  rfl

/-- One lane of an atomic, in its turn (12 R262). -/
def atomicStep (p : Pour) (op : MemOp) (f : AtomKind) (t : State × SMap (List Reg)) (x : LaneAcc × Loc) : State × SMap (List Reg) :=
  match x.2 with
  | .mem pl => ((t.1.atomicLane p op f x.1 pl).2, t.2 ++ [(x.1.fibre, [(t.1.atomicLane p op f x.1 pl).1])])
  | _ => t

/-- An atomic that combines no poisoned word goes through its lanes in order. -/
theorem perform_atomic {f : AtomKind} {dev : Bool} (reach : AccessReady s c op) (kind : op.kind = .atomic f dev)
    (clean : ∀ x ∈ s.laneLocs c.p op false, ∃ pl, x.2 = .mem pl ∧ (f = .exch ∨ (s.reached c.p op).mem.isPoison pl.key = false)) :
    s.perform c.p op = .done ((s.laneLocs c.p op false).foldl (atomicStep c.p op f) (s.reached c.p op, [])).1
      ((s.laneLocs c.p op false).foldl (atomicStep c.p op f) (s.reached c.p op, [])).2 := by
  have unpoisoned : ((s.laneLocs c.p op false).any fun e => match e.2 with
      | .mem pl => f != .exch && (s.reached c.p op).mem.isPoison pl.key
      | _ => false) = false := by
    refine List.any_eq_false.mpr fun x m => ?_
    obtain ⟨pl, place, exchanged | sound⟩ := clean x m
    · simp [place, exchanged]
    · simp [place, sound]
  simp only [State.perform, reach.addr, reach.kind, reach.page, reach.order, kind]
  exact (if_neg (Bool.eq_false_iff.mp unpoisoned)).trans rfl

/-! ## The two writes of an STP (12 R261) -/

/-- The state once an STP has written its plain places. -/
def stpPlain (s : State) (p : Pour) (op : MemOp) : State :=
  (s.laneLocs p op false).foldl (fun t x => (t.touchLanes op [x]).putLane p op 4 x)
    ((s.cacheAll p (op.lanes.map (·.addr) ++ op.lanes.map (·.addr2))).recordAcc p op (checkedLanes op (s.laneLocs p op false) false))

/-- The state once it has written its transposed places too. -/
def stpBoth (s : State) (p : Pour) (op : MemOp) : State :=
  (s.laneLocs p op true).foldl (fun t x => (t.touchLanes op [x]).putLane p op 4 ({ x.1 with addr := x.1.addr2 }, x.2))
    ((stpPlain s p op).recordAcc p op (checkedLanes op (s.laneLocs p op true) true))

/-- An STP whose checks pass, those of the transposed places after the plain write. -/
theorem performStp_done
    (stop : firstStop op ((s.laneLocs p op false).map (fun x => (false, x)) ++ (s.laneLocs p op true).map fun x => (true, x)) = none)
    (kind : s.kindFaults p op (s.laneLocs p op false) false = none)
    (page : missing (s.laneLocs p op false) = none) (page2 : missing (s.laneLocs p op true) = none)
    (region : s.regionFaults (checkedLanes op (s.laneLocs p op false) false ++ checkedLanes op (s.laneLocs p op true) true) = [])
    (order : s.conflictFaults p op (checkedLanes op (s.laneLocs p op false) false) = [])
    (kind2 : (stpPlain s p op).kindFaults p op (s.laneLocs p op true) true = none)
    (order2 : (stpPlain s p op).conflictFaults p op (checkedLanes op (s.laneLocs p op true) true) = []) :
    s.performStp p op = (.done (stpBoth s p op) [], none) := by
  unfold stpBoth
  unfold stpPlain at kind2 order2 ⊢
  simp only [State.performStp, stop, kind, page, page2, region, order, List.isEmpty_nil, Bool.not_true, Bool.false_eq_true, if_false]
  rw [kind2]
  dsimp only
  rw [order2]
  rfl

/-! ## The issue of an access that nothing stops -/

/-- A store that is performed at its issue. -/
theorem issue_store (reach : AccessReady s c op) (kind : op.kind = .store n) : c.issue s op len tags group =
    ((s.laneLocs c.p op false).foldl (fun t x => t.putLane c.p op n x)
      (State.recorded (s.reached c.p op) c.p op (s.laneLocs c.p op false))).passAccess c.w op len (!group) false := by
  rw [issue_done reach (by rw [kind]; nofun) (perform_store reach kind), sendResult_none (by rw [kind]; rfl)]

end

end Sys2Proof.Proofs

namespace Sys2Proof.Proofs
section

open Sys2Proof.Machine Sys2Proof.Laws

/-- Settles O16: the loads are one access each, performed as the laws of accesses say. -/
theorem laneLoadsComplete : Obligations.LaneLoadsComplete := by
  unfold Obligations.LaneLoadsComplete
  intro e he s c r d a o h u ins op ls v peer ready clean reach
  exact (exec_laneLoads he r d a o).trans ((laneOp_clean ready clean).trans (congrArg Host.Outcome.next
    (issue_done reach nofun (perform_load reach rfl))))

/-- Settles O17: the stores are one access each; an STP writes its plain places before it checks the others. -/
theorem laneStoresComplete : Obligations.LaneStoresComplete := by
  unfold Obligations.LaneStoresComplete
  refine ⟨fun e he s c r d a o l ready clean reach => ?one,
    fun s c d a b l ready kept clean solo log shut stop kind page page2 region order kind2 order2 => ?both⟩
  case one =>
    exact (exec_laneStores he r d a o l).trans ((laneOp_clean ready clean).trans (congrArg Host.Outcome.next
      (issue_store reach rfl)))
  case both =>
    refine (exec_stp_ready ready kept clean).trans (congrArg Host.Outcome.next ?_)
    exact issue_performed solo log shut (performStp_done stop kind page page2 region order kind2 order2)

/-- Settles O18: the lanes go in order, each by `State.atomicLane`. -/
theorem atomicsComplete : Obligations.AtomicsComplete := by
  unfold Obligations.AtomicsComplete
  intro e he s c sc d a b l h cas u ins op ls one done ready clean reach sound
  exact (exec_atomics he sc d a b l).trans ((laneOp_clean ready clean).trans (congrArg Host.Outcome.next
    (issue_done reach nofun (perform_atomic reach rfl sound))))

end
end Sys2Proof.Proofs

namespace Sys2Proof.Proofs
section

open Sys2Proof.Machine Sys2Proof.Laws

/-- A store of `n` bytes a lane that is performed leaves all but those bytes. -/
theorem store_spares {s : State} {c : Ctx} {op : MemOp} {n len : Nat} {lane : Bool} (kind : op.kind = .store n) :
    Spares (fun k => ∀ x ∈ s.laneLocs c.p op false, ∀ pl, x.2 = .mem pl → k < pl.key ∨ pl.key + n ≤ k) s
      (((s.laneLocs c.p op false).foldl (fun t x => t.putLane c.p op n x)
        (State.recorded (s.reached c.p op) c.p op (s.laneLocs c.p op false))).passAccess c.w op len lane false) := by
  have recorded (K : Nat → Prop) : Spares K s (State.recorded (s.reached c.p op) c.p op (s.laneLocs c.p op false)) :=
    spares_trans (reached_spares (by rw [kind]; rfl) s c.p) (recordAcc_spares _ c.p op _)
  refine spares_trans (recorded _) (spares_trans (spares_foldl_mem (fun t x m => ?_) _) (passAccess_spares (by rw [kind]; rfl) _ c.w len lane))
  exact putLane_spares (fun k outside => outside x m) t

/-- Settles O21: what a store corrects reads as before, and what it writes lies in its lanes' bytes. -/
theorem storeTouchesItsBytesAlone : Obligations.StoreTouchesItsBytesAlone := by
  unfold Obligations.StoreTouchesItsBytesAlone
  intro e he s t c r d a o w l h u ins op ready clean reach runs
  have goes := (exec_laneStores he r d a o w).trans ((laneOp_clean ready clean).trans (congrArg Host.Outcome.next
    (issue_store reach rfl)))
  cases goes.symm.trans runs
  have reads : ReadsOnly s u := laneRead_readsOnly s c h false []
  obtain ⟨read, wins, pours, engs, crus, tiles⟩ := store_spares (s := u) (c := c) (op := op) (len := h.len) (lane := true) rfl
  exact ⟨fun k outside => (read k outside).trans (congrArg (fun m => m.read1 k) reads.rest.mem), wins, pours.trans reads.rest.pours,
    engs.trans reads.rest.engs, crus.trans reads.rest.crus, sameTiles_trans (laneRead_sameTiles s c h []) tiles⟩

end
end Sys2Proof.Proofs

namespace Sys2Proof.Proofs

/-!
PROOFS. Uniform accesses and shape registers (12 R263, R277, R278), on a weave and on an engine.
-/

section

open Sys2Proof.Machine Sys2Proof.Laws

variable {s t u : State} {c : Ctx} {h : Form} {op : MemOp} {p : Pour} {l0 : Nat × Fibre} {e n len : Nat} {v : Engine} {x : EngIn}
  {tags : SMap Word} {group : Bool}

/-! ## An engine's access that nothing stops -/

/-- An engine's access of one word that leads to a place or a peer. -/
theorem engAccess_reached {a : BitVec 64} {write : Bool} {l : Loc} (reach : EngReach s x a 4 write l) (k : State → Loc → State) :
    s.engAccess e x a write k = k (if write then s.cacheAll x.p [a] else (s.cacheAll x.p [a]).touchLoc l 4 false) l := by
  unfold State.engAccess
  dsimp only
  rw [reach.place, reach.fault]
  dsimp only
  split
  next va => exact absurd rfl (reach.page va)
  next => exact if_neg (Bool.eq_false_iff.mp reach.window)

/-- The rank by which messages name an engine (23 R416). -/
theorem engRank_eq (k : EngKind) : engRank k = if k = .ladle then 0xFFFF else 0xFFFE := by
  cases k <;> rfl

/-- An engine's access of 96 bytes whose three pieces lead to places or peers. -/
theorem engShape_reached {a : BitVec 64} {write : Bool} {q0 q1 q2 : Loc} (first : EngReach s x (a + 0#64) 32 write q0)
    (second : EngReach s x (a + 32#64) 32 write q1) (third : EngReach s x (a + 64#64) 32 write q2)
    (k : State → List Loc → State) : s.engShape e x a write k =
      k (if write then s else ((s.touchLoc q0 32 false).touchLoc q1 32 false).touchLoc q2 32 false) [q0, q1, q2] := by
  have pieces : (List.range 3).map (fun i => a + BitVec.ofNat 64 (32 * i)) = [a + 0#64, a + 32#64, a + 64#64] := rfl
  have sound : [(a + 0#64, q0), (a + 32#64, q1), (a + 64#64, q2)].findSome? (fun e => engFault s x.p e.1 32 write e.2) = none := by
    simp only [List.findSome?_cons, List.findSome?_nil, first.fault, second.fault, third.fault]
  have present : ∀ q ∈ [q0, q1, q2], ∀ va, q ≠ .notPresent va := by
    simpa using ⟨first.page, second.page, third.page⟩
  have settled : ([q0, q1, q2].any fun l => s.locRefresh l) = false := by
    simp only [List.any_cons, List.any_nil, first.window, second.window, third.window, Bool.or_self]
  unfold State.engShape
  dsimp only
  rw [pieces]
  simp only [List.map_cons, List.map_nil, List.zip_cons_cons, List.zip_nil_left, first.place, second.place, third.place, sound]
  split
  next va found =>
    obtain ⟨q, listed, here⟩ := List.exists_of_findSome?_eq_some found
    split at here
    next page => exact absurd rfl (present _ listed page)
    next => cases here
  next => exact if_neg (Bool.eq_false_iff.mp settled)

/-! ## Shape registers (12 R277, R278) -/

/-- The bits of a shape register after a write of one of its words: those of the word, and the others as before. -/
theorem getLsbD_setShapeWord (v : BitVec 768) {w i k : Nat} (x : Word) (within : i < 24) (bit : k < 32) :
    (setShapeWord v w x).getLsbD (32 * i + k) = if i = w then x.getLsbD k else v.getLsbD (32 * i + k) := by
  have inside : 32 * i + k < 768 := by omega
  have ones : (0xFFFFFFFF#768).getLsbD (32 * i + k - 32 * w) = decide (32 * i + k - 32 * w < 32) := by
    have below : 32 * i + k - 32 * w < 768 := by omega
    rw [BitVec.getLsbD_ofNat, decide_eq_true below, Bool.true_and, show (0xFFFFFFFF : Nat) = 2 ^ 32 - 1 from rfl,
      Nat.testBit_two_pow_sub_one]
  simp only [setShapeWord, BitVec.getLsbD_or, BitVec.getLsbD_and, BitVec.getLsbD_not, BitVec.getLsbD_shiftLeft, BitVec.getLsbD_setWidth,
    ones, inside, decide_true, Bool.true_and]
  rcases Nat.lt_trichotomy i w with below | rfl | above
  · have before : 32 * i + k < 32 * w := by omega
    simp [before, Nat.ne_of_lt below]
  · have offset : 32 * i + k - 32 * i = k := by omega
    have room : k < 768 := by omega
    simp [offset, bit, room]
  · have after_ : ¬ 32 * i + k < 32 * w := by omega
    have beyond : ¬ 32 * i + k - 32 * w < 32 := by omega
    simp [after_, beyond, Nat.ne_of_gt above, BitVec.getLsbD_of_ge x _ (Nat.not_lt.mp beyond)]

/-- Writing a word of a shape register: it reads back, and the others as before. -/
theorem setShapeWord_word (v : BitVec 768) {w i : Nat} (x : Word) (within : i < 24) :
    (setShapeWord v w x).extractLsb' (32 * i) 32 = if i = w then x else v.extractLsb' (32 * i) 32 := by
  refine BitVec.eq_of_getLsbD_eq fun k bit => ?_
  rw [BitVec.getLsbD_extractLsb', decide_eq_true bit, Bool.true_and, getLsbD_setShapeWord v x within bit]
  split
  · rfl
  · rw [BitVec.getLsbD_extractLsb', decide_eq_true bit, Bool.true_and]

/-- Outside a pair an access reads memory as it stands. -/
theorem viewOf_solo (solo : s.pairOf op.pour = none) : s.viewOf p op = s := by
  rw [State.viewOf, solo]

theorem recorded_pairs (s : State) (p : Pour) (op : MemOp) (ls : List (LaneAcc × Loc)) :
    (State.recorded (s.reached p op) p op ls).pairs = s.pairs :=
  (recordAcc_pairs ..).trans (reached_pairs ..)

/-- A store of a shape register that is performed at its issue. -/
theorem issue_shst (reach : AccessReady s c op) (kind : op.kind = .shst n) : c.issue s op len tags group =
    ((s.laneLocs c.p op false).foldl (fun t e => match e.2 with
        | .mem pl => { t with mem := storeAt t.mem pl n e.1.data }
        | .peer d w o g => t.remoteStore c.p op (t.rankOf e.1.fibre) d w o g n e.1.data
        | _ => t) (State.recorded (s.reached c.p op) c.p op (s.laneLocs c.p op false))).passAccess c.w op len (!group) false :=
  (issue_done reach (by rw [kind]; nofun) (perform_shst reach kind)).trans
    (congrArg (fun t => t.passAccess c.w op len (!group) false) (sendResult_none (by rw [kind]; rfl)))

end

section

open Sys2Proof.Machine Sys2Proof.Laws

/-- Settles O19: one access of the lowest active lane, or of the engine. -/
theorem uniformAccessesComplete : Obligations.UniformAccessesComplete := by
  unfold Obligations.UniformAccessesComplete
  refine ⟨fun s c l0 r d a o ready clean reach => ?gld, fun s c l0 r d a o l ready clean reach => ?gst,
    fun s e v p r d a o l ready clean reach => ?engineGld, fun s e v p r d a o w l ready clean reach => ?engineGst⟩
  case gld =>
    exact (exec_gld_groupOp r d a o).trans ((groupOp_clean (read := LaneIn.a) ready clean).trans (congrArg Host.Outcome.next
      (issue_done reach nofun (perform_gld reach rfl))))
  case gst =>
    exact (exec_gst_groupOp r d a o l).trans ((groupOp_unpoisoned ready clean).trans (congrArg Host.Outcome.next
      (issue_done reach nofun (perform_gst reach rfl))))
  case engineGld =>
    refine (exec_gld_groupOp r d a o).trans ((groupOp_eng_clean (read := EngIn.a) ready clean).trans (congrArg Host.Outcome.next ?_))
    exact (engAccess_reached reach _).trans rfl
  case engineGst =>
    have stores := (exec_gst_groupOp r d a o w).trans ((groupOp_eng_clean (read := EngIn.a) ready clean).trans
      (congrArg Host.Outcome.next (engAccess_reached reach _)))
    refine ⟨fun pl place => ?place, fun dv wn of g place => ?peer⟩
    case place =>
      subst place
      exact stores
    case peer =>
      subst place
      rw [stores, ← engRank_eq]
      rfl

end
end Sys2Proof.Proofs

namespace Sys2Proof.Proofs

section

open Sys2Proof.Machine Sys2Proof.Laws

/-- Settles O40: each word's body on the operands that it read, and the places that its access reaches. -/
theorem shapeRegistersMove : Obligations.ShapeRegistersMove := by
  unfold Obligations.ShapeRegistersMove
  refine ⟨fun v w i x _ within => setShapeWord_word v x within, fun s c l0 n a b l ready clean below idle => ?shset,
    fun s c l0 d n b l ready clean below idle => ?shget, fun s c l0 n a ready clean idle reach sound => ?shld,
    fun s c l0 n a ready clean idle reach => ?shst, fun s e v p n a b l ready clean below idle => ?engineShset,
    fun s e v p d n b l ready clean below idle => ?engineShget,
    fun s e v p n a q0 q1 q2 ready clean idle first second third sound => ?engineShld,
    fun s e v p n a q0 q1 q2 ready clean idle first second third => ?engineShst⟩
  case shset =>
    refine (exec_shset s).trans ((groupOp_clean (read := fun x => x.a ++ x.b) ready clean).trans (congrArg Host.Outcome.next ?_))
    exact (if_neg (Nat.not_le.mpr below)).trans ((if_neg (Bool.eq_false_iff.mp idle)).trans rfl)
  case shget =>
    refine (exec_shget s).trans ((groupOp_clean (read := LaneIn.b) ready clean).trans (congrArg Host.Outcome.next ?_))
    exact (if_neg (Nat.not_le.mpr below)).trans ((if_neg (Bool.eq_false_iff.mp idle)).trans rfl)
  case shld =>
    refine (exec_shld s).trans ((groupOp_clean (read := LaneIn.a) ready clean).trans (congrArg Host.Outcome.next
      ((if_neg (Bool.eq_false_iff.mp idle)).trans ?_)))
    dsimp only
    rw [reach.log]
    dsimp only
    rw [perform_shld reach rfl]
    dsimp only
    rw [if_neg (Bool.eq_false_iff.mp reach.window), viewOf_solo ((pairOf_of_pairs (recorded_pairs ..) _).trans reach.solo)]
    exact if_neg (Bool.eq_false_iff.mp sound)
  case shst =>
    refine (exec_shst s).trans ((groupOp_clean (read := LaneIn.a) ready clean).trans (congrArg Host.Outcome.next
      ((if_neg (Bool.eq_false_iff.mp idle)).trans ?_)))
    dsimp only at reach ⊢
    split at reach
    next remote =>
      simp only [if_pos remote]
      exact issue_shst reach rfl
    next local_ =>
      simp only [if_neg local_]
      exact issue_shst reach rfl
  case engineShset =>
    refine (exec_shset s).trans ((groupOp_eng_clean (read := fun x => x.a ++ x.b) ready clean).trans (congrArg Host.Outcome.next ?_))
    exact (if_neg (Nat.not_le.mpr below)).trans ((if_neg (Bool.eq_false_iff.mp idle)).trans rfl)
  case engineShget =>
    refine (exec_shget s).trans ((groupOp_eng_clean (read := EngIn.b) ready clean).trans (congrArg Host.Outcome.next ?_))
    exact (if_neg (Nat.not_le.mpr below)).trans ((if_neg (Bool.eq_false_iff.mp idle)).trans rfl)
  case engineShld =>
    refine (exec_shld s).trans ((groupOp_eng_clean (read := EngIn.a) ready clean).trans (congrArg Host.Outcome.next
      ((if_neg (Bool.eq_false_iff.mp idle)).trans ((engShape_reached first second third _).trans ?_))))
    exact if_neg (Bool.eq_false_iff.mp sound)
  case engineShst =>
    have stores := (exec_shst s).trans ((groupOp_eng_clean (read := EngIn.a) ready clean).trans (congrArg Host.Outcome.next
      ((if_neg (Bool.eq_false_iff.mp idle)).trans (engShape_reached first second third _))))
    refine ⟨fun apart => ?pieces, fun d w o g place remote => ?put⟩
    case pieces =>
      rw [stores, ← engRank_eq]
      dsimp only
      rw [if_neg (Bool.eq_false_iff.mp apart)]
      rfl
    case put =>
      subst place
      rw [stores, ← engRank_eq]
      dsimp only
      rw [if_pos remote]
      rfl

end
end Sys2Proof.Proofs

namespace Sys2Proof.Proofs

/-!
PROOFS. The words of the Runner's queue (12 R265, R268, R274) and the wait for a counter (12 R276).
-/

section

open Sys2Proof.Machine Sys2Proof.Laws

variable {s : State}

/-- The words that enter a command in the Runner's queue, each with the kind of its command. -/
def copyWords : List ((BitVec 8 → BitVec 8 → Instr) × CmdKind) := [(.rcopy, .rcopy), (.rpat, .rpat), (.put, .put)]

theorem exec_copyWords {e} (he : e ∈ copyWords) (d a : BitVec 8) : exec (e.1 d a) s = s.copyIssue (e.1 d a) e.2 d a := by
  simp only [copyWords, List.mem_cons, List.not_mem_nil, or_false] at he
  rcases he with rfl | rfl | rfl
  · exact exec_rcopy s
  · exact exec_rpat s
  · exact exec_put s

/-- A Runner's queue takes 32 commands (12 R265). -/
theorem queueFull_of_room {core : Nat} (room : (s.cmds.filter fun q => q.core == core && q.state == .queued).length < 32) :
    s.queueFull core = false :=
  decide_eq_false (Nat.not_le.mpr room)

/-- Settles O39: the group word of each, where nothing of its wait holds. -/
theorem copyCommandsQueueAndCountersAreAwaited : Obligations.CopyCommandsQueueAndCountersAreAwaited := by
  unfold Obligations.CopyCommandsQueueAndCountersAreAwaited
  refine ⟨fun e he s c l0 d a ready clean free room => ?copy, fun s c l0 a b l n k ready clean matched free counter past => ?wwait,
    fun g hg s e v p d a ready clean room => ?engineCopy, fun s e v p a b l n k ready clean counter past => ?engineWwait⟩
  case copy =>
    refine (exec_copyWords he d a).trans ((groupOp_clean (read := LaneIn.a) ready clean).trans (congrArg Host.Outcome.next ?_))
    dsimp only
    rw [free]
    exact (if_neg (Bool.eq_false_iff.mp (queueFull_of_room room))).trans rfl
  case wwait =>
    refine (exec_wwait s).trans ((groupOp_clean (read := fun x => x.a ++ x.b) ready clean).trans (congrArg Host.Outcome.next
      ((if_neg (Bool.eq_false_iff.mp matched)).trans ?_)))
    rw [free]
    refine (if_neg Bool.false_ne_true).trans ?_
    rw [counter]
    exact if_pos (decide_eq_true past)
  case engineCopy =>
    refine (exec_copyWords hg d a).trans ((groupOp_eng_clean (read := EngIn.a) ready clean).trans (congrArg Host.Outcome.next ?_))
    exact (if_neg (Bool.eq_false_iff.mp (queueFull_of_room room))).trans rfl
  case engineWwait =>
    refine (exec_wwait s).trans ((groupOp_eng_clean (read := fun x => x.a ++ x.b) ready clean).trans (congrArg Host.Outcome.next ?_))
    dsimp only [engIn] at counter ⊢
    rw [counter]
    exact (if_pos (decide_eq_true past)).trans rfl

end
end Sys2Proof.Proofs

namespace Sys2Proof.Proofs

/-!
PROOFS. Runner commands from their start to their end, and what the fabric brings (12 R266, R275, 08 R174, 22 R390, R401).
-/

section

open Sys2Proof.Machine Sys2Proof.Laws

variable {s t : State} {c q : Cmd} {core : Nat} {bs : List Byte}

/-! ## The reads of a command's checks leave the pairs -/

theorem touchLoc_pairs (s : State) (l : Loc) (n : Nat) (tags : Bool) : (s.touchLoc l n tags).pairs = s.pairs := by
  cases l with
  | mem pl =>
    unfold State.touchLoc
    dsimp only
    split
    · rfl
    · exact touchPlace_pairs ..
  | _ => rfl

theorem touchRead_pairs (s : State) (p : Pour) (a : BitVec 64) (n : Nat) (tags : Bool) : (s.touchRead p a n tags).pairs = s.pairs := by
  unfold State.touchRead
  split
  · rfl
  · exact foldl_keeps State.pairs (fun t i => touchLoc_pairs ..) _ s

theorem blockRead_pairs (s : State) (p : Pour) (a : BitVec 64) : (s.blockRead p a).pairs = s.pairs := by
  unfold State.blockRead
  split
  · rfl
  · exact touchRead_pairs ..

/-- A command's pour is in no pair of a state that has the pairs of one where it is in none. -/
theorem cmdPair_none (same : t.pairs = s.pairs) (solo : s.pairOf c.pour = none) : t.cmdPair c = none := by
  rw [State.cmdPair, pairOf_of_pairs same, solo]
  rfl

/-! ## The start of a command (12 R266, R275) -/

/-- The shape registers that a started copy snaps (12 R266). -/
def startShapes (s : State) (c : Cmd) : List (BitVec 768) :=
  match s.pour? c.pour with
  | some p => p.shapes
  | none => c.owner.shapes

/-- The oldest queued command of a core with a free slot starts. -/
theorem exec_runnerCommandStart_first (oldest : s.cmds.find? (fun q => q.core == core && q.state == .queued) = some c)
    (slot : s.slotsUsed core < Config.runnerSlots) : exec (.runnerCommandStart core) s = .next (s.startCmd c) := by
  rw [exec_runnerCommandStart, execRunnerCommandStart, oldest]
  exact if_neg (Nat.not_le.mpr slot)

/-- A command whose checks fail ends with its error token. -/
theorem startCmd_fail {k : Nat} (idle : s.shldHeld c.pour = false) (put : c.kind = .put → s.checkPut c = .fail k)
    (copy : c.kind ≠ .put → s.checkCopy c (startShapes s c) = .fail k) :
    s.startCmd c = { (s.blockRead c.owner c.addr).failCmd c k with free := ((s.blockRead c.owner c.addr).failCmd c k).free + 1 } := by
  unfold State.startCmd
  dsimp only
  rw [if_neg (Bool.eq_false_iff.mp idle)]
  split
  next isPut => rw [put isPut]
  next isCopy =>
    generalize checked : s.checkCopy c _ = r
    obtain rfl := (copy isCopy).symm.trans checked
    rfl

/-- A command whose checks wait keeps its slot. -/
theorem startCmd_wait {w : WalkWait} (idle : s.shldHeld c.pour = false) (put : c.kind = .put → s.checkPut c = .wait w)
    (copy : c.kind ≠ .put → s.checkCopy c (startShapes s c) = .wait w) : s.startCmd c = s.cmdWait c w .starting := by
  unfold State.startCmd
  dsimp only
  rw [if_neg (Bool.eq_false_iff.mp idle)]
  split
  next isPut => rw [put isPut]
  next isCopy =>
    generalize checked : s.checkCopy c _ = r
    obtain rfl := (copy isCopy).symm.trans checked
    rfl

/-- Outside a pair a command that has passed its checks goes on. -/
theorem passed_solo {leaves : Bool} (solo : s.cmdPair c = none) : s.passed c leaves = (s.modCmd c.id fun _ => c).goOn c := by
  have met : s.metFailure c = false := by rw [State.metFailure, solo]
  unfold State.passed
  rw [if_neg (Bool.eq_false_iff.mp met), solo]

/-- A copy as its start leaves it, once its checks have passed (12 R266 step 5). -/
def begunCopy (s : State) (c : Cmd) (bs : List Byte) (pl : CopyPlan) : Cmd :=
  { c with block := bs ++ pl.code, shapes := startShapes s c, state := .running, wait := none }

/-- A copy outside a pair that passes its checks begins its walk. -/
theorem startCmd_copy {pl : CopyPlan} (idle : s.shldHeld c.pour = false) (kind : c.kind ≠ .put) (solo : s.pairOf c.pour = none)
    (passes : s.checkCopy c (startShapes s c) = .ok (bs, pl)) :
    let q := begunCopy s c bs pl
    let t := ((((s.blockRead c.owner c.addr).touchRead c.owner pl.blk.pat pl.code.length).modCmd c.id fun _ => q).beginWalk q q.plan)
    s.startCmd c = { t with free := t.free + 1 } := by
  have apart : ((s.blockRead c.owner c.addr).touchRead c.owner pl.blk.pat pl.code.length).cmdPair (begunCopy s c bs pl) = none :=
    cmdPair_none ((touchRead_pairs ..).trans (blockRead_pairs ..)) solo
  have begins := (passed_solo (leaves := pl.leaves (fun n => decodeShape ((startShapes s c).getD n 0#768)) (c.kind == .rpat)) apart).trans
    (if_neg kind)
  unfold State.startCmd
  dsimp only
  rw [if_neg (Bool.eq_false_iff.mp idle), if_neg kind]
  generalize checked : s.checkCopy c _ = r
  obtain rfl := passes.symm.trans checked
  exact congrArg (fun t : State => { t with free := t.free + 1 }) begins

/-- A put as its start leaves it, once its checks have passed. -/
def begunPut (c : Cmd) (bs : List Byte) : Cmd := { c with block := bs, state := .running, wait := none }

/-- A put outside a pair that passes its checks is sent. -/
theorem startCmd_put {x : PutBlock × Nat × Nat × Nat} {b : PutBlock} {d w o : Nat} (idle : s.shldHeld c.pour = false)
    (kind : c.kind = .put) (solo : s.pairOf c.pour = none) (passes : s.checkPut c = .ok (bs, x))
    (leads : ((s.blockRead c.owner c.addr).modCmd c.id fun _ => begunPut c bs).putFields (begunPut c bs) bs = .ok (b, d, w, o))
    (sends : ((s.blockRead c.owner c.addr).modCmd c.id fun _ => begunPut c bs).sendPut (begunPut c bs) b d w o = t) :
    s.startCmd c = { t with free := t.free + 1 } := by
  have apart : (s.blockRead c.owner c.addr).cmdPair (begunPut c bs) = none := cmdPair_none (blockRead_pairs ..) solo
  unfold begunPut at apart leads sends
  unfold State.startCmd
  dsimp only
  rw [if_neg (Bool.eq_false_iff.mp idle), if_pos kind, passes]
  dsimp only
  rw [passed_solo apart, State.goOn, if_pos kind]
  dsimp only
  rw [leads]
  dsimp only
  rw [sends]

/-- A put as it is sent: it has acquired where its block asks for it (12 R275 step 3). -/
def sentPut (s : State) (c : Cmd) (b : PutBlock) : Cmd :=
  { c with clock := if b.acq then joinClock c.clock (s.fenceClock c.pour (b.scope == 1)) else c.clock }

/-- A put whose bytes are there leaves on its port. -/
theorem sendPut_sent {b : PutBlock} {d w o : Nat} {data : List Byte} {ts : List Tag} {ps : List Bool}
    (fetched : s.putData (sentPut s c b) b (b.len / 8) 0 = .ok (data, ts, ps)) :
    s.sendPut c b d w o =
      (((s.touchRead c.owner b.src b.len (b.tmode == 0)).modCmd c.id fun x =>
        { x with state := .sent, remote := some (d, w), wait := none, clock := (sentPut s c b).clock }).modDev fun v =>
        { v with fabric := v.fabric ++ [.put c.id d w o (putOf w o true { bytes := data, tags := ts, poison := ps } c.rtag)] }) := by
  unfold sentPut at fetched ⊢
  unfold State.sendPut
  dsimp only
  rw [fetched]

/-- A put whose bytes are not readable ends in error. -/
theorem sendPut_fail {b : PutBlock} {d w o k : Nat}
    (lost : s.putData (sentPut s c b) b (b.len / 8) 0 = .fail k) : s.sendPut c b d w o = s.endCmd (sentPut s c b) k := by
  unfold sentPut at lost ⊢
  unfold State.sendPut
  dsimp only
  rw [lost]

/-! ## The end of a copy (12 R266 steps 6 to 9) -/

/-- A running copy that nothing holds finishes. -/
theorem exec_copyCompletion_running {id : Nat}
    (found : s.cmds.find? (fun q => q.id == id && (q.state == .running || q.state == .starting)) = some c) (running : c.state = .running)
    (answered : s.unanswered c.owner.part c.wait = false) (kind : c.kind ≠ .put) :
    exec (.copyCompletion id) s = .next (s.finishCopy c) := by
  rw [exec_copyCompletion, execCopyCompletion, found]
  dsimp only
  rw [if_neg (Bool.eq_false_iff.mp answered), running]
  exact (if_neg Bool.false_ne_true).trans (if_neg kind)

/-- The release of a copy that asks for one. -/
theorem cmdRelease_asked (s : State) (c : Cmd) (scope : Nat) (rel : Bool) :
    (if rel then s.cmdRelease c (scope == 1) else s) =
      let put (x : State) (k : SyncKey) : State := x.setSync k (joinClock (x.syncOf k) c.clock)
      let own := put s (.fence (some c.pour))
      if rel then (if scope = 1 then put own (.fence none) else own) else s := by
  unfold State.cmdRelease
  simp only [beq_iff_eq]

/-- Settles O47: each event on what it finds. -/
theorem copiesPutsAndResultsArrive : Obligations.CopiesPutsAndResultsArrive := by
  unfold Obligations.CopiesPutsAndResultsArrive
  refine ⟨fun s core c oldest slot idle => ⟨fun k put copy => ?fail, fun va wr put copy => ?wait, fun bs pl kind solo passes => ?copy,
      fun bs x b d w o kind solo passes leads => ⟨fun data ts ps fetched => ?sent, fun k lost => ?lost⟩⟩,
    fun s id c w found running answered kind walked => ⟨fun whole => ?copied, fun broken => ?broken⟩,
    fun s part p w b ps window opened decoded within places => ?landed, fun s part p undecoded => ?undecoded,
    fun s id d w c found remote filled => ⟨?acked, ?refused⟩, fun e he s id p ready => ?result,
    fun s part win off len w ps window within places => ?read, fun s port part rtag below owner => ?purge⟩
  case fail =>
    exact (exec_runnerCommandStart_first oldest slot).trans (congrArg Host.Outcome.next (startCmd_fail idle put copy))
  case wait =>
    exact (exec_runnerCommandStart_first oldest slot).trans (congrArg Host.Outcome.next (startCmd_wait idle put copy))
  case copy =>
    exact (exec_runnerCommandStart_first oldest slot).trans (congrArg Host.Outcome.next (startCmd_copy idle kind solo passes))
  case sent =>
    exact (exec_runnerCommandStart_first oldest slot).trans (congrArg Host.Outcome.next
      (startCmd_put idle kind solo passes leads (sendPut_sent fetched)))
  case lost =>
    exact (exec_runnerCommandStart_first oldest slot).trans (congrArg Host.Outcome.next
      (startCmd_put idle kind solo passes leads (sendPut_fail lost)))
  case copied =>
    rw [exec_copyCompletion_running found running answered kind, State.finishCopy]
    dsimp only
    rw [walked]
    dsimp only
    rw [if_pos whole, cmdRelease_asked]
  case broken =>
    rw [exec_copyCompletion_running found running answered kind, State.finishCopy]
    dsimp only
    rw [walked]
    dsimp only
    rw [if_neg broken, cmdRelease_asked]
  case landed =>
    rw [exec_putArrival, execPutArrival, State.landPut, window, decoded]
    have room : (!w.w || decide (w.len < p.off + p.len)) = false := by
      rw [opened, decide_eq_false (Nat.not_lt.mpr within)]
      rfl
    dsimp only
    rw [if_neg (Bool.eq_false_iff.mp room), places]
  case undecoded =>
    rw [exec_putArrival, execPutArrival, State.landPut, undecoded]
    cases SMap.get? (s.part part).wins p.win <;> rfl
  case acked =>
    rw [exec_putAcknowledgement, execPutAcknowledgement, found]
    dsimp only
    rw [remote]
    exact (if_neg (mt List.isEmpty_iff.mp filled)).trans rfl
  case refused =>
    rw [exec_putAcknowledgement, execPutAcknowledgement, found]
    dsimp only
    rw [remote]
    exact (if_neg (mt List.isEmpty_iff.mp filled)).trans rfl
  case result =>
    simp only [List.mem_cons, List.not_mem_nil, or_false] at he
    rcases he with rfl | rfl
    · rw [exec_loadResultArrival, execLoadResultArrival, ready]
    · rw [exec_atomicResultArrival, execAtomicResultArrival, ready]
  case read =>
    rw [exec_fabricReadRequest, execFabricReadRequest, window]
    dsimp only
    rw [if_neg (Nat.not_lt.mpr within), places]
  case purge =>
    rw [exec_purgeMessageReceived, execPurgeMessageReceived]
    simp only [below, decide_true, Bool.true_and]
    rw [show Config.partitions = 24 from rfl, owner]

end
end Sys2Proof.Proofs

namespace Sys2Proof.Proofs

/-!
PROOFS. Traps (13 R299, R300, 09 R182, R187, R199, R200, 22 R400): how a weave enters its handler, when its request ends instead, and
the fates of a word before its own entry, by the shape that every word has.
-/

section

open Sys2Proof.Machine Sys2Proof.Laws

variable {s t u : State} {w : Nat} {v : Weave} {p : Pour} {i : TrapInfo}

/-! ## A yield point -/

/-- What a yield point of a weave that reads as `v` leaves of a state: its latches are empty, and its windows stand. -/
structure Yielded (s t : State) (w : Nat) (v : Weave) : Prop where
  fibres  : t.fibres = s.fibres
  engines : t.engines = s.engines
  pours   : t.pours = s.pours
  weave   : ∃ v', t.weave? w = some v' ∧ v'.latches = [] ∧ v'.guard = v.guard ∧ v'.susp = v.susp ∧ v'.hexcl = v.hexcl ∧
              v'.member = v.member

theorem yieldWeave_yielded (kept : Kept s t) (weave : s.weave? w = some v) : Yielded s (t.yieldWeave w) w v := by
  obtain ⟨fibres, -, engines, pours, weaves⟩ := yieldWeave_keeps t w
  obtain ⟨v', after, same⟩ := weaves v ((congrArg (SMap.get? · w) kept.weaves).trans weave)
  refine ⟨fibres.trans kept.fibres, engines.trans kept.engines, pours.trans kept.pours, v', after, ?_⟩
  rw [same]
  exact ⟨rfl, rfl, rfl, rfl, rfl⟩

theorem yieldWeave_mem (s : State) (w : Nat) : (s.yieldWeave w).mem = s.mem :=
  (yieldWeave_keeps s w).2.1

/-! ## Entering the handler (13 R299, R300) -/

/-- The fibres that take a trap of a weave: the active ones, or those that a guard window excludes where it leaves none (log 42). -/
def takers (s : State) (w : Nat) : SMap Fibre := if s.actives w = [] then s.movers w else s.actives w

/-- The weave once its takers are in the handler: its window is suspended, and the lanes that it excludes stay behind. -/
def suspended (s : State) (w : Nat) (v : Weave) : Weave :=
  { v with
    susp := suspend v.guard v.susp ((takers s w).map (·.2.lane)), guard := none, stall := none
    hexcl := v.hexcl ||| laneMask ((s.movers w).filter fun e => !(takers s w).any fun a => a.1 == e.1) }

/-- The state once the takers of a trap have entered the handler, before the trace and the yield point. -/
def entered (s : State) (w hent : Nat) (i : TrapInfo) : State :=
  (s.modFibres ((takers s w).map (·.1)) fun f => f.trapped hent i).modWeave w (suspended s w)

/-- The trace record of a trap (23 R408). -/
def trapRec (s : State) (w : Nat) (p : Pour) (i : TrapInfo) : TraceRec :=
  { type := 3, core := p.core, handle := match s.task? p.task with | some t => t.handle | none => 0#32, pour := p.idx, pc := i.pc
    rank := match (takers s w).head? with | some e => e.2.rank | none => 0, detail := (tinfo1Of i.cause i.pc).toNat }

/-- That state with its trace record, in a traced partition. -/
def enteredTraced (s : State) (w hent : Nat) (p : Pour) (i : TrapInfo) : State :=
  if (s.part p.part).tren then (entered s w hent i).trace p.part (trapRec s w p i) else entered s w hent i

theorem enteredTraced_kept (s : State) (w hent : Nat) (p : Pour) (i : TrapInfo) :
    Kept (entered s w hent i) (enteredTraced s w hent p i) := by
  unfold enteredTraced
  split
  · exact trace_keeps ..
  · exact Kept.refl _

theorem enteredTraced_untraced {hent : Nat} (untraced : (s.part p.part).tren = false) :
    (enteredTraced s w hent p i).mem = s.mem := by
  unfold enteredTraced
  rw [if_neg (Bool.eq_false_iff.mp untraced)]
  rfl

/-- Outside a pair a trap of a weave waits for no other. -/
theorem trapWeave_solo (weave : s.weave? w = some v) (solo : s.pairOf v.pour = none) : s.trapWeave w i = s.enterTrap w i := by
  unfold State.trapWeave
  rw [weave]
  dsimp only
  rw [solo]

/-- The outcomes of a trap, in their order. -/
theorem enterTrap_eq (weave : s.weave? w = some v) (pour : s.pour? v.pour = some p) : s.enterTrap w i =
    if i.cause = cPoison then s.purgePour v.pour 0
    else if (takers s w).any fun e => e.2.saved.isSome then s.purgePour v.pour 1
    else p.hdr.hent.elim (s.purgePour v.pour 1) fun hent => (enteredTraced s w hent p i).yieldWeave w := by
  unfold State.enterTrap
  rw [weave]
  dsimp only
  rw [pour]
  simp only [List.isEmpty_iff]
  cases p.hdr.hent <;> rfl

theorem trapWeave_entered {hent : Nat} (weave : s.weave? w = some v) (pour : s.pour? v.pour = some p) (solo : s.pairOf v.pour = none)
    (handler : p.hdr.hent = some hent) (clean : i.cause ≠ cPoison) (outside : ∀ e ∈ takers s w, e.2.saved = none) :
    s.trapWeave w i = (enteredTraced s w hent p i).yieldWeave w := by
  have fresh : ¬((takers s w).any fun e => e.2.saved.isSome) = true := fun inside =>
    have ⟨e, taker, saved⟩ := any_saved.mp inside
    saved (outside e taker)
  rw [trapWeave_solo weave solo, enterTrap_eq weave pour, if_neg clean, if_neg fresh, handler, Option.elim_some]

/-- Whether a fibre is among those of a list. -/
theorem contains_keys {l : SMap Fibre} {f : Nat} : (l.map (·.1)).contains f = true ↔ ∃ e ∈ l, e.1 = f := by
  rw [List.contains_iff_mem, List.mem_map]

theorem contains_keys_false {l : SMap Fibre} {f : Nat} (apart : ∀ e ∈ l, e.1 ≠ f) : ¬(l.map (·.1)).contains f = true :=
  fun inside => have ⟨e, mem, same⟩ := contains_keys.mp inside; apart e mem same

/-- A change of the fibres of a list. -/
theorem modFibres_listed {l : SMap Fibre} {g : Fibre → Fibre} {e : Nat × Fibre} (mem : e ∈ l) :
    (s.modFibres (l.map (·.1)) g).fibre? e.1 = (s.fibre? e.1).map g :=
  (modFibres_fibre? ..).trans (if_pos (contains_keys.mpr ⟨e, mem, rfl⟩))

theorem modFibres_unlisted {l : SMap Fibre} {g : Fibre → Fibre} {f : Nat} (apart : ∀ e ∈ l, e.1 ≠ f) :
    (s.modFibres (l.map (·.1)) g).fibre? f = s.fibre? f :=
  (modFibres_fibre? ..).trans (if_neg (contains_keys_false apart))

theorem fibre?_congr (same : t.fibres = s.fibres) (f : Nat) : t.fibre? f = s.fibre? f :=
  congrArg (SMap.get? · f) same

/-- The fibres and the weave once the takers have entered. -/
theorem entered_taker {hent : Nat} {e : Nat × Fibre} (taker : e ∈ takers s w) :
    (entered s w hent i).fibre? e.1 = (s.fibre? e.1).map fun f => f.trapped hent i :=
  (fibre?_congr (modWeave_fibres ..) e.1).trans (modFibres_listed taker)

theorem entered_other {hent f : Nat} (apart : ∀ e ∈ takers s w, e.1 ≠ f) : (entered s w hent i).fibre? f = s.fibre? f :=
  (fibre?_congr (modWeave_fibres ..) f).trans (modFibres_unlisted apart)

theorem entered_weave {hent : Nat} (weave : s.weave? w = some v) : (entered s w hent i).weave? w = some (suspended s w v) :=
  (modWeave_same ..).trans (congrArg _ weave)

/-! ## The fates before a word's own entry (09 R187, R190, R199, R200) -/

variable {c : Ctx} {h : Form} {group : Bool} {n : Nat} {ls : List Latch} {k : SKind} {code : BitVec 8}

/-- 09 R184, R186: a register index that fits no window is misaligned or reaches beyond it. -/
theorem indexOk_eq_false {d k : Nat} : indexOk n d k = false ↔ d % k ≠ 0 ∨ n < d + k := by
  simp [indexOk]
  omega

/-- 09 R184 to R186, R190: the ranges of a source code, in order. -/
theorem srcBad_iff : srcBad n ls k code = true ↔ SourceIllegal n ls k code := by
  have window := @indexOk_eq_false n code.toNat k.words
  unfold srcBad SourceIllegal latchAt
  dsimp only
  split_ifs <;> grind

/-- 09 R186: a destination is a register of the window, or 240. -/
theorem dstBad_iff {d : BitVec 8} {m : Nat} :
    dstBad n m d = true ↔ (d.toNat < 240 ∧ (d.toNat % m ≠ 0 ∨ n < d.toNat + m)) ∨ 240 < d.toNat := by
  have window := @indexOk_eq_false n d.toNat m
  unfold dstBad
  dsimp only
  split_ifs <;> grind

theorem srcLost_iff {src : Option (SKind × BitVec 8)} : srcLost ls src = true ↔ SourceLost ls src := by
  unfold SourceLost
  rcases src with - | ⟨k, code⟩
  · simp [srcLost]
  · unfold srcLost latchLost latchAt
    grind

theorem isLit_iff {src : Option (SKind × BitVec 8)} : isLit src = true ↔ ∃ k, src = some (k, 245#8) := by
  rcases src with - | ⟨k, code⟩ <;> simp [isLit, litCode]

/-- What an optional field makes illegal. -/
theorem optBad_iff {α β : Type} {o : Option (α × β)} {bad : α → β → Bool} {P : α → β → Prop} (each : ∀ x y, bad x y = true ↔ P x y) :
    (o.any fun e => bad e.1 e.2) = true ↔ ∃ x y, o = some (x, y) ∧ P x y := by
  rcases o with - | ⟨x, y⟩ <;> simp [each]

/-- The illegal operands of a word, by what makes a destination and a source illegal (09 R200 item 3). -/
theorem fieldsBad_iff {dst : BitVec 8 → Nat → Bool} {src : SKind → BitVec 8 → Bool} {D : BitVec 8 → Nat → Prop}
    {S : SKind → BitVec 8 → Prop} (dsts : ∀ d m, dst d m = true ↔ D d m) (srcs : ∀ k code, src k code = true ↔ S k code) :
    (h.badOp || (h.dst.any fun e => dst e.1 e.2) || (h.a.any fun e => src e.1 e.2) || (h.b.any fun e => src e.1 e.2)
        || (isLit h.a && isLit h.b)) = true ↔
      h.badOp = true ∨ (∃ d m, h.dst = some (d, m) ∧ D d m) ∨
        (∃ k code, (h.a = some (k, code) ∨ h.b = some (k, code)) ∧ S k code) ∨
        ((∃ k, h.a = some (k, 245#8)) ∧ ∃ k, h.b = some (k, 245#8)) := by
  simp only [Bool.or_eq_true, Bool.and_eq_true, isLit_iff, optBad_iff dsts, optBad_iff srcs, or_and_right, exists_or, or_assoc]

theorem operandBad_iff : h.operandBad n ls = true ↔ h.OperandIllegal n ls := by
  refine Iff.trans ?_ (fieldsBad_iff (fun _ _ => dstBad_iff) fun _ _ => srcBad_iff)
  unfold Form.operandBad
  cases h.dst <;> cases h.a <;> cases h.b <;> rfl

theorem engSrcBad_iff {kind : EngKind} : engSrcBad kind k code = true ↔ code.toNat ≠ 240 ∧
    if code.toNat = 245 then k = .xs ∨ k = .ap else 64 ≤ code.toNat ∨ code.toNat % k.words ≠ 0 ∨ kind.regs < code.toNat + k.words := by
  have window := @indexOk_eq_false kind.regs code.toNat k.words
  unfold engSrcBad
  dsimp only
  split_ifs <;> grind

theorem engDstBad_iff {kind : EngKind} {d : BitVec 8} {m : Nat} : engDstBad kind m d = true ↔
    d.toNat ≠ 240 ∧ (64 ≤ d.toNat ∨ d.toNat % m ≠ 0 ∨ kind.regs < d.toNat + m) := by
  have window := @indexOk_eq_false kind.regs d.toNat m
  unfold engDstBad
  dsimp only
  split_ifs <;> grind

theorem engBad_iff {kind : EngKind} : h.engBad kind = true ↔ h.EngineIllegal kind.regs := by
  refine Iff.trans ?_ (fieldsBad_iff (fun _ _ => engDstBad_iff) fun _ _ => engSrcBad_iff)
  unfold Form.engBad
  cases h.dst <;> cases h.a <;> cases h.b <;> rfl

/-- What makes a word illegal in a fibre: its own form, that it is an engine's, or a group word's guard window (09 R200, 02 R39). -/
def IllegalHere (c : Ctx) (h : Form) (group : Bool) : Prop :=
  h.bad = true ∨ h.fibre = false ∨ (group = true ∧ c.v.guard ≠ none)

theorem illegalHere_iff : (h.bad || !h.fibre || (group && c.v.guard.isSome)) = true ↔ IllegalHere c h group := by
  simp [IllegalHere, Option.isSome_iff_ne_none, or_assoc]

theorem fate_illegal (illegal : IllegalHere c h group) : c.fate h group = some (c.wordTrap cIllegal h) :=
  if_pos (illegalHere_iff.mpr illegal)

section Legal

variable (legal : ¬IllegalHere c h group)
include legal

theorem fate_engineOnly (only : h.only = true) : c.fate h group = some (c.wordTrap cEngineOnly h) :=
  (if_neg (illegalHere_iff.not.mpr legal)).trans (if_pos only)

theorem fate_operand (notOnly : h.only = false) (operand : h.OperandIllegal c.p.hdr.regs c.v.latches) :
    c.fate h group = some (c.wordTrap cOperand h) :=
  (if_neg (illegalHere_iff.not.mpr legal)).trans ((if_neg (Bool.eq_false_iff.mp notOnly)).trans (if_pos (operandBad_iff.mpr operand)))

theorem fate_latch (notOnly : h.only = false) (fit : ¬h.OperandIllegal c.p.hdr.regs c.v.latches)
    (lost : SourceLost c.v.latches h.a ∨ SourceLost c.v.latches h.b) : c.fate h group = some (c.latchTrap h group) :=
  (if_neg (illegalHere_iff.not.mpr legal)).trans ((if_neg (Bool.eq_false_iff.mp notOnly)).trans
    ((if_neg (operandBad_iff.not.mpr fit)).trans
      (if_pos (Bool.or_eq_true_iff.mpr (lost.imp srcLost_iff.mpr srcLost_iff.mpr)))))

end Legal

theorem fate_none_bad (fate : c.fate h group = none) : h.bad = false := by
  by_contra bad
  rw [fate_illegal (Or.inl (Bool.eq_true_of_not_eq_false bad))] at fate
  cases fate

theorem groupOp_fate {fib : State → Ctx → LaneIn → State} {eng : State → Nat → EngIn → State} (turn : s.turn = .weave c.w)
    (ctx : s.ctxOf c.w = some c) (active : c.acts ≠ []) (fate : c.fate h true = some i) :
    s.groupOp h fib eng = .next (s.trapWeave c.w i) := by
  obtain ⟨l0, lead⟩ := Option.ne_none_iff_exists'.mp (List.head?_eq_none_iff.not.mpr active)
  simp only [State.groupOp, turn, State.groupWeave, ctx, lead, fate]

/-- A lane or group word of a form that meets a fate traps with it. -/
theorem exec_fate {j : Instr} (turn : s.turn = .weave c.w) (ctx : s.ctxOf c.w = some c) (active : c.acts ≠ [])
    (runs : if group then ∃ fib eng, exec j s = s.groupOp h fib eng else ∃ acc extra body, exec j s = s.laneOp h acc extra body)
    (fate : c.fate h group = some i) : exec j s = .next (s.trapWeave c.w i) := by
  cases group with
  | true =>
    obtain ⟨fib, eng, runs⟩ := runs
    exact runs.trans (groupOp_fate turn ctx active fate)
  | false =>
    obtain ⟨acc, extra, body, runs⟩ := runs
    exact runs.trans (laneOp_fate turn ctx (List.isEmpty_eq_false_iff.mpr active) fate)

/-! ## The tags that a lost latch shows (09 R190, 06 R147) -/

theorem tagsWord_low (a b : Tag) : (tagsWord a b).extractLsb' 0 16 = a :=
  (@seg_lo 16 16 _ _ 0 16 (by decide)).trans (seg_all _)

theorem tagsWord_high (a b : Tag) : (tagsWord a b).extractLsb' 16 16 = b :=
  (@seg_hi 16 16 _ _ 16 16 (by decide)).trans (seg_all _)

/-- A field A that is lost shows no tag. -/
theorem tagsBut_lostA (x : LaneIn) (lostB : Bool) : (x.tagsBut h true lostB).extractLsb' 0 16 = 0xFFF0#16 := by
  unfold LaneIn.tagsBut
  rw [Bool.or_true, if_pos rfl]
  dsimp only
  split <;> exact tagsWord_low ..

/-- Nor does a field B, but beside an address pair, whose second word it makes room for. -/
theorem tagsBut_lostB (x : LaneIn) (lostA : Bool) (single : ∀ code, h.a ≠ some (.ap, code)) :
    (x.tagsBut h lostA true).extractLsb' 16 16 = 0xFFF0#16 := by
  unfold LaneIn.tagsBut
  rw [Bool.or_true (Option.isNone h.b), if_pos (c := true = true) rfl]
  dsimp only
  split
  · next code pair => exact absurd pair (single code)
  · exact tagsWord_high ..

/-! ## The shape of every word (09 R182) -/

/-- A word of a form is a lane word or a group word of it. -/
def Shaped (j : Instr) (s : State) : Prop :=
  ∃ h : Form, h.instr = j ∧
    ((∃ acc extra body, exec j s = s.laneOp h acc extra body) ∨ (∃ fib eng, exec j s = s.groupOp h fib eng))

theorem shaped_lane {j : Instr} {acc : Bool} {extra : List (BitVec 8 × Nat)} {body : State → Ctx → SMap LaneIn → State}
    (runs : exec j s = s.laneOp h acc extra body) (word : h.instr = j) : Shaped j s :=
  ⟨h, word, Or.inl ⟨acc, extra, body, runs⟩⟩

theorem shaped_group {j : Instr} {fib : State → Ctx → LaneIn → State} {eng : State → Nat → EngIn → State}
    (runs : exec j s = s.groupOp h fib eng) (word : h.instr = j) : Shaped j s :=
  ⟨h, word, Or.inr ⟨fib, eng, runs⟩⟩

/-- A lane word whose form depends on the weave that executes it. -/
theorem shaped_onWeave {j : Instr} {form : Nat → Form} {acc : Bool} {extra : List (BitVec 8 × Nat)}
    {body : Nat → State → Ctx → SMap LaneIn → State} (word : ∀ w, (form w).instr = j) (runs : exec j s = match s.turn with
      | .weave w => .next (s.laneWeave w (form w) acc extra (body w))
      | .engine e => .next (s.trapEngine e cIllegal)
      | _ => .next s) : Shaped j s := by
  cases turn : s.turn with
  | weave w => exact shaped_lane (by rw [runs, State.laneOp, turn]) (word w)
  | _ => exact shaped_lane (acc := acc) (extra := extra) (body := body 0) (by rw [runs, State.laneOp, turn]) (word 0)

/-- 13 R294: anywhere but in firmware, a firmware's word is an illegal group word. -/
theorem firmwareOp_elsewhere {j : Instr} {a : BitVec 8} {body : Nat → Nat → Nat → Out}
    (elsewhere : ∀ core part, s.turn ≠ .firmware core part) :
    s.firmwareOp j a body = s.groupOp { instr := j, a := some (.ap, a), bad := true } (fun s _ _ => s) noEngine := by
  unfold State.firmwareOp
  split
  · next core part turn => exact absurd turn (elsewhere core part)
  · rfl

theorem exec_mspill_elsewhere (elsewhere : ∀ core part, s.turn ≠ .firmware core part) (d : BitVec 3) (a : BitVec 8) :
    exec (.mspill d a) s = s.groupOp { instr := .mspill d a, a := some (.ap, a), bad := true } (fun s _ _ => s) noEngine := by
  rw [exec_mspill, execMspill, firmwareOp_elsewhere elsewhere]

theorem exec_mfill_elsewhere (elsewhere : ∀ core part, s.turn ≠ .firmware core part) (d : BitVec 3) (a : BitVec 8) :
    exec (.mfill d a) s = s.groupOp { instr := .mfill d a, a := some (.ap, a), bad := true } (fun s _ _ => s) noEngine := by
  rw [exec_mfill, execMfill, firmwareOp_elsewhere elsewhere]

/-- Every encoded word of fibres and engines has a shape; an event of the machine has no word. -/
theorem shaped_of_encoded {j : Instr} (encoded : (encodeWord j).isSome = true) (greoskane : j.isCrucible = false)
    (elsewhere : ∀ core part, s.turn ≠ .firmware core part) : Shaped j s := by
  cases j with
  | iadd | isub | imul | imulhs | imulhz | imad | imins | imaxs | iminz | imaxz | and | or | xor | shl | shr | sar | iaddi
  | shimShl | shimShr | shimSar | icmps | icmpz | iadd64 | uniMov | uniNot | uniNeg | uniAbs | uniPopc | uniClz | uniBrev
  | uniSext8 | uniSext16 | uniBswap | fadd | fsub | fmul | ffma | fmin | fmax | fcmp | fabs | fneg | frcp | frsq | fsqrt
  | fexp2 | flog2 | frint | ffloor | fceil | hadd2 | hfma2 | badd2 | bfma2 | cvt | selp | shfx | shfn | shfup | shfdn
  | voteBallot | voteAny | voteAll | rhad | ld32 | ld64 | ld128 | ldnZ8 | ldnS8 | ldnZ16 | ldnS16 | st32 | st64 | st128
  | stnB8 | stnB16 | atadd | atmaxs | atmaxz | atexch | atcas | qcmp | qlogAnd | qlogOr | qlogNot | qblend | qdraw
  | qgradRamp | qgradLogi | qgradAndp | qgradOrp | qgradNot | qgradBlendq | qxferOut | qxferIn | tagRead | tagWrite
  | tagMark | tagCopy =>
    exact shaped_lane rfl rfl
  | br | brp | bru | call | ret | brx | fend | fspawn | yield | guard | memb | jarm | join | jget | cjoin | cleave | bar
  | pbarr | pbwait | fork | rdv | rnext | epush | epop | tspawn | tsig | ckpt | gld | gst | fencePour | fenceDev | rcopy
  | rpat | put | wwait | shld | shst | shset | shget | mldw | mmul | mmulResume | mdrain | mzero | trap | hret | get | set
  | bkpt | nop | halt | gadd | gsub | gmul | gand | gor | gxor | gshl | gshr | gsar | gaddi | gcmps | gcmpz | gadd64 =>
    exact shaped_group rfl rfl
  | xchb | stp => exact shaped_onWeave (fun _ => rfl) rfl
  | mspill d a => exact shaped_group (exec_mspill_elsewhere elsewhere d a) rfl
  | mfill d a => exact shaped_group (exec_mfill_elsewhere elsewhere d a) rfl
  | cldy | csty | cldc | cmovc | caddc | csubc | cmulc | cbnz | cjmp | cfma | cmul | cadd | csub | cmax | cmin | crsq | csqrt
  | csplat | ccvt | cpair | cepop | ctsig | chalt | cfence =>
    exact Bool.noConfusion greoskane
  | _ => exact Bool.noConfusion encoded

/-! ## The fates of an engine's word (09 R187, R199) -/

section Engine

variable {e : Nat} {x : Engine} {fib : State → Ctx → LaneIn → State} {eng : State → Nat → EngIn → State}
  (turn : s.turn = .engine e) (engine : s.engine? e = some x) (pour : s.pour? x.pour = some p) (running : x.running = true)
include turn engine pour running

theorem groupOp_engine_illegal (illegal : h.bad = true ∨ h.nw = 1#1) : s.groupOp h fib eng = .next (s.trapEngine e cIllegal) := by
  have bad : (h.bad || decide (h.nw = 1#1)) = true := by simpa using illegal
  simp [State.groupOp, State.groupEngine, turn, engine, pour, running, bad]

variable (legal : ¬(h.bad = true ∨ h.nw = 1#1))
include legal

theorem groupOp_engine_cannot (cannot : h.mayRun x.kind = false) :
    s.groupOp h fib eng = .next (s.trapEngine e (if h.only then cEngineOnly else cIllegal)) := by
  have good : (h.bad || decide (h.nw = 1#1)) = false := by simpa using legal
  simp only [State.groupOp, State.groupEngine, turn, engine, pour, running, good, Bool.not_true, Bool.false_eq_true, if_false]
  exact congrArg Host.Outcome.next (if_pos (congrArg Bool.not cannot))

theorem groupOp_engine_operand (may : h.mayRun x.kind = true) (operand : h.EngineIllegal x.kind.regs) :
    s.groupOp h fib eng = .next (s.trapEngine e cOperand) := by
  have good : (h.bad || decide (h.nw = 1#1)) = false := by simpa using legal
  simp only [State.groupOp, State.groupEngine, turn, engine, pour, running, good, engBad_iff.mpr operand, Bool.not_true,
    Bool.false_eq_true, if_false, if_true]
  exact congrArg Host.Outcome.next (if_neg (Bool.eq_false_iff.mp (congrArg Bool.not may)))

end Engine

end

section

open Sys2Proof.Machine Sys2Proof.Laws

/-- Settles O29: every word has a shape, which decides its fate; and the trap that a handler takes is `entered`, traced, then a
yield point. -/
theorem takingATrapEntersTheHandler : Obligations.TakingATrapEntersTheHandler := by
  unfold Obligations.TakingATrapEntersTheHandler
  refine ⟨fun i s encoded greoskane elsewhere => shaped_of_encoded encoded greoskane elsewhere, ?weave, ?engine, ?enters⟩
  case weave =>
    intro i s c h group turn ctx active word runs raises shown illegal operand lost
    subst word
    have fated {info : TrapInfo} (fate : c.fate h group = some info) := exec_fate turn ctx active runs fate
    refine ⟨fun bad => fated (fate_illegal bad), fun legal only => fated (fate_engineOnly legal only),
      fun legal notOnly bad => fated (fate_operand legal notOnly bad), fun legal notOnly fit missing => ?_⟩
    have lostA := @srcLost_iff c.v.latches h.a
    have lostB := @srcLost_iff c.v.latches h.b
    refine ⟨if srcLost c.v.latches h.a then 0#64 else 1#64, (c.latchTrap h group).tags, fated (fate_latch legal notOnly fit missing),
      fun a => if_pos (lostA.mpr a), fun a => if_neg (lostA.not.mpr a), ?lanes, fun t listed => ?tags⟩
    case lanes => exact List.map_map
    case tags =>
      obtain ⟨e, -, rfl⟩ := List.mem_map.mp listed
      refine ⟨fun a => ?_, fun b single => ?_⟩
      · rw [lostA.mpr a]
        exact tagsBut_lostA ..
      · rw [lostB.mpr b]
        exact tagsBut_lostB _ _ single
  case engine =>
    intro i s e v p h turn engine pour running
    refine ⟨fun ⟨acc, extra, body, runs⟩ => runs.trans (laneOp_engine turn), fun ⟨fib, eng, runs⟩ => ⟨fun bad => ?_,
      fun legal cannot => ?_, fun legal may operand => ?_⟩⟩
    · exact runs.trans (groupOp_engine_illegal turn engine pour running bad)
    · exact runs.trans (groupOp_engine_cannot turn engine pour running legal cannot)
    · exact runs.trans (groupOp_engine_operand turn engine pour running legal may operand)
  case enters =>
    intro s w v p hent i acts weave pour solo handler clean outside t
    have taken : t = (enteredTraced s w hent p i).yieldWeave w := trapWeave_entered weave pour solo handler clean outside
    obtain ⟨fibres, engines, pours, v', after, latches, guard, susp, -, member⟩ :=
      yieldWeave_yielded (enteredTraced_kept s w hent p i) (entered_weave weave)
    rw [← taken] at fibres engines pours after
    refine ⟨fun e taker f found => ?_, fun f apart => (fibre?_congr fibres f).trans (entered_other apart),
      ⟨v', after, guard, latches, member, fun e taker => ?_, fun n apart => ?_⟩, engines, pours, fun untraced => ?_⟩
    · rw [fibre?_congr fibres, entered_taker taker, found]
      rfl
    · rw [susp]
      exact (get?_suspend ..).trans (if_pos (List.mem_map.mpr ⟨e, taker, rfl⟩))
    · rw [susp]
      refine (get?_suspend ..).trans (if_neg fun inside => ?_)
      obtain ⟨e, taker, lane⟩ := List.mem_map.mp inside
      exact apart e taker lane
    · rw [taken, yieldWeave_mem, enteredTraced_untraced untraced]

/-- Settles O30: the outcomes of a trap in their order. -/
theorem secondTrapEndsTheRequest : Obligations.SecondTrapEndsTheRequest := by
  unfold Obligations.SecondTrapEndsTheRequest
  intro s w v p i acts weave pour solo
  rw [trapWeave_solo weave solo, enterTrap_eq weave pour]
  refine ⟨fun poison => if_pos poison, fun clean inside => ?_, fun clean unhandled => ?_⟩
  · rw [if_neg clean]
    exact if_pos (any_saved.mpr inside)
  · rw [if_neg clean, unhandled]
    exact ite_self _

end

end Sys2Proof.Proofs

namespace Sys2Proof.Proofs

/-!
PROOFS. Leaving the handler (13 R302, 02 R53), and the words TRAP and BKPT (13 R301, 09 R187, 22 R400).
-/

section

open Sys2Proof.Machine Sys2Proof.Laws

variable {s : State} {w pc : Nat} {v : Weave} {p : Pour} {c : Ctx} {window : Option Guard}

/-! ## Leaving the handler (13 R302) -/

/-- The moving fibres that are in the handler; of a serial mode the runner alone moves (02 R53). -/
def leavers (s : State) (w : Nat) : SMap Fibre := (s.movers w).filter fun e => e.2.saved.isSome

/-- Whether the last lane to leave is among them. -/
def lastLeaves (s : State) (w : Nat) (v : Weave) : Bool :=
  v.serial.isEmpty || !(s.members w).any fun e => e.2.saved.isSome && !(leavers s w).any fun o => o.1 == e.1

/-- The fibres that go on at the word of return: those that leave, and with the last of them those that the window excluded. -/
def goers (s : State) (w : Nat) (v : Weave) : SMap Fibre :=
  leavers s w ++ if lastLeaves s w v then (s.byLane w).filter fun e => e.2.status == .run && v.hexcl.getLsbD e.2.lane else []

/-- A fibre out of the handler. -/
def resumed (pc : Nat) (f : Fibre) : Fibre := { f with pc := pc, tagmode := f.saved.getD f.tagmode, saved := none }

/-- The weave out of the handler, under its window. -/
def released (s : State) (w : Nat) (window : Option Guard) (v : Weave) : Weave :=
  { v with
    guard := window, stall := none
    susp := if lastLeaves s w v then [] else v.susp.filter fun g => !(leavers s w).any fun o => o.2.lane == g.1
    hexcl := if lastLeaves s w v then 0#32 else v.hexcl }

/-- The word of return: that of tinfo1, or of a TRAP the word after it. -/
def returnPc (f : Fibre) : Nat :=
  if (f.tinfoAt 1).toNat / 2 ^ 27 = cTrap then (f.tinfoAt 1).toNat % 2 ^ 27 + 1 else (f.tinfoAt 1).toNat % 2 ^ 27

/-- The state out of the handler, before the yield point. -/
def outOfHandler (s : State) (w pc : Nat) (window : Option Guard) : State :=
  (s.leaveHandler w pc window).modWeave w fun v => { v with stall := none }

theorem leaveHandler_eq (weave : s.weave? w = some v) : s.leaveHandler w pc window =
    (s.modFibres ((goers s w v).map (·.1)) (resumed pc)).modWeave w fun u =>
      { u with
        guard := window, hexcl := if lastLeaves s w v then 0#32 else u.hexcl
        susp := if lastLeaves s w v then [] else u.susp.filter fun g => !(leavers s w).any fun o => o.2.lane == g.1 } := by
  unfold State.leaveHandler
  rw [weave]
  rfl

theorem outOfHandler_fibres (weave : s.weave? w = some v) :
    (outOfHandler s w pc window).fibres = (s.modFibres ((goers s w v).map (·.1)) (resumed pc)).fibres := by
  rw [outOfHandler, leaveHandler_eq weave]
  rfl

theorem outOfHandler_weave (weave : s.weave? w = some v) : (outOfHandler s w pc window).weave? w = some (released s w window v) := by
  have before (fs : List Nat) (g : Fibre → Fibre) : (s.modFibres fs g).weave? w = some v := weave
  rw [outOfHandler, leaveHandler_eq weave, modWeave_same, modWeave_same, before]
  rfl

theorem outOfHandler_rest (weave : s.weave? w = some v) : (outOfHandler s w pc window).mem = s.mem ∧
    (outOfHandler s w pc window).engines = s.engines ∧ (outOfHandler s w pc window).pours = s.pours := by
  rw [outOfHandler, leaveHandler_eq weave]
  exact ⟨rfl, rfl, rfl⟩

theorem hret_eq {l0 : Nat × Fibre} (weave : s.weave? w = some v) (lead : (s.actives w).head? = some l0) :
    s.hret w = (outOfHandler s w (returnPc l0.2) (SMap.get? v.susp l0.2.lane)).yieldWeave w := by
  unfold State.hret
  rw [lead, weave]
  rfl

theorem acts_of_ctxOf (ctx : s.ctxOf w = some c) : c.acts = s.actives w := by
  unfold State.ctxOf at ctx
  split at ctx
  · cases ctx
  · split at ctx
    · cases ctx
    · split at ctx <;> cases ctx
      rfl

theorem mem_leavers {e : Nat × Fibre} : e ∈ leavers s w ↔ e ∈ s.movers w ∧ e.2.saved ≠ none := by
  simp [leavers, Option.isSome_iff_ne_none]

theorem lastLeaves_iff : lastLeaves s w v = true ↔
    v.serial = [] ∨ ∀ e ∈ s.members w, e.2.saved ≠ none → ∃ o, (o ∈ s.movers w ∧ o.2.saved ≠ none) ∧ o.1 = e.1 := by
  simp only [lastLeaves, ← mem_leavers]
  simp [Option.isSome_iff_ne_none]

theorem mem_goers {e : Nat × Fibre} : e ∈ goers s w v ↔ (e ∈ s.movers w ∧ e.2.saved ≠ none) ∨
    (lastLeaves s w v = true ∧ e ∈ s.byLane w ∧ e.2.status = .run ∧ v.hexcl.getLsbD e.2.lane = true) := by
  rw [goers, List.mem_append, mem_leavers]
  cases lastLeaves s w v <;> simp

/-- What the weave keeps suspended: nothing once the last lane leaves, else the windows of the lanes that stay. -/
theorem released_last (all : lastLeaves s w v = true) :
    (released s w window v).susp = [] ∧ (released s w window v).hexcl = 0#32 :=
  ⟨if_pos all, if_pos all⟩

theorem released_before (others : ¬lastLeaves s w v = true) : (released s w window v).hexcl = v.hexcl ∧
    (released s w window v).susp = v.susp.filter fun g => !(s.movers w).any fun o => o.2.saved.isSome && o.2.lane == g.1 := by
  refine ⟨if_neg others, (if_neg others).trans ?_⟩
  simp only [leavers, List.any_filter]

/-! ## BKPT and an engine's TRAP (13 R301, 09 R187) -/

/-- A pour outside a pair trails none. -/
theorem isTrail_solo {pid : Nat} (solo : s.pairOf pid = none) : s.isTrail pid = false := by
  rw [State.isTrail, List.any_eq_false]
  intro e listed trails
  refine List.find?_eq_none.mp solo e listed ?_
  rw [trails, Bool.or_true]

theorem mayBreak_solo {pid : Nat} (solo : s.pairOf pid = none) (pour : s.pour? pid = some p) :
    s.mayBreak pid = (s.part p.part).active := by
  rw [State.mayBreak, pour, isTrail_solo solo]
  exact Bool.and_true _

/-- Whether a word that may stop its pour does. -/
theorem ite_breaks {may active : Bool} {on stop : State} (same : may = active) :
    (active = true → (if !may then on else stop) = stop) ∧ (active = false → (if !may then on else stop) = on) := by
  subst same
  cases may <;> simp

/-- A code of eight bits below an opcode. -/
theorem opcode_or (x : BitVec 24) (k : BitVec 8) : (x ++ k : Word) = (x.zeroExtend 32 <<< 8) ||| k.zeroExtend 32 := by
  rw [BitVec.append_def, BitVec.shiftLeftZeroExtend_eq, BitVec.setWidth'_eq]

/-- The words of TRAP and BKPT take no literal. -/
theorem decodeWord_bare {x : Word} (op : x.extractLsb' 25 7 = 108#7 ∨ x.extractLsb' 25 7 = 112#7) (l : Word) :
    decodeWord x l = decodeWord x 0#32 := by
  unfold decodeWord
  rcases op with op | op <;> rw [op] <;> rfl

theorem decodeWord_trap (k : BitVec 8) (l : Word) : decodeWord (0xD8000000#32 ||| k.zeroExtend 32) l = some (.trap k) := by
  have word : 0xD8000000#32 ||| k.zeroExtend 32 = (108#7 ++ 0#17 ++ k : Word) := (opcode_or (108#7 ++ 0#17) k).symm
  rw [word, decodeWord_bare (Or.inl (fields_7_17_8 ..).1)]
  exact decodeWord_of_encodeWord (i := .trap k) rfl rfl rfl

theorem decodeWord_bkpt (k : BitVec 8) (l : Word) : decodeWord (0xE0000000#32 ||| k.zeroExtend 32) l = some (.bkpt k) := by
  have word : 0xE0000000#32 ||| k.zeroExtend 32 = (112#7 ++ 0#17 ++ k : Word) := (opcode_or (112#7 ++ 0#17) k).symm
  rw [word, decodeWord_bare (Or.inr (fields_7_17_8 ..).1)]
  exact decodeWord_of_encodeWord (i := .bkpt k) rfl rfl rfl

/-- 09 R187: outside a pair a trap of an engine halts its program at the word, and its request ends by a purge. -/
theorem trapEngine_solo {e cause : Nat} {x : Engine} (engine : s.engine? e = some x) (solo : s.pairOf x.pour = none)
    (code : cause < 32) : s.trapEngine e cause = ((s.modCore x.core fun c =>
        if x.kind = .ladle then { c with lstatus := tinfo1Of cause x.pc } else { c with rstatus := tinfo1Of cause x.pc }).modEngine e
      fun y => { y with running := false, status := tinfo1Of cause x.pc, stall := none }).purgePour x.pour 2 := by
  have named : cause ≠ cPoison := Nat.ne_of_lt code
  rw [State.trapEngine, engine]
  dsimp only
  rw [solo]
  simp only [State.haltEngine, State.stopEngine, State.causeCode, engine, if_pos code, if_neg named]
  cases x.kind <;> rfl

end

section

open Sys2Proof.Machine Sys2Proof.Laws

/-- Settles O31: what goes on is `goers`, at the word of return. -/
theorem returnLeavesTheHandler : Obligations.ReturnLeavesTheHandler := by
  unfold Obligations.ReturnLeavesTheHandler
  intro s c l0 ready
  have weave := weave?_of_ctxOf ready.ctx
  have lead : (s.actives c.w).head? = some l0 := acts_of_ctxOf ready.ctx ▸ ready.lead
  refine ⟨s.hret c.w, ?runs, ?_⟩
  case runs =>
    rw [exec_hret, execHret, ready.turn]
    exact groupOp_bare rfl rfl ready
  rw [hret_eq weave lead]
  obtain ⟨fibres, engines, pours, v', after, latches, guard, susp, hexcl, -⟩ :=
    yieldWeave_yielded (Kept.refl _) (outOfHandler_weave (pc := returnPc l0.2) (window := SMap.get? c.v.susp l0.2.lane) weave)
  obtain ⟨mem, sameEngines, samePours⟩ :=
    outOfHandler_rest (pc := returnPc l0.2) (window := SMap.get? c.v.susp l0.2.lane) weave
  intro word pc leaves last goes
  have lastIff : lastLeaves s c.w c.v = true ↔ last := lastLeaves_iff
  have goesIff (e : Nat × Fibre) : e ∈ goers s c.w c.v ↔ goes e := mem_goers.trans (or_congr_right (and_congr_left' lastIff))
  have moves (f : Nat) := fibre?_congr (fibres.trans (outOfHandler_fibres weave)) f
  refine ⟨fun e going => (moves e.1).trans (modFibres_listed ((goesIff e).mpr going)),
    fun f apart => (moves f).trans (modFibres_unlisted fun e going => apart e ((goesIff e).mp going)),
    ⟨v', after, guard, latches, fun all => ?last, fun others => ?before⟩, (yieldWeave_mem ..).trans mem,
    engines.trans sameEngines, pours.trans samePours⟩
  case last => exact susp ▸ hexcl ▸ released_last (lastIff.mpr all)
  case before => exact hexcl ▸ susp ▸ released_before (lastIff.not.mpr others)

/-- Settles O28: TRAP is the trap itself, and BKPT asks whether the pour may break. -/
theorem trapAndBreakpointInstructions : Obligations.TrapAndBreakpointInstructions := by
  unfold Obligations.TrapAndBreakpointInstructions
  refine ⟨fun k l => ⟨decodeWord_trap k l, decodeWord_bkpt k l⟩, fun s c l0 k ready => ?trap, fun s c l0 k ready solo p pour => ?bkpt,
    fun s e v p k ready solo => ?engineTrap, fun s e v p k ready solo => ?engineBkpt⟩
  case trap => exact (exec_trap s).trans (groupOp_bare rfl rfl ready)
  case bkpt =>
    have runs := (exec_bkpt s).trans (groupOp_bare rfl rfl ready)
    obtain ⟨stops, passes⟩ := ite_breaks (mayBreak_solo solo pour)
    exact ⟨fun active => runs.trans (congrArg _ (stops active)), fun inactive => runs.trans (congrArg _ (passes inactive))⟩
  case engineTrap =>
    refine (exec_trap s).trans ((groupOp_eng _ _ ready).trans (congrArg Host.Outcome.next ?_))
    exact trapEngine_solo ready.eng solo (by decide)
  case engineBkpt =>
    have runs := (exec_bkpt s).trans (groupOp_eng _ _ ready)
    obtain ⟨stops, passes⟩ := ite_breaks (mayBreak_solo (s := s.afterEngine e 1) solo ready.pour)
    rw [← engRank_eq]
    exact ⟨fun active => runs.trans (congrArg _ (stops active)), fun inactive => runs.trans (congrArg _ (passes inactive))⟩

end

end Sys2Proof.Proofs

namespace Sys2Proof.Proofs

/-!
PROOFS. The control registers of a weave (09 R196, R197, 13 R303, 04 R94, R95): the words that GET supplies, and what SET writes.
-/

section

open Sys2Proof.Machine Sys2Proof.Laws

variable {s : State} {c : Ctx} {h : Form} {l0 : Nat × Fibre} {p : Pour}

/-- The registers of a fibre on a weave, by their codes (09 R196). -/
def controlWords (s : State) (p : Pour) (v : Weave) (f : Fibre) : List Word :=
  [f.fpmode, f.tagmode.zeroExtend 32, f.qtemp, f.qmode.zeroExtend 32, v.member, f.lk, s.cyc p.core, (s.core p.core).ufz,
    f.tinfoAt 0, f.tinfoAt 1, f.tinfoAt 2, f.tinfoAt 3, f.tinfoAt 4, f.tinfoAt 5, p.late, (s.core p.core).mirst, wsrefAt s.clk,
    BitVec.ofNat 32 f.foot.length]

theorem readCr_eq {r : Nat} (known : r ≤ 0x11) (v : Weave) (f : Fibre) :
    s.readCr p (some v) f r = (controlWords s p v f).getD r 0#32 := by
  interval_cases r <;> rfl

/-- A GET or SET that completes names a register that the table has. -/
theorem known_of_ready {i : Instr} {r : BitVec 8} {dst : Option (BitVec 8 × Nat)} {a : Option (SKind × BitVec 8)} {lit : Word}
    (ready : GroupReady s c { s.crForm i r.toNat with dst := dst, a := a, lit := lit } l0) : r.toNat ≤ 0x11 :=
  Nat.not_lt.mp (of_decide_eq_false (fate_none_bad ready.fate))

/-- 13 R303: GET supplies the register of each active lane. -/
theorem exec_get_ready {d r : BitVec 8} (ready : GroupReady s c { s.crForm (.get d r) r.toNat with dst := some (d, 1) } l0) :
    exec (.get d r) s = .next (c.finishIn { s.crForm (.get d r) r.toNat with dst := some (d, 1) } s ((s.actives c.w).map fun e =>
      (e.1, [{ val := (controlWords s c.p c.v e.2).getD r.toNat 0#32
               tag := suppliedTag e.2 ((e.2.regsAt d.toNat 1).getD 0 {}).tag }]))) := by
  refine (exec_get s).trans ((groupOp_bare rfl rfl ready).trans ?_)
  rw [weave?_of_ctxOf ready.ctx, supply_one]
  simp only [readCr_eq (known_of_ready ready)]
  rfl

/-- 06 R132, 07 R150, 09 R197: the registers that have reserved bits. -/
theorem setReserved_eq (r : BitVec 8) (v : Word) : setReserved r.toNat v =
    ((decide (r = 0x00#8) && decide (v.toNat ≥ 2 ^ 13)) || ((decide (r = 0x01#8) || decide (r = 0x03#8)) && decide (v.toNat ≥ 4))) := by
  have high : (v.toNat / 2 ^ 13 != 0) = decide (v.toNat ≥ 2 ^ 13) := by grind
  have two : (v.toNat / 4 != 0) = decide (v.toNat ≥ 4) := by grind
  have code (k : BitVec 8) : (r.toNat == k.toNat) = decide (r = k) := by
    rw [Bool.eq_iff_iff, beq_iff_eq, decide_eq_true_iff, BitVec.toNat_inj]
  unfold setReserved
  rw [high, two, Bool.or_assoc, ← Bool.and_or_distrib_right]
  exact congrArg₂ _ (congrArg (· && _) (code 0x00#8)) (congrArg (· && _) (congrArg₂ _ (code 0x01#8) (code 0x03#8)))

theorem setCr_eq (f : Fibre) (r : BitVec 8) (v : Word) : f.setCr r.toNat v =
    if r = 0x00#8 then { f with fpmode := v } else if r = 0x01#8 then { f with tagmode := v.extractLsb' 0 2 }
    else if r = 0x02#8 then { f with qtemp := v } else if r = 0x03#8 then { f with qmode := v.extractLsb' 0 2 }
    else if r = 0x05#8 then { f with lk := v } else f := by
  simp only [← BitVec.toNat_inj]
  unfold Fibre.setCr
  split <;> simp_all

end

section

open Sys2Proof.Machine Sys2Proof.Laws

/-- Settles O27: GET supplies the register that its code names, and SET writes it. -/
theorem controlRegistersReadAndWrite : Obligations.ControlRegistersReadAndWrite := by
  unfold Obligations.ControlRegistersReadAndWrite
  refine ⟨?get, ?set⟩
  case get =>
    intro s c l0 d r h core group past wsref reads ready
    have words (f : Fibre) : controlWords s c.p c.v f = reads f := by
      unfold controlWords
      rw [wsrefAt_eq]
      rfl
    refine (exec_get_ready ready).trans ?_
    simp only [words]
    rfl
  case set =>
    intro s c l0 a r l h u v reserved ready clean unreserved
    refine (exec_set s).trans ((groupOp_clean (read := LaneIn.a) ready clean).trans (congrArg Host.Outcome.next ?_))
    refine (if_neg (Bool.eq_false_iff.mp ((setReserved_eq r v).trans unreserved))).trans ?_
    have late : (r.toNat = 0x0E) = (r = 0x0E#8) := propext (BitVec.toNat_inj (y := 0x0E#8))
    simp only [setCr_eq, late]
    rfl

end

end Sys2Proof.Proofs

namespace Sys2Proof.Proofs

/-!
PROOFS. The matrix path (13 R279 to R295): clearing, spilling and filling tiles, the issue of its words, HALT (R304), and the events
that complete them, with those of the weight store (04 R94, 20 R350, 21 R367).
-/

section

open Sys2Proof.Machine Sys2Proof.Laws

variable {s : State} {e core : Nat} {v : Engine} {p : Pour} {h : Form} {mode : BitVec 2} {here : Tag}

/-! ## Tiles (13 R279) -/

theorem tile_modTile_same (s : State) (core n : Nat) (g : AccTile → AccTile) :
    ((s.modTile core n g).core core).tile n = g ((s.core core).tile n) := by
  rw [State.modTile, modCore_same]
  exact getD_putD_same ({} : AccTile) ..

theorem tile_modTile_other (s : State) (core : Nat) (g : AccTile → AccTile) {n k : Nat} (other : k ≠ n) :
    ((s.modTile core n g).core core).tile k = ((s.core core).tile k) := by
  rw [State.modTile, modCore_same]
  exact getD_putD_other ({} : AccTile) _ _ other

/-- A change of the `n` tiles from `d` on. -/
def modTiles (s : State) (core d n : Nat) (g : AccTile → AccTile) : State :=
  (List.range n).foldl (fun s i => s.modTile core (d + i) g) s

theorem modTiles_succ (s : State) (core d n : Nat) (g : AccTile → AccTile) :
    modTiles s core d (n + 1) g = (modTiles s core d n g).modTile core (d + n) g := by
  simp only [modTiles, List.range_succ, List.foldl_append, List.foldl_cons, List.foldl_nil]

theorem tile_modTiles (s : State) (core d n k : Nat) (g : AccTile → AccTile) : ((modTiles s core d n g).core core).tile k =
    if d ≤ k ∧ k < d + n then g ((s.core core).tile k) else (s.core core).tile k := by
  induction n with
  | zero => exact (if_neg (by omega)).symm
  | succ n ih =>
    rw [modTiles_succ]
    by_cases last : k = d + n
    · rw [last, tile_modTile_same, ← last, ih, if_neg (by omega), if_pos (by omega)]
    · rw [tile_modTile_other _ _ _ last, ih]
      exact if_congr (by omega) rfl rfl

/-! ## MZERO (13 R293) -/

/-- What an element becomes: +0 without poison, tagged by the mode. -/
def zeroed (mode : BitVec 2) (here : Tag) (r : Reg) : Reg := { tag := if mode = 0#2 then r.tag else here }

/-- A tile cleared, cell by cell. -/
def cleared (mode : BitVec 2) (here : Tag) (t : AccTile) : AccTile :=
  { t with
    dflt := zeroed mode here t.dflt, sticky := false
    cells := t.cells.foldr (fun c m => SMap.putD (zeroed mode here t.dflt) m c.1 (zeroed mode here c.2)) [] }

/-- Reading after every value of a map has been changed, its default too. -/
theorem getD_foldr_putD {α β : Type} [DecidableEq β] (g : α → β) (d : α) (m : SMap α) (k : Nat) :
    SMap.getD (m.foldr (fun c n => SMap.putD (g d) n c.1 (g c.2)) []) k (g d) = g (SMap.getD m k d) := by
  induction m with
  | nil => rfl
  | cons c m ih =>
    rw [List.foldr_cons]
    by_cases same : c.1 = k
    · rw [← same, getD_putD_same]
      simp [SMap.getD, SMap.get?]
    · rw [getD_putD_other _ _ _ (Ne.symm same), ih]
      simp [SMap.getD, SMap.get?, same]

theorem cleared_at (mode : BitVec 2) (here : Tag) (t : AccTile) (i j : Nat) :
    (cleared mode here t).at i j = zeroed mode here (t.at i j) :=
  getD_foldr_putD (zeroed mode here) t.dflt t.cells (128 * i + j)

/-- A matrix word that finds the path free. -/
theorem ite_pathFree {stalled go : State} (free : (s.core core).mat = none) : (if (s.core core).mat.isSome then stalled else go) = go :=
  if_neg (by rw [free]; exact Bool.noConfusion)

/-- A ready MZERO whose path is free. -/
theorem exec_mzero_ready {d l : BitVec 3} (ready : EngReady s e v p (ladleOnly { instr := .mzero d l }))
    (free : (s.core v.core).mat = none) : exec (.mzero d l) s = .next (if l.toNat < d.toNat then s.trapEngine e cOperand
      else (modTiles (s.ownTiles p.part v.core d.toNat (l.toNat - d.toNat + 1)) v.core d.toNat (l.toNat - d.toNat + 1)
        (cleared v.tagmode (p.here v.pc))).afterEngine e 1) :=
  (exec_mzero s).trans ((groupOp_eng _ _ ready).trans (congrArg Host.Outcome.next (ite_pathFree free)))

/-! ## The words of firmware (13 R294) -/

theorem firmwareOp_firmware {i : Instr} {a : BitVec 8} {body : Nat → Nat → Nat → Out} {part : Nat}
    (turn : s.turn = .firmware core part) : s.firmwareOp i a body = if s.imageAddr core a % 64 ≠ 0 then .fault (.badImage (s.imageAddr core a))
      else if dramBytes < s.imageAddr core a + 100480 then .fault (.noMemory (s.imageAddr core a))
      else body core part (s.imageAddr core a) := by
  rw [State.firmwareOp, turn]

/-! ## Issue to the matrix path (13 R280, R283, R284, R287 to R289) -/

theorem writeUnder_pairs (s : State) (part : Nat) (k : BitVec 6) (pa : Nat) (bs : List Byte) :
    (s.writeUnder part k pa bs).pairs = s.pairs := by
  unfold State.writeUnder State.writePhys
  split
  · split
    · exact touchPart_pairs ..
    · rfl
  · rfl

theorem spillTile_pairs (s : State) (core n : Nat) (tile : AccTile) : (s.spillTile core n tile).pairs = s.pairs := by
  unfold State.spillTile
  split
  · rfl
  · split
    · rfl
    · exact (writeUnder_pairs ..).trans (writeUnder_pairs ..)

theorem fillTile_pairs (s : State) (core n : Nat) (o : Nat × Nat) : (s.fillTile core n o).pairs = s.pairs := by
  unfold State.fillTile
  dsimp only
  split
  · rfl
  · exact touch_pairs ..

theorem ownTile_pairs (s : State) (part core n : Nat) : (s.ownTile part core n).pairs = s.pairs := by
  unfold State.ownTile
  dsimp only
  split
  · rfl
  · rw [fillTile_pairs, spillTile_pairs]

theorem ownTiles_pairs (s : State) (part core first count : Nat) : (s.ownTiles part core first count).pairs = s.pairs :=
  foldl_keeps State.pairs (fun t i => ownTile_pairs t part core (first + i)) _ s

/-- A ready matrix word that finds the path free and reads no poison. -/
theorem groupOp_path {fib : State → Ctx → LaneIn → State} {body : State → Nat → EngIn → State} (reads : EngIn → List Reg)
    (ready : EngReady s e v p h) (free : (s.core v.core).mat = none) (clean : poi (reads (engIn v p h)) = false) :
    (s.groupOp h fib fun s e x => if (s.core x.v.core).mat.isSome then s.stallEngine e .matrix
      else if poi (reads x) then consumeE s e else body s e x) = .next (body s e (engIn v p h)) :=
  (groupOp_eng _ _ ready).trans (congrArg Host.Outcome.next ((ite_pathFree free).trans (ite_clean clean)))

/-- MMUL and MMUL.RESUME, with whether they resume. -/
def mmulWords : List ((BitVec 3 → BitVec 8 → BitVec 8 → Word → Instr) × Bool) := [(.mmul, false), (.mmulResume, true)]

theorem exec_mmulWords {g} (listed : g ∈ mmulWords) (d : BitVec 3) (a b : BitVec 8) (l : Word) :
    exec (g.1 d a b l) s = s.mmulIssue (g.1 d a b l) d a b l g.2 := by
  simp only [mmulWords, List.mem_cons, List.not_mem_nil, or_false] at listed
  rcases listed with rfl | rfl
  · exact exec_mmul s
  · exact exec_mmulResume s

/-- Outside a pair a drain waits for no twin. -/
theorem pairDrain_solo {m : MatOp} (solo : s.pairOf m.pour = none) : s.pairDrain core m = s := by
  rw [State.pairDrain, solo]

end

section

open Sys2Proof.Machine Sys2Proof.Laws

/-- Settles O42: the tiles are cleared one by one, and each cell by its own tag. -/
theorem mzeroClearsTheTiles : Obligations.MzeroClearsTheTiles := by
  unfold Obligations.MzeroClearsTheTiles
  refine ⟨decodeWord_of_encodeWord (i := .mzero 0#3 3#3) rfl rfl rfl, rfl, fun s e v p d l ready free => ?_⟩
  rw [exec_mzero_ready ready free]
  refine ⟨fun below => congrArg _ (if_pos below), fun above => ?_⟩
  intro u
  refine ⟨_, congrArg _ (if_neg (Nat.not_lt.mpr above)), fun n => ?_⟩
  have tile := tile_modTiles u v.core d.toNat (l.toNat - d.toNat + 1) n (cleared v.tagmode (p.here v.pc))
  refine ⟨fun outside => tile.trans (if_neg (by omega)), fun low high => ?_⟩
  have clear := tile.trans (if_pos (by omega))
  refine ⟨(congrArg AccTile.sticky clear).trans rfl, fun i j => ?_⟩
  exact (congrArg (fun t => AccTile.at t i j) clear).trans (cleared_at ..)

/-- Settles O43: firmware moves the image; for any other the word's form is bad. -/
theorem tilesSpillAndFill : Obligations.TilesSpillAndFill := by
  unfold Obligations.TilesSpillAndFill
  refine ⟨?firmware, ?weave, ?engine⟩
  case firmware =>
    intro s core part d a turn pa
    have spill := (exec_mspill s (d := d) (a := a)).trans (firmwareOp_firmware turn)
    have fill := (exec_mfill s (d := d) (a := a)).trans (firmwareOp_firmware turn)
    refine ⟨fun off => ⟨spill.trans (if_pos off), fill.trans (if_pos off)⟩, fun aligned beyond => ?_, fun aligned within => ?_⟩
    · have even : ¬pa % 64 ≠ 0 := not_not.mpr aligned
      exact ⟨spill.trans ((if_neg even).trans (if_pos beyond)), fill.trans ((if_neg even).trans (if_pos beyond))⟩
    · have even : ¬pa % 64 ≠ 0 := not_not.mpr aligned
      have inside : ¬dramBytes < pa + 100480 := Nat.not_lt.mpr within
      exact ⟨spill.trans ((if_neg even).trans (if_neg inside)), fill.trans ((if_neg even).trans (if_neg inside))⟩
  case weave =>
    intro i word s c l0 turn ctx lead shown
    have active : c.acts ≠ [] := fun idle => by rw [idle] at lead; cases lead
    have elsewhere : ∀ core part, s.turn ≠ .firmware core part := by simp [turn]
    obtain ⟨d, a, rfl | rfl⟩ := word
    · exact (exec_mspill_elsewhere elsewhere d a).trans (groupOp_fate turn ctx active (fate_illegal (Or.inl rfl)))
    · exact (exec_mfill_elsewhere elsewhere d a).trans (groupOp_fate turn ctx active (fate_illegal (Or.inl rfl)))
  case engine =>
    intro i word s e v p turn engine pour running
    have elsewhere : ∀ core part, s.turn ≠ .firmware core part := by simp [turn]
    obtain ⟨d, a, rfl | rfl⟩ := word
    · exact (exec_mspill_elsewhere elsewhere d a).trans (groupOp_engine_illegal turn engine pour running (Or.inl rfl))
    · exact (exec_mfill_elsewhere elsewhere d a).trans (groupOp_engine_illegal turn engine pour running (Or.inl rfl))

/-- Settles O41: where the path is free and nothing is poisoned, a fault or the send is left; HALT leaves no meeting behind. -/
theorem matrixInstructionsIssue : Obligations.MatrixInstructionsIssue := by
  unfold Obligations.MatrixInstructionsIssue
  refine ⟨?mldw, ?mmul, ?mdrain, ?halt⟩
  case mldw =>
    intro s e v p a b l h x ready free clean
    have runs := (exec_mldw s).trans (groupOp_path (fun x => x.a ++ x.b) ready free clean)
    refine ⟨fun k fault => runs.trans ?_, fun good => runs.trans ?_⟩
    · simp only [x, engIn] at fault ⊢
      rw [fault]
    · simp only [x, engIn] at good ⊢
      rw [good]
  case mmul =>
    intro g listed s e v p d a b l h x m key r bar ready free clean
    have runs := (exec_mmulWords listed d a b l).trans (groupOp_path (fun x => x.a ++ x.b) ready free clean)
    refine ⟨fun k fault => runs.trans ?_, fun w tile good held => runs.trans ?_⟩
    · simp only [x, m, engIn] at fault ⊢
      rw [fault]
    · have goes : ¬(g.2 && (!bar.err || decide (3 < bar.pend))) = true := by grind
      simp only [x, m, engIn] at good ⊢
      rw [good, tile]
      exact congrArg Host.Outcome.next (if_neg goes)
  case mdrain =>
    intro s e v p d a key ed h x bs b u blank fs t ready free clean place good solo
    have runs := (exec_mdrain s).trans (groupOp_path EngIn.a ready free clean)
    refine runs.trans ?_
    simp only [x, engIn] at place ⊢
    rw [place]
    refine congrArg Host.Outcome.next ((if_neg (Bool.eq_false_iff.mp good)).trans ?_)
    have pended : t.pairs = u.pairs := by
      simp only [t]
      split <;> rfl
    have same : t.pairs = s.pairs := pended.trans ((ownTiles_pairs ..).trans (touch_pairs ..))
    have sent (m : MatOp) (here : m.pour = v.pour) : (t.sendMat v.core e h.len m).pairDrain v.core m = t.sendMat v.core e h.len m :=
      pairDrain_solo ((pairOf_of_pairs (t := t.sendMat v.core e h.len m) same m.pour).trans (here ▸ solo))
    exact (congrArg (fun z => if b.dkind = 1 then z else _) (sent _ rfl)).trans (ite_self _)
  case halt =>
    intro s e v p ready free alone t
    refine (exec_halt s).trans ((groupOp_eng _ _ ready).trans (congrArg Host.Outcome.next ?_))
    have idle : ¬(v.kind == .ladle && (s.core v.core).mat.isSome) = true := by
      simpa using free
    refine (if_neg idle).trans ?_
    dsimp only [engIn]
    rw [alone]

/-- Settles O48: each completion on what its instruction or its copy has come to. -/
theorem matrixAndStoreCompletions : Obligations.MatrixAndStoreCompletions := by
  unfold Obligations.MatrixAndStoreCompletions
  refine ⟨fun s core m p => ⟨fun o ready scratch => ?mldw, fun t ready done => ?done, fun t why k ready stop => ?stop,
      fun ready alone paged => ?drain⟩,
    fun s g => exec_refreshWindowOpen s, fun s g closes => ?close, fun s core copying => ?mirror,
    fun s part v asked idle => ?copy, fun s part running walks => ?copied⟩
  case mldw =>
    rw [exec_mldwCompletion, execMldwCompletion, ready]
    dsimp only
    rw [scratch]
  case done =>
    rw [exec_mmulCompletion, execMmulCompletion, ready]
    dsimp only
    rw [done]
  case stop =>
    intro bar fail
    have complete := exec_mmulCompletion s (core := core)
    have error := exec_mmulErrorCompletion s (core := core)
    rw [execMmulCompletion, ready] at complete
    rw [execMmulErrorCompletion, ready] at error
    dsimp only at complete error
    rw [stop] at complete error
    refine ⟨fun code hit => ?_, fun va hit fresh => ?_, fun va f hit known => ?_, fun hit => ?_⟩
    · rw [error, hit]
    · rw [error, hit]
      dsimp only
      rw [fresh]
    · rw [complete, hit]
      dsimp only
      rw [known]
    · rw [complete, hit]
  case drain =>
    intro d u
    have complete := exec_mdrainCompletion s (core := core)
    have error := exec_mdrainErrorCompletion s (core := core)
    rw [execMdrainCompletion, ready] at complete
    rw [execMdrainErrorCompletion, ready] at error
    have free : ¬m.held = true := Bool.eq_false_iff.mp alone
    refine ⟨fun ok => complete.trans ((if_neg free).trans ?_), fun bad => error.trans ((if_neg free).trans (if_neg ?_))⟩
    · dsimp only
      rw [paged]
      exact if_neg (not_not.mpr ok)
    · simp [paged, bad, d]
  case close => exact ite_self _
  case mirror =>
    rw [exec_mirrorCopyDone, execMirrorCopyDone]
    exact if_pos copying
  case copy =>
    intro p dst len
    have go : ¬(!v.getLsbD 0 || (s.part part).wsst = 1) = true := by simp [asked, idle]
    have runs := (exec_weightStoreCopy s (part := part) (v := v)).trans (if_neg go)
    refine ⟨fun placed => runs.trans (if_pos placed), fun idle bad => runs.trans ((if_neg ?_).trans (if_pos bad)),
      fun idle a b c d => runs.trans ((if_neg ?_).trans (if_neg ?_))⟩
    · exact Bool.eq_false_iff.mp idle
    · exact Bool.eq_false_iff.mp idle
    · show ¬(dst % 64 ≠ 0 ∨ len % 64 ≠ 0 ∨ len = 0 ∨ 100663296 < dst + len)
      omega
  case copied =>
    intro j r
    have go : ¬((s.part part).wsst ≠ 1 ∨ s.walkerHalted part = true) := by simp [running, walks]
    exact (exec_weightStoreCopyDone s (part := part)).trans (if_neg go)

end

end Sys2Proof.Proofs

namespace Sys2Proof.Proofs

/-!
PROOFS. The words of a Crucible instance: its scalars, edges, signals, fences and end (14 R309, R310, R314 to R316), and its rows (14 R311
to R313).
-/

section

open Sys2Proof.Machine Sys2Proof.Laws

variable {s t : State} {k cause : Nat} {c : Crucible}

/-! ## Fates (14 R309) -/

/-- A fault with a code shows it with the word, and purges the task's requests. -/
theorem cruHalt_code (inst : s.crucible? k = some c) (code : cause < 32) : s.cruHalt k cause =
    (s.modCore c.chan fun q => { q with cstatus := tinfo1Of cause c.pc }).purge c.part (State.cruTag s c) 2 := by
  have named : cause ≠ cPoison := Nat.ne_of_lt code
  rw [State.cruHalt, inst]
  dsimp only
  rw [if_neg named, State.causeCode, if_pos code]
  rfl

/-- Consumed poison has no code: what it shows is the next free value (log 77), and the purge's cause is 0 (log 54). -/
theorem cruHalt_poison (inst : s.crucible? k = some c) : s.cruHalt k cPoison =
    (({ s with free := s.free + 1 } : State).modCore c.chan fun q =>
      { q with cstatus := tinfo1Of ((Config.freeWord s.free).toNat % 32) c.pc }).purge c.part (State.cruTag s c) 0 := by
  rw [State.cruHalt, inst]
  rfl

/-! ## Scalars (14 R310) -/

/-- A scalar word consumes no poison: it passes the poison on. -/
theorem cruScalar_ready (ready : CruReady s k c []) (d : BitVec 5) (reads : Crucible → List CReg) (f : Crucible → BitVec 64) :
    s.cruScalar d reads f = .next (s.cruNext k fun q => q.setC d { val := f c, poison := (reads c).any (·.poison) }) :=
  cruOp_ready _ ready rfl rfl

/-- A scalar word of one operand. -/
theorem cruScalar_unary (ready : CruReady s k c []) (d a : BitVec 5) (f : Crucible → BitVec 64) :
    s.cruScalar d (fun c => [c.cr a]) f = .next (s.cruNext k fun q => q.setC d { val := f c, poison := (c.cr a).poison }) := by
  simp only [cruScalar_ready ready, List.any_cons, List.any_nil, Bool.or_false]

/-- A scalar word of two operands. -/
theorem cruScalar_binary (ready : CruReady s k c []) (d a b : BitVec 5) (f : Crucible → BitVec 64) :
    s.cruScalar d (fun c => [c.cr a, c.cr b]) f =
      .next (s.cruNext k fun q => q.setC d { val := f c, poison := (c.cr a).poison || (c.cr b).poison }) := by
  simp only [cruScalar_ready ready, List.any_cons, List.any_nil, Bool.or_false]

/-! ## Edges (14 R314) -/

/-- The half of a popped entry that goes to register `i` of the pair, poisoned where its granule was. -/
def entryHalf (ws : List Reg) (i : Nat) : CReg :=
  { val := (ws.getD (2 * i + 1) {}).val ++ (ws.getD (2 * i) {}).val, poison := (ws.getD (2 * i) {}).poison }

/-- A pop that finds an entry: on a host frame it is an access violation, and else the entry is the instance's. -/
theorem execCepop_taken {d a : BitVec 5} {u : State} {ws : List Reg} (ready : CruReady s k c [c.cr a]) (even : d.getLsbD 0 = false)
    (taken : s.edgeTake c.asPour (c.cr a).val = .done u ws) :
    let key := s.edgeKey c.part (c.cr a).val
    execCepop d a s = .next (if s.popsHost c.part (c.cr a).val then s.cruHalt k cAccess
      else (u.setSync key []).cruNext k fun q => { (q.setC d (entryHalf ws 0)).setC (d + 1#5) (entryHalf ws 1) with
        clock := joinClock q.clock (u.syncOf key), region := q.region + 1 }) := by
  refine (cruOp_ready (reads := fun c => [c.cr a]) _ ready rfl even).trans ?_
  dsimp only
  rw [taken]
  rfl

/-- Settles O44: a scalar word writes what it computes, an access runs at its place, and a fate halts the instance. -/
theorem crucibleScalarsEdgesAndEnd : Obligations.CrucibleScalarsEdgesAndEnd := by
  unfold Obligations.CrucibleScalarsEdgesAndEnd
  refine fun s k c =>
    ⟨fun ready => ⟨fun d a u => ?cmovc, fun d a b x => ?caddc, fun d a b => ?csubc, fun d a b => ?cmulc, fun o => ?cjmp⟩,
    fun a o ready => ?cbnz, fun d a i pl ready => ?cldc, ?poisoned, fun d a ready even taken host => ?popHost,
    fun d a u ws ready even taken device => ?cepop, fun a b ready => ?ctsig, fun ready => ?cfence, fun ready => ?chalt⟩
  case cmovc =>
    rw [exec_cmovc, execCmovc, cruScalar_unary ready, BitVec.shiftLeft_eq_mul_twoPow]
    rfl
  case caddc => exact (exec_caddc s).trans (cruScalar_binary ready ..)
  case csubc => exact (exec_csubc s).trans (cruScalar_binary ready ..)
  case cmulc => exact (exec_cmulc s).trans (cruScalar_binary ready ..)
  case cjmp => exact (exec_cjmp s).trans (cruOp_ready _ ready rfl rfl)
  case cbnz => exact (exec_cbnz s).trans (cruOp_ready (reads := fun c => [c.cr a]) _ ready rfl rfl)
  case cldc =>
    intro as reach t
    have scaled : i.signExtend 64 <<< 3 = i.signExtend 64 * 8#64 := BitVec.shiftLeft_eq_mul_twoPow ..
    rw [exec_cldc, execCldc, cruOp_ready (reads := fun c => [c.cr a]) _ ready rfl rfl, scaled, cruAccess_reach _ reach]
  case poisoned =>
    intro i word turn inst
    rw [← cruHalt_poison inst]
    rcases word with ⟨d, a, x, rfl, poison⟩ | ⟨a, o, rfl, poison⟩
    · exact (exec_cldc s).trans (cruOp_poisoned _ turn inst rfl rfl (by simp [poison]))
    · exact (exec_cbnz s).trans (cruOp_poisoned _ turn inst rfl rfl (by simp [poison]))
  case popHost =>
    obtain ⟨u, ws, taken⟩ := taken
    rw [exec_cepop, execCepop_taken ready even taken, if_pos host, cruHalt_code ready.inst (by decide)]
  case cepop =>
    intro key word
    rw [exec_cepop, execCepop_taken ready even taken, if_neg (Bool.eq_false_iff.mp device)]
    rfl
  case ctsig => exact (exec_ctsig s).trans (cruOp_ready (reads := fun c => [c.cr a, c.cr b]) _ ready rfl rfl)
  case cfence => exact (exec_cfence s).trans (cruOp_ready _ ready rfl rfl)
  case chalt =>
    intro u v t task
    refine (exec_chalt s).trans ((cruOp_ready _ ready rfl rfl).trans (congrArg Host.Outcome.next ?_))
    simp only [v, u] at task ⊢
    rw [task]

/-! ## Rows (14 R311, R312) -/

/-- A field below 16 names a row register (14 R306). -/
theorem yBad_eq_false {n : BitVec 5} (row : n.toNat < 16) : yBad n = false := Nat.testBit_lt_two_pow row

/-- An element-wise word of good fields writes the row. -/
theorem cruRow_ready {d : BitVec 5} {srcs : List (BitVec 5)} (ready : CruReady s k c []) (dst : d.toNat < 16)
    (rows : ∀ n ∈ srcs, n.toNat < 16) (f : List Nat → Nat) : s.cruRow false d srcs f = .next (s.cruNext k fun q => q.setY d fun i =>
      let es := srcs.map fun n => c.ye n i
      { val := BitVec.ofNat 32 (f (es.map fun e => e.val.toNat)), poison := es.any (·.poison) }) := by
  have named : srcs.any yBad = false := List.any_eq_false.mpr fun n m => Bool.eq_false_iff.mp (yBad_eq_false (rows n m))
  exact cruOp_ready _ ready rfl (by simp [named, yBad_eq_false dst])

theorem cruRow_unary {d a : BitVec 5} (ready : CruReady s k c []) (dst : d.toNat < 16) (ra : a.toNat < 16) (f : List Nat → Nat) :
    s.cruRow false d [a] f = .next (s.cruNext k fun q => q.setY d fun i =>
      { val := BitVec.ofNat 32 (f [(c.ye a i).val.toNat]), poison := (c.ye a i).poison }) := by
  rw [cruRow_ready ready dst (by simpa using ra)]
  simp only [List.map_cons, List.map_nil, List.any_cons, List.any_nil, Bool.or_false]

theorem cruRow_binary {d a b : BitVec 5} (ready : CruReady s k c []) (dst : d.toNat < 16) (ra : a.toNat < 16) (rb : b.toNat < 16)
    (f : Nat → Nat → FRes) : s.cruRow false d [a, b] (two f) = .next (s.cruNext k fun q => q.setY d fun i =>
      { val := BitVec.ofNat 32 (f (c.ye a i).val.toNat (c.ye b i).val.toNat).1, poison := (c.ye a i).poison || (c.ye b i).poison }) := by
  rw [cruRow_ready ready dst (by simp [ra, rb])]
  simp only [List.map_cons, List.map_nil, List.any_cons, List.any_nil, Bool.or_false]
  rfl

theorem cruRow_ternary {d a b e : BitVec 5} (ready : CruReady s k c []) (dst : d.toNat < 16) (ra : a.toNat < 16) (rb : b.toNat < 16)
    (re : e.toNat < 16) (f : List Nat → Nat) : s.cruRow false d [a, b, e] f = .next (s.cruNext k fun q => q.setY d fun i =>
      { val := BitVec.ofNat 32 (f [(c.ye a i).val.toNat, (c.ye b i).val.toNat, (c.ye e i).val.toNat])
        poison := (c.ye a i).poison || (c.ye b i).poison || (c.ye e i).poison }) := by
  rw [cruRow_ready ready dst (by simp [ra, rb, re])]
  simp only [List.map_cons, List.map_nil, List.any_cons, List.any_nil, Bool.or_false, Bool.or_assoc]

/-- A row's format and its scales are legal: the format is one of 14 R311, a scaled one where scales are asked for, and the scales'
field is zero where none are. -/
theorem rowWord_legal {f : Nat} {sv : BitVec 1} {b : BitVec 5} (format : f ≤ 6) (scales : sv = 1#1 → scaled f = true)
    (bare : sv = 0#1 → b = 0#5) : (!rowFmt f || (sv == 1#1 && !scaled f) || (!(sv == 1#1) && b != 0#5)) = false := by
  have fmt : rowFmt f = true := decide_eq_true format
  rcases BitVec.eq_zero_or_eq_one sv with rfl | rfl
  · simp [fmt, bare rfl]
  · simp [fmt, scales rfl]

/-- A conversion's fields are legal: a narrow format of rows, one of the five modes, and a second row for the dithered mode alone. -/
theorem convWord_legal {f m : Nat} {b : BitVec 5} (format : f ≤ 6) (narrow : f ≠ fFP32) (mode : m ≤ 4) (bare : m ≠ 4 → b = 0#5) :
    (!rowFmt f || f == fFP32 || decide (4 < m) || (!(m == mDITHER) && b != 0#5)) = false := by
  have fmt : rowFmt f = true := decide_eq_true format
  have field : (!(m == mDITHER) && b != 0#5) = false := by
    by_cases dithered : m = 4
    · simp [dithered, mDITHER]
    · simp [bare dithered]
  simp [fmt, narrow, Nat.not_lt.mpr mode, field]

/-! ## The paired store (14 R313) -/

/-- Transposed elements that all lead to places are written in order, and the word is done. -/
theorem cruScatter_written {b d : BitVec 5} {fm : Nat} {cs : List Conv} {n i : Nat} (written : s.cruWritten c b d fm cs n i = some t) :
    s.cruScatter k c b d fm cs n i = t.cruNext k id := by
  induction n generalizing s i with
  | zero =>
    obtain rfl : s = t := Option.some.inj written
    rfl
  | succ n ih =>
    rw [State.cruWritten] at written
    rw [State.cruScatter]
    cases place : s.cruLoc c.part (c.transAt b i) true with
    | mem pl =>
      rw [place] at written
      exact ih written
    | _ =>
      rw [place] at written
      cases written

/-- Settles O45: with legal fields nothing stops a row's word, and its accesses run at their places. -/
theorem crucibleRowsCompute : Obligations.CrucibleRowsCompute := by
  unfold Obligations.CrucibleRowsCompute
  refine fun s k c => ⟨fun e listed d a b ready rd ra rb => ?binary, fun d a b ready rd ra rb => ?cfma,
    fun e listed d a ready rd ra => ?unary, fun d a ready rd => ?csplat,
    fun d a b m f ready rd ra rb format narrow mode bare => ?ccvt, fun d a b sv f pl rest ready rd format scales bare => ?cldy,
    fun d a b m sv f pl rest ready rd format mode scales bare => ?csty,
    fun d a b m f pl t ready rd pair format mode fresh aligned => ?cpair⟩
  case binary =>
    simp only [List.mem_cons, List.not_mem_nil, or_false] at listed
    rcases listed with rfl | rfl | rfl | rfl | rfl
    · exact (exec_cmul s).trans (cruRow_binary ready rd ra rb _)
    · exact (exec_cadd s).trans (cruRow_binary ready rd ra rb _)
    · exact (exec_csub s).trans (cruRow_binary ready rd ra rb _)
    · exact (exec_cmax s).trans (cruRow_binary ready rd ra rb _)
    · exact (exec_cmin s).trans (cruRow_binary ready rd ra rb _)
  case cfma => exact (exec_cfma s).trans (cruRow_ternary ready rd ra rb rd _)
  case unary =>
    simp only [List.mem_cons, List.not_mem_nil, or_false] at listed
    rcases listed with rfl | rfl
    · exact (exec_crsq s).trans (cruRow_unary ready rd ra _)
    · exact (exec_csqrt s).trans (cruRow_unary ready rd ra _)
  case csplat => exact (exec_csplat s).trans (cruOp_ready _ ready rfl (yBad_eq_false rd))
  case ccvt =>
    intro n r
    have dithers : (m.toNat == mDITHER) = decide (m.toNat = 4) := rfl
    have legal := convWord_legal format narrow mode bare
    have rows : (yBad d || yBad a || yBad b) = false := by simp [yBad_eq_false rd, yBad_eq_false ra, yBad_eq_false rb]
    rw [exec_ccvt, execCcvt]
    refine (cruOp_ready (reads := fun _ => []) _ ready legal rows).trans ?_
    simp only [n, r, dithers, decide_eq_true_eq]
  case cldy =>
    intro as reach t e v
    rw [exec_cldy, execCldy]
    refine (cruOp_ready (reads := fun c => if sv == 1#1 then [c.cr a, c.cr b] else [c.cr a]) _ ready
      (rowWord_legal format scales bare) (yBad_eq_false rd)).trans ?_
    exact congrArg Host.Outcome.next (cruAccess_reach _ reach)
  case csty =>
    intro as reach x t
    rw [exec_csty, execCsty]
    refine (cruOp_ready (reads := fun c => if sv == 1#1 then [c.cr a, c.cr b] else [c.cr a]) _ ready
      (Bool.or_eq_false_iff.mpr ⟨rowWord_legal format scales bare, by simpa using mode⟩) (yBad_eq_false rd)).trans ?_
    exact congrArg Host.Outcome.next (cruAccess_reach _ reach)
  case cpair =>
    intro as x reach written
    have legal : (decide (4 < f.toNat) || decide (3 < m.toNat)) = false := by simp [format, mode]
    have pairs : (yBad d || b == 31#5) = false := by simp [yBad_eq_false rd, pair]
    have plain : (c.cr a).val.toNat % rowBytes f.toNat = 0 := reach.aligned _ (List.mem_singleton_self _)
    have straight : ¬((c.cr a).val.toNat % rowBytes f.toNat ≠ 0 ∨
        (List.range 64).any (fun i => decide ((c.transAt b i).toNat % (slotBits f.toNat / 8) ≠ 0)) = true) := by
      simpa [plain] using aligned
    rw [exec_cpair, execCpair]
    refine (cruOp_ready (reads := fun c => [c.cr a, c.cr b, c.cr (b + 1#5)]) _ ready legal pairs).trans ?_
    refine congrArg Host.Outcome.next ((if_neg straight).trans ((if_neg (not_not.mpr fresh)).trans ((cruAccess_reach _ reach).trans ?_)))
    exact cruScatter_written written

end

end Sys2Proof.Proofs

namespace Sys2Proof.Proofs

/-!
PROOFS. What the host writes: the append port, a queue's configuration and signals (21 R363 to R366), bindings, ports and the reset
of a function (21 R362, R368).
-/

section

open Sys2Proof.Machine Sys2Proof.Laws

variable {s : State} {part k off vf n : Nat} {pf : Bool} {data : List Byte} {v : Word}

/-! ## The append port (03 R59, 21 R365) -/

/-- A change of one queue of a partition. -/
def modQueue (s : State) (part k : Nat) (g : Queue → Queue) : State :=
  s.modPart part fun p => { p with queues := p.queues.set k (g (p.queues.getD k {})) }

/-- The buffer of a function's port after a write. -/
def portBuffer (s : State) (part k off : Nat) (pf : Bool) (data : List Byte) : SMap Byte :=
  let q := (s.part part).queues.getD k {}
  putBytes (if pf then q.bufPf else q.bufVf) off 64 data

/-- The record that a port's buffer holds, where it is well formed (03 R57). -/
def portRecord (part : Nat) (buf : SMap Byte) : Option Task :=
  parseRecord part (leNat ((List.range 64).map fun i => SMap.getD buf i 0#8))

/-- A port whose function's buffer is empty. -/
def clearPort (s : State) (part k : Nat) (pf : Bool) : State :=
  modQueue s part k fun q => if pf then { q with bufPf := [] } else { q with bufVf := [] }

/-- A port that shows a function what its last record came to. -/
def showLast (s : State) (part k : Nat) (pf : Bool) (v : Word) : State :=
  modQueue s part k fun q => if pf then { q with lastPf := v } else { q with lastVf := v }

/-- The state that a committed record is entered in, and its handle, where it is well formed and its queue takes it. -/
def enterRecord (s : State) (k : Nat) (rec? : Option Task) : Option Word × State :=
  match rec? with
  | some t => s.enter { t with queue := k }
  | none => (none, s)

/-- What a commit makes of an entry: the port shows the handle, or 0xFFFFFFFF, which counts a rejection and tells the function. -/
def afterEntry (part k : Nat) (pf : Bool) (e : Option Word × State) : Out :=
  let u := showLast e.2 part k pf (e.1.getD 0xFFFFFFFF#32)
  if e.1.isSome then .next u
  else
    let r := modQueue u part k fun q => { q with rej := satAdd q.rej 1 }
    .next (match r.vfOf part with | some v => r.msix v 0 | none => r)

section Port

variable (below : k < 4) (reaches : pf = true ∨ (s.vfOf part).isSome = true)
include below reaches

/-- A write of the port of a function that reaches it is not dropped (21 R361). -/
theorem port_open : (decide (4 ≤ k) || !s.reaches part pf) = false := by
  have reached : s.reaches part pf = true := by
    rcases reaches with rfl | bound
    · rfl
    · simp [State.reaches, bound]
  simp [reached, below]

/-- Bytes that leave byte 63 uncovered stay in the buffer. -/
theorem execAppendPortCommit_fills (short : ¬(off ≤ 63 ∧ 63 < off + data.length)) : execAppendPortCommit part pf k off data s =
    .next (modQueue s part k fun q => if pf then { q with bufPf := portBuffer s part k off pf data }
      else { q with bufVf := portBuffer s part k off pf data }) := by
  have stays : (!(decide (off ≤ 63) && decide (63 < off + data.length))) = true := by
    rw [← Bool.decide_and, decide_eq_false short]
    rfl
  rw [execAppendPortCommit, port_open below reaches]
  exact if_pos stays

/-- Bytes that cover byte 63 commit the record: it is entered, or rejected. -/
theorem execAppendPortCommit_commits (low : off ≤ 63) (covers : 63 < off + data.length) : execAppendPortCommit part pf k off data s =
    afterEntry part k pf (enterRecord (clearPort s part k pf) k (portRecord part (portBuffer s part k off pf data))) := by
  have commits : (!(decide (off ≤ 63) && decide (63 < off + data.length))) = false := by
    rw [← Bool.decide_and, decide_eq_true ⟨low, covers⟩]
    rfl
  unfold execAppendPortCommit
  exact (if_neg (Bool.eq_false_iff.mp (port_open below reaches))).trans (if_neg (Bool.eq_false_iff.mp commits))

end Port

/-! ## Queues (21 R364) -/

/-- Emptying a ring sets its records adrift and leaves every other record. -/
theorem mem_emptyRing_tasks {e : Nat × Task} (mem : e ∈ (s.emptyRing part k).tasks) :
    ∃ t, (e.1, t) ∈ s.tasks ∧ e.2 = if t.part = part ∧ t.queue = k then { t with adrift := true } else t := by
  obtain ⟨x, old, rfl⟩ := List.mem_map.mp mem
  by_cases ring : x.2.part = part ∧ x.2.queue = k
  · exact ⟨x.2, by rwa [if_pos ring], by rw [if_pos ring, if_pos ring]⟩
  · exact ⟨x.2, by rwa [if_neg ring], by rw [if_neg ring, if_neg ring]⟩

section Config

variable {q : Queue} (below : k < 4) (queue : (s.part part).queues.getD k {} = q)
include below queue

/-- An enabled queue that holds no record is disabled. -/
theorem execQcfgWrite_disables (on : q.en = true) (off : v.getLsbD 31 = false) (empty : s.queueLoad part k = 0) :
    execQcfgWrite part k v s = .next (modQueue s part k fun _ => { q with en := false }) := by
  subst queue
  rw [execQcfgWrite, if_neg (Nat.not_le.mpr below)]
  dsimp only
  rw [if_pos on, if_neg (by simp only [off, empty]; decide)]
  rfl

/-- A disabled queue of a good base and capacity is enabled with an empty ring. -/
theorem execQcfgWrite_enables (off : q.en = false) (on : v.getLsbD 31 = true) (small : 8 ≤ v.toNat % 32) (large : v.toNat % 32 ≤ 20)
    (aligned : q.base.toNat % 64 = 0) (canonical : q.base.toNat < 2 ^ 57) : execQcfgWrite part k v s =
      .next ((modQueue s part k fun _ => { q with lcap := v.toNat % 32, en := true, gens := [], next := 0 }).emptyRing part k) := by
  subst queue
  have lcap : bits v.toNat 0 5 = v.toNat % 32 := by simp [bits]
  rw [execQcfgWrite, if_neg (Nat.not_le.mpr below)]
  dsimp only
  rw [if_neg (Bool.eq_false_iff.mp off), lcap, if_pos (by simp only [on, small, large, aligned, canonical]; decide)]
  rfl

end Config

/-! ## Bindings (21 R362, R368) -/

/-- Whether a binding may leave or take what `n` names: a partition that exists and is idle, or none. -/
def mayBind (s : State) (n : Nat) : Bool := !decide (32 ≤ n % 64) || (decide (n % 32 < Config.partitions) && s.idle (n % 32))

/-- Whether another function is bound to what `n` names. -/
def boundElsewhere (s : State) (vf n : Nat) : Bool :=
  decide (32 ≤ n % 64) && (List.range 24).any fun u => u != vf - 1 && (s.dev.bind.getD u 0#32).toNat % 64 == n

/-- The register of a binding holds `n` and its error bit `e`. -/
def setBind (s : State) (vf n e : Nat) : State :=
  s.modDev fun d => { d with bind := d.bind.set (vf - 1) (BitVec.ofNat 32 (n + e * 2 ^ 31)) }

theorem mayBind_iff : mayBind s (n % 64) = true ↔ (32 ≤ n % 64 → n % 64 - 32 < 24 ∧ s.idle (n % 64 - 32) = true) := by
  by_cases named : 32 ≤ n % 64
  · have part : n % 64 % 32 = n % 64 - 32 := by omega
    simp [mayBind, part, named, Config.partitions]
  · simp [mayBind, named]

theorem boundElsewhere_iff : boundElsewhere s vf (n % 64) = true ↔
    32 ≤ n % 64 ∧ ∃ u < 24, u ≠ vf - 1 ∧ (s.dev.bind.getD u 0#32).toNat % 64 = n % 64 := by
  simp [boundElsewhere]

/-- Bit 31 of a binding, its error bit. -/
theorem bits_top (w : Word) : bits w.toNat 31 1 = w.toNat / 2 ^ 31 :=
  Nat.mod_eq_of_lt (Nat.div_lt_of_lt_mul w.isLt)

/-- A write of an existing binding, by its three fates. -/
theorem execBindWrite_existing (first : 1 ≤ vf) (last : vf ≤ 24) {old new err : Nat}
    (holds : (s.dev.bind.getD (vf - 1) 0#32).toNat = old) (names : v.toNat % 64 = new)
    (keeps : (if v.getLsbD 31 then 0 else old / 2 ^ 31) = err) : execBindWrite vf v s =
    if new = old % 64 then .next (setBind s vf (old % 64) err)
    else if mayBind s (old % 64) && mayBind s new && !boundElsewhere s vf new then
      .next (setBind (if 32 ≤ new then s.newBuffers (new % 32) else s) vf new err)
    else .next (setBind s vf (old % 64) 1) := by
  subst holds names keeps
  have there : ¬(vf = 0 ∨ 24 < vf) := by omega
  have field : bits v.toNat 0 6 = v.toNat % 64 := by simp [bits]
  rw [execBindWrite, if_neg there]
  dsimp only
  simp only [bits_top, field, mayBind, boundElsewhere, setBind, Nat.mod_mod, decide_eq_true_eq]

/-! ## Ports -/

/-- An idle partition takes ports that no other one has. -/
theorem execPortsWrite_takes (below : part < 24) (idle : s.idle part = true)
    (apart : ∀ p < 24, p ≠ part → s.dev.ports.getD p 0#32 &&& v = 0#32) :
    execPortsWrite part v s = .next (s.modDev fun d => { d with ports := d.ports.set part v }) := by
  have unshared : ((List.range 24).any fun p => p != part && (s.dev.ports.getD p 0#32 &&& v) != 0#32) = false := by
    simpa using apart
  have here : ¬Config.partitions ≤ part := Nat.not_le.mpr below
  rw [execPortsWrite, unshared, if_neg (by simp [here, idle])]

/-! ## Function-level resets -/

/-- Bit 5 of a word as a function level reset reads it. -/
theorem getLsbD_five_iff (w : Word) : w.getLsbD 5 = true ↔ w.toNat / 32 % 2 = 1 := by
  rw [← BitVec.testBit_toNat, Nat.testBit_eq_decide_div_mod_eq, decide_eq_true_iff]

theorem execFunctionLevelReset_bound (first : 1 ≤ vf) (last : vf ≤ 24) (bound : (s.dev.bind.getD (vf - 1) 0#32).getLsbD 5 = true) :
    execFunctionLevelReset vf s =
      let part := (s.dev.bind.getD (vf - 1) 0#32).toNat % 32
      let tags := (s.tasks.filterMap fun e => if e.2.part = part then some e.2.rtag else none).eraseDups
      let t := tags.foldl (fun u r => (u.notePurge part r none).purgeTag part r) s
      .next (t.modPart part fun p => { p with queues := p.queues.map fun q => { q with en := false } }) := by
  have one := (getLsbD_five_iff _).mp bound
  rw [execFunctionLevelReset]
  dsimp only
  rw [if_neg (by omega)]

/-- Settles O49: a write to the port fills, enters or is rejected, and each other write does what its conditions let it do. -/
theorem hostQueuesBindingsAndResets : Obligations.HostQueuesBindingsAndResets := by
  unfold Obligations.HostQueuesBindingsAndResets
  refine ⟨fun s part k off pf data below reaches => ⟨fun short => execAppendPortCommit_fills below reaches short, fun low covers =>
      ⟨fun t hd v parsed entered => ?enters, fun w refused => ?rejects⟩⟩,
    fun s part k v below => ⟨fun on off empty => execQcfgWrite_disables below rfl on off empty,
      fun off on small large aligned canonical => execQcfgWrite_enables below rfl off on small large aligned canonical⟩,
    fun s part k e mem => mem_emptyRing_tasks mem, fun s part v => ?signal,
    fun s vf v first last => ⟨fun same => ?same, fun moves leaves takes free => ?binds, fun moves refused => ?refused⟩,
    fun s part v below idle apart => execPortsWrite_takes below idle apart,
    fun s vf first last bound => execFunctionLevelReset_bound first last bound⟩
  case enters =>
    have record : enterRecord _ k (portRecord part (portBuffer s part k off pf data)) = (some hd, v) :=
      (congrArg (enterRecord _ k) parsed).trans entered
    exact (execAppendPortCommit_commits below reaches low covers).trans (congrArg (afterEntry part k pf) record)
  case rejects =>
    have record : enterRecord (clearPort s part k pf) k (portRecord part (portBuffer s part k off pf data)) = (none, w) := by
      rcases refused with ⟨bad, rfl⟩ | ⟨t, parsed, full⟩
      · exact congrArg (enterRecord _ k) bad
      · exact (congrArg (enterRecord _ k) parsed).trans full
    exact (execAppendPortCommit_commits below reaches low covers).trans (congrArg (afterEntry part k pf) record)
  case signal =>
    have amount : (v >>> 32).truncate 32 = v.extractLsb' 32 32 := by
      ext i h
      simp [Nat.add_comm]
    rw [exec_hostSignal, execHostSignal, amount]
    rfl
  case same => exact (execBindWrite_existing first last rfl rfl rfl).trans ((if_pos same).trans (by rw [same]; rfl))
  case binds =>
    refine (execBindWrite_existing first last rfl rfl rfl).trans ((if_neg moves).trans (if_pos ?_))
    rw [mayBind_iff.mpr leaves, mayBind_iff.mpr takes, Bool.eq_false_iff.mpr (mt boundElsewhere_iff.mp free)]
    rfl
  case refused =>
    refine (execBindWrite_existing first last rfl rfl rfl).trans ((if_neg moves).trans (if_neg ?_))
    rcases refused with stays | full | taken
    · rw [Bool.eq_false_iff.mpr (mt mayBind_iff.mp stays)]
      exact Bool.false_ne_true
    · rw [Bool.eq_false_iff.mpr (mt mayBind_iff.mp full), Bool.and_false]
      exact Bool.false_ne_true
    · rw [boundElsewhere_iff.mpr taken, Bool.not_true, Bool.and_false]
      exact Bool.false_ne_true

end

end Sys2Proof.Proofs

namespace Sys2Proof.Proofs

/-!
PROOFS. The machine after reset (21 R379, R380), and what a firmware core that goes on leaves waiting no more (23 R406, log 29).
-/

section

open Sys2Proof.Machine Sys2Proof.Laws

variable {s : State} {part k : Nat}

/-! ## The machine after reset -/

/-- No party is there to have a place in the order of a cycle, or to do anything in its turn. -/
theorem step_reset_run (p : Party) (rest : List Turn) :
    step { State.reset with agenda := .run p :: rest } = .next { State.reset with agenda := rest } := by
  have unplaced : ({ State.reset with agenda := rest } : State).place (.run p) = none := by cases p <;> rfl
  have idle : ({ State.reset with agenda := rest } : State).turnStep (.run p) = .next { State.reset with agenda := rest } := by
    cases p <;> rfl
  rw [step_named rfl, cued_unplaced unplaced, idle, State.follow, lookAgain_unstalled rfl rfl rfl, logAll_unsampled rfl]
  rfl

/-- Settles O56: every list of the reset machine is empty, so that what is not listed reads as its default and no party has a turn. -/
theorem resetIsAStartInProgress : Obligations.ResetIsAStartInProgress := by
  unfold Obligations.ResetIsAStartInProgress
  exact ⟨rfl, rfl, rfl, rfl, rfl, rfl, rfl, rfl, rfl, rfl, rfl, fun _ => ⟨rfl, rfl⟩, fun _ => rfl, wf_reset, step_reset_run⟩

/-! ## A firmware core that goes on (23 R406) -/

/-- The machine once firmware core `k` is halted no more. -/
def unhalted (s : State) (k : Nat) : State := s.modDev fun d => { d with fwHalted := d.fwHalted.filter (· != k) }

/-- A firmware debug command that succeeded and returns no bytes. -/
def debugDone (s : State) : State := s.modDev fun d => { d with readout := { data := [], code := 0 } }

/-- What GO does: the walks that waited are made, then the slots and completions that waited are written (log 29), then the unit
votes. -/
theorem exec_firmwareDebugCommand_go (unlocked : s.dev.unlocked = true) : exec (.firmwareDebugCommand (.go k)) s =
    .next (debugDone (((List.range 24).foldl State.dispatchOn ((List.range 24).foldl State.walkOn (unhalted s k))).fireVote k)) := by
  have admitted : ¬(!s.dev.unlocked) = true := by simp [unlocked]
  rw [exec_firmwareDebugCommand, execFirmwareDebugCommand]
  exact if_neg admitted

/-- A partition without faults has no walk to make anew. -/
theorem walkOn_faultless (faultless : (s.part part).faults = []) : s.walkOn part = s := by
  rw [State.walkOn, faultless]
  exact ite_self s

/-- Where there is no record, none waits for its dispatcher. -/
theorem dispatchOn_taskless (taskless : s.tasks = []) : s.dispatchOn part = s := by
  simp only [State.dispatchOn, taskless, List.filter_nil, List.foldl_nil]

theorem fireVote_unarmed (unarmed : s.dev.injarm = false) : s.fireVote k = s := by
  simp [State.fireVote, unarmed]

/-- An unlocked device whose firmware core 1, of die 0's dispatcher, is halted, and a record of partition 0 that has ended since: its
slot is not free yet, as its completion waits for that unit. -/
def completionWaits : State :=
  { State.reset.modDev fun d => { d with starting := none, unlocked := true, fwHalted := [1] } with
    tasks := [(1, { codeTask with ending := some 0 })] }

theorem walkOn_completionWaits : (List.range 24).foldl State.walkOn (unhalted completionWaits 1) = unhalted completionWaits 1 :=
  List.foldl_fixed' (fun _ => walkOn_faultless rfl) _

/-- The dispatcher of partition 0 completes the record, and the others have none. -/
theorem dispatchOn_completionWaits :
    (List.range 24).foldl State.dispatchOn (unhalted completionWaits 1) = (unhalted completionWaits 1).dispatchOn 0 := by
  rw [List.range_eq_range', List.range'_succ, List.foldl_cons]
  exact List.foldl_fixed' (fun _ => dispatchOn_taskless rfl) _

/-- Refutes O52: GO also has the dispatchers of every partition write what waited for them, which its clause leaves out. Once core 1
goes on, the record of `completionWaits` completes and is gone, while the clause keeps it. -/
theorem not_startsFirmwareAndSensors : ¬ Obligations.StartsFirmwareAndSensors := by
  unfold Obligations.StartsFirmwareAndSensors
  rintro ⟨-, -, -, -, -, -, -, -, -, -, -, -, -, -, -, -, -, debug⟩
  have stated := (debug completionWaits 1 rfl).2
  rw [exec_firmwareDebugCommand_go rfl, walkOn_completionWaits, dispatchOn_completionWaits, fireVote_unarmed rfl] at stated
  have kept : (((List.range 24).foldl State.walkOn (unhalted completionWaits 1)).fireVote 1).tasks = completionWaits.tasks := by
    rw [walkOn_completionWaits, fireVote_unarmed rfl]
    rfl
  have gone : ((unhalted completionWaits 1).dispatchOn 0).tasks = [] := rfl
  have same : ((unhalted completionWaits 1).dispatchOn 0).tasks = completionWaits.tasks :=
    (congrArg State.tasks (Host.Outcome.next.inj stated)).trans kept
  exact List.cons_ne_nil _ _ (same.symm.trans gone)

end

end Sys2Proof.Proofs

namespace Sys2Proof.Proofs

/-!
PROOFS. A fresh run of a context (22 R393): its descriptor is read as any other memory is, and corrected in place (22 R398).
-/

section

open Sys2Proof.Machine Sys2Proof.Laws

variable {s : State} {part k n : Nat} {f : BitVec 64}

/-! ## Reads that correct (22 R398) -/

/-- A granule that the code corrects has no error bits afterwards. -/
theorem scrub_corrected {m : Memory} (listed : SMap.get? m.flips (granOf k) = some f)
    (verdict : (verdictOf (m.syndrome k)).1 = .corrected) :
    (m.scrub k).1.flips = SMap.putD 0#64 m.flips (granOf k) 0#64 := by
  unfold Memory.scrub
  rw [listed]
  dsimp only
  rw [verdict]
  exact setBytes_flips ..

/-- A read corrects the granules that it covers, one after another; what it counts lies outside memory. -/
theorem touch_mem (marked : s.mem.flips.isEmpty = false) : (s.touch k n).mem =
    (List.range n).foldl (fun m i => if i = 0 ∨ (k + i) % 8 = 0 then (m.scrub (k + i)).1 else m) s.mem := by
  unfold State.touch
  rw [if_neg (Bool.eq_false_iff.mp marked)]
  refine (List.foldl_hom State.mem fun t i => ?_).symm
  split
  · dsimp only
    split <;> rfl
  · rfl

/-- A read that begins in the only granule with errors, which the code corrects, leaves no errors. -/
theorem touch_corrects (sole : s.mem.flips = [(granOf k, f)]) (verdict : (verdictOf (s.mem.syndrome k)).1 = .corrected)
    (bytes : 0 < n) : (s.touch k n).mem.flips = [] := by
  obtain ⟨n, rfl⟩ := Nat.exists_eq_add_one.mpr bytes
  have listed : SMap.get? s.mem.flips (granOf k) = some f := by
    rw [sole]
    exact if_pos rfl
  have erased : SMap.putD 0#64 s.mem.flips (granOf k) 0#64 = [] := by
    rw [sole]
    simp [SMap.putD, SMap.erase]
  rw [touch_mem (by rw [sole]; rfl), List.range_eq_range', List.range'_succ, List.foldl_cons, if_pos (Or.inl rfl)]
  refine List.foldlRecOn (motive := fun m : Memory => m.flips = []) _ _ ((scrub_corrected listed verdict).trans erased) ?_
  intro m clean i _
  split
  · rw [scrub_of_flips_nil clean]
    exact clean
  · exact clean

/-! ## The descriptor (22 R393) -/

/-- A run that is taken leaves memory as the read of the descriptor leaves it. -/
theorem execContextRun_fresh_mem (up : s.up = true) (idle : (s.part part).ctx = .idle) (descriptor : (s.part part).ctxd.toNat = k)
    (own : ownDram part k 64 = true) : ∃ t, execContextRun part s = .next t ∧ t.mem = (s.touch (dramKey k) 64).mem := by
  subst descriptor
  unfold execContextRun
  dsimp only
  rw [if_neg (by simp [up, idle, own])]
  exact ⟨_, rfl, rfl⟩

/-- A device that is up, where partition 0 is idle, its descriptor lies at address 0, and a bit of the descriptor's first granule has
flipped. -/
def flippedDescriptor : State :=
  { State.reset.modDev fun d => { d with starting := none, startst := 2#32 } with
    mem := { State.reset.mem with flips := [(0, 1#64)] } }

/-- One flipped bit makes the syndrome of its column, so that the code corrects it. -/
theorem verdict_flippedDescriptor : verdictOf (flippedDescriptor.mem.syndrome 0) = (.corrected, some 0) := by decide

theorem touch_flippedDescriptor : (flippedDescriptor.touch (dramKey 0) 64).mem.flips = [] :=
  touch_corrects rfl (congrArg Prod.fst verdict_flippedDescriptor) (by decide)

theorem ownDram_zero : ownDram 0 0 64 = true := by decide

/-- Refutes O51: a run reads the descriptor through the error correction of memory, which its first clause leaves out. In
`flippedDescriptor` the clause keeps the flipped bit, while the machine corrects it. -/
theorem not_contextsAndTheVotedPlane : ¬ Obligations.ContextsAndTheVotedPlane := by
  unfold Obligations.ContextsAndTheVotedPlane
  rintro ⟨run, -⟩
  have stated := (run flippedDescriptor 0 rfl ownDram_zero).1 rfl
  obtain ⟨t, runs, mem⟩ := execContextRun_fresh_mem (s := flippedDescriptor) (part := 0) (k := 0) rfl rfl rfl ownDram_zero
  have corrected : t.mem.flips = [] := (congrArg Memory.flips mem).trans touch_flippedDescriptor
  have same := Host.Outcome.next.inj (runs.symm.trans stated)
  have kept : t.mem = flippedDescriptor.mem := (congrArg State.mem same).trans ((modPart_mem ..).trans (modPart_mem ..))
  exact List.cons_ne_nil _ _ ((congrArg Memory.flips kept).symm.trans corrected)

end

end Sys2Proof.Proofs

namespace Sys2Proof.Proofs

/-!
PROOFS. The address space and the registers (22 R388 to R392, 21 R363, R369): keys, windows, senders, invalidations, fault answers, plain
writes and pops.
-/

section

open Sys2Proof.Machine Sys2Proof.Laws

variable {s : State} {part k va : Nat}

/-! ## Fields of a written value -/

theorem bits_low (x n : Nat) : bits x 0 n = x % 2 ^ n := by
  simp [bits]

theorem bits_bit {n : Nat} (v : BitVec n) (k : Nat) : bits v.toNat k 1 = (v.getLsbD k).toNat := by
  rw [← BitVec.testBit_toNat, Nat.toNat_testBit, bits, Nat.pow_one]

/-- A field that is the upper part of what is kept of it. -/
theorem ofNat_bits (n x lo : Nat) : BitVec.ofNat n (bits x lo n) = BitVec.ofNat n (x / 2 ^ lo) := by
  simp [bits, ← BitVec.toNat_inj]

/-! ## Windows and senders (22 R390) -/

/-- The window that a write of WINREG opens. -/
def openedWindow (v : BitVec 256) : Window :=
  { w := v.getLsbD 10, base := BitVec.ofNat 64 (bits v.toNat 64 64), len := bits v.toNat 128 64 }

section Idle

variable (idle : s.idle part = true)
include idle

theorem execWinregWrite_closes {v : BitVec 256} (close : v.getLsbD 11 = false) :
    execWinregWrite part v s = .next (s.modPart part fun p => { p with wins := SMap.erase p.wins (v.toNat % 1024) }) := by
  have closed : bits v.toNat 11 1 = 0 := by rw [bits_bit, close]; rfl
  unfold execWinregWrite
  dsimp only
  rw [if_neg (by simp [idle]), if_pos closed, bits_low]
  rfl

theorem execWinregWrite_opens {v : BitVec 256} (opens : v.getLsbD 11 = true) (aligned : bits v.toNat 64 64 % 65536 = 0)
    (canonical : bits v.toNat 64 64 < 2 ^ 57) (whole : bits v.toNat 128 64 % 65536 = 0) (small : bits v.toNat 128 64 ≤ 2 ^ 36) :
    execWinregWrite part v s = .next ((s.modPart part fun p =>
      { p with wins := SMap.put p.wins (v.toNat % 1024) (openedWindow v) }).setSync (.window part (v.toNat % 1024)) []) := by
  have opened : bits v.toNat 11 1 = 1 := by rw [bits_bit, opens]; rfl
  have writes : decide (bits v.toNat 10 1 = 1) = v.getLsbD 10 := by
    rw [bits_bit]
    cases v.getLsbD 10 <;> rfl
  have good : ¬(bits v.toNat 64 64 % 65536 ≠ 0 ∨ 2 ^ 57 ≤ bits v.toNat 64 64 ∨ bits v.toNat 128 64 % 65536 ≠ 0 ∨
      2 ^ 36 < bits v.toNat 128 64) := by omega
  unfold execWinregWrite
  dsimp only
  rw [if_neg (by simp [idle]), if_neg (by omega), if_neg good, writes, bits_low]
  rfl

/-- The key of a sender entry: its device, and then its window there. -/
def senderKey (v : BitVec 64) : Nat := v.toNat % 1024 * 1024 + v.toNat / 1024 % 1024

theorem execSndregWrite_removes {v : BitVec 64} (removes : v.getLsbD 20 = false) :
    execSndregWrite part v s = .next (s.modPart part fun p => { p with senders := SMap.erase p.senders (senderKey v) }) := by
  have removed : bits v.toNat 20 1 = 0 := by rw [bits_bit, removes]; rfl
  unfold execSndregWrite
  dsimp only
  rw [if_neg (by simp [idle]), if_pos removed, bits_low]
  rfl

theorem execSndregWrite_adds {v : BitVec 64} (adds : v.getLsbD 20 = true) (new : SMap.get? (s.part part).senders (senderKey v) = none)
    (room : (s.part part).senders.length < 1024) :
    execSndregWrite part v s = .next (s.modPart part fun p => { p with senders := SMap.put p.senders (senderKey v) 0#32 }) := by
  have added : bits v.toNat 20 1 = 1 := by rw [bits_bit, adds]; rfl
  have taken : ((SMap.get? (s.part part).senders (senderKey v)).isSome || decide (1024 ≤ (s.part part).senders.length)) = false := by
    simp [new, room]
  unfold execSndregWrite
  dsimp only
  rw [if_neg (by simp [idle]), if_neg (by omega), bits_low]
  exact congrArg (fun p => Host.Outcome.next (s.setPart part p)) (if_neg (Bool.eq_false_iff.mp taken))

end Idle

/-! ## Invalidations (22 R389) -/

theorem execInvalidation_begins {v : Word} (kind : v.toNat % 8 < 6) (quiet : (s.part part).inv = none) :
    execInvalidation part v s = .next (s.modPart part fun p => { p with inv := some (v.toNat % 8, p.invva.toNat) }) := by
  unfold execInvalidation
  dsimp only
  rw [bits_low, if_neg (by simp [quiet, kind])]
  rfl

/-- A partition without the cached translations of an invalidation's range. -/
def afterInvalidation (k va : Nat) (p : Part) : Part :=
  { p with
    inv := none
    tlb := p.tlb.filter fun e => !(k == 5 || decide (e.1 * 65536 / 2 ^ invBits k = va / 2 ^ invBits k)) }

theorem execInvalidationDone_running (running : (s.part part).inv = some (k, va)) :
    execInvalidationDone part s = .next (s.modPart part (afterInvalidation k va)) := by
  rw [execInvalidationDone, running]
  rfl

theorem mem_afterInvalidation_tlb {p : Part} {e : Nat × Leaf} : e ∈ (afterInvalidation k va p).tlb ↔
    e ∈ p.tlb ∧ k ≠ 5 ∧ e.1 * 65536 / 2 ^ invBits k ≠ va / 2 ^ invBits k := by
  simp [afterInvalidation]

/-! ## Fault answers (22 R392) -/

theorem execFaultAnswer_recorded {v : BitVec 64} {f : PageFault}
    (recorded : (s.part part).faults.find? (fun f => f.entered && f.seq == v.truncate 32) = some f) :
    execFaultAnswer part v s = .next (s.answer part f (v.getLsbD 32)) := by
  have seq : v.extractLsb' 0 32 = v.truncate 32 := by
    ext i h
    simp
  unfold execFaultAnswer
  rw [seq]
  dsimp only
  rw [recorded]

/-! ## Plain writes (21 R361, R363, 23 R413) -/

theorem execRegisterWrite_block_reached {off : Nat} {data : List Byte} {pf : Bool} (reached : s.reaches part pf = true) :
    execRegisterWrite (.block part pf) off data s =
      .next (((writeRegs (blockRegs part) off data s).writeDbgcmd part off data).flushFaults part) :=
  if_pos reached

theorem execRegisterWrite_block_unreached {off : Nat} {data : List Byte} {pf : Bool} (unreached : s.reaches part pf = false) :
    execRegisterWrite (.block part pf) off data s = .next s :=
  if_neg (Bool.eq_false_iff.mp unreached)

theorem reaches_of_bound {pf : Bool} (bound : pf = false → (s.vfOf part).isSome = true) : s.reaches part pf = true := by
  cases pf
  · exact bound rfl
  · rfl

/-! ## Pops (21 R369, 24 R423, log 98) -/

/-- The device with the bytes that a read returns. -/
def readOut (s : State) (bs : List Byte) : State := s.modDev fun d => { d with readout := { data := bs } }

theorem execEscpopRead_otherWidth {n : Nat} (other : n ≠ 16) : execEscpopRead n s = .next (readOut s (List.replicate n 0#8)) :=
  if_pos other

theorem execEscpopRead_empty (empty : s.dev.esc = []) : execEscpopRead 16 s = .next (readOut s (List.replicate 16 0xFF#8)) := by
  simp [execEscpopRead, empty, readOut]

theorem execEscpopRead_oldest {e : BitVec 128} {es : List (BitVec 128)} (queue : s.dev.esc = e :: es) :
    execEscpopRead 16 s = .next (readOut (s.modDev fun d => { d with esc := es }) (leBytes 16 e.toNat)) := by
  simp [execEscpopRead, queue, readOut]

theorem execSuspopRead_otherWidth {n : Nat} (other : n ≠ 32) : execSuspopRead n s = .next (readOut s (List.replicate n 0#8)) :=
  if_pos other

theorem execSuspopRead_empty (empty : s.dev.sus = []) : execSuspopRead 32 s = .next (readOut s (List.replicate 32 0xFF#8)) := by
  simp [execSuspopRead, empty, readOut]

theorem execSuspopRead_oldest {e : BitVec 256} {es : List (BitVec 256)} (queue : s.dev.sus = e :: es) :
    execSuspopRead 32 s = .next (readOut (s.modDev fun d => { d with sus := es }) (leBytes 32 e.toNat)) := by
  simp [execSuspopRead, queue, readOut]

end

section

open Sys2Proof.Machine Sys2Proof.Laws

/-- Settles O50: each write and read by what its operation does once its conditions hold. -/
theorem addressSpaceAndRegisters : Obligations.AddressSpaceAndRegisters := by
  unfold Obligations.AddressSpaceAndRegisters
  refine ⟨fun s v => ?key, fun s part v idle => ⟨fun close => execWinregWrite_closes idle close,
      fun opens aligned canonical whole small => execWinregWrite_opens idle opens aligned canonical whole small⟩,
    fun s part v idle => ⟨fun removes => execSndregWrite_removes idle removes,
      fun adds new room => execSndregWrite_adds idle adds new room⟩,
    fun s part v kind quiet => execInvalidation_begins kind quiet, fun s part k va running _ => ?invalidated,
    fun s part v f recorded => execFaultAnswer_recorded recorded, fun s t off data => ?register, fun s => ?pops⟩
  case key => rw [exec_keysetWrite, execKeysetWrite, bits_low, ofNat_bits]
  case invalidated =>
    refine ⟨_, execInvalidationDone_running running, ?_, fun e => ?_⟩
    · rw [modPart_same]
      rfl
    · rw [modPart_same]
      exact mem_afterInvalidation_tlb
  case register =>
    refine ⟨?_, ?_, ?_, ?_⟩
    · rintro rfl
      rfl
    · rintro p rfl
      rfl
    · rintro p pf rfl bound
      exact execRegisterWrite_block_reached (reaches_of_bound bound)
    · rintro p rfl unbound
      exact execRegisterWrite_block_unreached unbound
  case pops =>
    exact ⟨fun n other => execEscpopRead_otherWidth other, execEscpopRead_empty, fun e es queue => execEscpopRead_oldest queue,
      fun n other => execSuspopRead_otherWidth other, execSuspopRead_empty, fun e es queue => execSuspopRead_oldest queue⟩

end

end Sys2Proof.Proofs

namespace Sys2Proof.Proofs

/-!
PROOFS. Kernel debug (23 R408 to R416), the samples of profiling (R417, R418), and the replay and the abandonment of an assay's sample (24
R421 to R424).
-/

section

open Sys2Proof.Machine Sys2Proof.Laws

variable {s : State} {part pid : Nat} {cmd : BitVec 256} {c : DbgCmd} {p : Pour} {r : DbgReg}

/-! ## Register commands (23 R413 to R415) -/

/-- A write of a command's value to a register of a member. -/
def regWritten (c : DbgCmd) (t : State) (e : Nat × DbgReg) : State := t.dbgWrite e.1 e.2 c.data c.tag

/-- The registers that a write reaches: that of each member of a pair (23 R415). -/
def regsNamed (s : State) (pid : Nat) (c : DbgCmd) : List (Nat × DbgReg) :=
  (s.together pid).filterMap fun q =>
    match s.pour? q with
    | some v => (s.dbgReg q v c).map fun r => (q, r)
    | none => none

section Registers

variable (named : s.dbgReg pid p c = some r)
include named

theorem dbgRegOp_reads (op : c.op = 3) : s.dbgRegOp part pid p c = s.dbgAnswer part (s.dbgRead p r) := by
  rw [State.dbgRegOp, named]
  exact if_pos op

/-- A command that writes, where nothing holds it up, discards first what each register waits for where it is REGWRF. -/
theorem dbgRegOp_writes (writes : c.op ≠ 3) (ready : c.op = 4 → (regsNamed s pid c).any (fun e => s.dbgPending e.2) = false) :
    s.dbgRegOp part pid p c =
      ((regsNamed s pid c).foldl (fun t e => regWritten c (if c.op = 5 then t.dbgDiscard e.2 else t) e) s).dbgAnswer part
        { status := 0 } := by
  have free : ¬(c.op = 4 ∧ (regsNamed s pid c).any (fun e => s.dbgPending e.2) = true) :=
    fun ⟨op, waits⟩ => Bool.eq_false_iff.mp (ready op) waits
  rw [State.dbgRegOp, named]
  exact (if_neg writes).trans (if_neg free)

theorem dbgRegOp_regwr (op : c.op = 4) (ready : (regsNamed s pid c).any (fun e => s.dbgPending e.2) = false) :
    s.dbgRegOp part pid p c = ((regsNamed s pid c).foldl (regWritten c) s).dbgAnswer part { status := 0 } := by
  rw [dbgRegOp_writes named (by omega) fun _ => ready]
  simp only [op, Nat.reduceEqDiff, if_false]

theorem dbgRegOp_regwrf (op : c.op = 5) : s.dbgRegOp part pid p c =
    ((regsNamed s pid c).foldl (fun t e => regWritten c (t.dbgDiscard e.2) e) s).dbgAnswer part { status := 0 } := by
  rw [dbgRegOp_writes named (by omega) (by omega)]
  simp only [op, if_true]

end Registers

/-! ## Commands (23 R408 to R411, R413) -/

theorem dbgStop_runs (runs : p.dbg.runs = true) :
    s.dbgStop part pid p = (s.dbgAnswer part { status := 1 }).stopPour pid { why := 0, cmd := true } := by
  cases mode : p.dbg <;> simp_all [State.dbgStop, DbgMode.runs]

theorem dbgStop_stopped {at_ : Nat} (stopped : p.dbg = .stopped at_) : s.dbgStop part pid p = s.dbgAnswer part { status := 0 } := by
  rw [State.dbgStop, stopped]

section Active

variable (active : (s.part part).active = true) (idle : s.dbgBusy part = false)
include active idle

theorem debug_illegal (illegal : (decodeDbg cmd).illegal = true) : s.debug part cmd = s.dbgAnswer part { status := 5 } := by
  unfold State.debug
  dsimp only
  rw [if_neg (by simp [active]), if_neg (by simp [idle]), if_pos illegal]

variable (legal : (decodeDbg cmd).illegal = false) (named : s.dbgPour part (decodeDbg cmd) = some (pid, p))
include legal named

theorem debug_stop (op : (decodeDbg cmd).op = 0) : s.debug part cmd = s.dbgStop part pid p := by
  unfold State.debug
  dsimp only
  rw [if_neg (by simp [active]), if_neg (by simp [idle]), if_neg (by simp [legal]), named]
  exact if_pos op

variable {at_ : Nat} (stopped : p.dbg = .stopped at_)
include stopped

/-- On a stopped pour a command other than STOP does what its operation says. -/
theorem debug_stopped (op : (decodeDbg cmd).op ≠ 0) : s.debug part cmd =
    if (decodeDbg cmd).op = 1 then (s.dbgAnswer part { status := 0 }).runPour pid (.stepping (decodeDbg cmd).limit 0)
    else if (decodeDbg cmd).op = 2 then (s.dbgAnswer part { status := 0 }).runPour pid .free
    else s.dbgRegOp part pid p (decodeDbg cmd) := by
  unfold State.debug
  dsimp only
  rw [if_neg (by simp [active]), if_neg (by simp [idle]), if_neg (by simp [legal]), named]
  dsimp only
  rw [if_neg op, stopped]

theorem debug_step (op : (decodeDbg cmd).op = 1) :
    s.debug part cmd = (s.dbgAnswer part { status := 0 }).runPour pid (.stepping (decodeDbg cmd).limit 0) := by
  rw [debug_stopped active idle legal named stopped (by omega), if_pos op]

theorem debug_run (op : (decodeDbg cmd).op = 2) : s.debug part cmd = (s.dbgAnswer part { status := 0 }).runPour pid .free := by
  rw [debug_stopped active idle legal named stopped (by omega), if_neg (by omega), if_pos op]

theorem debug_register (op : 3 ≤ (decodeDbg cmd).op) : s.debug part cmd = s.dbgRegOp part pid p (decodeDbg cmd) := by
  rw [debug_stopped active idle legal named stopped (by omega), if_neg (by omega), if_neg (by omega)]

end Active

/-- The state in which a command is performed: DBGCMD holds it. -/
def commanded (s : State) (part : Nat) (cmd : BitVec 256) : State := s.modPart part fun q => { q with dbgcmd := cmd }

theorem commanded_active (active : (s.part part).active = true) : ((commanded s part cmd).part part).active = true := by
  rw [commanded, modPart_same]
  exact active

/-- A step whose word holds its own operation commits the command. -/
theorem debugAs_own {op : Nat} (own : (decodeDbg cmd).op = op) : s.debugAs part cmd op = .next ((commanded s part cmd).debug part cmd) :=
  if_pos own

theorem execDbgIllegal_illegal (illegal : (decodeDbg cmd).illegal = true) :
    execDbgIllegal part cmd s = .next ((commanded s part cmd).debug part cmd) :=
  if_pos illegal

/-! ## Stops and steps (23 R409 to R412) -/

section Pour

variable (pour : s.pour? pid = some p)
include pour

theorem execStepEnd_stopping {r : StopRec} (stopping : p.dbg = .stopping r) (yielded : s.allYielded (s.together pid) = true) :
    execStepEnd pid s = .next (s.finishStop pid r) := by
  unfold execStepEnd
  rw [pour]
  dsimp only
  rw [stopping]
  exact if_pos yielded

variable {limit elapsed : Nat} (stepping : p.dbg = .stepping limit elapsed)
include stepping

theorem execStepEnd_stepping (done : s.stepDone (s.together pid) = true) :
    execStepEnd pid s = .next (s.stopPour pid { why := 3 }) := by
  unfold execStepEnd
  rw [pour]
  dsimp only
  rw [stepping]
  exact if_pos done

theorem execStepLimitExpiry_expired (limited : limit ≠ 0) (passed : limit * 1024 ≤ elapsed) :
    execStepLimitExpiry pid s = .next (s.stopPour pid { why := 4 }) := by
  unfold execStepLimitExpiry
  rw [pour]
  dsimp only
  rw [stepping]
  exact if_pos ⟨limited, passed⟩

end Pour

/-! ## Samples of profiling (23 R417, R418) -/

theorem execProfileSample_oldest {core : Nat} {seen : BitVec 6} {served : BitVec 2} {queued : List (BitVec 16)} {r : ProfReq}
    {rest : List ProfReq} (oldest : (s.core core).profs = r :: rest) :
    execProfileSample core seen served queued s =
      let u := s.modCore core fun c => { c with profs := rest }
      let e := u.ringPut (partOf core) (u.part (partOf core)).prof (leBytes 32 (profImage core r seen served queued))
      .next (e.2.modPart (partOf core) fun p => { p with prof := e.1 }) := by
  rw [execProfileSample, oldest]

/-! ## The assay (24 R421 to R424) -/

section Assay

variable {m : Sample} {rcore : Nat} {sigr : BitVec 64} (sample : (s.part part).sample = some m) (ended : m.ended = true)
include sample ended

section Running

variable (running : (s.part part).ctx = .running)
include running

/-- A replay that has not begun begins on a core that donates. -/
theorem execAssayReplay_waiting (waiting : m.replay = none) :
    execAssayReplay part rcore sigr s = .next (if s.donates m rcore then s.beginReplay part m rcore else s) := by
  have going : ¬(!m.ended || (s.part part).ctx != .running) = true := by simp [ended, running]
  rw [execAssayReplay, sample]
  dsimp only
  rw [if_neg going, waiting]

/-- The end of a replay: its pour leaves, the sample is counted and gone, and signatures that differ are a suspect event. -/
theorem execAssayReplay_placed (placed : m.replay = some (rcore, pid)) (pour : s.pour? pid = some p) :
    execAssayReplay part rcore sigr s =
      let r := s.replay? part m pid p
      let u := (({ s with free := r.st.free } : State).dropReplay m).modPart part fun q =>
        { q with asysamp := satAdd q.asysamp 1, sample := none }
      .next (if m.sig = r.sig then u else u.suspect m r.sig rcore part) := by
  have going : ¬(!m.ended || (s.part part).ctx != .running) = true := by simp [ended, running]
  rw [execAssayReplay, sample]
  dsimp only
  rw [if_neg going, placed]
  dsimp only
  rw [pour]
  exact if_neg (not_not.mpr rfl)

end Running

/-- A sample that has waited its time for a donor is abandoned where none is left. -/
theorem execAssayAbandon_waited (waiting : m.replay = none) (waited : assayWait ≤ m.waited) :
    execAssayAbandon part s = .next (if (s.donors m).isEmpty then s.abandon part else s) := by
  rw [execAssayAbandon, sample]
  simp only [ended, waiting, waited, Option.isNone_none, decide_true, Bool.true_and]
  exact (apply_ite Host.Outcome.next _ _ _).symm

end Assay

theorem beginReplay_placed {m : Sample} {rcore : Nat} {u : State} (fits : s.fresh.2.tryCore s.fresh.1
      { m.record with part := partOf rcore } { m.hdr with scratch := 0, stack := 0 } m.idx none rcore = some (pid, u)) :
    s.beginReplay part m rcore = u.modPart part fun p => { p with sample := some { m with replay := some (rcore, pid) } } := by
  unfold State.beginReplay
  dsimp only
  rw [fits]

theorem donors_isEmpty {m : Sample} : (s.donors m).isEmpty = true ↔ ∀ c < 288, s.donates m c = false := by
  simp [State.donors, Config.cores]

end

section

open Sys2Proof.Machine Sys2Proof.Laws

/-- Settles O53: a command by its operation on the pour that it names, each end by its condition, and an assay by what its sample waits
for. -/
theorem debuggingProfilingAndAssay : Obligations.DebuggingProfilingAndAssay := by
  unfold Obligations.DebuggingProfilingAndAssay
  refine ⟨fun s part pid cmd p active idle => ?command, fun s part cmd active idle illegal => ?illegal,
    fun s pid p pour => ⟨fun r stopping yielded => execStepEnd_stopping pour stopping yielded,
      fun l e stepping => ⟨fun done => execStepEnd_stepping pour stepping done,
        fun limited passed => execStepLimitExpiry_expired pour stepping limited passed⟩⟩,
    fun s core seen served queued r rest oldest => execProfileSample_oldest oldest,
    fun s part rcore sigr m sample ended => ⟨fun running waiting => ?begins, fun pid p running placed pour =>
      execAssayReplay_placed (sigr := sigr) sample ended running placed pour, fun waiting waited => ?abandoned⟩⟩
  case command =>
    intro c d ok legal named
    have active := commanded_active (cmd := cmd) active
    have stop (op : c.op = 0) : exec (.dbgStop part cmd) s = .next (d.dbgStop part pid p) :=
      (debugAs_own op).trans (congrArg _ (debug_stop active idle legal named op))
    refine ⟨fun op runs => (stop op).trans (congrArg _ (dbgStop_runs runs)), fun a stopped => ?_⟩
    have register (op : 3 ≤ c.op) : d.debug part cmd = d.dbgRegOp part pid p c := debug_register active idle legal named stopped op
    refine ⟨fun op => (stop op).trans (congrArg _ (dbgStop_stopped stopped)),
      fun op => (debugAs_own op).trans (congrArg _ (debug_step active idle legal named stopped op)),
      fun op => (debugAs_own op).trans (congrArg _ (debug_run active idle legal named stopped op)),
      fun r reg => ⟨fun op => ?read, fun op ready => ?write, fun op => ?discard⟩⟩
    case read => exact (debugAs_own op).trans (congrArg _ ((register (by omega)).trans (dbgRegOp_reads reg op)))
    case write => exact (debugAs_own op).trans (congrArg _ ((register (by omega)).trans (dbgRegOp_regwr reg op ready)))
    case discard => exact (debugAs_own op).trans (congrArg _ ((register (by omega)).trans (dbgRegOp_regwrf reg op)))
  case illegal =>
    exact (execDbgIllegal_illegal illegal).trans (congrArg _ (debug_illegal (commanded_active active) idle illegal))
  case begins =>
    have waits := execAssayReplay_waiting (rcore := rcore) (sigr := sigr) sample ended running waiting
    exact ⟨fun other => waits.trans (congrArg _ (if_neg (Bool.eq_false_iff.mp other))),
      fun pid u donates fits => waits.trans (congrArg _ ((if_pos donates).trans (beginReplay_placed fits)))⟩
  case abandoned =>
    have waits := execAssayAbandon_waited sample ended waiting waited
    refine ⟨fun alone => waits.trans (congrArg _ (if_pos (donors_isEmpty.mpr alone))), ?_⟩
    rintro ⟨c, core, donates⟩
    refine waits.trans (congrArg _ (if_neg fun alone => ?_))
    rw [donors_isEmpty.mp alone c core] at donates
    exact Bool.noConfusion donates

end

end Sys2Proof.Proofs
